-- ==== Sys2Proof/Word.lean ====
section
/-! DEFINITION. The word types of the PZ9 and their plainest arithmetic. -/

namespace Sys2Proof

/-- A byte of memory (R4). -/
abbrev Byte := BitVec 8

/-- A 32-bit register value (R111). -/
abbrev W32 := BitVec 32

/-- A 64-bit operand, address or register-window value (R99, R206). -/
abbrev W64 := BitVec 64

/-- A whole instruction word (R88). -/
abbrev W96 := BitVec 96

end Sys2Proof
end

