-- ==== Sys2Proof/Syntax.lean ====
section
/-! DEFINITION. The syntax of the machine: the parts of an instruction word, and one constructor for every row of
spec/opcode_table.json, instructions first and then the part's events. -/

namespace Sys2Proof

/-- The guard field GRD: NEG in bit 7 and the predicate number below it (R88, R90). -/
structure Guard where
  neg : Bool
  pred : BitVec 7
  deriving DecidableEq, Repr

/-- The hint field HNT: three reserved bits, then RC, RB, RA, YLD, TRN (R88, R91). -/
structure Hints where
  resv : BitVec 3
  rc : Bool
  rb : Bool
  ra : Bool
  yld : Bool
  trn : Bool
  deriving DecidableEq, Repr

/-- A 10-bit operand field by its mode (R95). The value of an immediate stands in IMM. -/
inductive Opd where
  /-- Mode 00: register V(n), or a number the entry uses to name a predicate, mask or format register. -/
  | reg (n : BitVec 8)
  /-- Mode 01: a special code (R96). -/
  | special (c : BitVec 8)
  /-- Mode 10: index register and signed offset (R98). -/
  | idx (x : BitVec 2) (o : BitVec 6)
  /-- Mode 11: immediate; the low byte must be zero. -/
  | imm (z : BitVec 8)
  deriving DecidableEq, Repr

/-- An instruction word without its opcode: the fields that every instruction shares (R88). -/
structure Word where
  grd : Guard
  hnt : Hints
  d : Opd
  a : Opd
  b : Opd
  mod : BitVec 10
  imm : W32
  deriving DecidableEq, Repr

/-- One half of the paired word (R102, R103). -/
structure Half where
  sub : BitVec 6
  d : BitVec 8
  a : BitVec 9
  b : BitVec 9
  m : BitVec 4
  deriving DecidableEq, Repr

/-- The paired word: two halves under one guard and one hint field (R102). -/
structure Pair where
  grd : Guard
  hnt : Hints
  h0 : Half
  h1 : Half
  deriving DecidableEq, Repr

/-- A command-link message (R67): direction, permits returned, sequence number, launch id, the block it concerns and
its type code, which matters only for a message of unknown type. -/
structure Msg where
  toCairn : Bool
  type : Nat
  ret : Nat
  seq : Nat
  lid : Nat
  blk : Nat
  deriving DecidableEq, Repr

/-- What another member of a Winnow collective sends (R290, R292, R293): the fields that must agree, its source
bytes, and for RSUAG the pending chunk it owns and that chunk's flag. -/
structure Peer where
  dev : Nat
  kind : Nat
  fmt : Nat
  rop : Nat
  arg : Nat
  count : Nat
  members : BitVec 256
  src : List Byte
  chunk : List Byte
  bad : Bool
  deriving DecidableEq, Repr

/-- An entry of a fault summary (R370). -/
structure FaultEntry where
  bx : Nat
  by' : Nat
  bz : Nat
  tidx : Nat
  cause : Nat
  eflags : Nat
  detail : W32
  faddr : W64
  ptime : W64
  pc : W32
  dev : Nat
  attempt : Nat
  deriving DecidableEq, Repr

/-- What Ridge sends to the device that submitted a pod grid (R363, R372): the counts of the final pass, the passes, what
decides STATUS, the completion time, and the merged faults. -/
structure PodDone where
  done : Nat
  killed : Nat
  never : Nat
  passes : Nat
  hard : Bool
  cancelled : Bool
  faulted : Bool
  podLost : Bool
  ptime : W64
  faults : List FaultEntry
  total : Nat
  counts : List (Nat × Nat)
  deriving DecidableEq, Repr

/-- A record that a device submits to Ridge, with the parameters that go with it (R21, R49). -/
structure Submission where
  record : List Byte
  params : List Byte
  deriving DecidableEq, Repr

/-- The faults of a final report: counts by cause, and whether the grid is faulted there, as an exhausted relaunch does too (R362, R365). -/
structure FaultCounts where
  byCause : List (Nat × Nat)
  faulted : Bool
  deriving DecidableEq, Repr

/-- A flit on a link port that fails its CRC; `again` says that it was one sent again already (R402). -/
structure Flit where
  port : Nat
  again : Bool
  deriving DecidableEq, Repr

/-- One constructor for each row of spec/opcode_table.json, in its order. The operands of an event name the agent
that acts and what the outside world supplies. -/
inductive Instr where
  | nop (w : Word)
  | bra (w : Word)
  | brx (w : Word)
  | call (w : Word)
  | callx (w : Word)
  | ret (w : Word)
  | exit (w : Word)
  | join (w : Word)
  | jmset (w : Word)
  | jmget (w : Word)
  | yield (w : Word)
  | waitc (w : Word)
  | waitt (w : Word)
  | bpt (w : Word)
  | trap (w : Word)
  | eret (w : Word)
  | iadd (w : Word)
  | isub (w : Word)
  | imul (w : Word)
  | imulh (w : Word)
  | imad (w : Word)
  | imadw (w : Word)
  | imin (w : Word)
  | imax (w : Word)
  | iabs (w : Word)
  | iaddc (w : Word)
  | lea (w : Word)
  | idot4 (w : Word)
  | isad (w : Word)
  | idiv (w : Word)
  | irem (w : Word)
  | lut3 (w : Word)
  | shl (w : Word)
  | shr (w : Word)
  | sar (w : Word)
  | rotl (w : Word)
  | funnel (w : Word)
  | bprm (w : Word)
  | bfx (w : Word)
  | bfi (w : Word)
  | popc (w : Word)
  | clz (w : Word)
  | brev (w : Word)
  | ffs (w : Word)
  | mov (w : Word)
  | movw (w : Word)
  | sel (w : Word)
  | icmp (w : Word)
  | fcmp (w : Word)
  | hcmp2 (w : Word)
  | dcmp (w : Word)
  | plop (w : Word)
  | p2v (w : Word)
  | v2p (w : Word)
  | fclass (w : Word)
  | tqset (w : Word)
  | tqget (w : Word)
  | fadd (w : Word)
  | fmul (w : Word)
  | ffma (w : Word)
  | fmin (w : Word)
  | fmax (w : Word)
  | frnd (w : Word)
  | fscale (w : Word)
  | fgetexp (w : Word)
  | fset (w : Word)
  | fcpysgn (w : Word)
  | hadd2 (w : Word)
  | hmul2 (w : Word)
  | hfma2 (w : Word)
  | hmin2 (w : Word)
  | hmax2 (w : Word)
  | hdot2 (w : Word)
  | dadd (w : Word)
  | dmul (w : Word)
  | dfma (w : Word)
  | dmin (w : Word)
  | dmax (w : Word)
  | cvt (w : Word)
  | cvtsc (w : Word)
  | packn (w : Word)
  | unpkn (w : Word)
  | fmset (w : Word)
  | fmget (w : Word)
  | rsqs (w : Word)
  | rcps (w : Word)
  | sinr (w : Word)
  | cosr (w : Word)
  | ex2 (w : Word)
  | lg2 (w : Word)
  | tnh (w : Word)
  | sigm (w : Word)
  | shfl (w : Word)
  | xbf (w : Word)
  | vote (w : Word)
  | redg (w : Word)
  | scang (w : Word)
  | matchLanes (w : Word)
  | elect (w : Word)
  | topk (w : Word)
  | ld (w : Word)
  | st (w : Word)
  | lds (w : Word)
  | sts (w : Word)
  | ldp (w : Word)
  | stw2 (w : Word)
  | ldxp (w : Word)
  | prf (w : Word)
  | cctlIvl (w : Word)
  | cctlIva (w : Word)
  | cctlWbm (w : Word)
  | cctlWim (w : Word)
  | ldsx (w : Word)
  | stsx (w : Word)
  | tlk (w : Word)
  | ttag (w : Word)
  | tstat (w : Word)
  | tinv (w : Word)
  | hgl (w : Word)
  | hga (w : Word)
  | hgw (w : Word)
  | atom (w : Word)
  | atomc (w : Word)
  | atomf (w : Word)
  | red (w : Word)
  | redf (w : Word)
  | atoms (w : Word)
  | atomw (w : Word)
  | sha (w : Word)
  | binit (w : Word)
  | arrv (w : Word)
  | pwait (w : Word)
  | ptest (w : Word)
  | fence (w : Word)
  | xfence (w : Word)
  | acq (w : Word)
  | rel (w : Word)
  | rbind (w : Word)
  | bexp (w : Word)
  | ctr (w : Word)
  | ctrs (w : Word)
  | ctrsp (w : Word)
  | cwd (w : Word)
  | aalloc (w : Word)
  | afree (w : Word)
  | azero (w : Word)
  | ald (w : Word)
  | ast (w : Word)
  | adrn (w : Word)
  | astat (w : Word)
  | cpy (w : Word)
  | cpym (w : Word)
  | shf (w : Word)
  | wnw (w : Word)
  | gln (w : Word)
  | launch (w : Word)
  | lctlCancel (w : Word)
  | lctlKill (w : Word)
  | lctlQuery (w : Word)
  | lpset (w : Word)
  | lendLaunch (w : Word)
  | lendCancel (w : Word)
  | lendRepeat (w : Word)
  | fxb (w : Word)
  | fxe (w : Word)
  | fxa (w : Word)
  | fxs (w : Word)
  | sread (w : Word)
  | swrite (w : Word)
  | isync (w : Word)
  | dbgmBrk (w : Word)
  | dbgmStepon (w : Word)
  | dbgmStepoff (w : Word)
  | pairedWord (p : Pair)
  | issueCycle (core sched : Nat)
  | yieldExpiry (blk tidx : Nat)
  | resultWrite (blk tidx : Nat)
  | loadReturn (blk tidx op : Nat)
  | storePerformed (blk tidx op : Nat)
  | commandAccept (cmd : Nat)
  | tileOpRetire (blk tidx op : Nat)
  | timeWaitExpiry (blk tidx : Nat)
  | translationWalk (ctx page acc : Nat)
  | trapEntry (blk tidx : Nat)
  | copyLanding (cmd target first count : Nat)
  | timedCommandStart (cmd : Nat)
  | engineFault (cmd : Nat) (ecc : Bool)
  | gleanerWalk (cmd : Nat)
  | sheafReplay (cmd : Nat)
  | collectiveExchange (cmd : Nat) (peers : List Peer)
  | flagFlit (cmd : Nat) (bad : Bool)
  | collectiveEnd (cmd : Nat) (lost : Bool)
  | drainExecute (cmd : Nat)
  | enginePassGrant (cluster : Nat)
  | classAgeing (cluster entry : Nat)
  | ctrsBarrierArrival (blk tidx op : Nat)
  | instanceClose (blk slot : Nat)
  | sectionCommit (cluster slot : Nat)
  | abortDelivery (blk tidx : Nat)
  | remotePatienceExpired (blk tidx : Nat)
  | blockRetire (blk : Nat)
  | retireMsg (blk : Nat)
  | completionBitMessage (lid bit : Nat)
  | finalReport (dev lid done killed never : Nat) (faults : List FaultEntry) (counts : FaultCounts)
  | completionForward (lid : Nat) (sent : PodDone)
  | frontEndRound
  | submitLaunch (q : Nat)
  | submitCancel (q : Nat)
  | submitKill (q : Nat)
  | entryReserved (q : Nat)
  | prologueStart (lid : Nat)
  | prologueBudgetExpired (lid : Nat)
  | startTimeReached (lid : Nat)
  | launchRelease (lid : Nat)
  | podSubmit (dev ctx : Nat) (record : Submission)
  | podRecordReceive (podSeq ctx dev : Nat) (record params : List Byte)
  | rangeRequest (dev lid want : Nat)
  | rangeDeal (lid first count : Nat)
  | splitRequest (dev lid : Nat)
  | splitReturn (dev lid first count : Nat)
  | podCancel (lid : Nat) (hard : Bool)
  | unitHandoff (lid : Nat)
  | placementRound (cluster : Nat)
  | placementTimer (cluster : Nat)
  | dieGangAck (gang cluster : Nat)
  | gangStarved (gang : Nat)
  | gangPreemptTrigger (gang : Nat)
  | residueWrite (blk : Nat)
  | haltComplete (n : Nat)
  | swapDone (n : Nat)
  | linkDown (port : Nat)
  | clusterFailure (cluster reason : Nat)
  | cairnTimeout (cluster : Nat)
  | placeMsg (cluster : Nat) (m : Msg)
  | killMsg (cluster : Nat) (m : Msg)
  | preemptMsg (cluster : Nat) (m : Msg)
  | faultMsg (cluster : Nat) (m : Msg)
  | patchMsg (cluster : Nat) (m : Msg)
  | permitMsg (cluster : Nat) (m : Msg)
  | ackMsg (cluster : Nat) (m : Msg)
  | messageUnknown (cluster : Nat) (m : Msg)
  | permitTimeout (cluster : Nat) (toCairn : Bool)
  | submissionDoorbell (q : Nat) (v : W64)
  | completionDoorbell (q : Nat) (v : W64)
  | qtbaseWrite (v : W64)
  | pmaskWrite (n : Nat) (v : W64)
  | pctlBind (n : Nat) (v : W64)
  | pctlHalt (n : Nat) (v : W64)
  | pctlRun (n : Nat) (v : W64)
  | shadowSwap (n : Nat) (v : W64)
  | resumeReplay (ctx : Nat) (v : W64)
  | resumeFail (ctx : Nat) (v : W64)
  | translationInvalidate (v : W64)
  | xinvDone
  | registerWrite (off : Nat) (v : W64)
  | counterClear (cluster sched : Nat) (v : W64)
  | counterFreeze (cluster sched : Nat) (v : W64)
  | sampleLatch (cluster sched : Nat)
  | hperrRead
  | healthRead (cluster : Nat)
  | traceHeadWrite (ctx : Nat) (v : W64)
  | replayStart (ctx : Nat) (v : W64)
  | peerWrite (addr : Nat) (bytes : List Byte)
  | portReadError (blk tidx op : Nat)
  | portReadTimeout (blk tidx op : Nat)
  | peerWriteRefused (blk tidx op : Nat)
  | flitCrcError (port : Flit)
  | deviceLeavesPod (dev : Nat)
  | heartbeatMissed
  | selfTestPass
  | resetEvent
  | minverWrite (v : W64)
  | patchStart (v : W64)
  | patchVerify
  | patchSwap
  | patchTimeout
  | patchComplete
  | attestRequest (v : W64)
  | certificateRequest (v : W64)
  | thermalStep (temp : Nat)
  | thermalShutdown
  | cancelBroadcastReceipt (lid : Nat) (hard : Bool)
  | activeCoreError
  | ridgeActivation (dev : Nat)
  deriving DecidableEq, Repr

end Sys2Proof
end

