-- ==== Sys2Proof/Machine/Forms.lean ====
section
/-! DEFINITION. The form of every instruction word: for each operand field what the entry uses it for, who uses IMM, and
which modifier values it lists (the encoding tables of chapters 05 to 24). The checks of R108 and the register checks of R99 both
read this one table. -/

namespace Sys2Proof

/-- What an entry uses an operand field for. -/
inductive Use where
  /-- Not used: the field must be 0x000 (R95). -/
  | unused
  /-- A result of n registers; `zero` says that ZERO discards it (R97). n = 0 where the width follows from a region. -/
  | dst (n : Nat) (zero : Bool)
  /-- As `dst`, in mode 00 only. -/
  | dstPlain (n : Nat)
  /-- A source of n registers. `bad` is 0 where specials are allowed, else the detail that one reports; `imm` says
  that mode 11 is allowed. Wider than 64 bits no special is (R100). n = 0 where the width follows from a region
  or record. -/
  | src (n : Nat) (bad : Nat) (imm : Bool)
  /-- A source of n registers in mode 00 only (R39). -/
  | plain (n : Nat)
  /-- Names n consecutive predicates (R151). -/
  | pred (n : Nat)
  /-- Names one of a few numbered things, in mode 00 and below the bound (R151, R182). -/
  | small (bound : Nat)
  deriving DecidableEq, Repr

/-- Who uses IMM (R94). -/
inductive ImmUse where
  /-- The value of a mode-11 operand, or 0. -/
  | value
  /-- The C operand and the extended-modifier bits that have a meaning (R101). -/
  | carriesC (c : Use) (ext : W32)
  /-- Fields that the entry defines; the other bits must be zero. -/
  | own (mask : W32)
  deriving DecidableEq, Repr

/-- The form of a word. -/
structure Form where
  d : Use := .unused
  a : Use := .unused
  b : Use := .unused
  imm : ImmUse := .value
  /-- TRN is legal when D names a register (R91). -/
  trn : Bool := false
  /-- A hint is legal where R91 allows it: everywhere but in LPSET and LEND, whose HNT is 0 (R44). -/
  hints : Bool := true
  /-- The entry reports detail 7 for every nonzero field it does not use (R94); then MOD must be `zeroMod`. -/
  seven : Bool := false
  zeroMod : Bool := true
  /-- A further must-be-zero condition that reports detail 7. -/
  zeroOk : Bool := true
  /-- MOD and the extended modifiers hold listed values (detail 8). -/
  modOk : Bool := true
  /-- The entry's own conditions on the word hold (detail A). -/
  own : Bool := true
  /-- Predicates that MOD or IMM names (R151). -/
  preds : List Nat := []
  /-- Supervisor privilege is needed (R109). -/
  sup : Bool := false
  /-- A team level is needed (R249, R251, R283). -/
  team : Bool := false
  deriving DecidableEq, Repr

/-! ### Reading a word's fields -/

/-- A field of MOD. -/
def modF (w : Word) (lo n : Nat) : Nat := (w.mod.toNat / 2 ^ lo) % 2 ^ n

/-- A bit of MOD. -/
def modB (w : Word) (i : Nat) : Bool := w.mod.getLsbD i

/-- A field of IMM. -/
def immF (w : Word) (lo n : Nat) : Nat := (w.imm.toNat / 2 ^ lo) % 2 ^ n

/-- A bit of IMM. -/
def immB (w : Word) (i : Nat) : Bool := w.imm.getLsbD i

/-- The C operand of a word that carries one (R101). -/
def Opd.ofBits (x : BitVec 10) : Opd :=
  match (x.extractLsb' 8 2).toNat with
  | 0 => .reg (x.extractLsb' 0 8)
  | 1 => .special (x.extractLsb' 0 8)
  | 2 => .idx (x.extractLsb' 6 2) (x.extractLsb' 0 6)
  | _ => .imm (x.extractLsb' 0 8)

/-- The bits of an operand field (R95). -/
def Opd.bits : Opd → BitVec 10
  | .reg n => 0#2 ++ n
  | .special c => 1#2 ++ c
  | .idx x o => 2#2 ++ x ++ o
  | .imm z => 3#2 ++ z

/-- The C operand (R101). -/
def Word.c (w : Word) : Opd := Opd.ofBits (w.imm.extractLsb' 0 10)

/-- MOD has no set bit outside the mask. -/
def modOnly (w : Word) (mask : BitVec 10) : Bool := w.mod &&& ~~~mask == 0

/-! ### Shorthands for common uses -/

/-- A source in any mode. -/
def anySrc (n : Nat) : Use := .src n 0 true

/-- A source in mode 00, 01 or 10. -/
def noImm (n : Nat) : Use := .src n 0 false

/-- A source in mode 00 or 10. -/
def regSrc (n : Nat) : Use := .src n 5 false

/-- A result that ZERO may discard. -/
def out (n : Nat) : Use := .dst n true

/-- A result in mode 00 or 10. -/
def outReg (n : Nat) : Use := .dst n false

/-- Registers of an integer type of R93: two for the 64-bit types. -/
def tyRegs (t : Nat) : Nat := if t % 4 = 3 then 2 else 1

/-- The types `.s32`, `.n32`, `.s64` and `.n64`. -/
def wideTy (t : Nat) : Bool := decide (2 ≤ t % 4)

/-! ### Integer forms (R152 to R168) -/

/-- The two-source mould of R152. -/
def formArith (w : Word) (sat : Bool) : Form :=
  let t := modF w 0 3
  { d := out (tyRegs t), a := anySrc (tyRegs t), b := anySrc (tyRegs t), trn := true,
    modOk := wideTy t && modOnly w (if sat then 0x00F#10 else 0x007#10) }

/-- IABS: signed types, no B. -/
def formIabs (w : Word) : Form :=
  let t := modF w 0 3
  { d := out (tyRegs t), a := anySrc (tyRegs t), trn := true,
    modOk := wideTy t && decide (t < 4) && modOnly w 0x00F#10 }

/-- BFX: the mould with a 32-bit control (R160). -/
def formBfx (w : Word) : Form :=
  let t := modF w 0 3
  { d := out (tyRegs t), a := anySrc (tyRegs t), b := anySrc 1, trn := true,
    modOk := wideTy t && modOnly w 0x007#10 }

/-- IMAD, IMADW, IDOT4, ISAD (R155), with the register counts of D, of A and B, and of C. -/
def formThree (w : Word) (d ab c : Nat) (ok : Bool) : Form :=
  { d := out d, a := noImm ab, b := noImm ab, imm := .carriesC (noImm c) 0, trn := true,
    modOk := ok && modOnly w 0x00F#10 }

def formImad (w : Word) : Form :=
  let n := tyRegs (modF w 0 3)
  formThree w n n n (wideTy (modF w 0 3))

def formImadw (w : Word) : Form := formThree w 2 1 2 (modF w 0 3 % 4 == 2)

def formIdot4 (w : Word) : Form := formThree w 1 1 1 (!modB w 2)

def formIsad (w : Word) : Form := formThree w 1 1 1 (modF w 0 3 % 4 == 2)

/-- IADDC (R156). -/
def formIaddc (w : Word) : Form :=
  { d := out 1, a := noImm 1, b := noImm 1, imm := .own 0x7FFF#32, trn := true, modOk := modOnly w 1#10,
    preds := [immF w 0 7, immF w 8 7] }

/-- LEA (R157). -/
def formLea (w : Word) : Form :=
  { d := out 2, a := anySrc 2, b := anySrc 1, trn := true, modOk := modOnly w 0x00F#10 }

/-- Registers under W64. -/
def w64Regs (w : Word) : Nat := if modB w 8 then 2 else 1

/-- The shifts and rotate of R158. -/
def formShift (w : Word) : Form :=
  { d := out (w64Regs w), a := anySrc (w64Regs w), b := anySrc 1, trn := true, modOk := modOnly w 0x100#10 }

/-- One-source bit operations of R158; `narrow` for a 32-bit result. -/
def formBits (w : Word) (narrow : Bool) : Form :=
  { d := out (if narrow then 1 else w64Regs w), a := anySrc (w64Regs w), trn := true, modOk := modOnly w 0x100#10 }

def formMovw (w : Word) : Form :=
  { d := out 2, a := anySrc 1, b := anySrc 1, trn := true, modOk := modOnly w 0 }

def formSel (w : Word) : Form :=
  { d := out (w64Regs w), a := anySrc (w64Regs w), b := anySrc (w64Regs w), trn := true,
    modOk := modOnly w 0x1FF#10, preds := [modF w 0 7] }

/-- LUT3 (R159). -/
def formLut3 (w : Word) : Form :=
  let n := w64Regs w
  { d := out n, a := noImm n, b := noImm n, imm := .carriesC (noImm n) 0x3FC00#32, trn := true,
    modOk := modOnly w 0x100#10 }

def formFunnel (w : Word) : Form :=
  { d := out 1, a := noImm 1, b := noImm 1, imm := .carriesC (noImm 1) 0, trn := true, modOk := modOnly w 3#10 }

def formBfi (w : Word) : Form :=
  let n := w64Regs w
  { d := out n, a := noImm n, b := noImm n, imm := .carriesC (noImm 1) 0, trn := true, modOk := modOnly w 0x100#10 }

/-- BPRM (R159, R161): a control in IMM must hold no mode 0b11. -/
def formBprm (w : Word) : Form :=
  let bad (i : Nat) : Bool := immF w (5 * i + 3) 2 == 3
  { d := out 1, a := noImm 1, b := noImm 1,
    imm := if modB w 0 then .carriesC (noImm 1) 0 else .own 0xFFFFF#32, trn := true, modOk := modOnly w 1#10,
    own := modB w 0 || !(bad 0 || bad 1 || bad 2 || bad 3) }

/-- Comparisons (R162). -/
def formCmp (w : Word) (n : Nat) (preds : Nat) (ok : Bool) (mask : BitVec 10) : Form :=
  { d := .pred preds, a := anySrc n, b := anySrc n, modOk := ok && modOnly w mask }

def formIcmp (w : Word) : Form :=
  formCmp w (tyRegs (modF w 0 3)) 1 (wideTy (modF w 0 3) && decide (modF w 3 3 < 6)) 0x33F#10

def formFcmp (w : Word) : Form := formCmp w 1 1 true 0x3B8#10

def formHcmp2 (w : Word) : Form := formCmp w 1 2 (!(modB w 7 && modB w 6)) 0x3F8#10

def formDcmp (w : Word) : Form := formCmp w 2 1 true 0x338#10

/-- PLOP (R165). -/
def formPlop (w : Word) : Form :=
  { d := .pred 1, a := .pred 1, b := .pred 1, imm := .carriesC (.pred 1) 0x3FC00#32, modOk := modOnly w 0 }

def formP2v (w : Word) : Form := { d := out 1, a := .pred (modF w 0 5 + 1), modOk := modOnly w 0x1F#10 }

def formV2p (w : Word) : Form := { d := .pred (modF w 0 5 + 1), a := anySrc 1, modOk := modOnly w 0x1F#10 }

/-- FCLASS (R164). -/
def formFclass (w : Word) : Form :=
  { d := out 1, a := anySrc (if modF w 0 2 = 3 then 2 else 1),
    modOk := modOnly w 7#10 && !(modB w 2 && (modF w 0 2 == 0 || modF w 0 2 == 3)) }

def formTqset (w : Word) : Form := { d := .small 16, a := .pred 1, modOk := modOnly w 0x380#10 }

def formTqget (w : Word) : Form := { d := .pred 1, a := .small 16, modOk := modOnly w 0 }

/-! ### Floating forms (R170 to R183) -/

/-- Two sources and a result of n registers. -/
def formF2 (w : Word) (n : Nat) (mask : BitVec 10) : Form :=
  { d := out n, a := anySrc n, b := anySrc n, trn := true, modOk := modOnly w mask }

/-- One source. -/
def formF1 (w : Word) (mask : BitVec 10) : Form :=
  { d := out 1, a := anySrc 1, trn := true, modOk := modOnly w mask }

/-- Three sources (R174). -/
def formF3 (w : Word) (n : Nat) (mask : BitVec 10) : Form :=
  { d := out n, a := noImm n, b := noImm n, imm := .carriesC (noImm n) 0, trn := true, modOk := modOnly w mask }

/-- The conditions on FTZ and SKIP of packed instructions (R175). -/
def packedOk (w : Word) : Bool := !(modB w 7 && modB w 6) && !(modB w 4 && modB w 3)

def formH2 (w : Word) (mask : BitVec 10) : Form := { formF2 w 1 mask with modOk := modOnly w mask && packedOk w }

def formH3 (w : Word) : Form := { formF3 w 1 0x3F8#10 with modOk := modOnly w 0x3F8#10 && packedOk w }

/-- Registers of a format code of R178. -/
def fmtRegs (c : Nat) : Nat := if c = 3 ∨ c = 0x11 ∨ c = 0x12 then 2 else 1

/-- Elements of a format code in a register (R178). -/
def fmtElems (c : Nat) : Nat :=
  if c = 1 ∨ c = 2 ∨ c = 0x0D ∨ c = 0x0E then 2
  else if c = 8 ∨ c = 0x0C then 8
  else if (4 ≤ c ∧ c ≤ 7) ∨ (9 ≤ c ∧ c ≤ 0x0B) then 4
  else 1

/-- Integer format codes of R178. -/
def fmtInt (c : Nat) : Bool := decide (0x0A ≤ c ∧ c ≤ 0x12)

/-- f32 and f16, which FTZ acts on. -/
def fmtFtz (c : Nat) : Bool := c == 0 || c == 1

/-- CVT (R179). -/
def formCvt (w : Word) : Form :=
  let sf := immF w 0 5
  let df := immF w 8 5
  let ints := fmtInt sf && fmtInt df
  { d := out (fmtRegs df), a := noImm (fmtRegs sf), imm := .own 0x00771F1F#32, trn := true,
    modOk := modOnly w 0x3C0#10 && (!modB w 6 || ints) && (!ints || modF w 8 2 == 0) &&
      (!modB w 7 || fmtFtz sf || fmtFtz df),
    own := decide (sf ≤ 0x12) && decide (df ≤ 0x12) && decide (immF w 20 3 < fmtElems sf) && !(sf == 9 && df == 9) &&
      (immF w 16 3 == 0 || sf == 9 || df == 9) }

/-- Formats of PACKN and UNPKN. -/
def packFmt (c : Nat) : Bool := c == 1 || c == 2 || decide (4 ≤ c ∧ c ≤ 0x0E)

/-- f16, bf16, the narrow floats and pnf, with which PACKN takes FTZ (R180). -/
def fmtPackFtz (c : Nat) : Bool := c == 1 || c == 2 || decide (4 ≤ c ∧ c ≤ 9)

/-- PACKN (R180). -/
def formPackn (w : Word) : Form :=
  let f := immF w 0 5
  let n := modF w 3 3 + 1
  { d := out 1, a := .src n 10 false, imm := .own 0x0007001F#32, trn := true,
    modOk := modOnly w 0x3F8#10 && (!modB w 7 || fmtPackFtz f) && (!modB w 6 || fmtInt f),
    own := packFmt f && decide (n ≤ fmtElems f) && (immF w 16 3 == 0 || f == 9) }

/-- UNPKN (R180). -/
def formUnpkn (w : Word) : Form :=
  let f := immF w 0 5
  let n := modF w 3 3 + 1
  { d := outReg n, a := noImm 1, imm := .own 0x0007001F#32, trn := true,
    modOk := modOnly w 0x0BF#10 && (!modB w 7 || f == 1),
    own := packFmt f && decide (modF w 0 3 + n ≤ fmtElems f) && (immF w 16 3 == 0 || f == 9) }

/-- CVTSC (R181). -/
def formCvtsc (w : Word) : Form :=
  let f := immF w 0 5
  { d := out 1, a := noImm 1, b := noImm 1, imm := .own 0x0077031F#32, trn := true, modOk := modOnly w 0x3C0#10,
    own := decide (4 ≤ f ∧ f ≤ 0x0C) && (if modB w 6 then decide (immF w 20 3 < fmtElems f) else immF w 20 3 == 0) &&
      (immF w 16 3 == 0 || f == 9) }

def formFmset (w : Word) : Form := { d := .small 8, a := anySrc 1, modOk := modOnly w 0 }

def formFmget (w : Word) : Form := { d := out 1, a := .small 8, trn := true, modOk := modOnly w 0 }

/-! ### Control forms (R186 to R195, R341 to R343, R383) -/

/-- A word with no operand whose entry reports detail 7 for any nonzero field (R188). -/
def formBare (w : Word) (imm : ImmUse) : Form := { imm := imm, seven := true, zeroMod := modOnly w 0 }

def formBra (w : Word) : Form := { imm := .own 0xFFFFFFFF#32, modOk := modOnly w 0 }

def formBrx (w : Word) : Form := { a := noImm 1, imm := .own 0xFFFFFFFF#32, modOk := modOnly w 0 }

def formCall (w : Word) : Form := { d := out 1, imm := .own 0xFFFFFFFF#32, modOk := modOnly w 0 }

def formCallx (w : Word) : Form := { d := out 1, a := anySrc 1, modOk := modOnly w 0 }

def formRet (w : Word) : Form := { a := anySrc 1, modOk := modOnly w 0 }

def formJoin (w : Word) : Form := { modOk := modOnly w 7#10 }

def formJmset (w : Word) : Form := { a := if modB w 5 then .unused else anySrc 2, modOk := modOnly w 0x3F#10 }

def formJmget (w : Word) : Form := { d := outReg 2, modOk := modOnly w 7#10 }

def formWaitt (w : Word) : Form := { a := anySrc 2, modOk := modOnly w 0 }

/-- ERET (R342): supervisor privilege. -/
def formEret (w : Word) : Form := { modOk := modOnly w 0, sup := true }

/-- Registers that SREAD of a number gives (R339), 0 where the number is not readable. -/
def sysRead (n : Nat) : Nat :=
  if n ≤ 4 then 1
  else if n = 8 ∨ n = 9 ∨ n = 0x12 then 2
  else if n = 0x10 ∨ n = 0x11 then 1
  else if 0x100 ≤ n ∧ n < 0x120 then 1
  else 0

/-- Whether SREAD of a number needs supervisor privilege (R339). -/
def sysReadSup (n : Nat) : Bool := n == 0x10 || n == 0x12 || decide (0x100 ≤ n ∧ n < 0x120)

/-- Whether a number may be written: %fst, %ix0 to %ix3, %gstate, and the RW words of the frame (R336, R339). -/
def sysWrite (n : Nat) : Bool :=
  decide (n ≤ 4) || n == 0x11 || n == 0x100 || decide (0x105 ≤ n ∧ n ≤ 0x10F)

def sysWriteSup (n : Nat) : Bool := n == 0x11 || decide (0x100 ≤ n)

def formSread (w : Word) : Form :=
  let n := immF w 0 12
  { d := outReg (max 1 (sysRead n)), imm := .own 0xFFF#32, modOk := modOnly w 0, own := sysRead n != 0,
    sup := sysReadSup n }

def formSwrite (w : Word) : Form :=
  let n := immF w 0 12
  { a := noImm 1, imm := .own 0xFFF#32, modOk := modOnly w 0, own := sysWrite n, sup := sysWriteSup n }

def formIsync (w : Word) : Form :=
  { modOk := modOnly w 7#10 && decide (2 ≤ modF w 0 3 ∧ modF w 0 3 ≤ 5) }

/-- DBGM (R383): MOD[9:2] reports detail 7, OP = 3 detail 8. -/
def formDbgm (w : Word) (op : Nat) : Form :=
  { imm := if op = 0 ∧ modF w 0 2 = 0 then .own 0xFFFFFFFF#32 else .value, seven := true, zeroMod := modOnly w 3#10,
    modOk := modF w 0 2 == op }

/-! ### Cross-lane forms (R196 to R205) -/

/-- The mould of R196: MM, JK and the rest of MOD. -/
def formCross (w : Word) (d a b : Use) (low : BitVec 10) (ok : Bool) : Form :=
  { d := d, a := a, b := b, imm := if modF w 8 2 = 2 then .carriesC (noImm 2) 0 else .value,
    modOk := modOnly w (0x3E0#10 ||| low) && modF w 8 2 != 3 && (modF w 5 3 == 0 || modF w 8 2 == 1) && ok }

def formXbf (w : Word) : Form :=
  let n := 8 * 2 ^ modF w 0 2
  formCross w (outReg n) (regSrc n) .unused 0x1F#10 (decide (modF w 2 3 < 6) && decide (2 ^ (modF w 2 3 + 1) ≤ n))

def formVote (w : Word) : Form :=
  formCross w (if modF w 0 2 = 3 then out 2 else .pred 1) (.pred 1) .unused 7#10 true

def formRedg (w : Word) : Form := formCross w (out 1) (anySrc 1) .unused 0x0F#10 (decide (modF w 0 4 ≤ 10))

def formScang (w : Word) : Form := formCross w (out 1) (anySrc 1) .unused 0x1F#10 (decide (modF w 0 4 ≤ 10))

/-! ### Memory forms (R210 to R232) -/

/-- Registers of the data of R210: elements times registers of the type. -/
def dataRegs (w : Word) : Nat := 2 ^ modF w 4 2 * tyRegs (modF w 0 3)

/-- VEC and TYPE of R210, with the CP values that the instruction lists. -/
def memOk (w : Word) (cp : Bool) : Bool :=
  modOnly w 0x0F7#10 && cp && modF w 4 2 != 3 && (modF w 4 2 == 0 || wideTy (modF w 0 3))

/-- Loads of R210. -/
def formLoad (w : Word) (addr : Nat) (cp : Bool) : Form :=
  { d := out (dataRegs w), a := noImm addr, imm := .own 0xFFFFFFFF#32, modOk := memOk w cp }

/-- Stores of R210. -/
def formStore (w : Word) (addr : Nat) (cp : Bool) : Form :=
  { a := noImm addr, b := noImm (dataRegs w), imm := .own 0xFFFFFFFF#32, modOk := memOk w cp }

def formLdsx (w : Word) : Form :=
  { d := out (dataRegs w), a := noImm 1, b := anySrc 1, modOk := memOk w (modF w 6 2 == 0) }

def formStsx (w : Word) : Form :=
  { a := noImm 1, b := noImm 1, imm := .carriesC (noImm (dataRegs w)) 0, modOk := memOk w (modF w 6 2 == 0) }

/-- STW2 (R218). -/
def formStw2 (w : Word) : Form :=
  let size := if modB w 0 then 4 else 2
  { a := noImm 2, b := regSrc (max 1 (2 ^ modF w 3 3 * size / 4)), imm := .carriesC (noImm 2) 0xFFFFFC00#32,
    modOk := modOnly w 0x039#10 && decide (modF w 3 3 ≤ 5) && (modB w 0 || modF w 3 3 != 0),
    own := immF w 10 22 % size == 0 }

/-- LDXP (R220). Log entry 12 (DEDUCED). -/
def formLdxp (w : Word) : Form :=
  { d := outReg (16 * 2 ^ modF w 0 2), a := noImm 2, b := regSrc 2, imm := .own 0x7F7F#32,
    modOk := modOnly w 0x0F#10 && modF w 2 2 != 3 && modF w 0 2 != 3,
    own := immF w 0 7 != 0, preds := [immF w 8 7] }

def formPrf (w : Word) : Form :=
  { a := noImm 2, imm := .own 0xFFFFFFFF#32, modOk := modOnly w 3#10 && decide (modF w 0 2 ≤ 1) }

/-- CCTL has the fields of PRF; `.iva` names no address, and its A must be 0x000 (R223). Log entry 13 (DEDUCED). -/
def formCctl (w : Word) (op : Nat) : Form :=
  { a := if op = 1 then .unused else noImm 2, imm := if op = 1 then .value else .own 0xFFFFFFFF#32,
    modOk := modOnly w 7#10 && modF w 0 3 == op, sup := decide (2 ≤ op) }

/-- Tile instructions (R215). -/
def formTlk (w : Word) : Form := { d := outReg 1, a := noImm 2, b := .pred 1, modOk := modOnly w 0 }

def formTtag (w : Word) : Form := { a := anySrc 1, b := regSrc 4, modOk := modOnly w 0 }

def formTstat (w : Word) : Form := { d := outReg 4, a := anySrc 1, modOk := modOnly w 0 }

def formTinv (w : Word) : Form := { a := anySrc 1, modOk := modOnly w 0 }

/-- Hashed grids (R229): tuple widths follow from the region. -/
def formHgl (w : Word) : Form :=
  { d := outReg 0, a := regSrc 0, b := noImm 1, imm := .own 0x01FFFFFF#32,
    modOk := modOnly w 0 && immF w 16 2 != 3, own := immF w 0 16 != 0, preds := [immF w 18 7] }

/-- Levels that LMASK of HGA names (R229). -/
def hgaLevels (w : Word) : Nat := ((List.range 16).filter (fun i => immB w (10 + i))).length

/-- Each level has at least one feature, so with three levels C is wider than 64 bits whatever the region, and no special can supply it
(R100). -/
def formHga (w : Word) : Form :=
  { a := regSrc 0, b := noImm 1, imm := .carriesC (if 2 < hgaLevels w then regSrc 0 else noImm 0) 0x0FFFFC00#32,
    modOk := modOnly w 0 && immF w 26 2 != 3, own := immF w 10 16 != 0 }

def formHgw (w : Word) : Form :=
  { d := outReg (2 * (immF w 16 5 + 1)), a := regSrc 0, b := noImm 1, imm := .own 0x001FFF3F#32,
    modOk := modOnly w 0 && immF w 4 2 != 3 }

/-- RBIND (R226). -/
def formRbind (w : Word) : Form := { d := out 1, a := noImm 2, b := anySrc 1, modOk := modOnly w 0 }

/-! ### Atomic and barrier forms (R237 to R246) -/

/-- SCOPE of R240 outside ATOMS. -/
def atomScope (w : Word) : Bool := modF w 7 3 != 0

def formAtom (w : Word) : Form :=
  let n := tyRegs (modF w 0 3)
  { d := out n, a := noImm 2, b := noImm n, imm := .own 0xFFFFFFFF#32, modOk := atomScope w && wideTy (modF w 0 3) }

def formAtomc (w : Word) : Form :=
  let n := tyRegs (modF w 0 3)
  { d := out n, a := noImm 2, b := noImm n, imm := .carriesC (noImm n) 0,
    modOk := atomScope w && wideTy (modF w 0 3) && modF w 3 3 == 0 }

def formAtomf (w : Word) : Form :=
  let n := if modF w 0 3 = 1 then 2 else 1
  { d := out n, a := noImm 2, b := noImm n, imm := .own 0xFFFFFFFF#32,
    modOk := atomScope w && decide (modF w 0 3 ≤ 3) && decide (modF w 3 3 ≤ 2) }

def formRed (w : Word) : Form := { formAtom w with d := .unused, modOk := (formAtom w).modOk && modF w 3 3 != 6 }

def formRedf (w : Word) : Form := { formAtomf w with d := .unused }

/-- ATOMS (R240): FLT in MOD[7]; `.cas` carries C. -/
def formAtoms (w : Word) : Form :=
  let n := if modB w 7 then 1 else tyRegs (modF w 0 3)
  { d := out n, a := noImm 1, b := noImm n,
    imm := if modF w 3 3 = 7 then .carriesC (noImm n) 0 else .own 0xFFFFFFFF#32,
    modOk := modOnly w 0x0FF#10 &&
      (if modB w 7 then decide (modF w 3 3 ≤ 2) && modF w 0 3 == 0 else wideTy (modF w 0 3)) }

/-- ATOMW (R240): B and D are tuples of four registers, and so is C under `.cas`; `.exch` has no use for C, which must be 0.
Log entry 19 (DEDUCED). -/
def formAtomw (w : Word) : Form :=
  { d := out 4, a := noImm 2, b := noImm 4, imm := .carriesC (if modF w 3 3 = 0 then .unused else noImm 4) 0,
    modOk := atomScope w && decide (modF w 3 3 ≤ 1) && modF w 0 3 == 0 }

/-- SHA (R286). -/
def formSha (w : Word) : Form :=
  let t := modF w 0 3
  { a := noImm 2, b := noImm (if t = 1 ∨ t = 4 ∨ t = 5 then 2 else 1), imm := .own 0xFFFFFFFF#32,
    modOk := modOnly w 0x03F#10 && modF w 3 3 != 7 &&
      !(decide (4 ≤ modF w 3 3) && (t == 0 || t == 1 || t == 6 || t == 7)) }

/-- BINIT: `.exitdrop` takes ZERO as B. -/
def formBinit (w : Word) : Form :=
  { a := anySrc 1, b := anySrc 1, modOk := modOnly w 1#10,
    zeroOk := !modB w 0 || decide (w.b = .special 0) }

def formArrv (w : Word) : Form := { d := out 1, a := anySrc 1, b := anySrc 1, modOk := modOnly w 1#10 }

def formPwait (w : Word) : Form := { a := anySrc 1, b := anySrc 1, modOk := modOnly w 0 }

def formPtest (w : Word) : Form := { d := .pred 1, a := anySrc 1, b := anySrc 1, modOk := modOnly w 0 }

/-- Fences (R244). -/
def formFence (w : Word) : Form :=
  { modOk := modOnly w 0x01F#10 && modF w 3 2 != 3 && modF w 0 3 != 0 }

def formXfence (w : Word) : Form :=
  { modOk := modOnly w 0x1FF#10 && modF w 0 3 != 7 && modF w 3 3 != 7 && modF w 0 3 != modF w 3 3 &&
      decide (2 ≤ modF w 6 3) }

/-- ACQ and REL (R246). -/
def formAcq (w : Word) : Form :=
  { d := out 2, a := anySrc 1, b := if modB w 0 then anySrc 2 else .unused, modOk := modOnly w 1#10 }

def formRel (w : Word) : Form := { a := anySrc 1, b := anySrc 2, modOk := modOnly w 1#10 }

/-! ### Granary forms (R249 to R270) -/

/-- Registers of a vector of 32 elements by format (R250). -/
def vecRegs (f : Nat) : Nat :=
  if f = 0 then 32 else if f ≤ 2 then 16 else if f = 8 ∨ f = 0x0C then 4 else 8

/-- The contraction mould of R251. `kind` is 0 CTR, 1 CTRS, 2 CTRSP. -/
def formCtr (w : Word) (kind : Nat) : Form :=
  let f := modF w 6 4
  let n := vecRegs f
  let scl := modB w 3
  { a := regSrc (if kind = 2 then 3 else if scl then 2 else 1),
    b := regSrc (if kind = 1 then 2 else n),
    imm := .carriesC (if kind = 1 then noImm 1 else regSrc n) 0x7FFFFC00#32,
    modOk := f != 3 && decide (f ≤ 0x0C) && modF w 4 2 != 3 && (immF w 20 3 == 0 || modF w 4 2 == 0) &&
      !(scl && (f == 0x0A || f == 0x0B || f == 0x0C)) && (scl || immF w 27 4 == 0) &&
      (if kind = 2 then f != 9 && modF w 0 2 != 3 else f == 9 || modF w 0 3 == 0),
    team := modF w 4 2 == 2 }

def formCwd (w : Word) : Form := { a := noImm 1, modOk := modOnly w 0 }

def formAalloc (w : Word) : Form :=
  { d := outReg 1, modOk := modOnly w 0x00F#10 && modF w 2 2 != 3 && modF w 0 2 != 3, team := modF w 2 2 == 2 }

def formAzero (w : Word) : Form := { a := noImm 1, imm := .own 0xF#32, modOk := modOnly w 0 }

/-- Registers of a row of ALD or AST (R268). -/
def rowRegs (w : Word) : Nat := (if modF w 0 2 = 1 then 64 else 32) / (if modB w 2 then 2 else 1)

def formAld (w : Word) : Form :=
  { d := outReg (rowRegs w), a := noImm 1, b := anySrc 1, modOk := modOnly w 7#10 && modF w 0 2 != 3 }

def formAst (w : Word) : Form :=
  { a := noImm 1, b := noImm 1, imm := .carriesC (regSrc (rowRegs w)) 0, modOk := modOnly w 7#10 && modF w 0 2 != 3 }

def formAstat (w : Word) : Form := { d := outReg 1, a := noImm 1, modOk := modOnly w 1#10 }

/-- MM and JK of the engine moulds (R270, R274). -/
def engineMm (w : Word) : Bool := decide (modF w 8 2 ≤ 1) && (modF w 5 3 == 0 || modF w 8 2 == 1)

def formAdrn (w : Word) : Form :=
  { a := noImm 1, b := regSrc 2, imm := .carriesC (regSrc 3) 0x00FFFC00#32,
    modOk := modOnly w 0x3E3#10 && engineMm w && modF w 0 2 != 3 }

/-! ### Engine forms (R274) -/

def formCpy (w : Word) : Form :=
  { a := noImm 2, b := regSrc 0, imm := .carriesC (regSrc 0) 0,
    modOk := engineMm w && modF w 0 2 != 3 && (!modB w 3 || (modF w 0 2 == 1 && modB w 2)) &&
      !(modB w 2 && modF w 0 2 == 2) }

def formCpym (w : Word) : Form :=
  { a := noImm 2, b := regSrc 0, imm := .carriesC (regSrc 0) 0, modOk := modOnly w 0x3F4#10 && engineMm w,
    team := true }

/-- SHF: a mode-11 value lies in IMM[9:0], and IMM[31:10] is 0. -/
def formShf (w : Word) : Form :=
  { a := anySrc 1, b := anySrc 1, modOk := modOnly w 0x3E0#10 && engineMm w, zeroOk := immF w 10 22 == 0 }

def formWnw (w : Word) : Form :=
  { a := noImm 2, b := noImm 1, imm := .carriesC (regSrc (if modB w 4 then 4 else 2)) 0,
    modOk := modOnly w 0x3F0#10 && engineMm w }

def formGln (w : Word) : Form :=
  { a := regSrc 7, b := noImm 2, modOk := modOnly w 0x3E1#10 && engineMm w }

/-! ### Launch and section forms (R39, R44, R315) -/

/-- Log entry 14 (DEDUCED). -/
def formLaunch (w : Word) : Form := { d := .dstPlain 1, a := .plain 2, modOk := modOnly w 0 }

/-- Log entry 14 (DEDUCED). -/
def formLctl (w : Word) (op : Nat) : Form :=
  { d := .dstPlain 1, a := .plain 1, modOk := modOnly w 7#10 && modF w 0 3 == op }

def formLpset (w : Word) : Form :=
  { a := anySrc 1, b := anySrc 1, hints := false, modOk := modOnly w 7#10 && decide (modF w 0 3 ≤ 4) }

def formLend (w : Word) (op : Nat) : Form :=
  { a := if op = 2 then anySrc 1 else .unused, hints := false, modOk := modOnly w 7#10 && modF w 0 3 == op }

def formFxb (w : Word) : Form :=
  { d := out 1, imm := .own 0xFFFFFFFF#32, seven := true, zeroMod := modOnly w 0 }

def formFxs (w : Word) : Form := { d := outReg 1, seven := true, zeroMod := modOnly w 0 }

/-! ### The table -/

/-- The form of an instruction word, or none for the paired word and for events. -/
def formOf : Instr → Option (Word × Form)
  | .nop w => some (w, formBare w .value)
  | .bra w => some (w, formBra w)
  | .brx w => some (w, formBrx w)
  | .call w => some (w, formCall w)
  | .callx w => some (w, formCallx w)
  | .ret w => some (w, formRet w)
  | .exit w => some (w, formBare w .value)
  | .join w => some (w, formJoin w)
  | .jmset w => some (w, formJmset w)
  | .jmget w => some (w, formJmget w)
  | .yield w => some (w, formBare w .value)
  | .waitc w => some (w, formBare w (.own 0x3F3F3F3F#32))
  | .waitt w => some (w, formWaitt w)
  | .bpt w => some (w, formBra w)
  | .trap w => some (w, formBra w)
  | .eret w => some (w, formEret w)
  | .iadd w => some (w, formArith w true)
  | .isub w => some (w, formArith w true)
  | .imul w => some (w, formArith w true)
  | .imulh w => some (w, formArith w false)
  | .imad w => some (w, formImad w)
  | .imadw w => some (w, formImadw w)
  | .imin w => some (w, formArith w false)
  | .imax w => some (w, formArith w false)
  | .iabs w => some (w, formIabs w)
  | .iaddc w => some (w, formIaddc w)
  | .lea w => some (w, formLea w)
  | .idot4 w => some (w, formIdot4 w)
  | .isad w => some (w, formIsad w)
  | .idiv w => some (w, formArith w false)
  | .irem w => some (w, formArith w false)
  | .lut3 w => some (w, formLut3 w)
  | .shl w => some (w, formShift w)
  | .shr w => some (w, formShift w)
  | .sar w => some (w, formShift w)
  | .rotl w => some (w, formShift w)
  | .funnel w => some (w, formFunnel w)
  | .bprm w => some (w, formBprm w)
  | .bfx w => some (w, formBfx w)
  | .bfi w => some (w, formBfi w)
  | .popc w => some (w, formBits w true)
  | .clz w => some (w, formBits w true)
  | .brev w => some (w, formBits w false)
  | .ffs w => some (w, formBits w true)
  | .mov w => some (w, formBits w false)
  | .movw w => some (w, formMovw w)
  | .sel w => some (w, formSel w)
  | .icmp w => some (w, formIcmp w)
  | .fcmp w => some (w, formFcmp w)
  | .hcmp2 w => some (w, formHcmp2 w)
  | .dcmp w => some (w, formDcmp w)
  | .plop w => some (w, formPlop w)
  | .p2v w => some (w, formP2v w)
  | .v2p w => some (w, formV2p w)
  | .fclass w => some (w, formFclass w)
  | .tqset w => some (w, formTqset w)
  | .tqget w => some (w, formTqget w)
  | .fadd w => some (w, formF2 w 1 0x3E0#10)
  | .fmul w => some (w, formF2 w 1 0x3C0#10)
  | .ffma w => some (w, formF3 w 1 0x3E0#10)
  | .fmin w => some (w, formF2 w 1 0x080#10)
  | .fmax w => some (w, formF2 w 1 0x080#10)
  | .frnd w => some (w, formF1 w 0x3C0#10)
  | .fscale w => some (w, formF2 w 1 0x380#10)
  | .fgetexp w => some (w, formF1 w 0x080#10)
  | .fset w => some (w, formF2 w 1 0x0F8#10)
  | .fcpysgn w => some (w, formF2 w 1 0x060#10)
  | .hadd2 w => some (w, formH2 w 0x3F8#10)
  | .hmul2 w => some (w, formH2 w 0x3D8#10)
  | .hfma2 w => some (w, formH3 w)
  | .hmin2 w => some (w, formH2 w 0x0D8#10)
  | .hmax2 w => some (w, formH2 w 0x0D8#10)
  | .hdot2 w => some (w, formH3 w)
  | .dadd w => some (w, formF2 w 2 0x360#10)
  | .dmul w => some (w, formF2 w 2 0x340#10)
  | .dfma w => some (w, formF3 w 2 0x360#10)
  | .dmin w => some (w, formF2 w 2 0)
  | .dmax w => some (w, formF2 w 2 0)
  | .cvt w => some (w, formCvt w)
  | .cvtsc w => some (w, formCvtsc w)
  | .packn w => some (w, formPackn w)
  | .unpkn w => some (w, formUnpkn w)
  | .fmset w => some (w, formFmset w)
  | .fmget w => some (w, formFmget w)
  | .rsqs w => some (w, formF1 w 0x080#10)
  | .rcps w => some (w, formF1 w 0x080#10)
  | .sinr w => some (w, formF1 w 0x080#10)
  | .cosr w => some (w, formF1 w 0x080#10)
  | .ex2 w => some (w, formF1 w 0x080#10)
  | .lg2 w => some (w, formF1 w 0x080#10)
  | .tnh w => some (w, formF1 w 0x080#10)
  | .sigm w => some (w, formF1 w 0x080#10)
  | .shfl w => some (w, formCross w (out 1) (anySrc 1) (anySrc 1) 3#10 true)
  | .xbf w => some (w, formXbf w)
  | .vote w => some (w, formVote w)
  | .redg w => some (w, formRedg w)
  | .scang w => some (w, formScang w)
  | .matchLanes w => some (w, formCross w (out 2) (anySrc 1) .unused 0 true)
  | .elect w => some (w, formCross w (.pred 1) .unused .unused 0 true)
  | .topk w => some (w, formCross w (out 2) (anySrc 1) (anySrc 1) 0x1F#10 true)
  | .ld w => some (w, formLoad w 2 (decide (modF w 6 2 ≤ 2)))
  | .st w => some (w, formStore w 2 (modF w 6 2 == 0 || modF w 6 2 == 2))
  | .lds w => some (w, formLoad w 1 (modF w 6 2 == 0))
  | .sts w => some (w, formStore w 1 (modF w 6 2 == 0))
  | .ldp w => some (w, formLoad w 1 (modF w 6 2 == 0))
  | .stw2 w => some (w, formStw2 w)
  | .ldxp w => some (w, formLdxp w)
  | .prf w => some (w, formPrf w)
  | .cctlIvl w => some (w, formCctl w 0)
  | .cctlIva w => some (w, formCctl w 1)
  | .cctlWbm w => some (w, formCctl w 2)
  | .cctlWim w => some (w, formCctl w 3)
  | .ldsx w => some (w, formLdsx w)
  | .stsx w => some (w, formStsx w)
  | .tlk w => some (w, formTlk w)
  | .ttag w => some (w, formTtag w)
  | .tstat w => some (w, formTstat w)
  | .tinv w => some (w, formTinv w)
  | .hgl w => some (w, formHgl w)
  | .hga w => some (w, formHga w)
  | .hgw w => some (w, formHgw w)
  | .atom w => some (w, formAtom w)
  | .atomc w => some (w, formAtomc w)
  | .atomf w => some (w, formAtomf w)
  | .red w => some (w, formRed w)
  | .redf w => some (w, formRedf w)
  | .atoms w => some (w, formAtoms w)
  | .atomw w => some (w, formAtomw w)
  | .sha w => some (w, formSha w)
  | .binit w => some (w, formBinit w)
  | .arrv w => some (w, formArrv w)
  | .pwait w => some (w, formPwait w)
  | .ptest w => some (w, formPtest w)
  | .fence w => some (w, formFence w)
  | .xfence w => some (w, formXfence w)
  | .acq w => some (w, formAcq w)
  | .rel w => some (w, formRel w)
  | .rbind w => some (w, formRbind w)
  | .bexp w => some (w, formPwait w)
  | .ctr w => some (w, formCtr w 0)
  | .ctrs w => some (w, formCtr w 1)
  | .ctrsp w => some (w, formCtr w 2)
  | .cwd w => some (w, formCwd w)
  | .aalloc w => some (w, formAalloc w)
  | .afree w => some (w, formCwd w)
  | .azero w => some (w, formAzero w)
  | .ald w => some (w, formAld w)
  | .ast w => some (w, formAst w)
  | .adrn w => some (w, formAdrn w)
  | .astat w => some (w, formAstat w)
  | .cpy w => some (w, formCpy w)
  | .cpym w => some (w, formCpym w)
  | .shf w => some (w, formShf w)
  | .wnw w => some (w, formWnw w)
  | .gln w => some (w, formGln w)
  | .launch w => some (w, formLaunch w)
  | .lctlCancel w => some (w, formLctl w 0)
  | .lctlKill w => some (w, formLctl w 1)
  | .lctlQuery w => some (w, formLctl w 2)
  | .lpset w => some (w, formLpset w)
  | .lendLaunch w => some (w, formLend w 0)
  | .lendCancel w => some (w, formLend w 1)
  | .lendRepeat w => some (w, formLend w 2)
  | .fxb w => some (w, formFxb w)
  | .fxe w => some (w, formBare w .value)
  | .fxa w => some (w, formBare w .value)
  | .fxs w => some (w, formFxs w)
  | .sread w => some (w, formSread w)
  | .swrite w => some (w, formSwrite w)
  | .isync w => some (w, formIsync w)
  | .dbgmBrk w => some (w, formDbgm w 0)
  | .dbgmStepon w => some (w, formDbgm w 1)
  | .dbgmStepoff w => some (w, formDbgm w 2)
  | .pairedWord _ => none
  | _ => none

end Sys2Proof
end

