-- ==== Sys2Proof/Machine/Checks.lean ====
section
/-! DEFINITION. The checks of R108 that depend on the word alone, in the order of their detail codes. -/

namespace Sys2Proof

/-! ### Operand fields -/

/-- A field names a vector register, directly or through an index register. -/
def Opd.named : Opd → Bool
  | .reg _ => true
  | .idx _ _ => true
  | _ => false

def Opd.isImm : Opd → Bool
  | .imm _ => true
  | _ => false

def Opd.isSpecial : Opd → Bool
  | .special _ => true
  | _ => false

/-- The special codes of R96. -/
def specialLegal (c : BitVec 8) : Bool :=
  decide (c < 4#8) || (decide (8#8 ≤ c) && decide (c ≤ 0xE#8)) || (decide (0x10#8 ≤ c) && decide (c < 0x20#8))

/-- No reserved special code, and a mode-11 field with low byte zero (R95, R96). -/
def Opd.plainOk : Opd → Bool
  | .special c => specialLegal c
  | .imm z => z == 0
  | _ => true

/-- A use that reads vector registers, so that a reuse hint may stand (R91). -/
def Use.reads : Use → Bool
  | .src _ _ _ => true
  | .plain _ => true
  | _ => false

def Use.used : Use → Bool
  | .unused => false
  | _ => true

/-- A use that holds an operand, and no number of a predicate or of another numbered thing (R101, R151). -/
def Use.isOperand : Use → Bool
  | .unused => false
  | .pred _ => false
  | .small _ => false
  | _ => true

/-- The use of C, where the word carries one. -/
def Form.c (f : Form) : Use :=
  match f.imm with
  | .carriesC c _ => c
  | _ => .unused

/-! ### Detail 4: hints (R91) -/

/-- Log entry 17 (DEDUCED). YLD in LPSET or LEND: R44 makes HNT zero there, which detail 7 would report, and R91 lists YLD as legal
everywhere: that it is detail 4 is the model's choice (log entry 120, DESIGN CHOICE). -/
def hintsOk (f : Form) (w : Word) : Bool :=
  w.hnt.resv == 0 && (f.hints || !(w.hnt.yld || w.hnt.ra || w.hnt.rb)) && (!w.hnt.trn || (f.trn && w.d.named)) &&
    (!w.hnt.ra || (f.a.reads && w.a.named)) && (!w.hnt.rb || (f.b.reads && w.b.named)) &&
    (!w.hnt.rc || (f.c.reads && w.c.named))

/-! ### Detail 5: operand fields (R95 to R101) -/

/-- What D may hold as a result: a register, or ZERO where the entry discards (R97). A field that names a predicate or
another numbered thing is judged under detail A (R151), and an unused one under detail 7. Log entry 11 (DEDUCED). -/
def destOk (u : Use) (o : Opd) : Bool :=
  match u, o with
  | .dst _ _, .imm _ => false
  | .dst _ z, .special c => z && c == 0
  | .dstPlain _, .imm _ => false
  | .dstPlain _, .idx _ _ => false
  | .dstPlain _, .special c => c == 0
  | _, _ => true

/-- What a source field may hold. Log entry 15 (DEDUCED). -/
def sourceOk (u : Use) (o : Opd) : Bool :=
  match u, o with
  | .src n bad _, .special _ => bad != 5 && decide (n ≤ 2)
  | .src n _ _, .imm _ => decide (n ≤ 2)
  | .plain _, .special _ => false
  | .plain _, .idx _ _ => false
  | _, _ => true

/-- A used field holds a legal code in a mode its use takes. An unused field names nothing (R95). Log entry 10 (DEDUCED). -/
def fieldOk (u : Use) (o : Opd) : Bool := !u.used || (o.plainOk && destOk u o && sourceOk u o)

/-- Log entry 10 (DEDUCED). -/
def operandsOk (f : Form) (w : Word) : Bool :=
  fieldOk f.d w.d && fieldOk f.a w.a && fieldOk f.b w.b && fieldOk f.c w.c &&
    (!f.c.isOperand || !w.c.isImm)

/-! ### Detail 6: IMM (R94) -/

/-- A source that may be an immediate. -/
def Use.immAllowed : Use → Bool
  | .src _ _ i => i
  | _ => false

/-- Log entry 15 (DEDUCED). -/
def immOk (f : Form) (w : Word) : Bool :=
  let ia := f.a.reads && w.a.isImm
  let ib := f.b.reads && w.b.isImm
  match f.imm with
  | .value =>
    !(ia && ib) && (!ia || f.a.immAllowed) && (!ib || f.b.immAllowed) && (f.seven || w.imm == 0 || ia || ib)
  | _ => !ia && !ib

/-! ### Detail 7: unused fields and zero sub-fields -/

/-- An unused field is 0x000. Log entry 9 (DEDUCED). -/
def unusedOk (u : Use) (o : Opd) : Bool := u.used || decide (o = .reg 0)

def zerosOk (f : Form) (w : Word) : Bool :=
  unusedOk f.d w.d && unusedOk f.a w.a && unusedOk f.b w.b && f.zeroOk && f.zeroMod &&
    match f.imm with
    | .value => !f.seven || w.imm == 0
    | .carriesC c _ => unusedOk c w.c
    | .own m => w.imm &&& ~~~m == 0

/-! ### Detail 8: MOD and extended modifiers -/

def modifiersOk (f : Form) (w : Word) : Bool :=
  f.modOk && match f.imm with
    | .carriesC _ ext => w.imm &&& ~~~(ext ||| 0x3FF#32) == 0
    | _ => true

/-! ### Detail A: the entry's own conditions -/

/-- A field that names predicates is in mode 00 with bit 7 zero; one that names another numbered thing is below its
bound (R151, R182); a tuple where the entry says so holds no special (R180). -/
def namesOk (u : Use) (o : Opd) : Bool :=
  match u, o with
  | .pred _, .reg n => decide (n < 128#8)
  | .pred _, _ => false
  | .small k, .reg n => decide (n.toNat < k)
  | .small _, _ => false
  | .src _ bad _, .special _ => bad == 0
  | _, _ => true

def ownOk (f : Form) (w : Word) : Bool :=
  f.own && namesOk f.d w.d && namesOk f.a w.a && namesOk f.b w.b && namesOk f.c w.c

/-- The first check of R108 that a word fails, or 0. Log entry 9 (DEDUCED). -/
def Form.check (f : Form) (w : Word) : Nat :=
  if !hintsOk f w then 4
  else if !operandsOk f w then 5
  else if !immOk f w then 6
  else if !zerosOk f w then 7
  else if !modifiersOk f w then 8
  else if !ownOk f w then 10
  else 0

/-! ### The paired word (R102 to R105) -/

/-- Classes of half-ops (R104). -/
inductive HalfClass where
  | a | m | h
  deriving DecidableEq, Repr

/-- The class of a sub-op, and the modifier bits it gives a meaning, or none for a reserved code (R104). -/
def halfOp (s : Nat) : Option (HalfClass × Nat) :=
  match s with
  | 0x00 => some (.a, 0)
  | 0x01 => some (.a, 0)
  | 0x02 => some (.a, 1)
  | 0x03 => some (.a, 1)
  | 0x04 => some (.a, 0)
  | 0x05 => some (.a, 0)
  | 0x06 => some (.a, 0)
  | 0x07 => some (.a, 0)
  | 0x08 => some (.a, 0)
  | 0x09 => some (.a, 0)
  | 0x0A => some (.a, 0)
  | 0x0B => some (.a, 15)
  | 0x0C => some (.a, 4)
  | 0x0D => some (.a, 4)
  | 0x0E => some (.a, 0)
  | 0x10 => some (.m, 0)
  | 0x11 => some (.m, 1)
  | 0x12 => some (.m, 7)
  | 0x13 => some (.m, 15)
  | 0x18 => some (.h, 11)
  | 0x19 => some (.h, 11)
  | 0x1A => some (.h, 11)
  | 0x1B => some (.h, 8)
  | 0x1C => some (.h, 8)
  | _ => none

/-- A half accumulates into its own destination (R104). -/
def Half.accumulates (h : Half) : Bool := h.sub == 0x13#6 || h.sub == 0x1A#6

/-- A 9-bit source names a register. -/
def halfReg (x : BitVec 9) : Option (BitVec 8) := if x.getLsbD 8 then none else some (x.extractLsb' 0 8)

/-- Registers a half reads. -/
def Half.sources (h : Half) : List (BitVec 8) :=
  (halfReg h.a).toList ++ (halfReg h.b).toList ++ (if h.accumulates then [h.d] else [])

/-- A half source holds no reserved special code (R103); MOV does not use B. -/
def halfSourceOk (x : BitVec 9) : Bool := !x.getLsbD 8 || specialLegal (x.extractLsb' 0 8)

def Half.sourcesOk (h : Half) : Bool := halfSourceOk h.a && (h.sub == 0x0A#6 || halfSourceOk h.b)

/-- The modifier nibble sets only bits with a meaning, and the sub-op is in the table. -/
def Half.opOk (h : Half) : Bool :=
  match halfOp h.sub.toNat with
  | none => false
  | some (_, mask) => h.m.toNat &&& (15 - mask) == 0

/-- R105, rules 1 to 5. -/
def Pair.rules (p : Pair) : Bool :=
  let s0 := p.h0.sources
  let s1 := p.h1.sources
  let all := (s0 ++ s1).dedup
  let bank (k : Nat) : Nat := (all.filter (fun r => r.toNat % 4 == k)).length
  let cls (h : Half) : HalfClass := ((halfOp h.sub.toNat).map Prod.fst).getD .a
  p.h0.d.toNat % 4 != p.h1.d.toNat % 4 && !s0.contains p.h1.d && !s1.contains p.h0.d &&
    decide (all.length ≤ 4) && decide (bank 0 ≤ 2) && decide (bank 1 ≤ 2) && decide (bank 2 ≤ 2) &&
    decide (bank 3 ≤ 2) && !(cls p.h0 == .m && cls p.h1 == .m) &&
    !(cls p.h0 == .h && cls p.h1 != .a) && !(cls p.h1 == .h && cls p.h0 != .a)

/-- The first check of R108 that a paired word fails, or 0. -/
def Pair.check (p : Pair) : Nat :=
  let h := p.hnt
  let zero (x : Half) : Bool := x.sub != 0x0A#6 || x.b == 0x100#9
  if h.resv != 0 || h.rc || h.rb || h.ra || h.trn then 4
  else if !(p.h0.sourcesOk && p.h1.sourcesOk) then 5
  else if !(zero p.h0 && zero p.h1) then 7
  else if !(p.h0.opOk && p.h1.opOk && p.rules) then 9
  else 0

/-- The first check of R108 that an instruction's word fails, or 0; events have no word and pass. -/
def checkInstr (i : Instr) : Nat :=
  match i with
  | .pairedWord p => p.check
  | _ =>
    match formOf i with
    | some (w, f) => f.check w
    | none => 0

end Sys2Proof
end

