-- ==== Sys2Proof/WellFormed.lean ====
section
/-! DEFINITION. Well-formed instructions: those whose word passes every check of R108 that depends on the word alone. -/

namespace Sys2Proof

/-- An instruction is well formed when its word fails no check of R108. -/
def Instr.wf (i : Instr) : Bool := checkInstr i == 0

/-- Instructions have words; events of the part have none. -/
def Instr.hasWord (i : Instr) : Bool :=
  match i with
  | .pairedWord _ => true
  | i => (formOf i).isSome

end Sys2Proof
end

