-- ==== Sys2Proof/Decode.lean ====
section
/-! DEFINITION. Decoding (R88 to R108): total on any 96 bits, refusing by the detail code of R108; then the encoder, from the same
tables. -/

namespace Sys2Proof

/-! ### Fields of a word (R88) -/

/-- The fields that every instruction word shares. -/
def Word.ofBits (x : W96) : Word :=
  { grd := { neg := x.getLsbD 15, pred := x.extractLsb' 8 7 },
    hnt := { resv := x.extractLsb' 21 3, rc := x.getLsbD 20, rb := x.getLsbD 19, ra := x.getLsbD 18,
             yld := x.getLsbD 17, trn := x.getLsbD 16 },
    d := Opd.ofBits (x.extractLsb' 24 10), a := Opd.ofBits (x.extractLsb' 34 10),
    b := Opd.ofBits (x.extractLsb' 44 10), mod := x.extractLsb' 54 10, imm := x.extractLsb' 64 32 }

/-- The fields of a paired word (R102). -/
def Pair.ofBits (x : W96) : Pair :=
  { grd := { neg := x.getLsbD 15, pred := x.extractLsb' 8 7 },
    hnt := { resv := x.extractLsb' 21 3, rc := x.getLsbD 20, rb := x.getLsbD 19, ra := x.getLsbD 18,
             yld := x.getLsbD 17, trn := x.getLsbD 16 },
    h0 := { sub := x.extractLsb' 24 6, d := x.extractLsb' 30 8, a := x.extractLsb' 38 9, b := x.extractLsb' 47 9,
            m := x.extractLsb' 56 4 },
    h1 := { sub := x.extractLsb' 60 6, d := x.extractLsb' 66 8, a := x.extractLsb' 74 9, b := x.extractLsb' 83 9,
            m := x.extractLsb' 92 4 } }

/-! ### The opcode map (R107) -/

/-- The instruction of a major opcode, or none for a reserved one. Where one opcode has several rows, MOD chooses; a
MOD value of no row gives the first, which then fails its own check. -/
def ofOpcode (op : Nat) (w : Word) : Option Instr :=
  match op with
  | 0x00 => some (.nop w)
  | 0x01 => some (.bra w)
  | 0x02 => some (.brx w)
  | 0x03 => some (.call w)
  | 0x04 => some (.callx w)
  | 0x05 => some (.ret w)
  | 0x06 => some (.exit w)
  | 0x07 => some (.join w)
  | 0x08 => some (.jmset w)
  | 0x09 => some (.jmget w)
  | 0x0A => some (.yield w)
  | 0x0B => some (.waitc w)
  | 0x0C => some (.waitt w)
  | 0x0D => some (.bpt w)
  | 0x0E => some (.trap w)
  | 0x0F => some (.eret w)
  | 0x10 => some (.iadd w)
  | 0x11 => some (.isub w)
  | 0x12 => some (.imul w)
  | 0x13 => some (.imulh w)
  | 0x14 => some (.imad w)
  | 0x15 => some (.imadw w)
  | 0x16 => some (.imin w)
  | 0x17 => some (.imax w)
  | 0x18 => some (.iabs w)
  | 0x19 => some (.iaddc w)
  | 0x1A => some (.lea w)
  | 0x1B => some (.idot4 w)
  | 0x1C => some (.isad w)
  | 0x1D => some (.idiv w)
  | 0x1E => some (.irem w)
  | 0x20 => some (.lut3 w)
  | 0x21 => some (.shl w)
  | 0x22 => some (.shr w)
  | 0x23 => some (.sar w)
  | 0x24 => some (.rotl w)
  | 0x25 => some (.funnel w)
  | 0x26 => some (.bprm w)
  | 0x27 => some (.bfx w)
  | 0x28 => some (.bfi w)
  | 0x29 => some (.popc w)
  | 0x2A => some (.clz w)
  | 0x2B => some (.brev w)
  | 0x2C => some (.ffs w)
  | 0x2D => some (.mov w)
  | 0x2E => some (.movw w)
  | 0x2F => some (.sel w)
  | 0x30 => some (.icmp w)
  | 0x31 => some (.fcmp w)
  | 0x32 => some (.hcmp2 w)
  | 0x33 => some (.dcmp w)
  | 0x34 => some (.plop w)
  | 0x35 => some (.p2v w)
  | 0x36 => some (.v2p w)
  | 0x37 => some (.fclass w)
  | 0x38 => some (.tqset w)
  | 0x39 => some (.tqget w)
  | 0x40 => some (.fadd w)
  | 0x41 => some (.fmul w)
  | 0x42 => some (.ffma w)
  | 0x43 => some (.fmin w)
  | 0x44 => some (.fmax w)
  | 0x45 => some (.frnd w)
  | 0x46 => some (.fscale w)
  | 0x47 => some (.fgetexp w)
  | 0x48 => some (.fset w)
  | 0x49 => some (.fcpysgn w)
  | 0x50 => some (.hadd2 w)
  | 0x51 => some (.hmul2 w)
  | 0x52 => some (.hfma2 w)
  | 0x53 => some (.hmin2 w)
  | 0x54 => some (.hmax2 w)
  | 0x55 => some (.hdot2 w)
  | 0x58 => some (.dadd w)
  | 0x59 => some (.dmul w)
  | 0x5A => some (.dfma w)
  | 0x5B => some (.dmin w)
  | 0x5C => some (.dmax w)
  | 0x60 => some (.cvt w)
  | 0x61 => some (.cvtsc w)
  | 0x62 => some (.packn w)
  | 0x63 => some (.unpkn w)
  | 0x64 => some (.fmset w)
  | 0x65 => some (.fmget w)
  | 0x68 => some (.rsqs w)
  | 0x69 => some (.rcps w)
  | 0x6A => some (.sinr w)
  | 0x6B => some (.cosr w)
  | 0x6C => some (.ex2 w)
  | 0x6D => some (.lg2 w)
  | 0x6E => some (.tnh w)
  | 0x6F => some (.sigm w)
  | 0x70 => some (.shfl w)
  | 0x71 => some (.xbf w)
  | 0x72 => some (.vote w)
  | 0x73 => some (.redg w)
  | 0x74 => some (.scang w)
  | 0x75 => some (.matchLanes w)
  | 0x76 => some (.elect w)
  | 0x77 => some (.topk w)
  | 0x80 => some (.ld w)
  | 0x81 => some (.st w)
  | 0x82 => some (.lds w)
  | 0x83 => some (.sts w)
  | 0x84 => some (.ldp w)
  | 0x85 => some (.stw2 w)
  | 0x86 => some (.ldxp w)
  | 0x87 => some (.prf w)
  | 0x88 => some (if modF w 0 3 = 1 then .cctlIva w else if modF w 0 3 = 2 then .cctlWbm w else if modF w 0 3 = 3 then .cctlWim w else .cctlIvl w)
  | 0x89 => some (.ldsx w)
  | 0x8A => some (.stsx w)
  | 0x90 => some (.tlk w)
  | 0x91 => some (.ttag w)
  | 0x92 => some (.tstat w)
  | 0x93 => some (.tinv w)
  | 0x94 => some (.hgl w)
  | 0x95 => some (.hga w)
  | 0x96 => some (.hgw w)
  | 0xA0 => some (.atom w)
  | 0xA1 => some (.atomc w)
  | 0xA2 => some (.atomf w)
  | 0xA3 => some (.red w)
  | 0xA4 => some (.redf w)
  | 0xA5 => some (.atoms w)
  | 0xA6 => some (.atomw w)
  | 0xA7 => some (.sha w)
  | 0xB0 => some (.binit w)
  | 0xB1 => some (.arrv w)
  | 0xB2 => some (.pwait w)
  | 0xB3 => some (.ptest w)
  | 0xB4 => some (.fence w)
  | 0xB5 => some (.xfence w)
  | 0xB6 => some (.acq w)
  | 0xB7 => some (.rel w)
  | 0xB8 => some (.rbind w)
  | 0xB9 => some (.bexp w)
  | 0xC0 => some (.ctr w)
  | 0xC1 => some (.ctrs w)
  | 0xC2 => some (.ctrsp w)
  | 0xC3 => some (.cwd w)
  | 0xC4 => some (.aalloc w)
  | 0xC5 => some (.afree w)
  | 0xC6 => some (.azero w)
  | 0xC7 => some (.ald w)
  | 0xC8 => some (.ast w)
  | 0xC9 => some (.adrn w)
  | 0xCA => some (.astat w)
  | 0xD0 => some (.cpy w)
  | 0xD1 => some (.cpym w)
  | 0xD2 => some (.shf w)
  | 0xD3 => some (.wnw w)
  | 0xD4 => some (.gln w)
  | 0xD5 => some (.launch w)
  | 0xD6 => some (if modF w 0 3 = 1 then .lctlKill w else if modF w 0 3 = 2 then .lctlQuery w else .lctlCancel w)
  | 0xD8 => some (.lpset w)
  | 0xD9 => some (if modF w 0 3 = 1 then .lendCancel w else if modF w 0 3 = 2 then .lendRepeat w else .lendLaunch w)
  | 0xE0 => some (.fxb w)
  | 0xE1 => some (.fxe w)
  | 0xE2 => some (.fxa w)
  | 0xE3 => some (.fxs w)
  | 0xE8 => some (.sread w)
  | 0xE9 => some (.swrite w)
  | 0xEC => some (.isync w)
  | 0xED => some (if modF w 0 2 = 1 then .dbgmStepon w else if modF w 0 2 = 2 then .dbgmStepoff w else .dbgmBrk w)
  | _ => none

/-- Whether an opcode is assigned (R107). -/
def opcodeAssigned (op : Nat) : Bool :=
  op == 0xF0 || (ofOpcode op (Word.ofBits 0)).isSome

/-- Opcodes that a prologue permits (R43). -/
def prologueOpcode (op : Nat) : Bool :=
  decide (op ≤ 5) || op == 0x0B || decide (0x10 ≤ op ∧ op ≤ 0x1E) || decide (0x20 ≤ op ∧ op ≤ 0x2F) || op == 0x30 ||
    op == 0x31 || decide (0x34 ≤ op ∧ op ≤ 0x36) || decide (0x40 ≤ op ∧ op ≤ 0x49) || op == 0x80 || op == 0x84 ||
    op == 0xE8 || op == 0xD8 || op == 0xD9

/-- Opcodes that the Massif's own firmware may use: those of a prologue, of which LPSET and LEND stand in a prologue only (R44),
ST, EXIT and SWRITE (R388). -/
def firmwareOpcode (op : Nat) : Bool := (prologueOpcode op && op != 0xD8 && op != 0xD9) || op == 0x81 || op == 0x06 || op == 0xE9

/-- Where a word stands: in a kernel, in a prologue, or in the firmware of a Massif core (R43, R388). -/
inductive Mode where
  | kernel | prologue | firmware
  deriving DecidableEq, Repr

/-- Whether an opcode may stand where it is: detail 3 (R43, R44, R108, R388). -/
def opcodePlaced (op : Nat) : Mode → Bool
  | .kernel => op != 0xD8 && op != 0xD9
  | .prologue => prologueOpcode op
  | .firmware => firmwareOpcode op

/-- The opcode of a word (R88). -/
def opcodeOf (x : W96) : Nat := (x.extractLsb' 0 8).toNat

/-- The instruction that a word's fields name, before any check. -/
def instrOf (x : W96) : Option Instr :=
  if opcodeOf x = 0xF0 then some (.pairedWord (Pair.ofBits x)) else ofOpcode (opcodeOf x) (Word.ofBits x)

/-- The instruction of a word, or the detail code of the first check of R108 that it fails, in any place where its
opcode is permitted. -/
def decode (x : W96) : Except Nat Instr :=
  match instrOf x with
  | none => .error 2
  | some i => if checkInstr i = 0 then .ok i else .error (checkInstr i)

/-- Decoding where the word stands (R108). -/
def decodeAt (m : Mode) (x : W96) : Except Nat Instr :=
  if opcodeAssigned (opcodeOf x) && !opcodePlaced (opcodeOf x) m then .error 3 else decode x

/-! ### Words in memory (R4, R89) -/

/-- A word from its 12 bytes, lowest address first. -/
def wordOfBytes (bs : List Byte) : W96 :=
  bs.foldr (fun b acc => (acc <<< 8) ||| b.setWidth 96) 0

/-- The 12 bytes of a word, lowest address first. -/
def bytesOfWord (x : W96) : List Byte := (List.range 12).map (fun i => x.extractLsb' (8 * i) 8)

/-- The instruction that the decoder reads from a word of spec/opcode_table.json: bit 0 is the lowest bit of the first
byte, and every bit above the given ones is zero. -/
def decodeTableWord (nbits w : Nat) : Option Instr :=
  match decode (wordOfBytes (bytesOfWord (BitVec.ofNat 96 (w % 2 ^ nbits)))) with
  | .ok i => some i
  | .error _ => none

/-! ### The encoder -/

/-- The opcode byte of an instruction (R107), or none for an event of the part. -/
def opcode (i : Instr) : Option (BitVec 8) :=
  match i with
  | .nop _ => some 0x00#8
  | .bra _ => some 0x01#8
  | .brx _ => some 0x02#8
  | .call _ => some 0x03#8
  | .callx _ => some 0x04#8
  | .ret _ => some 0x05#8
  | .exit _ => some 0x06#8
  | .join _ => some 0x07#8
  | .jmset _ => some 0x08#8
  | .jmget _ => some 0x09#8
  | .yield _ => some 0x0A#8
  | .waitc _ => some 0x0B#8
  | .waitt _ => some 0x0C#8
  | .bpt _ => some 0x0D#8
  | .trap _ => some 0x0E#8
  | .eret _ => some 0x0F#8
  | .iadd _ => some 0x10#8
  | .isub _ => some 0x11#8
  | .imul _ => some 0x12#8
  | .imulh _ => some 0x13#8
  | .imad _ => some 0x14#8
  | .imadw _ => some 0x15#8
  | .imin _ => some 0x16#8
  | .imax _ => some 0x17#8
  | .iabs _ => some 0x18#8
  | .iaddc _ => some 0x19#8
  | .lea _ => some 0x1A#8
  | .idot4 _ => some 0x1B#8
  | .isad _ => some 0x1C#8
  | .idiv _ => some 0x1D#8
  | .irem _ => some 0x1E#8
  | .lut3 _ => some 0x20#8
  | .shl _ => some 0x21#8
  | .shr _ => some 0x22#8
  | .sar _ => some 0x23#8
  | .rotl _ => some 0x24#8
  | .funnel _ => some 0x25#8
  | .bprm _ => some 0x26#8
  | .bfx _ => some 0x27#8
  | .bfi _ => some 0x28#8
  | .popc _ => some 0x29#8
  | .clz _ => some 0x2A#8
  | .brev _ => some 0x2B#8
  | .ffs _ => some 0x2C#8
  | .mov _ => some 0x2D#8
  | .movw _ => some 0x2E#8
  | .sel _ => some 0x2F#8
  | .icmp _ => some 0x30#8
  | .fcmp _ => some 0x31#8
  | .hcmp2 _ => some 0x32#8
  | .dcmp _ => some 0x33#8
  | .plop _ => some 0x34#8
  | .p2v _ => some 0x35#8
  | .v2p _ => some 0x36#8
  | .fclass _ => some 0x37#8
  | .tqset _ => some 0x38#8
  | .tqget _ => some 0x39#8
  | .fadd _ => some 0x40#8
  | .fmul _ => some 0x41#8
  | .ffma _ => some 0x42#8
  | .fmin _ => some 0x43#8
  | .fmax _ => some 0x44#8
  | .frnd _ => some 0x45#8
  | .fscale _ => some 0x46#8
  | .fgetexp _ => some 0x47#8
  | .fset _ => some 0x48#8
  | .fcpysgn _ => some 0x49#8
  | .hadd2 _ => some 0x50#8
  | .hmul2 _ => some 0x51#8
  | .hfma2 _ => some 0x52#8
  | .hmin2 _ => some 0x53#8
  | .hmax2 _ => some 0x54#8
  | .hdot2 _ => some 0x55#8
  | .dadd _ => some 0x58#8
  | .dmul _ => some 0x59#8
  | .dfma _ => some 0x5A#8
  | .dmin _ => some 0x5B#8
  | .dmax _ => some 0x5C#8
  | .cvt _ => some 0x60#8
  | .cvtsc _ => some 0x61#8
  | .packn _ => some 0x62#8
  | .unpkn _ => some 0x63#8
  | .fmset _ => some 0x64#8
  | .fmget _ => some 0x65#8
  | .rsqs _ => some 0x68#8
  | .rcps _ => some 0x69#8
  | .sinr _ => some 0x6A#8
  | .cosr _ => some 0x6B#8
  | .ex2 _ => some 0x6C#8
  | .lg2 _ => some 0x6D#8
  | .tnh _ => some 0x6E#8
  | .sigm _ => some 0x6F#8
  | .shfl _ => some 0x70#8
  | .xbf _ => some 0x71#8
  | .vote _ => some 0x72#8
  | .redg _ => some 0x73#8
  | .scang _ => some 0x74#8
  | .matchLanes _ => some 0x75#8
  | .elect _ => some 0x76#8
  | .topk _ => some 0x77#8
  | .ld _ => some 0x80#8
  | .st _ => some 0x81#8
  | .lds _ => some 0x82#8
  | .sts _ => some 0x83#8
  | .ldp _ => some 0x84#8
  | .stw2 _ => some 0x85#8
  | .ldxp _ => some 0x86#8
  | .prf _ => some 0x87#8
  | .cctlIvl _ => some 0x88#8
  | .cctlIva _ => some 0x88#8
  | .cctlWbm _ => some 0x88#8
  | .cctlWim _ => some 0x88#8
  | .ldsx _ => some 0x89#8
  | .stsx _ => some 0x8A#8
  | .tlk _ => some 0x90#8
  | .ttag _ => some 0x91#8
  | .tstat _ => some 0x92#8
  | .tinv _ => some 0x93#8
  | .hgl _ => some 0x94#8
  | .hga _ => some 0x95#8
  | .hgw _ => some 0x96#8
  | .atom _ => some 0xA0#8
  | .atomc _ => some 0xA1#8
  | .atomf _ => some 0xA2#8
  | .red _ => some 0xA3#8
  | .redf _ => some 0xA4#8
  | .atoms _ => some 0xA5#8
  | .atomw _ => some 0xA6#8
  | .sha _ => some 0xA7#8
  | .binit _ => some 0xB0#8
  | .arrv _ => some 0xB1#8
  | .pwait _ => some 0xB2#8
  | .ptest _ => some 0xB3#8
  | .fence _ => some 0xB4#8
  | .xfence _ => some 0xB5#8
  | .acq _ => some 0xB6#8
  | .rel _ => some 0xB7#8
  | .rbind _ => some 0xB8#8
  | .bexp _ => some 0xB9#8
  | .ctr _ => some 0xC0#8
  | .ctrs _ => some 0xC1#8
  | .ctrsp _ => some 0xC2#8
  | .cwd _ => some 0xC3#8
  | .aalloc _ => some 0xC4#8
  | .afree _ => some 0xC5#8
  | .azero _ => some 0xC6#8
  | .ald _ => some 0xC7#8
  | .ast _ => some 0xC8#8
  | .adrn _ => some 0xC9#8
  | .astat _ => some 0xCA#8
  | .cpy _ => some 0xD0#8
  | .cpym _ => some 0xD1#8
  | .shf _ => some 0xD2#8
  | .wnw _ => some 0xD3#8
  | .gln _ => some 0xD4#8
  | .launch _ => some 0xD5#8
  | .lctlCancel _ => some 0xD6#8
  | .lctlKill _ => some 0xD6#8
  | .lctlQuery _ => some 0xD6#8
  | .lpset _ => some 0xD8#8
  | .lendLaunch _ => some 0xD9#8
  | .lendCancel _ => some 0xD9#8
  | .lendRepeat _ => some 0xD9#8
  | .fxb _ => some 0xE0#8
  | .fxe _ => some 0xE1#8
  | .fxa _ => some 0xE2#8
  | .fxs _ => some 0xE3#8
  | .sread _ => some 0xE8#8
  | .swrite _ => some 0xE9#8
  | .isync _ => some 0xEC#8
  | .dbgmBrk _ => some 0xED#8
  | .dbgmStepon _ => some 0xED#8
  | .dbgmStepoff _ => some 0xED#8
  | .pairedWord _ => some 0xF0#8
  | _ => none

/-- The guard byte (R88). -/
def Guard.bits (g : Guard) : BitVec 8 := BitVec.ofBool g.neg ++ g.pred

/-- The hint byte (R88). -/
def Hints.bits (h : Hints) : BitVec 8 :=
  h.resv ++ BitVec.ofBool h.rc ++ BitVec.ofBool h.rb ++ BitVec.ofBool h.ra ++ BitVec.ofBool h.yld ++
    BitVec.ofBool h.trn

/-- The word of the shared fields under an opcode (R88). -/
def Word.bits (w : Word) (op : BitVec 8) : W96 :=
  w.imm ++ w.mod ++ Opd.bits w.b ++ Opd.bits w.a ++ Opd.bits w.d ++ w.hnt.bits ++
    w.grd.bits ++ op

/-- A half without its position: M, B, A, D, S from high to low (R102). -/
def Half.bits (h : Half) : BitVec 36 := h.m ++ h.b ++ h.a ++ h.d ++ h.sub

/-- A paired word (R102). -/
def Pair.bits (p : Pair) : W96 := p.h1.bits ++ p.h0.bits ++ p.hnt.bits ++ p.grd.bits ++ 0xF0#8

/-- The word of an instruction; events of the part have none. -/
def encode (i : Instr) : Option W96 :=
  match i with
  | .pairedWord p => some p.bits
  | i =>
    match opcode i, formOf i with
    | some op, some (w, _) => some (w.bits op)
    | _, _ => none

end Sys2Proof
end

