-- ==== Sys2Proof/Config.lean ====
section
/-! DEFINITION. What the manual leaves open: the free values, which have no body, and the constants of a module that
only its manufacture fixes. Sizes of the PZ9 that the rules state are plain definitions. -/

namespace Sys2Proof.Config

/-- Lines of 128 bytes that the memory-side cache holds: 64 MiB on each of four dies (R2). -/
def mscLines : Nat := 4 * 524288

/-- The stream of free values: the value at position n of `State.free` is unconstrained (log entry 2). -/
opaque freeNat : Nat → Nat

/-- The vendor's public keys in the hub die's one-time store (R390): the point of the ECDSA key, and the 56 bytes of the LMS key. Log
entry 7 (DESIGN CHOICE). -/
opaque vendorX : Nat
opaque vendorY : Nat
opaque vendorLms : Nat → Byte

/-- The device's private ECDSA key (R397), and the number that its signature of a digest draws at a value of the report counter. Log
entry 7 (DESIGN CHOICE). -/
opaque ecdsaPrivate : Nat
opaque ecdsaNonce : Nat → BitVec 384 → Nat

/-- The device's LMS key (R397): its identifier I, the private elements of each leaf (leaf, chain, byte), and the random value that the
signature of a leaf carries. Log entry 7 (DESIGN CHOICE). -/
opaque lmsIdentifier : Nat → Byte
opaque lmsPrivate : Nat → Nat → Nat → Byte
opaque lmsRandom : Nat → Nat → Byte

/-- The word of the Massif image at which a Massif core starts (R392); the spec does not give its place. Log entry 127 (DESIGN
CHOICE). -/
opaque massifEntry : W32

/-- The signature block of the device certificate, under the vendor's keys (R397). Log entry 7 (DESIGN CHOICE). -/
opaque certificateSignature : Nat → Byte

/-- The 16-byte device identifier (R396). -/
opaque deviceId : Nat → Byte

/-- The Massif image in the module's boot flash, with its signature block (R390, R392). -/
opaque massifImage : List Byte

/-- The Cairn image, with its signature block (R390, R392). -/
opaque cairnImage : List Byte

/-- VERSION of a firmware image (R391); the spec does not give its place in the image. -/
opaque imageVersion : List Byte → W32

/-- MINVER as the one-time store holds it at manufacture (R391). -/
opaque bootMinVer : W32

/-- The report counter of R396 as the one-time store holds it at reset. -/
opaque bootReports : Nat

/-- The debug fuse state that M3 is extended with (R392), as bytes. -/
opaque fuseState : List Byte

/-- Enabled clusters of the device (R2). -/
def clusters : Nat := 64

/-- Cores per cluster (R2). -/
def coresPerCluster : Nat := 4

/-- Resident threads per core (R2). -/
def threadsPerCore : Nat := 2048

/-- Resident blocks per core (R2). -/
def blocksPerCore : Nat := 16

/-- Resident groups per core (R2). -/
def groupsPerCore : Nat := 128

/-- Vector registers per core (R15). -/
def regsPerCore : Nat := 131072

/-- Scratchpad granules of 4 KiB per core (R15). -/
def granulesPerCore : Nat := 384

/-- Tile-table entries per core (R15). -/
def tilesPerCore : Nat := 256

/-- Granary slots per cluster (R2). -/
def slotsPerCluster : Nat := 768

/-- Bytes of the GDDR-7 tier: 256 GiB (R2, R398). -/
def gddrBytes : Nat := 256 * 2 ^ 30

/-- Bytes of the LPDDR-6 tier: 1 TiB (R2, R398). -/
def lpddrBytes : Nat := 2 ^ 40

end Sys2Proof.Config
end

