-- ==== Sys2Proof/Machine/Formats.lean ====
section
/-! DEFINITION. Number formats to the bit (chapter 07): the layout of every floating format, the value of every code,
and the code of every value. Values are exact rationals. -/

namespace Sys2Proof.Machine

/-- Which codes of a floating format are special (R132, R134): none, the largest-magnitude codes as NaN, or infinities
and NaNs as in IEEE 754. -/
inductive Spec where
  | none | top | ieee
  deriving DecidableEq, Repr

/-- A floating format (R131, R134): sign, exponent bits, mantissa bits, bias, special codes. With no exponent bits it
is scaled fixed point (R136). -/
structure Fmt where
  sgn : Bool
  e : Nat
  m : Nat
  bias : Int
  spec : Spec
  deriving DecidableEq, Repr

namespace Fmt

def f64 : Fmt := ⟨true, 11, 52, 1023, .ieee⟩
def f32 : Fmt := ⟨true, 8, 23, 127, .ieee⟩
def xf40 : Fmt := ⟨true, 8, 31, 127, .ieee⟩
def f16 : Fmt := ⟨true, 5, 10, 15, .ieee⟩
def bf16 : Fmt := ⟨true, 8, 7, 127, .ieee⟩
def e5m2 : Fmt := ⟨true, 5, 2, 15, .ieee⟩
def e4m3 : Fmt := ⟨true, 4, 3, 7, .top⟩
def e3m2 : Fmt := ⟨true, 3, 2, 3, .none⟩
def e2m3 : Fmt := ⟨true, 2, 3, 1, .none⟩
def e2m1 : Fmt := ⟨true, 2, 1, 1, .none⟩

/-- The unsigned E5M3 block scale (R137). -/
def e5m3 : Fmt := ⟨false, 5, 3, 15, .top⟩

/-- Code bits of a format. -/
def width (f : Fmt) : Nat := f.sgn.toNat + f.e + f.m

/-- FTZ acts on f32 and f16 only (R141). -/
def flushes (f : Fmt) : Bool := decide (f = f32) || decide (f = f16)

end Fmt

/-- Two to an integer power. -/
def pow2 : Int → Rat
  | .ofNat n => ((2 ^ n : Nat) : Rat)
  | .negSucc n => 1 / ((2 ^ (n + 1) : Nat) : Rat)

/-- The value of a floating code: NaN with its sign, whether it signals, and its payload top-aligned in 52 bits; an
infinity; or a finite value as sign and magnitude, so that zeros keep their sign. -/
inductive FVal where
  | nan (neg sig : Bool) (pay : Nat)
  | inf (neg : Bool)
  | fin (neg : Bool) (mag : Rat)
  deriving DecidableEq, Repr

namespace FVal

def isNan : FVal → Bool
  | .nan _ _ _ => true
  | _ => false

def isSnan : FVal → Bool
  | .nan _ sig _ => sig
  | _ => false

def isZero : FVal → Bool
  | .fin _ m => decide (m = 0)
  | _ => false

def isInf : FVal → Bool
  | .inf _ => true
  | _ => false

def neg? : FVal → Bool
  | .nan n _ _ => n
  | .inf n => n
  | .fin n _ => n

/-- The value with its sign turned; a signalling NaN stays signalling (R171). -/
def flip : FVal → FVal
  | .nan n q p => .nan (!n) q p
  | .inf n => .inf (!n)
  | .fin n m => .fin (!n) m

def flipIf (b : Bool) (v : FVal) : FVal := if b then v.flip else v

/-- A finite value as a rational. -/
def toRat : FVal → Rat
  | .fin n m => if n then -m else m
  | _ => 0

/-- A rational as a value; zero is positive. -/
def ofRat (q : Rat) : FVal := if q < 0 then .fin true (-q) else .fin false q

end FVal

/-- The finite magnitude that fields e and m denote (R131, R136). -/
def Fmt.magnitude (f : Fmt) (e m : Nat) : Rat :=
  if f.e = 0 then (m : Rat) * pow2 (-f.bias)
  else if e = 0 then (m : Rat) * pow2 (1 - f.bias - f.m)
  else ((2 ^ f.m + m : Nat) : Rat) * pow2 (e - f.bias - f.m)

/-- The fields of a code: sign, exponent, mantissa. -/
def Fmt.fields (f : Fmt) (c : Nat) : Bool × Nat × Nat :=
  (f.sgn && (c / 2 ^ (f.e + f.m)) % 2 == 1, (c / 2 ^ f.m) % 2 ^ f.e, c % 2 ^ f.m)

/-- The value of a code (R131, R132, R136, R137). Bits above the code do not contribute (R130). -/
def Fmt.value (f : Fmt) (c : Nat) : FVal :=
  let (s, e, m) := f.fields c
  let ones := 2 ^ f.e - 1
  match f.spec with
  | .none => .fin s (f.magnitude e m)
  | .top => if e = ones ∧ m = 2 ^ f.m - 1 then .nan s false (2 ^ 51) else .fin s (f.magnitude e m)
  | .ieee =>
    if e = ones then
      if m = 0 then .inf s else .nan s (decide (m < 2 ^ (f.m - 1))) (m * 2 ^ (52 - f.m))
    else .fin s (f.magnitude e m)

/-- A code is subnormal: exponent field zero and mantissa not. -/
def Fmt.subnormal (f : Fmt) (c : Nat) : Bool :=
  let (_, e, m) := f.fields c
  f.e != 0 && e == 0 && m != 0

/-- The sign bit of a code, where the format has one. -/
def Fmt.signBit (f : Fmt) (neg : Bool) : Nat := if f.sgn && neg then 2 ^ (f.e + f.m) else 0

/-- The magnitude code of the largest finite value (R131, R134, R147). -/
def Fmt.maxCode (f : Fmt) : Nat :=
  if f.e = 0 then 2 ^ f.m - 1
  else match f.spec with
    | .none => 2 ^ (f.e + f.m) - 1
    | .top => 2 ^ (f.e + f.m) - 2
    | .ieee => (2 ^ f.e - 1) * 2 ^ f.m - 1

/-- The largest finite magnitude. -/
def Fmt.maxMag (f : Fmt) : Rat := f.magnitude (f.maxCode / 2 ^ f.m) (f.maxCode % 2 ^ f.m)

/-- The code of an infinity, in a format that has one. -/
def Fmt.infCode (f : Fmt) (neg : Bool) : Nat := f.signBit neg + (2 ^ f.e - 1) * 2 ^ f.m

/-- Canon(fmt), the canonical NaN (R132, R136), which has sign 0. A format without NaN has none; it reads +0 there. -/
def Fmt.canon (f : Fmt) : Nat :=
  match f.spec with
  | .none => 0
  | .top => 2 ^ (f.e + f.m) - 1
  | .ieee => (2 ^ f.e - 1) * 2 ^ f.m + 2 ^ (f.m - 1)

/-- Floor of the binary logarithm of a positive rational. -/
def log2Rat (q : Rat) : Int :=
  let a := Nat.log2 q.num.toNat
  let b := Nat.log2 q.den
  if q.den * 2 ^ a ≤ q.num.toNat * 2 ^ b then (a : Int) - b else (a : Int) - b - 1

/-- The magnitude code of a magnitude that the format represents exactly. -/
def Fmt.magCode (f : Fmt) (q : Rat) : Nat :=
  if q = 0 then 0
  else if f.e = 0 then (q * pow2 f.bias).floor.toNat
  else
    let e := log2Rat q
    if e < 1 - f.bias then (q * pow2 (f.m + f.bias - 1)).floor.toNat
    else (e + f.bias).toNat * 2 ^ f.m + (q * pow2 (f.m - e)).floor.toNat - 2 ^ f.m

/-! ### Format registers (R134 to R136) -/

/-- The layout of a format register that is valid (R135), or none. -/
def pnfOf (r : W32) : Option Fmt :=
  let e := (r.extractLsb' 0 4).toNat
  let m := (r.extractLsb' 4 4).toNat
  let bias := (r.extractLsb' 8 8).toInt
  let sp := (r.extractLsb' 16 2).toNat
  let s := r.getLsbD 18
  let n := s.toNat + e + m
  let range : Bool :=
    if e = 0 then decide ((m : Int) - 1 - bias ≤ 127) && decide (-149 ≤ -bias)
    else decide ((2 ^ e : Nat) - (if sp = 2 then 2 else 1) - bias ≤ 127) && decide (-149 ≤ 1 - bias - m)
  if r.extractLsb' 19 13 = 0 ∧ sp ≠ 3 ∧ e ≤ 7 ∧ m ≤ 8 ∧ 2 ≤ n ∧ n ≤ 8 ∧ (e = 0 → sp = 0) ∧ (sp = 1 → 1 ≤ e) ∧
      (sp = 2 → 2 ≤ e ∧ 1 ≤ m) ∧ range = true then
    some ⟨s, e, m, bias, if sp = 0 then .none else if sp = 1 then .top else .ieee⟩
  else none

/-! ### Integer types (R93, R133) -/

/-- An integer type: signed or unsigned, of a width. -/
structure ITy where
  signed : Bool
  w : Nat
  deriving DecidableEq, Repr

/-- The type of an R93 code. -/
def ITy.ofCode (c : Nat) : ITy := ⟨decide (c < 4), 8 * 2 ^ (c % 4)⟩

def ITy.min (t : ITy) : Int := if t.signed then -(2 ^ (t.w - 1) : Nat) else 0

def ITy.max (t : ITy) : Int := if t.signed then (2 ^ (t.w - 1) : Nat) - 1 else (2 ^ t.w : Nat) - 1

/-- The integer that the low bits of a code denote. -/
def ITy.value (t : ITy) (c : Nat) : Int :=
  let u := c % 2 ^ t.w
  if t.signed && decide (2 ^ (t.w - 1) ≤ u) then (u : Int) - (2 ^ t.w : Nat) else u

/-- The two's-complement image of an integer. -/
def ITy.image (t : ITy) (x : Int) : Nat := (x % (2 ^ t.w : Nat)).toNat

/-- The integer moved into the range of the type. -/
def ITy.clamp (t : ITy) (x : Int) : Int := if x < t.min then t.min else if t.max < x then t.max else x

end Sys2Proof.Machine
end

