-- ==== Sys2Proof/Machine/Flags.lean ====
section
/-! DEFINITION. Rounding and the sticky flags (R139 to R148): exact sums and products of floating values, one rounding to a
format, and the conversions between formats, each with the flags it raises. -/

namespace Sys2Proof.Machine

/-- Rounding modes with their codes of R92. -/
inductive Rnd where
  | rn | rz | ru | rd
  deriving DecidableEq, Repr

/-- The mode of a two-bit RND field. -/
def Rnd.ofCode (c : Nat) : Rnd :=
  if c = 0 then .rn else if c = 1 then .rz else if c = 2 then .ru else .rd

/-! ### The flags of %fst (R143) -/

def flagNV : W32 := 1#32
def flagDZ : W32 := 2#32
def flagOF : W32 := 4#32
def flagUF : W32 := 8#32
def flagNX : W32 := 16#32

/-- A flag where a condition holds. -/
def flagIf (b : Bool) (f : W32) : W32 := if b then f else 0

/-! ### Rounding -/

/-- A magnitude rounded to an integer, in the mode, for a value of the given sign (R139). R139 does not say which of two neighbours has the
even least significant bit in a pnf format with M = 0, whose normal significands are all 1: that a tie takes the larger magnitude there
is the model's choice (log entry 122, DESIGN CHOICE). -/
def roundMag (r : Rnd) (neg : Bool) (q : Rat) : Nat :=
  let n := q.floor.toNat
  let rest := q - n
  if rest = 0 then n
  else match r with
    | .rz => n
    | .ru => if neg then n else n + 1
    | .rd => if neg then n + 1 else n
    | .rn => if rest < 1 / 2 then n else if 1 / 2 < rest then n + 1 else n + n % 2

/-- A magnitude rounded to a multiple of a power of two. -/
def roundAt (r : Rnd) (neg : Bool) (q : Rat) (k : Int) : Rat :=
  (roundMag r neg (q * pow2 (-k)) : Rat) * pow2 k

/-- What overflow delivers (R140), as a code. -/
def overflowCode (f : Fmt) (r : Rnd) (neg : Bool) : Nat :=
  let up := match r with
    | .rn => true
    | .rz => false
    | .ru => !neg
    | .rd => neg
  if f.spec = .ieee && up then f.infCode neg else f.signBit neg + f.maxCode

/-- A finite value rounded once to a format (R139 to R141): its code and flags. Overflow and tininess are judged with
an unbounded exponent. A zero keeps its sign and raises nothing. A negative value of a format without a sign bit gives
+0 (R147). Log entry 23 (DESIGN CHOICE). -/
def roundTo (f : Fmt) (r : Rnd) (ftz neg : Bool) (q : Rat) : Nat × W32 :=
  if q = 0 then (f.signBit neg, 0)
  else if neg && !f.sgn then (0, flagNX)
  else if f.e = 0 then
    let v := roundAt r neg q (-f.bias)
    if f.maxMag < v then (overflowCode f r neg, flagOF ||| flagNX)
    else (f.signBit neg + f.magCode v, flagIf (decide (v ≠ q)) flagNX)
  else
    let e := log2Rat q
    let free := roundAt r neg q (e - f.m)
    let tiny := decide (free < pow2 (1 - f.bias))
    if f.maxMag < free then (overflowCode f r neg, flagOF ||| flagNX)
    else if tiny && ftz && f.flushes then (f.signBit neg, flagUF ||| flagNX)
    else
      let v := roundAt r neg q (max e (1 - f.bias) - f.m)
      (f.signBit neg + f.magCode v, flagIf (decide (v ≠ q)) flagNX ||| flagIf (tiny && decide (v ≠ q)) flagUF)

/-- In(x): an operand read through FTZ (R141). -/
def readF (f : Fmt) (ftz : Bool) (c : Nat) : FVal :=
  let v := f.value c
  if ftz && f.flushes && f.subnormal c then .fin v.neg? 0 else v

/-! ### Exact operations -/

/-- The NaN that an invalid operation gives; `sig` says that NV is due. -/
def invalid (nv : Bool) : FVal := .nan false nv 0

/-- An exact product (R142, R169): NaN where an operand is NaN or where zero meets infinity. -/
def mulV (a b : FVal) : FVal :=
  if a.isNan || b.isNan then invalid (a.isSnan || b.isSnan)
  else
    let n := a.neg? != b.neg?
    if a.isInf || b.isInf then if a.isZero || b.isZero then invalid true else .inf n
    else match a, b with
      | .fin _ x, .fin _ y => .fin n (x * y)
      | _, _ => invalid true

/-- An exact sum (R142, R169): the sign of a zero sum is the common sign of addends that are zeros of one sign, else
negative only under RD. Log entry 21 (DEDUCED). -/
def sumV (r : Rnd) (vs : List FVal) : FVal :=
  let both := vs.any (fun v => v.isInf && v.neg?) && vs.any (fun v => v.isInf && !v.neg?)
  if vs.any FVal.isNan then invalid (vs.any FVal.isSnan || both)
  else if both then invalid true
  else match vs.find? FVal.isInf with
    | some v => v
    | none =>
      let q := (vs.map FVal.toRat).sum
      if q ≠ 0 then FVal.ofRat q
      else if vs.all FVal.isZero && vs.all FVal.neg? then .fin true 0
      else if vs.all FVal.isZero && vs.all (fun v => !v.neg?) then .fin false 0
      else .fin (decide (r = .rd)) 0

/-- Round(x, fmt, RND) of a computed value: Canon for NaN, the infinity, or the rounded value (R142, R169).
Log entries 20 (DEDUCED), 23 (DESIGN CHOICE). -/
def finish (f : Fmt) (r : Rnd) (ftz : Bool) (v : FVal) : Nat × W32 :=
  match v with
  | .nan _ sig _ => (f.canon, flagIf sig flagNV)
  | .inf n => (f.infCode n, 0)
  | .fin n q => roundTo f r ftz n q

/-- FMIN and FMAX (R172): a code of one operand after FTZ; `greater` chooses the greater. -/
def minMax (f : Fmt) (ftz greater : Bool) (ca cb : Nat) : Nat × W32 :=
  let a := readF f ftz ca
  let b := readF f ftz cb
  let nv := flagIf (a.isSnan || b.isSnan) flagNV
  let flush (c : Nat) (v : FVal) : Nat := if v.isZero then f.signBit v.neg? else c % 2 ^ f.width
  let key (v : FVal) : Int × Rat := match v with
    | .inf n => if n then (-2, 0) else (2, 0)
    | v => (0, v.toRat)
  let less : Bool :=
    let x := key a
    let y := key b
    if x.1 ≠ y.1 then decide (x.1 < y.1)
    else if x.2 ≠ y.2 then decide (x.2 < y.2)
    else a.isZero && b.isZero && a.neg? && !b.neg?
  if a.isNan && b.isNan then (f.canon, nv)
  else if a.isNan then (flush cb b, nv)
  else if b.isNan then (flush ca a, nv)
  else if less != greater then (flush ca a, nv)
  else (flush cb b, nv)

/-! ### Comparison (R163) -/

/-- The relation of a condition code on an order: less, equal, greater. -/
def relation (cond : Nat) (o : Ordering) : Bool :=
  match cond with
  | 0 => o == .eq
  | 1 => o != .eq
  | 2 => o == .lt
  | 3 => o != .gt
  | 4 => o == .gt
  | 5 => o != .lt
  | 6 => true
  | _ => false

/-- The order of two values that are not NaN; −0 equals +0. -/
def orderV (a b : FVal) : Ordering :=
  let key (v : FVal) : Int := match v with
    | .inf n => if n then -1 else 1
    | _ => 0
  if key a < key b then .lt
  else if key b < key a then .gt
  else if a.toRat < b.toRat then .lt
  else if b.toRat < a.toRat then .gt
  else .eq

/-- A floating comparison: truth value and flags. -/
def compareF (f : Fmt) (ftz : Bool) (cond ca cb : Nat) : Bool × W32 :=
  let a := readF f ftz ca
  let b := readF f ftz cb
  if a.isNan || b.isNan then
    (cond == 1 || cond == 7,
      flagIf (a.isSnan || b.isSnan || (decide (2 ≤ cond) && decide (cond ≤ 5))) flagNV)
  else (relation cond (orderV a b), 0)

/-! ### Conversions (R145 to R149) -/

/-- Any floating value to a floating target (R145, R147). -/
def toFloat (f : Fmt) (r : Rnd) (ftz : Bool) (v : FVal) : Nat × W32 :=
  match v with
  | .fin n q => roundTo f r ftz n q
  | .inf n =>
    if f.spec = .ieee then
      if n && !f.sgn then (f.infCode false, flagNV) else (f.infCode n, 0)
    else (f.signBit n + f.maxCode, flagNV)
  | .nan n sig pay =>
    match f.spec with
    | .none => (0, flagNV)
    | .top => (f.signBit n + f.canon, flagIf sig flagNV)
    | .ieee =>
      (f.signBit n + (2 ^ f.e - 1) * 2 ^ f.m + (pay / 2 ^ (52 - f.m)) % 2 ^ (f.m - 1) + 2 ^ (f.m - 1),
        flagIf sig flagNV)

/-- A floating value to an integer type (R148), which saturates. -/
def toInteger (t : ITy) (r : Rnd) (v : FVal) : Nat × W32 :=
  match v with
  | .nan _ _ _ => (0, flagNV)
  | .inf n => (t.image (if n then t.min else t.max), flagNV)
  | .fin n q =>
    let k : Int := if n then -(roundMag r n q : Int) else roundMag r n q
    if k < t.min then (t.image t.min, flagNV)
    else if t.max < k then (t.image t.max, flagNV)
    else (t.image k, flagIf (decide ((k : Rat) ≠ if n then -q else q)) flagNX)

/-- An integer to a floating target (R146). -/
def fromInteger (f : Fmt) (r : Rnd) (ftz : Bool) (x : Int) : Nat × W32 :=
  roundTo f r ftz (decide (x < 0)) ((x.natAbs : Nat) : Rat)

/-- The widening of an f32 value to FP64 of R100: exact, and a signalling NaN is quieted without a flag. -/
def widen64 (c : W32) : W64 := BitVec.ofNat 64 (toFloat .f64 .rn false (Fmt.f32.value c.toNat)).1

end Sys2Proof.Machine
end

