-- ==== Sys2Proof/Machine/Maps.lean ====
section
/-! DEFINITION. Finite maps as lists of key and value pairs. `lookup`, `insert` and `remove` serve tables whose absent
keys mean nothing; `read` and `put` serve storage in which every key holds a value and the common one is not listed. -/

namespace Sys2Proof.Machine

/-- A table from numbers to values, kept sorted by key. -/
abbrev NMap (α : Type) := List (Nat × α)

namespace NMap

/-- The value at a key, if the table lists it. -/
def lookup {α : Type} : NMap α → Nat → Option α
  | [], _ => none
  | (k, v) :: m, i => if k = i then some v else lookup m i

/-- The table with the value at a key set. -/
def insert {α : Type} : NMap α → Nat → α → NMap α
  | [], i, x => [(i, x)]
  | (k, v) :: m, i, x =>
    if i < k then (i, x) :: (k, v) :: m
    else if i = k then (i, x) :: m
    else (k, v) :: insert m i x

/-- The table without a key. -/
def remove {α : Type} : NMap α → Nat → NMap α
  | [], _ => []
  | (k, v) :: m, i => if k = i then remove m i else (k, v) :: remove m i

/-- The table with the value at a listed key changed; unlisted keys stay unlisted. -/
def adjust {α : Type} : NMap α → Nat → (α → α) → NMap α
  | [], _, _ => []
  | (k, v) :: m, i, f => if k = i then (k, f v) :: m else (k, v) :: adjust m i f

/-- Storage read: the value at a key, the common value where the key is not listed. -/
def read {α : Type} (d : α) (m : NMap α) (i : Nat) : α :=
  (lookup m i).getD d

/-- Storage write, which keeps the canonical form: the common value is never listed. -/
def put {α : Type} [DecidableEq α] (d : α) (m : NMap α) (i : Nat) (x : α) : NMap α :=
  if x = d then remove m i else insert m i x

/-- Every key is above a bound and keys rise strictly. -/
def risesFrom {α : Type} : Nat → NMap α → Bool
  | _, [] => true
  | n, (k, _) :: m => decide (n ≤ k) && risesFrom (k + 1) m

/-- The canonical form of storage: keys rise strictly and no entry holds the common value. -/
def canonical {α : Type} [DecidableEq α] (d : α) (m : NMap α) : Bool :=
  risesFrom 0 m && m.all (fun e => decide (e.2 ≠ d))

end NMap

end Sys2Proof.Machine
end

