-- ==== Sys2Proof/Machine/State.lean ====
section
/-! DEFINITION. The state of the machine as plain data, the reasons a step can stop, and the state after reset. -/

namespace Sys2Proof.Machine

/-! ### Why a step can stop -/

/-- Ends of the machine that no handler sees. -/
inductive Fault where
  /-- Raised by every step after THERMAL_SHUTDOWN: at 110 degrees the module powers off (R404). Safe. -/
  | poweredOff
  /-- Raised by every step after boot ROM refused the Massif image: it stops (R392). Safe. -/
  | bootRefused
  deriving DecidableEq, Repr

/-- Reasons for which the model gives a row no meaning. -/
inductive Refusal where
  /-- Raised by an arm of exec that has no meaning yet. Safe. -/
  | notModelled (mnemonic : String)
  deriving DecidableEq, Repr

/-! ### Counted operations (R125, R126) -/

/-- The four counters of outstanding operations (R111). -/
inductive Ctr where
  | ld | st | cp | tl
  deriving DecidableEq, Repr

/-- Where an access reaches: a byte of physical memory, of a block's scratchpad, or of its parameter copy (R206), or a read
of a host or peer page that has failed and gives all ones (R314). -/
inductive Loc where
  | phys (key : Nat)
  | scratch (blk off : Nat)
  | param (off : Nat)
  | ones
  deriving DecidableEq, Repr

/-- The operation of an atomic at its home (R240, R241). `ty` is an R93 code, `fmt` a format of R240. -/
inductive AtomKind where
  | int (op ty : Nat)
  | cas (ty : Nat)
  | flt (op fmt : Nat)
  | wide (isCas : Bool)
  deriving DecidableEq, Repr

/-- An element of a global access: where it lies, its address, and whether its page keeps it out of the load cache (R345). -/
structure Place where
  loc : Loc
  va : Nat
  nc : Bool
  deriving DecidableEq, Repr

/-- One product of an interpolation: an exact weight and where its feature lies (R228, R230). -/
structure Term where
  weight : Rat
  place : Place
  deriving DecidableEq, Repr

/-- One addition of a gradient (R231): where, by which address, its value, and whether its page allows merging (R243). -/
structure Grad where
  key : Nat
  va : Nat
  value : W32
  mrg : Bool
  deriving DecidableEq, Repr

/-- What a counted operation does when it is performed. A destination is the register it still writes, or none where
its D is ZERO or a later write has dropped it (R126). -/
inductive Act where
  /-- Reads k elements of n bytes (R211), extended with sign where `sx`; `va` is the address of a global access. -/
  | load (src : Loc) (va n k : Nat) (sx nc ev : Bool) (dst : List (Option Nat))
  /-- Delivers results that were formed at issue: HGW, TLK, TSTAT, ALD, ASTAT. `flags` are ORed into %fst. -/
  | deliver (dst : List (Option Nat)) (vals : List W32) (preds : List (Nat × Bool)) (flags : W32)
  /-- Writes bytes at each place, in order (R211, R219). -/
  | store (pieces : List (Loc × List Byte))
  /-- A read-modify-write at home (R241). `sc` is the scope of an SC operation, or 0 (R305); `mrg` says that the page
  allows merging (R243); an operation that returns nothing has no destination list. -/
  | atom (loc : Loc) (va : Nat) (kind : AtomKind) (b c : BitVec 128) (sc : Nat) (mrg : Bool) (dst : List (Option Nat))
  /-- FP32 additions of gradients (R231). -/
  | gradients (adds : List Grad)
  /-- The dense row of a structured-sparse row (R221): elements, element size, KV, positions, and the tail predicate. -/
  | expand (src : List Place) (esz kv : Nat) (pos : List Nat) (dst : List (Option Nat)) (tail : Nat)
  /-- Interpolated features, one list of terms for each destination (R230); `fmts` are the feature formats. -/
  | features (rows : List (List Term)) (fmts : List Nat) (nan : Bool) (dst : List (Option Nat)) (cp : Nat) (clamped : Bool)
  /-- BINIT of an object (R237). -/
  | binit (off expa : Nat) (drop : Bool)
  /-- An append to a Sheaf bin of a region (R286), with the bin's address and size in the entry that the word used (R226). -/
  | append (ctx idx bin base cap : Nat) (record : List Byte)
  /-- Nothing left to do but to count down: PRF never counts; CTR, AST, AZERO have acted (R125). -/
  | done
  /-- A TTAG or TINV whose entry stands in the table, and which takes effect behind the earlier accesses to its slot
  (R216). -/
  | tile (slot : Nat)
  /-- A CTRS whose operands the engine still reads, and its barrier arrival (R263). -/
  | ctrs (slotBlk slot : Nat) (contributes : Bool) (aOff bOff bar : Nat) (inst : Nat)
  deriving DecidableEq, Repr

/-- A counted operation of a thread. `op` numbers it in issue order over the device; `slot` is the tile slot that an
access names (R216). -/
structure Pend where
  op : Nat
  ctr : Ctr
  pc : W32
  act : Act
  slot : Option Nat := none
  deriving DecidableEq, Repr

/-- An event of a thread at a barrier object (R235, R236): an arrival of ARRV with its count and the bytes it expects, the
arrival of a CTRS word (R263), the bytes of BEXP, the test of PTEST with its token and predicate, and the exit of the thread
(R239). -/
inductive ObjEvent where
  | arrive (n bytes : Nat)
  | ctrs
  | expect (bytes : Nat)
  | test (tok : BitVec 16) (pred : Nat)
  | exit
  deriving DecidableEq, Repr

/-- An object event that the bank has not applied, or an ARRV whose token is not written (R236, R237, R306): its place in
issue order and its bundle, its object, the destination of its token, the bypass slot position that the token belongs to,
whether its word issued in the handler, and the token once the arrival has been applied. -/
structure Token where
  op : Nat
  bundle : Nat
  pc : W32
  off : Nat
  ev : ObjEvent
  dst : Option Nat
  shifts : Nat
  quiet : Bool
  val : Option W32
  deriving DecidableEq, Repr

/-! ### Threads (R111) -/

/-- Words at which lanes of a group meet (R197, R270, R275). -/
inductive Meet where
  | shfl | xbf | vote | redg | scang | matchLanes | elect | topk | adrn | cpy | cpym | shf | wnw | gln
  deriving DecidableEq, Repr

/-- The blocking points of R233. -/
inductive Wait where
  /-- WAITC limits (R129). -/
  | counters (ld st cp tl : Nat)
  /-- A counter stands at 63 (R125). -/
  | full (c : Ctr)
  /-- Tokens of these arrivals are not written yet (R237). -/
  | token (ops : List Nat)
  /-- PWAIT on a phase, with its YLD hint, its place in issue order, and whether its check of INIT has passed (R236, R237). -/
  | phase (off : Nat) (tok : BitVec 16) (yld : Bool) (stamp : Nat) (checked : Bool)
  /-- A slot is not READY, or for TTAG and TINV not EMPTY or READY (R214). -/
  | tile (slot : Nat) (either : Bool)
  /-- A second arrival waits for an instance to close (R254); `stamp` is its place in slot order (R266). -/
  | closure (blk slot stamp : Nat)
  /-- The accumulator interlock of ALD, AST, AZERO and AFREE (R266), what ASTAT waits for (R269), and a full reservation table
  (R272), each with its place in slot order. -/
  | acc (blk slot stamp : Nat) (frees : Bool)
  | drains (blk slot stamp : Nat)
  | table (blk slot stamp : Nat)
  /-- JOIN on a mask, with its YLD hint (R193). -/
  | join (k : Nat) (yld : Bool)
  /-- A word that a replay holds until its turn: ARRV on an object, or a rendezvous word (R385). -/
  | steer (off : Option Nat)
  /-- A cross-lane, drain or engine word with the named set and guard read as it issued (R197). -/
  | meet (m : Meet) (w : Word) (named : W64) (guard : Bool)
  /-- WAITT and its YLD hint (R195). -/
  | time (target : W64) (yld : Bool)
  /-- FXB waiting for a tracker slot, in issue order, and FXE for commit (R316, R317). -/
  | fxSlot (stamp : Nat)
  | fxCommit
  /-- A depth wait and a remote wait of an access to n bytes at a key (R323, R329). -/
  | fxDepth (key n : Nat)
  | fxRemote (key n : Nat) (write : Bool)
  /-- LAUNCH awaiting its answer (R40). -/
  | launch
  /-- Earlier accesses are not performed: all, or loads and atomics (R245, R246), or the stores before a LAUNCH (R40). -/
  | performed
  | loaded
  | written
  /-- ACQ.ge on a value not reached (R246). -/
  | acq (idx : Nat) (target : W64)
  /-- ACQ or REL behind the thread's earlier accesses, and behind what the block has issued earlier for SEQ at a key (R242, R246), with
  its place in issue order. -/
  | behind (key stamp : Nat)
  /-- A REL whose port has read SEQ of a host page before another agent wrote there (R241, R400), with its place in issue order. -/
  | seqRead (key stamp : Nat) (old : W64)
  deriving DecidableEq, Repr

/-- Whether a thread can issue again: it lives, has exited (R189), or is parked by a PREEMPT handler (R342). -/
inductive Life where
  | live | exited | parked
  deriving DecidableEq, Repr

/-- A trap taken by a thread (R333, R336): cause, detail, fault address, frame PC, and the flags of R337. -/
structure Trap where
  cause : Nat
  detail : W32
  faddr : W64
  pc : W32
  write : Bool := false
  fetch : Bool := false
  half : Bool := false
  resume : Bool := false
  deriving DecidableEq, Repr

/-- The outstanding-operation counters of a thread (R125). -/
structure Counts where
  ld : Nat
  st : Nat
  cp : Nat
  tl : Nat
  deriving DecidableEq, Repr

/-- What a thread owns (R111), its hidden trap frame (R336), and where it stands. Registers, predicates, index
registers and frame words that hold zero or false are not listed. -/
structure Thread where
  tidx : Nat
  pc : W32
  regs : NMap W32
  preds : NMap Bool
  ix : NMap W32
  cnt : Counts
  b1 : W64
  b2 : W64
  b3 : W64
  fst : W32
  frame : NMap W32
  sup : Bool
  inTrap : Bool
  ppend : Bool
  life : Life
  wait : Option Wait
  trap : Option Trap
  yieldBundles : Nat
  yieldCc : Nat
  pend : List Pend
  tokens : List Token
  fxLast : W32
  /-- Which of B1, B2, B3 hold a TRN result, and how many words a halt still lets the thread issue (R123, R354). -/
  trn : List Bool
  trnWords : Nat
  /-- A STEP deferred until the section of the thread ends (R330). -/
  stepDue : Bool
  /-- The thread has executed the ERET of a RESUME (R353). -/
  resumed : Bool
  /-- Trace entries this lane has produced in a replay (R386). -/
  replayed : Nat
  deriving DecidableEq, Repr

/-- Group state (R111): join masks, tile predicates, step bit; and whether the group is descheduled for a page
request, of which context and number (R347). -/
structure Group where
  gid : Nat
  jm : NMap W64
  tq : BitVec 16
  step : Bool
  desched : Bool
  deriving DecidableEq, Repr

/-! ### The granary (R247 to R272) -/

/-- States of a logical slot (R258). -/
inductive SlotState where
  | free | idle | opened | closing
  deriving DecidableEq, Repr

/-- Scopes of a slot's owner (R248). -/
inductive Own where
  | group | block | team
  deriving DecidableEq, Repr

/-- The parameters of an instance (R252): form (0 CTR, 1 CTRS, 2 CTRSP) and the fields of the opening word. -/
structure InstParams where
  form : Nat
  fmt : Nat
  own : Nat
  scl : Bool
  sba : Nat
  sbb : Nat
  rows : Nat
  cols : Nat
  low : Nat
  deriving DecidableEq, Repr

/-- A contribution: scope index, the codes of a and b, the format register of its block, and its scale word. -/
structure Contrib where
  si : Nat
  a : List Nat
  b : List Nat
  fm : W32
  scale : W32
  ready : Bool
  deriving DecidableEq, Repr

/-- An open instance (R252 to R254): parameters, expected set, arrivals, contributions and pattern words. -/
structure Inst where
  id : Nat
  params : InstParams
  expected : List Nat
  arrived : List Nat
  contribs : List Contrib
  patterns : NMap W32
  deriving DecidableEq, Repr

/-- A logical slot (R248): generation, state, format (0 FP32, 1 XF40, 2 INT32), owner and the group that owns it,
cells at 32i + j, status bits of R271, open instance, pending withdrawals, and drains that have not read it. -/
structure Slot where
  gen : BitVec 8
  state : SlotState
  fmt : Nat
  own : Own
  group : Nat
  cells : NMap (BitVec 40)
  status : BitVec 8
  inst : Option Inst
  withdrawn : List Nat
  drains : Nat
  deriving DecidableEq, Repr

/-- An entry of the engine reservation table (R272). -/
structure Pass where
  blk : Nat
  slot : Nat
  left : Nat
  cls : Nat
  age : Nat
  deriving DecidableEq, Repr

/-! ### Barrier registrations and blocks -/

/-- An EXITDROP registration (R239): object offset, threads that have arrived in the current phase, pending drops. -/
structure XReg where
  off : Nat
  arrived : List Nat
  drops : Nat
  deriving DecidableEq, Repr

/-- What a block's launch fixes for it (R11, R12, R16, R19). -/
structure Decl where
  lid : Nat
  ctx : Nat
  prio : Nat
  regs : Nat
  preds : Nat
  tiles : Nat
  scratch : Nat
  slots : Nat
  width : Nat
  nthr : Nat
  codebase : W64
  entry : W32
  psize : Nat
  gx : Nat
  gy : Nat
  gz : Nat
  /-- Blocks in one team; 0 where the launch has no team level (R11). Blocks that one cluster holds together (R14). -/
  team : Nat
  part : Nat
  relaunchable : Bool
  maxrel : Nat
  persistent : Bool
  /-- Scope code of the grid level and of the group and block levels (R9, R11). -/
  gridScope : Nat
  blkScope : Nat
  grpScope : Nat
  lrec : W64
  deriving DecidableEq, Repr

/-- Where a block stands: waiting at a Cairn, running, finishing its commands before a pre-emption (R351, step 1), being
saved, saved, being restored (R353), all of its
threads gone and its RETIRE under way (R360), or the prologue of a launch (R43). -/
inductive Stage where
  | pending | running | stopping | saving | saved | restoring | retired | prologue
  deriving DecidableEq, Repr

/-- A block: its logical name, task record (R22), placement, state (R111, R356) and threads. -/
structure Block where
  id : Nat
  decl : Decl
  bx : Nat
  by' : Nat
  bz : Nat
  pass : Nat
  attempt : Nat
  /-- Gang instance of the block, if it has one (R14), and its rank in its team (R247). -/
  gang : Option Nat
  brank : Nat
  teamId : Nat
  stage : Stage
  cluster : Nat
  core : Nat
  sched : Nat
  placed : Nat
  ptime : W64
  order : Nat
  params : NMap Byte
  threads : List Thread
  groups : List Group
  scratch : NMap Byte
  objects : List Nat
  xregs : List XReg
  tiles : NMap (BitVec 128)
  slots : List Slot
  fm : NMap W32
  head : Nat
  mark : W32
  lastIssue : Option Nat
  issued : Nat
  saveAddr : Nat
  saveSize : Nat
  deriving DecidableEq, Repr

/-! ### Regions (R224 to R227, R285) -/

/-- A level of a hashed grid (R227). -/
structure Level where
  poff : Nat
  goff : Nat
  logt : Nat
  feats : Nat
  fmt : Nat
  nres : Nat
  deriving DecidableEq, Repr

/-- A bound region: class 0 PLAIN, 1 HGRID, 2 BIN, with the class bytes of its kind. -/
structure Region where
  ctx : Nat
  idx : Nat
  base : Nat
  size : Nat
  cls : Nat
  home : Nat
  obj : Nat
  gtab : Nat
  ndims : Nat
  levels : List Level
  binbase : Nat
  bcap : Nat
  sublog : Nat
  deriving DecidableEq, Repr

/-! ### Engines (chapter 15) -/

/-- A tensor shape record (R277). -/
structure Shape where
  base : Nat
  fmt : Nat
  rank : Nat
  swz : Nat
  tier : Nat
  fill : W32
  dims : List Nat
  strs : List Nat
  boxes : List Nat
  deriving DecidableEq, Repr

/-- One target of a copy: block, local offset, barrier offset and tile slot, and the pieces not landed yet as
first element and count (R281, R283). -/
structure Target where
  blk : Nat
  loc : Nat
  bar : Nat
  slot : Option Nat
  todo : List (Nat × Nat)
  deriving DecidableEq, Repr

/-- A sub-region that a Sheaf replays (R287, R288): its bin is locked; what its lines hold after the records, by storage key; the
elements that a record has changed; the runs not written back, in elements of 8 bytes; and the records skipped. -/
structure Replayed where
  sub : Nat
  bin : Nat
  image : NMap Byte
  touched : List Nat
  todo : List (Nat × Nat)
  skipped : Nat
  deriving DecidableEq, Repr

/-- A collective record (R289). -/
structure CollRec where
  src : Nat
  dst : Nat
  count : Nat
  kind : Nat
  fmt : Nat
  rop : Nat
  arg : Nat
  cid : Nat
  members : BitVec 256
  wgt : Nat
  mst1 : Nat
  mst2 : Nat
  pnd : Nat
  c2 : W32
  lr : W32
  mu1 : W32
  mu2 : W32
  eps : W32
  wd : W32
  gscale : W32
  c1 : W32
  deriving DecidableEq, Repr

/-- What an engine command does. Direction 0 is memory to scratchpad, 1 scratchpad to memory, 2 memory to memory. -/
inductive Job where
  | copy (dir : Nat) (shape : Shape) (org : List Int) (dst : Nat) (evict : Bool) (allFill : Bool) (targets : List Target)
  | drain (slotBlk slot : Nat) (addr stride : Nat) (alpha : W32) (op rows cols bar : Nat)
  | sheaf (r : Region) (bar : Nat) (next : List Nat) (locked : List Replayed)
  | winnow (c : CollRec) (status bar : Nat) (stage : Nat) (flags : Nat) (peers : List Peer)
  | gleaner (table list n k0 tlen : Nat) (tag : Bool) (shape : Shape) (next : Nat)
  deriving DecidableEq, Repr

/-- Progress of an engine command: waiting for room, held for its start time, running, finished (R275, R282). -/
inductive CmdStage where
  | queued | held | running
  deriving DecidableEq, Repr

/-- An engine command (R274, R275): the elected lane and its word, the lanes counted on CPC, its start time; whether its
block has left the machine (R276), and elements that a multicast has read and not landed everywhere yet (R283). -/
structure Cmd where
  id : Nat
  ctx : Nat
  blk : Nat
  tidx : Nat
  pc : W32
  sup : Bool
  cluster : Nat
  stage : CmdStage
  start : Option W64
  lanes : List Nat
  gone : Bool
  read : NMap (List Byte)
  job : Job
  deriving DecidableEq, Repr

/-! ### Sections (chapter 19) -/

/-- States of a section slot (R331); a committed or aborted section stays until its thread has learnt of it. -/
inductive FxState where
  | opened | ended | committed | aborted
  deriving DecidableEq, Repr

/-- A forwarding atomic section (R316, R319, R323). -/
structure Section where
  cluster : Nat
  slot : Nat
  blk : Nat
  tidx : Nat
  state : FxState
  target : W32
  vstatus : Option Nat
  /-- Uncommitted sections that must commit first, and those of them it consumes, by slot. -/
  preds : List Nat
  consumes : List Nat
  /-- An edge that waits in a depth wait (R323). -/
  waitsOn : List Nat
  reads : List Nat
  writes : List Nat
  cause : Nat
  other : Option Nat
  ended : Nat
  deriving DecidableEq, Repr

/-- One tracked write: cluster, slot, sector, place in tracker order, and the bytes it covers (R323). -/
structure Version where
  cluster : Nat
  slot : Nat
  sector : Nat
  seq : Nat
  bytes : List (Nat × Byte)
  deriving DecidableEq, Repr

/-! ### Launches (chapters 01, 02, 23) -/

/-- A level entry (R18). -/
structure LevelEntry where
  ex : Nat
  ey : Nat
  ez : Nat
  domain : Nat
  scope : Nat
  deriving DecidableEq, Repr

/-- A launch record as the device read it (R16, R17). `zero` says that every must-be-zero byte was zero. -/
structure LaunchRec where
  codebase : W64
  entry : W32
  nlev : Nat
  prio : Nat
  flags : BitVec 16
  levels : List LevelEntry
  param : W64
  psize : Nat
  regs : Nat
  tiles : Nat
  preds : Nat
  maxrel : Nat
  scratch : Nat
  slots : Nat
  depcount : Nat
  proentry : W32
  depmap : W64
  start : W64
  complete : W64
  bitmap : W64
  zero : Bool
  deriving DecidableEq, Repr

/-- A box rule of a dependence (R27). -/
structure BoxRule where
  mul : Int
  lo : Int
  hi : Int
  shift : Nat
  src : Nat
  deriving DecidableEq, Repr

/-- A dependence map entry (R27). -/
structure Dep where
  pbmap : W64
  pgx : Nat
  pgy : Nat
  pgz : Nat
  dims : List BoxRule
  deriving DecidableEq, Repr

/-- States of the launch state machine, with the codes of R42 in their order. -/
inductive LState where
  | prologue | held | dealing | draining | cancelling | done
  deriving DecidableEq, Repr

/-- Who submitted a launch (R38): a host queue, a thread by block and index, or another device of the pod. -/
inductive Source where
  | queue (q : Nat)
  | thread (blk tidx : Nat)
  | device (d : Nat)
  deriving DecidableEq, Repr

/-- An accepted launch (R37 to R53, R361 to R368). -/
structure Launch where
  lid : Nat
  ctx : Nat
  src : Source
  record : LaunchRec
  lrec : W64
  deps : List Dep
  params : NMap Byte
  state : LState
  order : Nat
  pod : Bool
  podSeq : Nat
  home : Nat
  /-- Hard policy applied; a cancel or kill took effect; a fault took effect (R365). -/
  hard : Bool
  cancelled : Bool
  faulted : Bool
  podLost : Bool
  passes : Nat
  pass : Nat
  passesDone : Nat
  /-- Units of the pass not dealt: the next one and runs that came back; runs dealt to this Spur and not handed to a Cairn;
  and requests for a range that wait, by device and size (R51, R52). -/
  nextUnit : Nat
  runs : List (Nat × Nat)
  returned : List (Nat × Nat)
  wants : List (Nat × Nat)
  done : Nat
  killed : Nat
  never : Nat
  bits : List Nat
  faults : List FaultEntry
  total : Nat
  counts : NMap Nat
  /-- Final reports Ridge holds from other Spurs, by device: done, killed, never (R362). -/
  reports : NMap (Nat × Nat × Nat)
  dealtTo : NMap (List (Nat × Nat))
  /-- Ridge has sent the completion to the device that submitted the grid (R363). -/
  forwarded : Bool
  /-- Bits of the pass that stand in this device's bitmap, or could not be written (R361, R363, R367). -/
  marked : List Nat
  /-- Bits that other devices of the pod have sent and that wait for a page, and bits refused here after this Spur's final report
  (R361, R367). -/
  remote : List Nat
  late : List FaultEntry
  /-- Splits that Ridge has asked for: the device that wants a run, and the donor (R52). -/
  splits : List (Nat × Nat)
  /-- The Ridge that dealt the grid has left the pod (R363). -/
  ridgeLost : Bool
  /-- The record and the parameter copy as they were at acceptance (R389). -/
  record0 : LaunchRec
  params0 : NMap Byte
  /-- The completion time, once the end of the grid is decided (R362). -/
  completion : Option W64
  deriving DecidableEq, Repr

/-- A completion that the device writes (R364, R366, R370): where its record goes, what record and summary hold, and how
far the writing has come. `sum` is SUMIDX once the summary stands in the area. -/
structure Report where
  id : Nat
  ctx : Nat
  lid : Nat
  queue : Option Nat
  complete : Nat
  status : Nat
  cflags : Nat
  passes : Nat
  done : Nat
  killed : Nat
  never : Nat
  ptime : W64
  faults : List FaultEntry
  total : Nat
  counts : NMap Nat
  podLost : Bool
  summarised : Bool
  sum : Option Nat
  deriving DecidableEq, Repr

/-- A LAUNCH request pending at the front end, with the word that made it (R35, R40). `id` numbers it in issue order. -/
structure LaunchReq where
  id : Nat
  blk : Nat
  tidx : Nat
  pc : W32
  ctx : Nat
  addr : W64
  record : LaunchRec
  deps : List Dep
  deriving DecidableEq, Repr

/-- An answer that a thread has not taken up: a launch id, or a reason code (R40). -/
structure LaunchAns where
  blk : Nat
  tidx : Nat
  pc : W32
  lid : Nat
  reason : Nat
  deriving DecidableEq, Repr

/-- What the device keeps for a host queue (R30, R31, R34): the descriptor as last read and whether it is in service;
SQHEAD and CQTAIL as the device wrote them; the last tail and head written to the doorbells; whether service waits on a page
request, or on the answer to a pod grid; whether its ring has refused a record, so that records are lost (R367); and completion
records that wait in order (R36). -/
structure Queue where
  live : Bool
  desc : List Byte
  sqhead : Nat
  cqtail : Nat
  tail : Nat
  head : Nat
  blocked : Bool
  podWait : Bool
  broken : Bool
  pending : List (List Byte)
  deriving DecidableEq, Repr

/-! ### Placement (chapter 03) -/

/-- A gang instance that waits (R58 to R61). -/
structure Gang where
  id : Nat
  lid : Nat
  die : Bool
  size : Nat
  cluster : Nat
  rounds : Nat
  since : W64
  starved : Bool
  starvedAt : W64
  acks : List Nat
  assigned : Bool
  deriving DecidableEq, Repr

/-- What a Cairn tells the Massif, beside RETIRE (R67): a fault that it has handled (R63), the room of a DIE gang that it holds, named
by a block of the gang (R59), and a patch that it has taken (R395). -/
inductive CairnMsg where
  | fault (blk : Nat)
  | placed (blk : Nat)
  | patched
  deriving DecidableEq, Repr

/-- A command link (R67): permits held in each direction, the sequence numbers last sent, permits owed back, the pod times of errors
that still count for R64, messages dropped, messages of the Massif that are not sent yet, by type and block, and those of the Cairn,
each with its place in order. -/
structure Link where
  toPermits : Nat
  fromPermits : Nat
  toSeq : Nat
  fromSeq : Nat
  owedTo : Nat
  owedFrom : Nat
  errors : List W64
  dropped : Nat
  out : List (Nat × Nat)
  back : List (Nat × CairnMsg)
  deriving DecidableEq, Repr

/-- A cluster's condition (R64, R65, R405), with the pod times of unrepaired parity errors that still count for R64, and the
patches that its Cairn has taken, oldest first (R395). -/
structure Cluster where
  lost : Bool
  spare : Bool
  parTimes : List W64
  parUnr : Nat
  eccCor : Nat
  parRep : Nat
  patches : List (List Byte)
  link : Link
  passes : List Pass
  deriving DecidableEq, Repr

/-- A partition's registers (R54, R355). -/
structure Partition where
  mask : W64
  ctl : W64
  busy : Bool
  deriving DecidableEq, Repr

/-! ### Contexts, requests and caches (R344 to R349, R369, R378) -/

/-- Who waits for a page request (R347, R34, R367). -/
inductive Waiter where
  | group (blk gid : Nat)
  | cmd (id : Nat)
  | queue (q : Nat)
  | bits (lid : Nat)
  | report (id : Nat)
  | ring (q : Nat)
  | residue (blk : Nat)
  deriving DecidableEq, Repr

/-- An outstanding page request (R348). `posted` says that its record is in the ring. -/
structure PageReq where
  seq : Nat
  page : Nat
  perm : Bool
  acc : Nat
  lid : Nat
  ptime : W64
  posted : Bool
  waiters : List Waiter
  deriving DecidableEq, Repr

/-- The register block of a context and what the device keeps for it. -/
structure Context where
  root : W64
  handler : W64
  save : W64
  saveSz : W64
  prq : W64
  prqSeq : Nat
  prqSlot : Nat
  requests : List PageReq
  fsBase : W64
  fsCtl : W64
  obsCtl : W64
  trRing : W64
  trSeq : Nat
  trLost : Nat
  trHead : Nat
  deriving DecidableEq, Repr

/-- A cached leaf of the page tables (R346): cache 2n is that of core n, cache 2n + 1 that of cluster n. -/
structure Tlb where
  cache : Nat
  ctx : Nat
  page : Nat
  leaf : W64
  size : Nat
  deriving DecidableEq, Repr

/-- A scheduler's counter block (R375, R377). -/
structure SchedRegs where
  counts : NMap Nat
  freeze : Bool
  smpA : W64
  smpB : W64
  smpC : W64
  lastA : W64
  lastB : W64
  lastC : W64
  deriving DecidableEq, Repr

/-- A trace record as R379 lays it out, without its ring number. -/
structure TraceRec where
  lid : Nat
  bx : Nat
  by' : Nat
  bz : Nat
  gid : Nat
  type : Nat
  pc : W32
  ptime : W64
  maskA : W64
  maskB : W64
  obj : W32
  phase : BitVec 16
  deriving DecidableEq, Repr

/-- A replay in progress (R384 to R386): its context, its block, the recorded records and its status area. -/
structure Replay where
  ctx : Nat
  blk : Nat
  records : List TraceRec
  stat : Nat
  deriving DecidableEq, Repr

/-! ### Firmware (chapter 25) and pod -/

/-- States of a hot patch (R395), and the refused boot (R392). -/
inductive FwState where
  | idle | verify | gating | quiescing | swapping | broadcast | bootRefused
  deriving DecidableEq, Repr

/-- STATE of FWSTAT (R394, R395). -/
def FwState.code : FwState → Nat
  | .idle => 0
  | .verify => 1
  | .gating => 2
  | .quiescing => 3
  | .swapping => 4
  | .broadcast => 5
  | .bootRefused => 15

/-- Firmware state and registers (R388 to R397). -/
structure Firmware where
  state : FwState
  result : Nat
  pver : W32
  noStandby : Bool
  activeCore : Nat
  /-- Boot ROM has run; the Cairn image was refused, so no cluster has one (R392); and the active core has failed while no standby
  was ready. -/
  booted : Bool
  cairnRefused : Bool
  down : Bool
  version : W32
  minVer : W32
  minErr : Bool
  measures : NMap (BitVec 384)
  image : List Byte
  /-- Entries replaced in the function table: index and code offset with the patch that did it. -/
  table : NMap (Nat × Nat)
  /-- Active counts of functions that are not zero, and functions whose calls are held at entry (R395). -/
  active : NMap Nat
  gated : List Nat
  /-- Calls that stand at a closed gate, by function, and those that the last opening let in, each with the entry that it entered; patches
  applied since reset, oldest first. -/
  calls : List Nat
  entered : List (Nat × Option (Nat × Nat))
  applied : List (List Byte)
  /-- When quiescing began; clusters to which PATCH has been delivered, and those that have acknowledged; M2 before the swap. -/
  since : W64
  told : List Nat
  acks : List Nat
  oldM2 : BitVec 384
  reports : Nat
  attStat : W64
  certStat : W64
  deriving DecidableEq, Repr

/-- A pod record that a Spur holds: one submitted here that Ridge has not answered, or one received too early (R49,
R50). `id` numbers those submitted here in issue order (R38). -/
structure PodRec where
  id : Nat
  podSeq : Nat
  ctx : Nat
  dev : Nat
  record : List Byte
  params : List Byte
  /-- The word that submitted it on this device, where a thread did. -/
  src : Option Source
  pc : W32
  addr : W64
  deriving DecidableEq, Repr

/-- What the device knows of its pod (R47 to R53, R363, R402, R403): the retries of each port that failed, by pod time, and ports that
are to be taken down. -/
structure Pod where
  inPod : Bool
  index : Nat
  members : List Nat
  ridge : Option Nat
  nextSeq : Nat
  expect : Nat
  held : List PodRec
  outbox : List PodRec
  links : List Nat
  retries : NMap (List W64)
  failing : List Nat
  deriving DecidableEq, Repr

/-- The state journal (R388): accepted launches with their states, outstanding page requests of each context, the sequence numbers and
permits of each command link (towards the Cairn: next SEQ, permits, permits owed; and the same from it), and the state of the hot patch, with the
rest of the firmware's own state. -/
structure Journal where
  launches : List Launch
  requests : List (Nat × List PageReq)
  links : List (Nat × (Nat × Nat × Nat) × (Nat × Nat × Nat))
  patch : Firmware
  deriving DecidableEq, Repr

/-! ### The machine -/

/-- A load-cache line (R299): the context and the virtual address that it was filled through, and its 128 bytes. -/
structure Line where
  ctx : Nat
  va : Nat
  bytes : List Byte
  deriving DecidableEq, Repr

/-- The paths of R33. -/
inductive Path where
  | core | copy | drain | sheaf | winnow | glean | peer
  deriving DecidableEq, Repr

/-- Who knows of a write (R302, R303, R307): a thread that observes its completion, or has read it; what a thread's release fences of a
scope, or the write that is its flag, carry on; a thread that has read a flag; a phase of a barrier object, by the arrivals or by the
engine operations that it counts; the total order of an instance of a scope; a command and a block, of their engine writes; a bit of a
completion bitmap, the launches of a queue, a pass of a launch, and a LAUNCH with the grid that it launches. -/
inductive Knower where
  | thread (blk tidx : Nat)
  | read (blk tidx : Nat)
  | rel (blk tidx scope : Nat)
  | flag (id scope inst : Nat)
  | cand (blk tidx scope inst : Nat)
  | phase (blk off n : Nat)
  | landed (blk off n : Nat)
  | order (scope inst : Nat)
  | cmd (id : Nat)
  | work (blk : Nat)
  | bit (ctx n : Nat)
  | queue (q : Nat)
  | pass (lid n : Nat)
  | request (blk tidx : Nat)
  | launch (lid : Nat)
  deriving DecidableEq, Repr

/-- A write that other paths may not see yet (R307): its number, the space and place of its bytes and what they held before, the writer's
path and core, where it has one, the XFENCEs since then, each with its TO path, its scope and the cluster of its thread, and who knows of
it, each since a place in issue order. -/
structure Stale where
  id : Nat
  space : Nat
  key : Nat
  old : List Byte
  src : Path
  core : Option Nat
  seen : List (Path × Nat × Nat)
  by' : List (Knower × Nat)
  deriving DecidableEq, Repr

/-- The bundle that the last ISSUE_CYCLE chose (R114): its block, its threads in ascending TIDX and their PC. -/
structure Bundle where
  blk : Nat
  lanes : List Nat
  pc : W32
  deriving DecidableEq, Repr

structure State where
  /-- The model's own: position in the stream of free values (log entry 2). -/
  free : Nat
  /-- The model's own: the bundle that issues at the next step (log entry 3). -/
  latch : Option Bundle
  /-- The model's own: events given from outside, oldest first (log entry 3). -/
  agenda : List Instr
  /-- The model's own: stamps of issue order, operations, commands and blocks (log entry 3). -/
  seq : Nat
  off : Bool
  ptime : W64
  mem : List Host.Cell
  poison : List Nat
  /-- Lines of host and peer pages that an MSC holds (R208, R209), and what stands at the page itself where the line differs
  from it: the byte, and whether the device has written the line's. -/
  msc : List Nat
  behind : NMap (Byte × Bool)
  stale : List Stale
  blocks : NMap Block
  lcache : NMap (NMap Line)
  icache : NMap (NMap (List Byte))
  tlb : List Tlb
  xinv : Option W64
  regions : List Region
  cmds : List Cmd
  sections : List Section
  versions : List Version
  clusters : NMap Cluster
  spares : NMap Nat
  partitions : NMap Partition
  contexts : NMap Context
  qtbase : W64
  queues : NMap Queue
  accepted : Nat
  launches : List Launch
  requests : List LaunchReq
  answers : List LaunchAns
  reports : List Report
  gangs : List Gang
  /-- The cluster whose message the Massif took last (R67). -/
  served : Nat
  scheds : NMap SchedRegs
  replaying : List Replay
  hpErr : W64
  therm : W64
  fw : Firmware
  pod : Pod
  deriving DecidableEq, Repr

/-! ### Reset -/

/-- A command link with every permit at its sender; the first message of a direction has SEQ 0 (R67).
Log entry 6 (DESIGN CHOICE). -/
def Link.reset : Link :=
  { toPermits := 16, fromPermits := 16, toSeq := 65535, fromSeq := 65535, owedTo := 0, owedFrom := 0, errors := [], dropped := 0,
    out := [], back := [] }

/-- A cluster at reset (R64, R405). Log entry 5 (DESIGN CHOICE). -/
def Cluster.reset : Cluster :=
  { lost := false, spare := false, parTimes := [], parUnr := 0, eccCor := 0, parRep := 0, patches := [],
    link := Link.reset, passes := [] }

/-- A partition at reset: no cluster, halted (R54). Bits [11] HALTED and [10] HALT are 1. -/
def Partition.reset : Partition :=
  { mask := 0, ctl := 0xC00#64, busy := false }

/-- A context at reset (R344, R369, R378). -/
def Context.reset : Context :=
  { root := 0, handler := 0, save := 0, saveSz := 0, prq := 0, prqSeq := 0, prqSlot := 0, requests := [],
    fsBase := 0, fsCtl := 0, obsCtl := 0, trRing := 0, trSeq := 0, trLost := 0, trHead := 0 }

/-- A host queue at reset (log entry 6). -/
def Queue.reset : Queue :=
  { live := false, desc := [], sqhead := 0, cqtail := 0, tail := 0, head := 0, blocked := false, podWait := false,
    broken := false, pending := [] }

/-- A scheduler's counter block at reset: counters 0, sample registers all ones (R377). -/
def SchedRegs.reset : SchedRegs :=
  { counts := [], freeze := false, smpA := BitVec.allOnes 64, smpB := BitVec.allOnes 64, smpC := 0xFFFF#64,
    lastA := BitVec.allOnes 64, lastB := BitVec.allOnes 64, lastC := 0xFFFF#64 }

/-- Firmware before boot ROM has run: every measurement register zero, MINVER and the report counter from the one-time store (R391,
R392, R396). -/
def Firmware.reset : Firmware :=
  { state := .idle, result := 0, pver := 0, noStandby := false, activeCore := 0, booted := false, cairnRefused := false, down := false, version := 0,
    minVer := Config.bootMinVer, minErr := false, measures := [], image := [], table := [], active := [], gated := [], calls := [], entered := [], applied := [],
    since := 0,
    told := [], acks := [], oldM2 := 0, reports := Config.bootReports, attStat := 0, certStat := 0 }

/-- A device outside a pod, with pod index 0 (R289). The first pod sequence number that its Ridge would assign, and that its Spur
awaits, is 0: the model's choice (log entry 109, DESIGN CHOICE). Log entry 105 (DESIGN CHOICE). -/
def Pod.reset : Pod :=
  { inPod := false, index := 0, members := [0], ridge := none, nextSeq := 0, expect := 0, held := [],
    outbox := [], links := List.range 16, retries := [], failing := [] }

/-- The machine right after reset. Tables whose absent entries stand for reset entries are empty.
Log entries 5 (DESIGN CHOICE), 6 (DESIGN CHOICE). -/
def State.reset : State :=
  { free := 0, latch := none, agenda := [], seq := 0, off := false, ptime := 0, mem := [], poison := [],
    msc := [], behind := [], stale := [], blocks := [], lcache := [], icache := [], tlb := [], xinv := none, regions := [], cmds := [], sections := [],
    versions := [], clusters := [], spares := [], partitions := [], contexts := [], qtbase := 0, queues := [],
    accepted := 1, launches := [], requests := [], answers := [], reports := [], gangs := [], served := 64, scheds := [], replaying := [],
    hpErr := 0, therm := 0, fw := Firmware.reset, pod := Pod.reset }

end Sys2Proof.Machine
end

