-- ==== Sys2Proof/Machine/Operands.lean ====
section
/-! DEFINITION. Registers, predicates and operands of one thread: what a source supplies (R96, R100), which registers a field
names and whether they exist (R98, R99), and how a result is written (R97, R122, R126). -/

namespace Sys2Proof.Machine

/-! ### Registers and predicates -/

/-- Register V(n); a register not listed holds 0 (R111). -/
def Thread.reg (t : Thread) (n : Nat) : W32 := NMap.read 0 t.regs n

/-- Predicate P(n); P0 reads true (R90). -/
def Thread.pred (t : Thread) (n : Nat) : Bool := n == 0 || NMap.read false t.preds n

/-- Index register Xk (R118). -/
def Thread.xreg (t : Thread) (k : Nat) : W32 := NMap.read 0 t.ix k

/-- A pending destination that a later write has replaced is dropped (R126). -/
def dropIn (n : Nat) (dst : List (Option Nat)) : List (Option Nat) :=
  dst.map (fun d => if d = some n then none else d)

/-- A counted operation without its write to register n (R126). -/
def Act.dropReg (n : Nat) : Act → Act
  | .load src va k m sx nc ev dst => .load src va k m sx nc ev (dropIn n dst)
  | .deliver dst vals preds flags => .deliver (dropIn n dst) vals preds flags
  | .atom loc va kind b c sc mrg dst => .atom loc va kind b c sc mrg (dropIn n dst)
  | .expand src esz kv pos dst tail => .expand src esz kv pos (dropIn n dst) tail
  | .features rows fmts nan dst cp cl => .features rows fmts nan (dropIn n dst) cp cl
  | a => a

/-- V(n) := v by the counted operation or token that stands at `op` in issue order: what an earlier one would still write
there is dropped (R126). -/
def Thread.landReg (t : Thread) (op n : Nat) (v : W32) : Thread :=
  { t with
    regs := NMap.put 0 t.regs n v,
    pend := t.pend.map (fun p => if p.op < op then { p with act := p.act.dropReg n } else p),
    tokens := t.tokens.map (fun k => if k.op < op ∧ k.dst = some n then { k with dst := none } else k) }

/-- V(n) := v in program order: a counted write to V(n) still pending is dropped (R126). -/
def Thread.setReg (t : Thread) (n : Nat) (v : W32) : Thread :=
  { t with regs := NMap.put 0 t.regs n v, pend := t.pend.map (fun p => { p with act := p.act.dropReg n }) }

/-- P(n) := v; a write to P0 is discarded (R151). A counted operation still pending that writes a predicate (TLK, LDXP, HGL)
keeps its write, since R126 speaks of registers. Log entry 107 (DESIGN CHOICE). -/
def Thread.setPred (t : Thread) (n : Nat) (v : Bool) : Thread :=
  if n = 0 then t else { t with preds := NMap.put false t.preds n v }

/-- %fst gains flags (R143). -/
def Thread.flag (t : Thread) (f : W32) : Thread := { t with fst := t.fst ||| f }

/-- Consecutive registers from n. -/
def Thread.setTuple (t : Thread) (n : Nat) : List W32 → Thread
  | [] => t
  | v :: vs => (t.setReg n v).setTuple (n + 1) vs

/-- Predicates in order. -/
def Thread.setPreds (t : Thread) (ps : List (Nat × Bool)) : Thread :=
  ps.foldl (fun t p => t.setPred p.1 p.2) t

/-! ### Operand fields (R95, R98, R99) -/

/-- Index and offset of an indexed operand. -/
def Thread.at' (t : Thread) (x : BitVec 2) (o : BitVec 6) : Int :=
  ((t.xreg x.toNat).extractLsb' 24 8).toNat + o.toInt

/-- First register of an array. -/
def Thread.xbase (t : Thread) (x : BitVec 2) : Nat := ((t.xreg x.toNat).extractLsb' 0 8).toNat

/-- Registers of an array. -/
def Thread.xlimit (t : Thread) (x : BitVec 2) : Nat := ((t.xreg x.toNat).extractLsb' 8 9).toNat

/-- The register that a field names, where it names one. -/
def Thread.named (t : Thread) : Opd → Option Nat
  | .reg n => some n.toNat
  | .idx x o => some ((t.xbase x : Int) + t.at' x o).toNat
  | _ => none

/-- A tuple of n registers lies below REGS and, where indexed, within its array (R98, R99). -/
def Thread.tupleOk (t : Thread) (regs n : Nat) : Opd → Bool
  | .reg r => decide (r.toNat + n ≤ regs)
  | .idx x o =>
    let i := t.at' x o
    decide (0 ≤ i) && decide (i + n ≤ t.xlimit x) && decide ((t.xbase x : Int) + i + n ≤ regs)
  | _ => true

/-- The register check of one field. A width of 0 is known only at run time and is checked by the meaning. -/
def Thread.useOk (t : Thread) (d : Decl) (u : Use) (o : Opd) : Bool :=
  match u, o with
  | .dst n _, o => n == 0 || t.tupleOk d.regs n o
  | .dstPlain n, o => n == 0 || t.tupleOk d.regs n o
  | .src n _ _, o => n == 0 || t.tupleOk d.regs n o
  | .plain n, o => n == 0 || t.tupleOk d.regs n o
  | .pred n, .reg p => decide (p.toNat + n ≤ d.preds)
  | _, _ => true

/-- Check 4a of R109: every register and predicate that the word names exists (R19, R98, R99, R151). -/
def Thread.rangesOk (t : Thread) (d : Decl) (f : Form) (w : Word) : Bool :=
  t.useOk d f.d w.d && t.useOk d f.a w.a && t.useOk d f.b w.b && t.useOk d f.c w.c &&
    f.preds.all (fun p => decide (p < d.preds))

/-! ### Source values (R96, R100) -/

/-- A thread with its block: what its operands are read from. -/
structure Env where
  blk : Block
  th : Thread
  deriving DecidableEq, Repr

/-- Byte n of the parameter copy; bytes at or beyond PSIZE read zero (R21, R206). -/
def Block.param (b : Block) (n : Nat) : Byte := if n < b.decl.psize then NMap.read 0 b.params n else 0

/-- Little-endian value of bytes. -/
def leNat : List Byte → Nat
  | [] => 0
  | b :: bs => b.toNat + 256 * leNat bs

/-- The n low bytes of a value, little-endian. -/
def leBytes : Nat → Nat → List Byte
  | 0, _ => []
  | n + 1, v => BitVec.ofNat 8 v :: leBytes n (v / 256)

/-- A 32-bit word of the parameter copy. -/
def Block.paramWord (b : Block) (n : Nat) : W32 :=
  BitVec.ofNat 32 (leNat [b.param (4 * n), b.param (4 * n + 1), b.param (4 * n + 2), b.param (4 * n + 3)])

/-- The group of a thread (R12). -/
def Env.gid (e : Env) : Nat := e.th.tidx / e.blk.decl.width

/-- The virtual lane of a thread (R12). -/
def Env.lane (e : Env) : Nat := e.th.tidx % e.blk.decl.width

/-- The value of a special other than B1 to B3 (R96). -/
def Env.special (e : Env) (c : Nat) : W32 :=
  if c = 8 then BitVec.ofNat 32 e.lane
  else if c = 9 then BitVec.ofNat 32 e.gid
  else if c = 0xA then BitVec.ofNat 32 e.th.tidx
  else if c = 0xB then BitVec.ofNat 32 e.blk.bx
  else if c = 0xC then BitVec.ofNat 32 e.blk.by'
  else if c = 0xD then BitVec.ofNat 32 e.blk.bz
  else if c = 0xE then BitVec.ofNat 32 e.blk.decl.nthr
  else if 0x10 ≤ c ∧ c < 0x20 then e.blk.paramWord (c - 0x10)
  else 0

/-- A bypass slot, where the code names one (R122). -/
def Thread.slot? (t : Thread) (c : Nat) : Option W64 :=
  if c = 1 then some t.b1 else if c = 2 then some t.b2 else if c = 3 then some t.b3 else none

/-- A 32-bit source. -/
def Env.word (e : Env) (o : Opd) (imm : W32) : W32 :=
  match o with
  | .imm _ => imm
  | .special c =>
    match e.th.slot? c.toNat with
    | some v => v.setWidth 32
    | none => e.special c.toNat
  | o => e.th.reg ((e.th.named o).getD 0)

/-- The 64-bit positions of R100. -/
inductive Pos where
  | signed | unsigned | double
  deriving DecidableEq, Repr

/-- A 32-bit value in a 64-bit position; `imm` says that it is an immediate. Log entry 16 (DEDUCED). -/
def Pos.widen (k : Pos) (imm : Bool) (v : W32) : W64 :=
  match k with
  | .signed => if imm then v.signExtend 64 else v.setWidth 64
  | .unsigned => v.setWidth 64
  | .double => widen64 v

/-- A 64-bit source. -/
def Env.dword (e : Env) (k : Pos) (o : Opd) (imm : W32) : W64 :=
  match o with
  | .imm _ => k.widen true imm
  | .special c =>
    match e.th.slot? c.toNat with
    | some v => v
    | none => k.widen false (e.special c.toNat)
  | o =>
    let n := (e.th.named o).getD 0
    e.th.reg (n + 1) ++ e.th.reg n

/-- The registers of a tuple of n, lowest first (R99). -/
def Env.tuple (e : Env) (o : Opd) (n : Nat) : List W32 :=
  (List.range n).map (fun i => e.th.reg ((e.th.named o).getD 0 + i))

/-- A source of n registers as words: a special or immediate is legal up to 64 bits only (R100). -/
def Env.words (e : Env) (k : Pos) (o : Opd) (imm : W32) (n : Nat) : List W32 :=
  if n ≤ 1 then [e.word o imm]
  else if n = 2 then
    let v := e.dword k o imm
    [v.extractLsb' 0 32, v.extractLsb' 32 32]
  else e.tuple o n

/-- Words as one number, the first lowest (R99). -/
def wordsNat : List W32 → Nat
  | [] => 0
  | v :: vs => v.toNat + 2 ^ 32 * wordsNat vs

/-- The n low words of a number. -/
def natWords : Nat → Nat → List W32
  | 0, _ => []
  | n + 1, v => BitVec.ofNat 32 v :: natWords n (v / 2 ^ 32)

/-! ### Results (R97, R122, R123) -/

/-- An ARRV of the thread, whose token is to be written (R237). -/
def ObjEvent.isArrival : ObjEvent → Bool
  | .arrive _ _ => true
  | _ => false

/-- The slots shift (R122); `trn` marks a TRN result (R354). A token still to come moves on with its slot. -/
def Thread.shift (t : Thread) (v : W64) (trn : Bool) : Thread :=
  { t with b3 := t.b2, b2 := t.b1, b1 := v, trn := trn :: t.trn.take 2,
           tokens := t.tokens.map (fun k => { k with shifts := k.shifts + 1 }) }

/-- A slot takes a value that was to come: slot 0 is B1 (R122, R237). -/
def Thread.fillSlot (t : Thread) (i : Nat) (v : W64) : Thread :=
  if i = 0 then { t with b1 := v } else if i = 1 then { t with b2 := v } else if i = 2 then { t with b3 := v } else t

/-- The tokens whose arrivals have been applied are written, oldest first: to their registers and slots (R237). -/
def Thread.writeTokens (t : Thread) : Thread :=
  let ready := t.tokens.filter (fun k => k.val.isSome)
  let t' : Thread := { t with tokens := t.tokens.filter (fun k => k.val.isNone) }
  ready.foldl (fun t k =>
    let v := k.val.getD 0
    let t1 := t.fillSlot k.shifts (v.setWidth 64)
    match k.dst with
    | some n => t1.landReg k.op n v
    | none => t1) t'

/-- An interlocked result: it shifts into the slots, and the registers that D names take it unless TRN is set or D is
ZERO (R97, R122, R123). -/
def Thread.result (t : Thread) (d : Opd) (trn : Bool) (vals : List W32) : Thread :=
  let t' := t.shift (BitVec.ofNat 64 (wordsNat (vals.take 2))) trn
  match t.named d with
  | some n => if trn then t' else t'.setTuple n vals
  | none => t'

/-- What an instruction of the plain families computes in one lane: register result, predicates and flags. -/
structure Res where
  regs : Option (List W32) := none
  preds : List (Nat × Bool) := []
  flags : W32 := 0
  deriving DecidableEq, Repr

/-- A computed result is written (R122, R143). -/
def Thread.apply (t : Thread) (w : Word) (r : Res) : Thread :=
  let t' := match r.regs with
    | some vs => t.result w.d w.hnt.trn vs
    | none => t
  (t'.setPreds r.preds).flag r.flags

/-- The destinations of a counted result of n registers (R125, R126). -/
def Thread.dests (t : Thread) (d : Opd) (n : Nat) : List (Option Nat) :=
  (List.range n).map (fun i => (t.named d).map (fun r => r + i))

/-! ### Guards (R90) -/

/-- The guard as the thread evaluates it. -/
def Thread.guard (t : Thread) (g : Guard) : Bool := t.pred g.pred.toNat != g.neg

end Sys2Proof.Machine
end

