-- ==== Sys2Proof/Machine/Ops.lean ====
section
/-! DEFINITION. The named operations over the state: tables, memory, translation, sections, page requests, the end of a block
by a fault or a kill, taking a trap and returning from one. -/

namespace Sys2Proof.Machine

open Sys2Proof

/-! ### Tables -/

def State.block? (s : State) (b : Nat) : Option Block := NMap.lookup s.blocks b

def State.mapBlock (s : State) (b : Nat) (f : Block → Block) : State := { s with blocks := NMap.adjust s.blocks b f }

def Block.thread? (b : Block) (t : Nat) : Option Thread := b.threads.find? (fun x => x.tidx == t)

def Block.mapThread (b : Block) (t : Nat) (f : Thread → Thread) : Block :=
  { b with threads := b.threads.map (fun x => if x.tidx = t then f x else x) }

def Block.mapThreads (b : Block) (f : Thread → Thread) : Block := { b with threads := b.threads.map f }

def Block.group? (b : Block) (g : Nat) : Option Group := b.groups.find? (fun x => x.gid == g)

def Block.mapGroup (b : Block) (g : Nat) (f : Group → Group) : Block :=
  { b with groups := b.groups.map (fun x => if x.gid = g then f x else x) }

/-- The group of a thread index (R12). -/
def Block.gidOf (b : Block) (t : Nat) : Nat := t / b.decl.width

def State.thread? (s : State) (b t : Nat) : Option Thread := (s.block? b).bind (fun x => x.thread? t)

def State.mapThread (s : State) (b t : Nat) (f : Thread → Thread) : State := s.mapBlock b (fun x => x.mapThread t f)

def State.mapGroup (s : State) (b g : Nat) (f : Group → Group) : State := s.mapBlock b (fun x => x.mapGroup g f)

def State.ctx (s : State) (n : Nat) : Context := NMap.read Context.reset s.contexts n

def State.setCtx (s : State) (n : Nat) (c : Context) : State :=
  { s with contexts := NMap.put Context.reset s.contexts n c }

def State.mapCtx (s : State) (n : Nat) (f : Context → Context) : State := s.setCtx n (f (s.ctx n))

def State.cluster (s : State) (n : Nat) : Cluster := NMap.read Cluster.reset s.clusters n

def State.mapCluster (s : State) (n : Nat) (f : Cluster → Cluster) : State :=
  { s with clusters := NMap.put Cluster.reset s.clusters n (f (s.cluster n)) }

def State.partition (s : State) (n : Nat) : Partition := NMap.read Partition.reset s.partitions n

def State.mapPartition (s : State) (n : Nat) (f : Partition → Partition) : State :=
  { s with partitions := NMap.put Partition.reset s.partitions n (f (s.partition n)) }

def State.queue (s : State) (n : Nat) : Queue := NMap.read Queue.reset s.queues n

def State.mapQueue (s : State) (n : Nat) (f : Queue → Queue) : State :=
  { s with queues := NMap.put Queue.reset s.queues n (f (s.queue n)) }

def State.sched (s : State) (n : Nat) : SchedRegs := NMap.read SchedRegs.reset s.scheds n

def State.mapSched (s : State) (n : Nat) (f : SchedRegs → SchedRegs) : State :=
  { s with scheds := NMap.put SchedRegs.reset s.scheds n (f (s.sched n)) }

def State.launch? (s : State) (lid : Nat) : Option Launch := s.launches.find? (fun l => l.lid == lid)

def State.mapLaunch (s : State) (lid : Nat) (f : Launch → Launch) : State :=
  { s with launches := s.launches.map (fun l => if l.lid = lid then f l else l) }

def State.cmd? (s : State) (id : Nat) : Option Cmd := s.cmds.find? (fun c => c.id == id)

def State.mapCmd (s : State) (id : Nat) (f : Cmd → Cmd) : State :=
  { s with cmds := s.cmds.map (fun c => if c.id = id then f c else c) }

def State.dropCmd (s : State) (id : Nat) : State := { s with cmds := s.cmds.filter (fun c => c.id != id) }

/-- A fresh stamp. -/
def State.stamp (s : State) : Nat × State := (s.seq, { s with seq := s.seq + 1 })

/-- The free value that stands k places on in the stream (log entry 2). -/
def State.pick (s : State) (k : Nat) : Nat := Config.freeNat (s.free + k)

/-- The partition that holds a cluster (R54). -/
def State.partitionOf (s : State) (c : Nat) : Option Nat :=
  (List.range 8).find? (fun n => (s.partition n).mask.getLsbD c)

/-- Fields of PCTLn (R54). -/
def Partition.actx (p : Partition) : Option Nat := if p.ctl.getLsbD 8 then some (p.ctl.extractLsb' 0 4).toNat else none
def Partition.shctx (p : Partition) : Option Nat := if p.ctl.getLsbD 9 then some (p.ctl.extractLsb' 4 4).toNat else none
def Partition.halt (p : Partition) : Bool := p.ctl.getLsbD 10
def Partition.halted (p : Partition) : Bool := p.ctl.getLsbD 11

/-- A core numbered over the device. -/
def Block.coreId (b : Block) : Nat := 4 * b.cluster + b.core

/-! ### Memory (R206, R208, R345) -/

/-- The key of a byte in storage: tier 0 GDDR, 1 LPDDR, 2 host, 3 peer, and the offset or bus address in it. In the place of a tier, 4 is
the hub die's memory, which only firmware addresses (R388). -/
def physKey (tier off : Nat) : Nat := tier * 2 ^ 64 + off

/-- Log entry 1 (DESIGN CHOICE). -/
def State.byte (s : State) (k : Nat) : Byte := NMap.read 0 s.mem k

def State.bytes (s : State) (k n : Nat) : List Byte := (List.range n).map (fun i => s.byte (k + i))

/-- Bytes written in ascending order from k. -/
def putBytes (m : List Host.Cell) (k : Nat) : List Byte → List Host.Cell
  | [] => m
  | b :: bs => putBytes (NMap.put 0 m k b) (k + 1) bs

/-- A little-endian value of n bytes in storage. -/
def State.word (s : State) (k n : Nat) : Nat := leNat (s.bytes k n)

/-- The memory keeps its canonical form. Log entry 1 (DESIGN CHOICE). -/
abbrev Memory.wf (m : List Host.Cell) : Prop := NMap.canonical (0 : Byte) m = true

/-- Whether [a, a + n) meets [b, b + m). -/
def overlap (a n b m : Nat) : Bool := decide (a < b + m) && decide (b < a + n)

/-- A cached line of 128 bytes with written bytes merged into it. -/
def mergeLine (base : Nat) (line : List Byte) (k : Nat) (bs : List Byte) : List Byte :=
  line.zipIdx.map (fun (x, i) => if k ≤ base + i ∧ base + i < k + bs.length then bs.getD (base + i - k) x else x)

/-! ### The MSC over host and peer pages (R208, R209) -/

/-- A byte of a host or peer page (R208). -/
def remoteKey (k : Nat) : Bool := decide (2 * 2 ^ 64 ≤ k ∧ k < 4 * 2 ^ 64)

/-- An MSC holds the line of a byte of a host or peer page. -/
def State.inMsc (s : State) (k : Nat) : Bool := s.msc.contains (k / 128)

/-- What stands at the page of a byte that an MSC line may cover. -/
def State.pageByte (s : State) (k : Nat) : Byte := ((NMap.lookup s.behind k).map Prod.fst).getD (s.byte k)

/-- An engine is about to write n bytes at k: in the lines that an MSC holds they become dirty. -/
def State.dirty (s : State) (k n : Nat) : NMap (Byte × Bool) :=
  (List.range n).foldl (fun m i => if s.inMsc (k + i) then NMap.insert m (k + i) (s.pageByte (k + i), true) else m) s.behind

/-- A sum that saturates at w bits. -/
def addSat (a b w : Nat) : Nat := min (a + b) (2 ^ w - 1)

/-- A count of HPERR goes up, within its field (R401). -/
def State.portCount (s : State) (lo width : Nat) : State :=
  let v := s.hpErr.toNat / 2 ^ lo % 2 ^ width
  { s with hpErr := s.hpErr + BitVec.ofNat 64 ((addSat v 1 width - v) * 2 ^ lo) }

/-- A posted write to a host or peer page is refused, as the free value says (R314). -/
def State.refuses (s : State) (k : Nat) : Bool := remoteKey k && (s.pick 74 / 8 ^ (k / 8 % 4096)) % 8 == 7

/-- Dirty bytes of the lines that satisfy a condition are written back (R245, R246). A line whose write is refused is counted and is not
dirty any more (R314, R401). -/
def State.writeBack (s : State) (p : Nat → Bool) : State :=
  let hit (e : Nat × (Byte × Bool)) : Bool := e.2.2 && p (e.1 / 128)
  let lost := (((s.behind.filter hit).map (fun e => e.1 / 128)).dedup).filter (fun l => s.refuses (128 * l))
  let behind := (s.behind.filter (fun e => !hit e || lost.contains (e.1 / 128))).map (fun e =>
    if hit e then (e.1, (e.2.1, false)) else e)
  lost.foldl (fun s _ => s.portCount 0 32) { s with behind := behind }

/-- Lines that satisfy a condition leave the MSC: what is dirty is written back, and the page is seen again as it stands. -/
def State.dropMsc (s : State) (p : Nat → Bool) : State :=
  let s1 := s.writeBack p
  { s1 with
    mem := (s1.behind.filter (fun e => p (e.1 / 128))).foldl (fun m e => NMap.put 0 m e.1 e.2.1) s1.mem,
    behind := s1.behind.filter (fun e => !p (e.1 / 128)), msc := s1.msc.filter (fun l => !p l) }

/-- An access through a leaf that allows it leaves its line in the MSC, as the free value says and as long as the MSC has room: it is the
replacement of another line that makes room (R2, R345). Which slice holds a host or peer line the spec does not say, so that the lines
are bounded by the size of the whole MSC is the model's choice (log entry 126, DESIGN CHOICE). -/
def State.fillMsc (s : State) (k cp pick : Nat) : State :=
  if remoteKey k && cp != 2 && !s.inMsc k && decide (s.msc.length < Config.mscLines) && pick % 2 == 1 then { s with msc := s.msc ++ [k / 128] } else s

/-- A write made behind the MSC, by an agent on the host's side (R208, R400). -/
def State.hostWrite (s : State) (k : Nat) (bs : List Byte) : State :=
  bs.zipIdx.foldl (fun s e =>
    let a := k + e.2
    if s.inMsc a then
      { s with behind := NMap.insert s.behind a (e.1, ((NMap.lookup s.behind a).map Prod.snd).getD false) }
    else { s with mem := NMap.put 0 s.mem a e.1 }) s

/-- The bytes in storage change; lines of the writing core follow (R299); a sector written whole is clean (R350). A host or peer page is
written at once, whatever line the MSC holds: the write is performed when the port has sent it (R312). -/
def State.rawWrite (s : State) (core : Option Nat) (k : Nat) (bs : List Byte) : State :=
  let covers (p : Nat) : Bool := decide (k ≤ 32 * p) && decide (32 * p + 32 ≤ k + bs.length)
  { s with
    mem := putBytes s.mem k bs,
    poison := if s.poison.isEmpty then s.poison else s.poison.filter (fun p => !covers p),
    behind := if s.msc.isEmpty then s.behind else s.behind.filter (fun e => !(decide (k ≤ e.1) && decide (e.1 < k + bs.length))),
    lcache := match core with
      | none => s.lcache
      | some c => NMap.adjust s.lcache c (fun ls =>
          ls.map (fun (l, line) => (l,
            if overlap l 128 k bs.length then { line with bytes := mergeLine l line.bytes k bs } else line))) }

/-! ### What other paths still read (R284, R307) -/

/-- Number of the last write noted. -/
def State.lastWrite (s : State) : Nat := (s.stale.head?.map Stale.id).getD 0

/-- A write by a path is about to replace bytes of a space (0 physical memory, 2 + b the scratchpad of block b): other paths may
go on reading what stood there. -/
def State.note (s : State) (space key : Nat) (old : List Byte) (src : Path) : State :=
  { s with stale := ⟨s.lastWrite + 1, space, key, old, src, none, [], []⟩ :: s.stale }

/-- Two clusters lie in one instance of a scope (R9, R93). -/
def sameScope (scope c d : Nat) : Bool := decide (5 ≤ scope) || (scope == 4 && c / 16 == d / 16) || c == d

/-- A read by a path in a cluster must see the write of an entry: it is the path's own, or an XFENCE has made it visible. -/
def Stale.visible (e : Stale) (path : Path) (cluster : Nat) : Bool :=
  e.src == path || e.seen.any (fun x => x.1 == path && sameScope x.2.1 x.2.2 cluster)

/-- The bytes of an element as they were before the write of an entry. -/
def Stale.undo (e : Stale) (key : Nat) (bs : List Byte) : List Byte :=
  bs.zipIdx.map (fun b =>
    if e.key ≤ key + b.2 ∧ key + b.2 < e.key + e.old.length then e.old.getD (key + b.2 - e.key) b.1 else b.1)

/-- An element as a path reads it, given what stands there: the newest writes that need not be visible may be missing, as many as
the free value says (R307). -/
def State.seenBy (s : State) (path : Path) (cluster space key : Nat) (now : List Byte) (pick : Nat) : List Byte :=
  if s.stale.isEmpty then now
  else
    let hit := s.stale.filter (fun e => e.space == space && overlap e.key e.old.length key now.length)
    let open' := hit.takeWhile (fun e => !e.visible path cluster)
    (open'.take (pick % (open'.length + 1))).foldl (fun bs e => e.undo key bs) now

/-! ### Who knows of a write (R302, R303, R307). Log entry 33 (DEDUCED) -/

/-- The write counts as one of the CORE path: it is, or an XFENCE has made it visible to CORE (R307). -/
def Stale.asCore (e : Stale) : Bool := e.src == .core || e.seen.any (fun x => x.1 == .core)

/-- Known to someone, and that by a place in issue order. -/
def Stale.knows (e : Stale) (k : Knower) : Bool := e.by'.any (fun x => x.1 == k)
def Stale.knewBy (e : Stale) (k : Knower) (at' : Nat) : Bool := e.by'.any (fun x => x.1 == k && decide (x.2 ≤ at'))

/-- Someone learns of the write at a place in issue order, if it is news. -/
def Stale.tell (e : Stale) (k : Knower) (at' : Nat) : Stale := if e.knows k then e else { e with by' := (k, at') :: e.by' }

/-- The writes that satisfy a condition become known. -/
def State.tellAll (s : State) (p : Stale → Bool) (k : Knower) (at' : Nat) : State :=
  { s with stale := s.stale.map (fun e => if p e then e.tell k at' else e) }

/-- Writes noted after a number are those of a core, and known to someone. -/
def State.credit (s : State) (after : Nat) (core : Option Nat) (ks : List (Knower × Nat)) : State :=
  { s with stale := s.stale.map (fun e => if after < e.id then { e with core := core, by' := ks ++ e.by' } else e) }

/-- What a thread passes on at a release side that stands at a place in its program order: CORE writes that it observes, and those that
it has read (R303). -/
def Stale.releasedBy (e : Stale) (blk tidx at' : Nat) : Bool :=
  e.asCore && (e.knewBy (.thread blk tidx) at' || e.knewBy (.read blk tidx) at')

/-- A line lies in a bound region of its context. Log entry 28 (DEDUCED). -/
def State.inRegion (s : State) (l : Line) : Bool :=
  s.regions.any (fun r => r.ctx == l.ctx && decide (r.base ≤ l.va) && decide (l.va < r.base + r.size))

/-- What a core's line of open memory still holds of the time before CORE writes of other cores gives way to what stands at home: loads
that these writes happen before return them (R303). -/
def State.renew (s : State) (core : Nat) (es : List Stale) : State :=
  let far := es.filter (fun e => e.space == 0 && e.src == .core && e.core != some core)
  if far.isEmpty then s
  else { s with lcache := NMap.adjust s.lcache core (fun ls => ls.map (fun (l, line) => (l,
    if s.inRegion line then line else far.foldl (fun line e =>
      { line with bytes := mergeLine l line.bytes e.key (s.bytes e.key e.old.length) }) line))) }

/-- A thread on a core observes the writes that satisfy a condition, at an acquire side (R303, R307). -/
def State.observe (s : State) (core blk tidx : Nat) (p : Stale → Bool) : State :=
  (s.tellAll p (.thread blk tidx) s.seq).renew core (s.stale.filter (fun e => p e && !e.knows (.thread blk tidx)))

/-- A thread passes a phase of an object (R302, R307): it observes what the arrivals that the phase counts released, and the engine
operations that landed or arrived in it. -/
def State.passPhase (s : State) (core blk tidx off n : Nat) : State :=
  s.observe core blk tidx (fun e => (e.asCore && e.knows (.phase blk off n)) || e.knows (.landed blk off n))

/-- The instance of a scope (R93) in which a thread of a group lies. -/
def scopeInst (scope core blk gid : Nat) : Nat :=
  if scope ≤ 1 then blk * 128 + gid else if scope = 2 then core else if scope = 3 then core / 4
  else if scope = 4 then core / 64 else 0

/-- An operation takes its place in the total order of its scope instance: it acquires what earlier members released, and releases what
its thread passes on (R302, R305). -/
def State.takeOrder (s : State) (core blk tidx scope inst at' : Nat) : State :=
  let s1 := s.observe core blk tidx (fun e => e.asCore && e.knows (.order scope inst))
  s1.tellAll (fun e => e.releasedBy blk tidx at' || (e.asCore && e.knows (.order scope inst))) (.order scope inst) 0

/-- XFENCE (R245): the writes of a path whose completion the thread observes, and that lie in its instance of the scope, are visible to
what another path reads there (R284, R307). -/
def State.unveil (s : State) (src dst : Path) (scope cluster blk tidx : Nat) : State :=
  { s with stale := s.stale.map (fun e =>
      if (e.src == src || (src == .core && e.asCore)) && e.knows (.thread blk tidx) &&
        (e.core.map (fun c => sameScope scope cluster (c / 4))).getD true then { e with seen := (dst, scope, cluster) :: e.seen }
      else e) }

/-- The scratchpad of a block is made anew: nothing of what stood there can be read any more (R335). -/
def State.forgetScratch (s : State) (blk : Nat) : State :=
  { s with stale := s.stale.map (fun e => if e.space = 2 + blk then { e with space := 1, old := [] } else e) }

/-- Knowledge that threads of a block have, or objects of its scratchpad. -/
def Knower.within (k : Knower) (blk : Nat) : Bool :=
  match k with
  | .thread b _ => b == blk
  | .read b _ => b == blk
  | .rel b _ _ => b == blk
  | .cand b _ _ _ => b == blk
  | .phase b _ _ => b == blk
  | .landed b _ _ => b == blk
  | .work b => b == blk
  | .request b _ => b == blk
  | _ => false

/-- A block begins anew: its threads know nothing of the attempt before. -/
def State.forgetBlock (s : State) (blk : Nat) : State :=
  { s with stale := s.stale.map (fun e => { e with by' := e.by'.filter (fun x => !x.1.within blk) }) }

/-- An object is made at an offset: its phases are others from now on. -/
def State.forgetObject (s : State) (blk off : Nat) : State :=
  { s with stale := s.stale.map (fun e => { e with by' := e.by'.filter (fun x => match x.1 with
      | .phase b o _ => !(b == blk && o == off)
      | .landed b o _ => !(b == blk && o == off)
      | _ => true) }) }

/-! ### Address translation (R344, R345) -/

/-- What an access needs of its leaf. -/
structure Need where
  r : Bool := false
  w : Bool := false
  x : Bool := false
  deriving DecidableEq, Repr

def Need.load : Need := { r := true }
def Need.store : Need := { w := true }
def Need.both : Need := { r := true, w := true }
def Need.fetch : Need := { x := true }

/-- ACC of a page request (R348), without its engine and supervisor bits. -/
def Need.acc (n : Need) : Nat := n.r.toNat + 2 * n.w.toNat + 4 * n.x.toNat

/-- Low VA bit and index bits of each level (R345). -/
def walkLevels : List (Nat × Nat) := [(51, 6), (41, 10), (31, 10), (21, 10), (16, 5)]

/-- Bytes of a tier that holds page tables and device pages. -/
def tierBytes (t : Nat) : Nat := if t = 0 then Config.gddrBytes else Config.lpddrBytes

/-- A leaf at a level with low VA bit `lo` breaks no rule of R345. -/
def leafOk (e : W64) (lo : Nat) : Bool :=
  let tier := (e.extractLsb' 3 2).toNat
  let off := (e.extractLsb' 16 48).toNat * 65536
  (e.extractLsb' 12 4 == 0) && !e.getLsbD 2 && (e.extractLsb' 9 2 != 3#2) && decide (lo ≤ 31) &&
    decide (off % 2 ^ lo = 0) && (decide (2 ≤ tier) || decide (off < tierBytes tier))

/-- A table entry breaks no rule of R345. -/
def tableOk (e : W64) (lo : Nat) : Bool :=
  let tier := (e.extractLsb' 3 2).toNat
  (e.extractLsb' 5 3 == 0) && !e.getLsbD 2 && decide (tier ≤ 1) && decide (lo ≠ 16) &&
    decide ((e.extractLsb' 8 56).toNat * 256 < tierBytes tier)

/-- The walk below a table at a storage key: the leaf with its low VA bit, or the detail of R345. -/
def State.walkFrom (s : State) (va : Nat) : List (Nat × Nat) → Nat → Except Nat (W64 × Nat)
  | [], _ => .error 2
  | (lo, n) :: rest, table =>
    let e : W64 := BitVec.ofNat 64 (s.word (table + 8 * ((va / 2 ^ lo) % 2 ^ n)) 8)
    if !e.getLsbD 0 then .error 1
    else if e.getLsbD 1 then (if leafOk e lo then .ok (e, lo) else .error 2)
    else if tableOk e lo then
      s.walkFrom va rest (physKey (e.extractLsb' 3 2).toNat ((e.extractLsb' 8 56).toNat * 256))
    else .error 2

/-- A walk of a context's tables (R345). -/
def State.walk (s : State) (ctx va : Nat) : Except Nat (W64 × Nat) :=
  let root := (s.ctx ctx).root
  let tier := (root.extractLsb' 3 2).toNat
  let top := (root.extractLsb' 8 56).toNat * 256
  if !root.getLsbD 0 then .error 1
  else if 2 ≤ tier ∨ tierBytes tier ≤ top then .error 2
  else s.walkFrom va walkLevels (physKey tier top)

/-- The storage key that a leaf gives an address. -/
def leafKey (leaf : W64) (lo va : Nat) : Nat :=
  physKey (leaf.extractLsb' 3 2).toNat ((leaf.extractLsb' 16 48).toNat * 65536 + va % 2 ^ lo)

/-- The leaf allows the access (R345). -/
def leafAllows (leaf : W64) (n : Need) (sup : Bool) : Bool :=
  (!n.r || leaf.getLsbD 5) && (!n.w || leaf.getLsbD 6) && (!n.x || leaf.getLsbD 7) && (!leaf.getLsbD 11 || sup)

/-- A translation that succeeded. -/
structure Xlat where
  key : Nat
  leaf : W64
  lo : Nat
  deriving DecidableEq, Repr

def Xlat.tier (x : Xlat) : Nat := (x.leaf.extractLsb' 3 2).toNat
def Xlat.cp (x : Xlat) : Nat := (x.leaf.extractLsb' 9 2).toNat

/-- The translation caches that an access of core n uses, and one of an engine of cluster n (R346). The front end, the Massif and
the Ridge use none. -/
def coreCaches (n : Nat) : List Nat := [2 * n, 2 * (n / 4) + 1]
def clusterCaches (n : Nat) : List Nat := [2 * n + 1]

/-- Entries of a cache: 128 in a core's, 4096 in a cluster's (R346). -/
def cacheSize (c : Nat) : Nat := if c % 2 = 0 then 128 else 4096

/-- Cached leaves for an address in the caches given (R346). -/
def State.cached (s : State) (cs : List Nat) (ctx va : Nat) : List Tlb :=
  s.tlb.filter (fun e => cs.contains e.cache && e.ctx == ctx && e.page == va / 2 ^ e.size)

/-- The leaf an access finds: where its caches hold entries for its page, one of them or the walk, as the free value says
(R346). -/
def State.leafFor (s : State) (cs : List Nat) (ctx va pick : Nat) : Except Nat (W64 × Nat) :=
  match s.cached cs ctx va with
  | [] => s.walk ctx va
  | es =>
    match es[pick % (es.length + 1)]? with
    | some e => .ok (e.leaf, e.size)
    | none => s.walk ctx va

/-- The number in the place of a context for the firmware of the Massif cores, whose addresses are those of the hub die's memory and are
not translated. Log entry 127 (DESIGN CHOICE). -/
def massifCtx : Nat := 16

/-- Translation of one access: the cause and detail of R345, or where the byte lies. -/
def State.xlate (s : State) (cs : List Nat) (ctx va : Nat) (n : Need) (sup : Bool) (pick : Nat) :
    Except (Nat × Nat) Xlat :=
  if ctx = massifCtx then .ok ⟨physKey 4 va, 0, 64⟩
  else match s.leafFor cs ctx va pick with
  | .error d => .error (5, d)
  | .ok (leaf, lo) => if leafAllows leaf n sup then .ok ⟨leafKey leaf lo va, leaf, lo⟩ else .error (6, 3)

/-- An entry enters its cache; in a full one it takes the place of another, which the free value names (R346). -/
def tlbAdd (l : List Tlb) (e : Tlb) (pick : Nat) : List Tlb :=
  let mine := l.filter (fun x => x.cache == e.cache)
  if l.contains e then l
  else if mine.length < cacheSize e.cache then e :: l
  else match mine[pick % mine.length]? with
    | some v => e :: l.erase v
    | none => e :: l

/-- A leaf that was walked enters the caches given, unless an XINV runs (R346). -/
def State.cacheLeaf (s : State) (cs : List Nat) (ctx va : Nat) (x : Xlat) : State :=
  if s.xinv.isSome then s
  else { s with tlb := cs.foldl (fun l c => tlbAdd l ⟨c, ctx, va / 2 ^ x.lo, x.leaf, x.lo⟩ (s.pick 902)) s.tlb }

/-- R207: the detail of a MISALIGN, where an address of this size raises one. -/
def misaligned (addr : W64) (size : Nat) : Option W32 :=
  if addr.extractLsb' 57 7 ≠ 0 then some 2#32
  else if addr.toNat % size ≠ 0 then some 1#32
  else none

/-- The 57 significant bits of an address (R206). -/
def vaOf (a : W64) : Nat := a.toNat % 2 ^ 57

/-- A device read at supervisor privilege; every structure that the device reads lies within one page. -/
def State.readVirt (s : State) (ctx va n : Nat) : Except (Nat × Nat) (List Byte) :=
  (s.xlate [] ctx va Need.load true (s.pick 900)).map (fun x => s.bytes x.key n)

/-! ### Sections (R316 to R331) -/

def Section.live (x : Section) : Bool := x.state == .opened || x.state == .ended

/-- The section of a thread, until its end has been delivered (R331). -/
def State.sectionOf (s : State) (b t : Nat) : Option Section := s.sections.find? (fun x => x.blk == b && x.tidx == t)

def State.section? (s : State) (c k : Nat) : Option Section :=
  s.sections.find? (fun x => x.cluster == c && x.slot == k)

def State.mapSection (s : State) (c k : Nat) (f : Section → Section) : State :=
  { s with sections := s.sections.map (fun x => if x.cluster = c ∧ x.slot = k then f x else x) }

/-- The waits that the abort of a section withdraws (R330). -/
def Wait.sectionWait : Wait → Bool
  | .fxSlot _ => true
  | .fxCommit => true
  | .fxDepth _ _ => true
  | .fxRemote _ _ _ => true
  | .counters _ _ _ _ => true
  | .time _ _ => true
  | _ => false

def Thread.unwait (t : Thread) : Thread := { t with wait := none }

/-- Forwarding depth of a slot (R323). Log entry 46 (DEDUCED). -/
def State.fxDepth (s : State) (c : Nat) : Nat → Nat → Nat
  | 0, _ => 0
  | n + 1, k =>
    match s.section? c k with
    | none => 0
    | some x =>
      let eaten := x.consumes.filter (fun y => ((s.section? c y).map Section.live).getD false)
      if eaten.isEmpty then 0 else 1 + (eaten.map (s.fxDepth c n)).foldl max 0

/-- A section, named by its cluster and slot, aborts if it is live; its edges are removed, and its depth with them (R323, R326, R330). -/
def State.markAborted (s : State) (x : Nat × Nat) (cause : Nat) (other : Option Nat) : State :=
  match s.section? x.1 x.2 with
  | none => s
  | some z =>
    if !z.live then s
    else
      let s1 := { s with
        sections := s.sections.map (fun (y : Section) =>
          if y.cluster = x.1 ∧ y.slot = x.2 then
            { y with
              state := .aborted, cause := cause, other := other, preds := [],
              consumes := [], waitsOn := [] }
          else if y.cluster = x.1 then
            { y with preds := y.preds.filter (fun p => p != x.2), waitsOn := y.waitsOn.filter (fun p => p != x.2) }
          else y),
        versions := s.versions.filter (fun v => !(v.cluster == x.1 && v.slot == x.2)) }
      s1.mapThread z.blk z.tidx (fun t => if (t.wait.map Wait.sectionWait).getD false then t.unwait else t)

/-- Sections that consumed from a section, each with the section's slot. -/
def State.eaters (s : State) (x : Nat × Nat) : List ((Nat × Nat) × Nat) :=
  (s.sections.filter (fun y => y.cluster == x.1 && y.live && y.consumes.contains x.2)).map
    (fun y => ((y.cluster, y.slot), x.2))

/-- Every section that consumed from one of those given aborts with cause SOURCE, and so on (R326). -/
def State.cascade : Nat → State → List (Nat × Nat) → State
  | 0, s, _ => s
  | n + 1, s, xs =>
    let hit := (xs.map s.eaters).flatten
    (hit.foldl (fun s h => s.markAborted h.1 4 (some h.2)) s).cascade n (hit.map Prod.fst)

/-- Sections abort together for one cause, and with them every section that consumed from them (R326, R330). -/
def State.abortAll (s : State) (xs : List (Nat × Nat)) (cause : Nat) (other : Option Nat) : State :=
  let live := xs.filter (fun x => ((s.section? x.1 x.2).map Section.live).getD false)
  (live.foldl (fun s x => s.markAborted x cause other) s).cascade 65 live

def State.abortSection (s : State) (c k cause : Nat) (other : Option Nat) : State := s.abortAll [(c, k)] cause other

def Section.name (x : Section) : Nat × Nat := (x.cluster, x.slot)

/-- Every uncommitted section that has read an overlapped sector aborts (R327). -/
def State.externalWrite (s : State) (k n : Nat) : State :=
  let hit (x : Section) : Bool := x.live && x.reads.any (fun r => overlap (32 * r) 32 k n)
  if s.sections.any hit then s.abortAll ((s.sections.filter hit).map Section.name) 5 none else s

/-- A write performed at home by anything but a section commit (R298, R327). -/
def State.write (s : State) (core : Option Nat) (k : Nat) (bs : List Byte) : State :=
  (s.rawWrite core k bs).externalWrite k bs.length

/-- A write at home by a path, which the host port may refuse where it goes to a host or peer page: it is dropped and counted (R314,
R401). -/
def State.postWrite (s : State) (core : Option Nat) (src : Path) (k : Nat) (bs : List Byte) : State :=
  if s.refuses k then s.portCount 0 32 else (s.note 0 k (s.bytes k bs.length) src).write core k bs

/-- A device write at supervisor privilege in a context. Log entry 33 (DEDUCED). -/
def State.writeVirt (s : State) (ctx va : Nat) (bs : List Byte) : Except (Nat × Nat) State :=
  (s.xlate [] ctx va Need.store true (s.pick 901)).map (fun x => s.postWrite none .core x.key bs)

/-- Sections of a block that have not committed end with it; no target is entered and the slots are free (R330). -/
def State.endSections (s : State) (b : Nat) (who : Nat → Bool) : State :=
  let mine := s.sections.filter (fun x => x.blk == b && who x.tidx)
  let s1 := s.abortAll (mine.map Section.name) 8 none
  { s1 with sections := s1.sections.filter (fun x => !(x.blk == b && who x.tidx)) }

/-! ### Starting state of a thread, a group and a block (R111, R57, R23) -/

def Counts.zero : Counts := ⟨0, 0, 0, 0⟩

def Counts.none (c : Counts) : Bool := c == Counts.zero

def Counts.get (c : Counts) : Ctr → Nat
  | .ld => c.ld
  | .st => c.st
  | .cp => c.cp
  | .tl => c.tl

def Counts.add (c : Counts) : Ctr → Counts
  | .ld => { c with ld := c.ld + 1 }
  | .st => { c with st := c.st + 1 }
  | .cp => { c with cp := c.cp + 1 }
  | .tl => { c with tl := c.tl + 1 }

def Counts.sub (c : Counts) : Ctr → Counts
  | .ld => { c with ld := c.ld - 1 }
  | .st => { c with st := c.st - 1 }
  | .cp => { c with cp := c.cp - 1 }
  | .tl => { c with tl := c.tl - 1 }

/-- A thread at block start (R111). -/
def Thread.start (tidx : Nat) (entry : W32) : Thread :=
  { tidx := tidx, pc := entry, regs := [], preds := [], ix := [], cnt := Counts.zero, b1 := 0, b2 := 0, b3 := 0,
    fst := 0, frame := [], sup := false, inTrap := false, ppend := false, life := .live, wait := none, trap := none,
    yieldBundles := 0, yieldCc := 0, pend := [], tokens := [], fxLast := 0, trn := [], trnWords := 0,
    stepDue := false, resumed := false, replayed := 0 }

/-- The mask of a group's lanes. -/
def laneMask (w : Nat) : W64 := BitVec.ofNat 64 (2 ^ w - 1)

/-- A group at block start: join masks hold its lanes, tile predicates are true (R167, R190). -/
def Group.start (width gid : Nat) : Group :=
  { gid := gid, jm := (List.range 8).map (fun k => (k, laneMask width)), tq := BitVec.allOnes 16, step := false,
    desched := false }

/-- A slot of a block at placement. -/
def Slot.start : Slot :=
  { gen := 0, state := .free, fmt := 0, own := .group, group := 0, cells := [], status := 0, inst := none,
    withdrawn := [], drains := 0 }

/-- The block with fresh state at ENTRY; its logical name, placement and task record stay (R23, R57). -/
def Block.fresh (b : Block) : Block :=
  { b with
    threads := (List.range b.decl.nthr).map (fun i => Thread.start i b.decl.entry),
    groups := (List.range (b.decl.nthr / b.decl.width)).map (Group.start b.decl.width),
    scratch := [], objects := [], xregs := [], tiles := [],
    slots := (List.range b.decl.slots).map (fun _ => Slot.start),
    fm := [], head := 0, mark := 0, lastIssue := none, issued := 0, saveAddr := 0, saveSize := 0 }

/-! ### Geometry of a launch (R10 to R13, R51) -/

def LevelEntry.count (e : LevelEntry) : Nat := e.ex * e.ey * e.ez

/-- The highest level that satisfies a condition. -/
def highest (p : Nat → LevelEntry → Bool) (ls : List LevelEntry) : Option Nat :=
  ((ls.zipIdx.filter (fun e => p e.2 e.1)).getLast?).map Prod.snd

/-- The block level: the highest with domain CORE (R11). -/
def LaunchRec.blockLevel (r : LaunchRec) : Nat := (highest (fun _ e => e.domain == 2) r.levels).getD 0

/-- The team level: the lowest with domain CLUSTER (R11). -/
def LaunchRec.teamLevel (r : LaunchRec) : Option Nat := r.levels.findIdx? (fun e => e.domain == 3)

/-- The outermost gang level: the highest with domain CLUSTER or DIE (R14). -/
def LaunchRec.gangLevel (r : LaunchRec) : Option Nat :=
  highest (fun i e => decide (r.blockLevel < i) && (e.domain == 3 || e.domain == 4)) r.levels

/-- The level of one unit (R51). -/
def LaunchRec.unitLevel (r : LaunchRec) : Nat :=
  (highest (fun i e => decide (i + 1 < r.levels.length) && (e.domain == 3 || e.domain == 4 || e.domain == 5))
    r.levels).getD r.blockLevel

/-- Levels above the block, up to a level. -/
def LaunchRec.above (r : LaunchRec) (k : Nat) : List LevelEntry := (r.levels.take (k + 1)).drop (r.blockLevel + 1)

/-- Blocks in one instance of a level. -/
def LaunchRec.blocksIn (r : LaunchRec) (k : Nat) : Nat := ((r.above k).map LevelEntry.count).prod

/-- Threads of one block: the product of the extents up to the block level. -/
def LaunchRec.threads (r : LaunchRec) : Nat := ((r.levels.take (r.blockLevel + 1)).map LevelEntry.count).prod

/-- The group width W. -/
def LaunchRec.width (r : LaunchRec) : Nat := (r.levels[1]?.map LevelEntry.count).getD 1

/-- Blocks of one pass. -/
def LaunchRec.blocks (r : LaunchRec) : Nat := r.blocksIn r.levels.length

/-- Blocks of one unit, and units of one pass. -/
def LaunchRec.unitBlocks (r : LaunchRec) : Nat := r.blocksIn r.unitLevel
def LaunchRec.units (r : LaunchRec) : Nat := r.blocks / r.unitBlocks

/-- Coordinates of the m-th block by mixed radix over the levels above the block (R12). -/
def coordsOf : List LevelEntry → Nat → Nat × Nat × Nat
  | [], _ => (0, 0, 0)
  | e :: rest, m =>
    let i := m % e.count
    let (x, y, z) := coordsOf rest (m / e.count)
    (i % e.ex + e.ex * x, (i / e.ex) % e.ey + e.ey * y, i / (e.ex * e.ey) + e.ez * z)

def LaunchRec.coords (r : LaunchRec) (m : Nat) : Nat × Nat × Nat := coordsOf (r.above r.levels.length) m

/-- The grid's block extents (R12). -/
def LaunchRec.grid (r : LaunchRec) : Nat × Nat × Nat :=
  let ls := r.above r.levels.length
  ((ls.map LevelEntry.ex).prod, (ls.map LevelEntry.ey).prod, (ls.map LevelEntry.ez).prod)

/-- What is left of a list of runs without [first, first + count). -/
def cutRun (first count : Nat) (runs : List (Nat × Nat)) : List (Nat × Nat) :=
  (runs.map (fun (f, n) =>
    if f ≤ first ∧ first + count ≤ f + n then
      [(f, first - f), (first + count, f + n - (first + count))].filter (fun r => r.2 != 0)
    else [(f, n)])).flatten

/-- The piece lies in the runs. -/
def holdsRun (first count : Nat) (runs : List (Nat × Nat)) : Bool :=
  decide (0 < count) && runs.any (fun r => decide (r.1 ≤ first ∧ first + count ≤ r.1 + r.2))

/-- Blocks of units not dealt, and of units dealt here and not handed to a Cairn. -/
def Launch.undealt (l : Launch) : Nat :=
  (l.record.units - l.nextUnit + (l.returned.map Prod.snd).sum) * l.record.unitBlocks
def Launch.unplaced (l : Launch) : Nat := (l.runs.map Prod.snd).sum * l.record.unitBlocks

/-! ### Faults of a grid and the end of a block (R14, R23, R42, R334, R368, R371) -/

/-- A fault is counted and its entry kept (R370, R371). Log entry 74 (DEDUCED). -/
def Launch.addFault (l : Launch) (e : FaultEntry) : Launch :=
  { l with faults := l.faults ++ [e], total := addSat l.total 1 32,
           counts := NMap.insert l.counts e.cause (addSat ((NMap.lookup l.counts e.cause).getD 0) 1 32) }

/-- Which commands a kill of their block cancels: copies, drains and GLN walks, not SHF and WNW (R276).
Log entry 55 (DEDUCED). -/
def Job.cancelled : Job → Bool
  | .sheaf _ _ _ _ => false
  | .winnow _ _ _ _ _ _ => false
  | _ => true

/-- The replay that a block is, if it is one (R384). -/
def State.replayOf (s : State) (b : Nat) : Option Replay := s.replaying.find? (fun r => r.blk == b)

def State.replays (s : State) (b : Nat) : Bool := (s.replayOf b).isSome

/-- Nothing of a block waits for a page request any more (R349). -/
def Context.unwait (c : Context) (b : Nat) : Context :=
  { c with requests := c.requests.map (fun q => { q with waiters := q.waiters.filter (fun w => match w with
      | .group k _ => k != b
      | .residue k => k != b
      | _ => true) }) }

/-- A block leaves the machine: its sections end, its copies and requests are dropped, its resources are free (R258,
R276, R330, R360). -/
def State.removeBlock (s : State) (b : Nat) : State :=
  let s1 := s.endSections b (fun _ => true)
  { s1 with
    blocks := NMap.remove s1.blocks b,
    cmds := (s1.cmds.filter (fun c => !(c.blk == b && c.job.cancelled))).map (fun c =>
      if c.blk = b then { c with gone := true, lanes := [] } else c),
    requests := s1.requests.filter (fun r => r.blk != b),
    answers := s1.answers.filter (fun a => a.blk != b),
    replaying := s1.replaying.filter (fun r => r.blk != b),
    contexts := s1.contexts.map (fun (c, x) => (c, x.unwait b)),
    clusters := s1.clusters.map (fun (c, x) => (c, { x with passes := x.passes.filter (fun p => p.blk != b) })),
    pod := { s1.pod with outbox := s1.pod.outbox.filter (fun r => match r.src with
      | some (.thread k _) => k != b
      | _ => true) },
    latch := match s1.latch with
      | some x => if x.blk = b then none else some x
      | none => none }

/-- A block waits again at its Cairn from its task record, one attempt later (R23, R63). Its arrival order stays that of its first
hand-off, which R57 leaves open: the model's choice (log entry 113, DESIGN CHOICE). -/
def Block.again (b : Block) : Block := { b.fresh with attempt := b.attempt + 1, stage := .pending }

/-! ### Command links (R67) -/

/-- A message goes to the Cairn, or to the Massif: it costs a permit of its direction and returns those owed for the other. -/
def Link.send (l : Link) (toCairn : Bool) : Link :=
  if toCairn then
    { l with toPermits := l.toPermits - 1, owedTo := l.owedTo + 1, toSeq := (l.toSeq + 1) % 65536,
             fromPermits := min 16 (l.fromPermits + l.owedFrom), owedFrom := 0 }
  else
    { l with fromPermits := l.fromPermits - 1, owedFrom := l.owedFrom + 1, fromSeq := (l.fromSeq + 1) % 65536,
             toPermits := min 16 (l.toPermits + l.owedTo), owedTo := 0 }

def State.mapLink (s : State) (c : Nat) (f : Link → Link) : State := s.mapCluster c (fun x => { x with link := f x.link })

/-- The Massif has a message for a Cairn about a block, by its type in R67; it leaves once a permit is held. Log entry 81 (DEDUCED). -/
def State.tell (s : State) (c type blk : Nat) : State :=
  if c < Config.clusters then s.mapLink c (fun l => { l with out := l.out ++ [(type, blk)] }) else s

/-- A Cairn has a message for the Massif, which waits behind those it has already. Log entry 81 (DEDUCED). -/
def State.report (s : State) (c : Nat) (m : CairnMsg) : State :=
  if c < Config.clusters then
    ({ s with seq := s.seq + 1 } : State).mapLink c (fun l => { l with back := l.back ++ [(s.seq, m)] })
  else s

/-- The Cairn of a block reports its fault, and the Massif tells the Cairns of the rest of its gang that theirs are killed (R63). -/
def State.reportFault (s : State) (b : Block) (members : List Block) : State :=
  (members.filter (fun x => x.cluster != b.cluster)).foldl (fun s x => s.tell x.cluster 2 x.id) (s.report b.cluster (.fault b.id))

/-- The Cairn has not been sent a block's PLACE. -/
def State.unsent (s : State) (b : Block) : Bool := (s.cluster b.cluster).link.out.contains (1, b.id)

/-- Blocks that die with a block: its gang instance (R14). -/
def State.gangOf (s : State) (b : Block) : List Block :=
  match b.gang with
  | none => [b]
  | some g => (s.blocks.map Prod.snd).filter (fun x =>
      x.gang == some g && x.decl.lid == b.decl.lid && x.stage != .retired)

/-- A block has been started and its threads may still act. -/
def Block.started (b : Block) : Bool := b.stage != .pending || decide (0 < b.attempt)

def State.countKilled (s : State) (lid n : Nat) : State := s.mapLaunch lid (fun l => { l with killed := l.killed + n })
def State.countNever (s : State) (lid n : Nat) : State := s.mapLaunch lid (fun l => { l with never := l.never + n })

/-- A block of a launch is removed and counted: killed where it was started, else never started (R368).
Log entry 55 (DEDUCED). -/
def State.kill (s : State) (b : Block) : State :=
  let s1 := s.removeBlock b.id
  if b.stage = .retired then s
  else if b.stage = .prologue then s1
  else if b.started then s1.countKilled b.decl.lid 1 else s1.countNever b.decl.lid 1

/-- How a cancel or fault falls on a block that has not retired (R368, R62): `hard` kills running blocks, and a save that is in
progress finishes. -/
def killedBy (hard : Bool) (b : Block) : Bool :=
  match b.stage with
  | .pending => true
  | .saved => true
  | .prologue => true
  | .retired => false
  | .stopping => false
  | .saving => false
  | .running => hard
  | .restoring => hard

/-- A cancel or a fault takes effect on a launch (R42, R365, R368). Units not dealt are counted as never started. A launch that has
not begun to deal ends at once, without a policy (R42, R364). -/
def State.cancelLaunch (s : State) (lid : Nat) (hard fault : Bool) : State :=
  match s.launch? lid with
  | none => s
  | some l =>
    if l.state = .done then s
    else
      let hard' := hard || l.hard
      let deals := !l.pod || s.pod.ridge == some s.pod.index
      let lost := (if deals then l.undealt else 0) + l.unplaced
      let early := decide (l.state = .prologue) || decide (l.state = .held)
      let s1 := s.mapLaunch lid (fun l => { l with
        state := if early then .done else .cancelling,
        hard := if early then l.hard else hard', cancelled := l.cancelled || !fault, faulted := l.faulted || fault,
        never := l.never + lost, nextUnit := if deals then l.record.units else l.nextUnit, runs := [], returned := [] })
      let mine := ((s1.blocks.map Prod.snd).filter (fun b =>
        b.decl.lid == lid && killedBy hard' b && !s1.replays b.id))
      let s2 := mine.foldl State.kill (mine.foldl (fun s b => s.tell b.cluster 2 b.id) s1)
      { s2 with gangs := s2.gangs.filter (fun g => g.lid != lid) }

/-- A fault that faults the grid (R42, R334): the fault is counted, and the launch is cancelled hard. -/
def State.faultGrid (s : State) (lid : Nat) (e : FaultEntry) : State :=
  (s.mapLaunch lid (fun l => l.addFault e)).cancelLaunch lid true true

/-- What a summary entry says of a trap in a thread (R370). Log entry 60 (DEDUCED). -/
def State.entryFor (s : State) (b : Block) (tidx : Nat) (tr : Trap) (flags : Nat) : FaultEntry :=
  { bx := b.bx, by' := b.by', bz := b.bz, tidx := tidx, cause := tr.cause,
    eflags := 2 * tr.fetch.toNat + 4 * tr.write.toNat + 8 * tr.half.toNat + flags,
    detail := tr.detail, faddr := tr.faddr, ptime := s.ptime, pc := tr.pc, dev := s.pod.index, attempt := b.attempt }

/-- The status area of a replay, which may lie in two pages, is written and its block is killed (R386). -/
def State.stopReplay (s : State) (blk code index : Nat) (rrec : List Byte) : State :=
  match s.replayOf blk with
  | none => s
  | some r =>
    let put (s : State) (va : Nat) (bs : List Byte) : State := match s.writeVirt r.ctx va bs with
      | .ok s' => s'
      | .error _ => s
    ((put (put s r.stat (leBytes 4 code ++ leBytes 4 index ++ List.replicate 56 0)) (r.stat + 64)
      (rrec ++ List.replicate (64 - rrec.length) 0))).removeBlock blk

/-- A fault of a block is counted (R371). -/
def State.countFault (s : State) (x : Block × FaultEntry) : State :=
  if s.replays x.1.id then s else s.mapLaunch x.1.decl.lid (fun l => l.addFault x.2)

/-- A block dies with its gang instance and its grid is faulted, if it is still there (R14, R334). -/
def State.endBlock (s : State) (b : Block) : State :=
  if (s.block? b.id).isNone then s
  else if s.replays b.id then s.stopReplay b.id 3 0 []
  else ((s.gangOf b).foldl (fun s x => s.kill x) (s.reportFault b (s.gangOf b))).cancelLaunch b.decl.lid true true

/-- Block-fatal faults that fall together: each is counted, and then the blocks end (R334, R371). Log entry 61 (DEDUCED). -/
def State.fatalAll (s : State) (es : List (Block × FaultEntry)) : State :=
  (es.map Prod.fst).foldl State.endBlock (es.foldl State.countFault s)

/-- A block-fatal fault (R334): the block dies with its gang instance and the grid is faulted. -/
def State.fatal (s : State) (b : Block) (e : FaultEntry) : State := s.fatalAll [(b, e)]

/-- A fail-operational fault (R23, R63): the gang instance is killed and queued again, or the grid is faulted. In a launch that is
ending nothing is queued again (R24, R368). -/
def State.failOperational (s : State) (b : Block) (e : FaultEntry) : State :=
  if s.replays b.id then s.stopReplay b.id 3 0 []
  else
    let members := s.gangOf b
    let l := s.launch? b.decl.lid
    let ending := (l.map (fun l => decide (l.state = .cancelling))).getD true
    let left := b.decl.relaunchable && members.all (fun x => decide (x.attempt + 1 ≤ x.decl.maxrel))
    let s := s.reportFault b members
    if left && !ending then
      let s1 := members.foldl (fun s x =>
        let s' := s.removeBlock x.id
        { s' with blocks := NMap.insert s'.blocks x.id x.again }) s
      s1.mapLaunch b.decl.lid (fun l => l.addFault { e with eflags := e.eflags + 32 })
    else if left then
      (members.foldl (fun s x => s.kill x) s).mapLaunch b.decl.lid (fun l => l.addFault e)
    else (members.foldl (fun s x => s.kill x) s).faultGrid b.decl.lid e

/-! ### Page requests (R347 to R349) -/

/-- LOG and address of a context's ring (R344). -/
def Context.prqLog (c : Context) : Nat := (c.prq.extractLsb' 0 5).toNat
def Context.prqBase (c : Context) : Nat := (c.prq.extractLsb' 5 59).toNat * 32

/-- The record of a request (R348). -/
def PageReq.record (q : PageReq) : List Byte :=
  leBytes 8 (q.page * 65536) ++ leBytes 4 q.seq ++ leBytes 1 q.perm.toNat ++ leBytes 1 q.acc ++
    leBytes 2 (min q.waiters.length 65535) ++ leBytes 4 q.lid ++ leBytes 4 0 ++ leBytes 8 q.ptime.toNat

/-- Requests that wait in the Massif are written into the ring, in order, while it has room. -/
def State.postRequests : Nat → State → Nat → State
  | 0, s, _ => s
  | n + 1, s, ctx =>
    let c := s.ctx ctx
    let posted := (c.requests.filter PageReq.posted).length
    match c.requests.find? (fun q => !q.posted) with
    | none => s
    | some q =>
      if 2 ^ c.prqLog ≤ posted then s
      else
        let q' := { q with posted := true, seq := c.prqSeq, ptime := s.ptime }
        match s.writeVirt ctx (c.prqBase + 32 * c.prqSlot) q'.record with
        | .error _ => s
        | .ok s1 =>
          let s2 := s1.mapCtx ctx (fun c => { c with
            prqSeq := (c.prqSeq + 1) % 2 ^ 32, prqSlot := (c.prqSlot + 1) % 2 ^ c.prqLog,
            requests := c.requests.map (fun x =>
              if x.page = q.page ∧ x.perm = q.perm ∧ x.posted = false then q' else x) })
          s2.postRequests n ctx

/-- Waiters join the request for its page and cause, which is posted unless one is outstanding (R347). Without a ring
the fault is answered at once as FAIL = 1 (R344), and the answer here is none. -/
def State.pageRequest (s : State) (ctx va cause acc lid : Nat) (ws : List Waiter) : Option State :=
  let c := s.ctx ctx
  if c.prqBase = 0 then none
  else
    let page := va / 65536
    let perm := cause == 6
    let same (q : PageReq) : Bool := q.page == page && q.perm == perm
    if c.requests.any same then
      some (s.mapCtx ctx (fun c => { c with requests := c.requests.map (fun q =>
        if same q then { q with waiters := (q.waiters ++ ws).dedup } else q) }))
    else
      let q : PageReq := ⟨0, page, perm, acc, lid, s.ptime, false, ws⟩
      some ((s.mapCtx ctx (fun c => { c with requests := c.requests ++ [q] })).postRequests 1 ctx)

/-- A group stops at its next boundary; its waits are withdrawn (R347, R194). -/
def State.deschedule (s : State) (b g : Nat) : State :=
  (s.mapGroup b g (fun x => { x with desched := true })).mapBlock b (fun x =>
    x.mapThreads (fun t => if x.gidOf t.tidx = g then t.unwait else t))

/-- A translation fault of a thread (R347): its group leaves the schedulers and a request is posted, on which other groups that fault on
the page with it wait too (R348). Where there is no ring the block takes the fault as block-fatal (R344, R349). -/
def State.xlateFault (s : State) (b : Block) (t : Thread) (tr : Trap) (acc : Nat) (with' : List Nat) : State :=
  let g := b.gidOf t.tidx
  let acc' := acc + 16 * t.sup.toNat
  let ws := Waiter.group b.id g :: ((with'.dedup).filter (fun k => k != g)).map (Waiter.group b.id)
  match s.pageRequest b.decl.ctx tr.faddr.toNat tr.cause acc' b.decl.lid ws with
  | none => s.fatal b (s.entryFor b t.tidx tr 0)
  | some s' => (s'.deschedule b.id g).mapThread b.id t.tidx (fun t => { t with trap := some tr, wait := none })

/-! ### Taking a trap (R333 to R338) -/

/-- Handled causes. Log entry 64 (DEDUCED). -/
def handled (cause : Nat) : Bool := cause == 0x16 || cause == 0x12 || decide (0x0E ≤ cause ∧ cause ≤ 0x11)

def replayable (cause : Nat) : Bool := cause == 5 || cause == 6

def failOp (cause : Nat) : Bool := cause == 0xC || cause == 0xD

/-- %gstate as a thread reads it (R340). -/
def gstate (t : Thread) (g : Option Group) : W32 :=
  flagIf t.ppend 8#32 ||| flagIf t.inTrap 4#32 ||| flagIf t.sup 2#32 ||| flagIf ((g.map Group.step).getD false) 1#32

/-- The CAUSE word (R337). -/
def Trap.image (tr : Trap) : W32 :=
  BitVec.ofNat 32 (tr.cause + 256 * tr.half.toNat + 512 * tr.resume.toNat + 1024 * tr.write.toNat + 2048 * tr.fetch.toNat)

def up64 (n : Nat) : Nat := (n + 63) / 64 * 64

/-- Bytes of the save record of a group (R352). -/
def Block.groupSave (b : Block) (g : Nat) : Nat :=
  let groups := b.decl.nthr / b.decl.width
  let bytes := b.decl.scratch * 4096
  let share := (bytes + 16 * groups - 1) / (16 * groups) * 16
  b.decl.width * (4 * b.decl.regs + 16) + min share (bytes - g * share)

/-- Bytes reserved for a block's residue (R352). -/
def Block.residueSize (b : Block) : Nat := up64 (16384 + b.decl.slots * 78912)

/-- Where the save record of a group lies (R352). -/
def Block.groupAddr (b : Block) (g : Nat) : Nat :=
  b.saveAddr + b.residueSize + ((List.range g).map (fun i => up64 (b.groupSave i))).sum

/-- Bytes of the block record of R352. -/
def Block.recordSize (b : Block) : Nat :=
  b.residueSize + ((List.range (b.decl.nthr / b.decl.width)).map (fun i => up64 (b.groupSave i))).sum

/-- The trap frame of a thread at entry (R336). Log entry 63 (DEDUCED). -/
def trapFrame (b : Block) (t : Thread) (tr : Trap) : NMap W32 :=
  let g := b.gidOf t.tidx
  let save : W64 := if tr.cause = 0x11 then BitVec.ofNat 64 (b.groupAddr g) else 0
  let size : W32 := if tr.cause = 0x11 then BitVec.ofNat 32 (b.groupSave g) else 0
  let words : List W32 :=
    [tr.pc, tr.image, tr.detail, tr.faddr.extractLsb' 0 32, tr.faddr.extractLsb' 32 32, t.fst,
     t.xreg 0, t.xreg 1, t.xreg 2, t.xreg 3,
     t.b1.extractLsb' 0 32, t.b1.extractLsb' 32 32, t.b2.extractLsb' 0 32, t.b2.extractLsb' 32 32,
     t.b3.extractLsb' 0 32, t.b3.extractLsb' 32 32, gstate t (b.group? g),
     save.extractLsb' 0 32, save.extractLsb' 32 32, size]
  words.zipIdx.foldl (fun m (v, i) => NMap.put 0 m i v) []

/-- The handler's word index, where the context has a handler (R334), and CTXHANDLER and CODEBASE give one (R335). -/
def handlerPc (c : Context) (codebase : W64) : Option W32 :=
  let d : Int := (c.handler.toNat : Int) - codebase.toNat
  if c.handler ≠ 0 ∧ 0 ≤ d ∧ d % 12 = 0 ∧ d < 12 * 2 ^ 32 then some (BitVec.ofNat 32 (d / 12).toNat) else none

/-- TAKING AN EXCEPTION, last part: the counters are zero, so the frame is written, the thread becomes supervisor and
in-trap, and its PC goes to the handler (R335, steps 3 to 5). A handler that cannot be reached makes the trap
block-fatal. -/
def State.enterHandler (s : State) (b : Block) (t : Thread) (tr : Trap) : State :=
  match handlerPc (s.ctx b.decl.ctx) b.decl.codebase with
  | none => s.fatal b (s.entryFor b t.tidx tr 0)
  | some pc => s.mapThread b.id t.tidx (fun t => { t.writeTokens with
      frame := trapFrame b t.writeTokens tr, sup := true, inTrap := true, trap := none, wait := none, pc := pc })

/-- PREEMPT replaces the return of a thread in its handler (R342, R351): the frame keeps its return state, PPEND clears, and
the thread enters the handler again once its counters are zero. Log entry 63 (DEDUCED). -/
def State.preemptAgain (s : State) (b : Block) (t : Thread) : State :=
  let tr : Trap := { cause := 0x11, detail := 0, faddr := 0, pc := NMap.read 0 t.frame 0 }
  let frame (t : Thread) : NMap W32 :=
    let new := trapFrame b t tr
    [1, 2, 3, 4, 16, 17, 18, 19].foldl (fun m i => NMap.put 0 m i (NMap.read 0 new i)) t.frame
  if !t.cnt.none then s.mapThread b.id t.tidx (fun t => { t with ppend := false, trap := some tr, wait := none })
  else match handlerPc (s.ctx b.decl.ctx) b.decl.codebase with
    | none => s.fatal b (s.entryFor b t.tidx tr 0)
    | some pc => s.mapThread b.id t.tidx (fun t =>
        let t1 : Thread := { t.writeTokens with ppend := false }
        { t1 with frame := frame t1, trap := none, wait := none, pc := pc })

/-- A restored block runs again once every thread has executed its RESUME ERET, and its save record is free (R352,
R353). -/
def State.restoredTest (s : State) (blk : Nat) : State :=
  s.mapBlock blk (fun b =>
    if b.stage = .restoring ∧ b.threads.all (fun t => t.life == .exited || t.resumed) = true then
      { (b.mapThreads (fun t => { t with resumed := false })) with stage := .running, saveAddr := 0, saveSize := 0 }
    else b)

/-- A thread counts as inside its handler (R338). -/
def Thread.inside (t : Thread) : Bool :=
  t.inTrap || (t.trap.map (fun tr => handled tr.cause)).getD false

/-- TAKING AN EXCEPTION: a trap is delivered to a thread by its class (R334, R335, R338). A handled trap enters the
handler at once where the counters stand at 0, and otherwise when they have drained (TRAP_ENTRY). `acc` says what a
translation fault needed, and `with'` which groups of its bundle fault on the page. Log entry 61 (DEDUCED). -/
def State.takeTrap (s : State) (blk tidx : Nat) (tr : Trap) (acc : Nat := 0) (with' : List Nat := []) : State :=
  match s.block? blk with
  | none => s
  | some b =>
    match b.thread? tidx with
    | none => s
    | some t =>
      let double := if t.inside then 1 else 0
      if replayable tr.cause then s.xlateFault b t tr acc with'
      else if failOp tr.cause && b.stage != .prologue then s.failOperational b (s.entryFor b tidx tr double)
      else if tr.cause = 0x0F && t.inside then s
      else if tr.cause = 0x11 && t.inside then s.mapThread blk tidx (fun t => { t with ppend := true })
      else if !handled tr.cause || b.stage = .prologue || (s.ctx b.decl.ctx).handler = 0 then
        s.fatal b (s.entryFor b tidx tr double)
      else if t.inside then s.fatal b (s.entryFor b tidx tr 1)
      else if t.cnt.none then s.enterHandler b t.unwait tr
      else s.mapThread blk tidx (fun t => { t with trap := some tr, wait := none })

/-- A trap would end the block of its thread (R23, R334, R344). -/
def State.endsBlock (s : State) (b : Block) (t : Thread) (tr : Trap) : Bool :=
  let c := s.ctx b.decl.ctx
  if replayable tr.cause then c.prqBase == 0
  else if failOp tr.cause then true
  else if (tr.cause == 0x0F || tr.cause == 0x11) && t.inside then false
  else !handled tr.cause || b.stage == .prologue || c.handler == 0 || t.inside ||
    (t.cnt.none && (handlerPc c b.decl.codebase).isNone)

/-- What the summary says of a trap that ends a block (R370). -/
def State.endEntry (s : State) (b : Block) (tidx : Nat) (tr : Trap) : Block × FaultEntry :=
  let double := ((b.thread? tidx).map Thread.inside).getD false && !replayable tr.cause
  (b, s.entryFor b tidx tr double.toNat)

/-- Traps that are translation faults on one page for one cause. -/
def samePage (a b : Trap) : Bool := replayable a.cause && a.cause == b.cause && a.faddr.toNat / 65536 == b.faddr.toNat / 65536

/-- Of traps that end a block, those that count: a refused page request counts once, however many lanes need the page (R371). -/
def countedTraps : List (Nat × Trap × Nat) → List (Nat × Trap × Nat)
  | [] => []
  | d :: ds => d :: (countedTraps ds).filter (fun x => !samePage d.2.1 x.2.1)

/-- The traps of one bundle that end its block: the first takes effect, and each counts (R110, R371). -/
def State.endTraps (s : State) (blk : Nat) (ds : List (Nat × Trap × Nat)) : State :=
  match countedTraps ds with
  | [] => s
  | d :: rest =>
    let es := match s.block? blk with
      | some b => if s.replays blk then [] else rest.map (fun (x : Nat × Trap × Nat) => s.endEntry b x.1 x.2.1)
      | none => []
    es.foldl State.countFault (s.takeTrap blk d.1 d.2.1 d.2.2)

/-- Translation faults of one bundle that page requests serve: the groups that need a page wait together (R347, R348). -/
def State.serveTraps (s : State) (blk : Nat) (ds : List (Nat × Trap × Nat)) : State :=
  ds.foldl (fun s d => s.takeTrap blk d.1 d.2.1 d.2.2 (match s.block? blk with
    | some b => (ds.filter (fun x => samePage d.2.1 x.2.1)).map (fun x => b.gidOf x.1)
    | none => [])) s

/-- A translation fault in a block whose context has a page-request ring (R344). -/
def State.mayServe (s : State) (blk : Nat) (tr : Trap) : Bool :=
  replayable tr.cause && ((s.block? blk).map (fun b => (s.ctx b.decl.ctx).prqBase != 0)).getD false

/-- The translation faults of one bundle and the traps that end its block take effect behind its last lane (R110). -/
def State.takeTraps (s : State) (blk : Nat) (ds : List (Nat × Trap × Nat)) : State :=
  (s.serveTraps blk (ds.filter (fun d => s.mayServe blk d.2.1))).endTraps blk (ds.filter (fun d => !s.mayServe blk d.2.1))

/-- RETURN FROM AN EXCEPTION: ERET restores the frame and clears the supervisor and in-trap bits (R342). R123 does not say whether a slot
that ERET restores still counts as one that holds a TRN result: that the marks stay those of the handler's words is the model's choice
(log entry 121, DESIGN CHOICE). -/
def Thread.eret (t : Thread) : Thread :=
  let w (i : Nat) : W32 := NMap.read 0 t.frame i
  { t with
    pc := w 0, fst := w 5,
    ix := (List.range 4).foldl (fun m k => NMap.put 0 m k (w (6 + k))) t.ix,
    b1 := w 11 ++ w 10, b2 := w 13 ++ w 12, b3 := w 15 ++ w 14,
    sup := false, inTrap := false }

end Sys2Proof.Machine
end

