-- ==== Sys2Proof/Machine/Lanes.lean ====
section
/-! DEFINITION. How a word acts on the bundle that issues it: the checks of R109 in their order, then each lane by itself in
ascending TIDX (R110, R113, R117). -/

namespace Sys2Proof.Machine

/-- How a lane leaves a word: it completes at a next PC, it waits at the word, or it traps. -/
inductive LaneEnd where
  | done (s : State) (pc : W32)
  | stay (s : State)
  | trap (s : State) (tr : Trap) (acc : Nat)

/-- What the driver knows of a word besides its effect. `ctr` is the counter it raises (R125), `always` says that a lane
whose guard is false still acts, `noStep` that no STEP follows, `actNoStep` that none follows in a lane that acts (R382), `skip` which lanes pass at once (R254), `elected` that only the elected lane's operands are read (R275). -/
structure Plan where
  i : Instr
  w : Word
  f : Form
  ctr : Option Ctr := none
  always : Bool := false
  noStep : Bool := false
  actNoStep : Bool := false
  skip : Env → Bool := fun _ => false
  elected : Bool := false

/-- Opcodes that abort a section with cause ILLEGAL (R328). Log entry 46 (DEDUCED). -/
def sectionForbids (op : Nat) : Bool :=
  op == 7 || op == 0xD || op == 0xE || op == 0xF || decide (0x70 ≤ op ∧ op ≤ 0x77) || op == 0x85 || op == 0x86 ||
    op == 0x88 || decide (0x94 ≤ op ∧ op ≤ 0x96) || decide (0xA0 ≤ op ∧ op ≤ 0xA7) || decide (0xB0 ≤ op ∧ op ≤ 0xB9) ||
    decide (0xC0 ≤ op ∧ op ≤ 0xCA) || decide (0xD0 ≤ op ∧ op ≤ 0xD6) || op == 0xE0 || op == 0xE9 || op == 0xEC ||
    op == 0xED

/-- The major opcode of an instruction. -/
def opNum (i : Instr) : Nat := ((opcode i).map BitVec.toNat).getD 0

/-- Where the words of a block stand. A thread of a Massif core that serves no launch is firmware (R43, R388). -/
def Block.mode (b : Block) : Mode :=
  if b.stage ≠ .prologue then .kernel else if b.decl.lid = 0 then .firmware else .prologue

/-- Check 1 of R109: the detail of the ILLEGAL that the word raises in this block, or 0. The placement of an opcode (R43)
comes before the checks of the word, and a missing team level (R11) after them. -/
def illegalDetail (b : Block) (i : Instr) (team : Bool) : Nat :=
  if !opcodePlaced (opNum i) b.mode then 3
  else if checkInstr i ≠ 0 then checkInstr i
  else if team && b.decl.team == 0 then 10
  else 0

/-- A trap of the word itself. -/
def mkTrap (cause detail : Nat) (pc : W32) : Trap :=
  { cause := cause, detail := BitVec.ofNat 32 detail, faddr := 0, pc := pc }

/-- A thread yields: it steps aside for two bundles or 32 cc (R116). -/
def Thread.yields (t : Thread) : Thread := { t with yieldBundles := 2, yieldCc := 32 }

/-- A thread that has completed a word: it stands at a next PC and waits for nothing (R116, R123). Log entry 54 (DEDUCED). -/
def Thread.passed (t : Thread) (pc : W32) (yld : Bool) : Thread :=
  { t with
    pc := pc, wait := none,
    yieldBundles := if yld then 2 else t.yieldBundles, yieldCc := if yld then 32 else t.yieldCc,
    trnWords := t.trnWords + 1 }

/-- A lane completes: it stands at the next word, it steps aside if the word carries YLD (R116), and a STEP is due where its
group's step bit was set as the word issued (R382). Log entry 54 (DEDUCED). -/
def State.passLane (s : State) (blk tidx : Nat) (pc : W32) (yld step : Bool) : State × Option Trap :=
  let s1 := s.mapThread blk tidx (fun t => t.passed pc yld)
  match s1.thread? blk tidx with
  | some t =>
    if t.life ≠ .live || t.inTrap || !(step || t.stepDue) then (s1, none)
    else if (s1.sectionOf blk tidx).isSome then (s1.mapThread blk tidx (fun t => { t with stepDue := true }), none)
    else (s1.mapThread blk tidx (fun t => { t with stepDue := false }), some (mkTrap 0x0F 0 pc))
  | none => (s1, none)

/-- A lane completes and takes the STEP that is due. -/
def State.completeLane (s : State) (blk tidx : Nat) (pc : W32) (yld step : Bool) : State :=
  match s.passLane blk tidx pc yld step with
  | (s1, none) => s1
  | (s1, some tr) => s1.takeTrap blk tidx tr

/-- A lane waits at the word (R233). -/
def State.hold (s : State) (blk tidx : Nat) (w : Wait) : State := s.mapThread blk tidx (fun t => { t with wait := some w })

/-- A field names register r. A tuple whose width follows from a region counts as naming every register from its
first. -/
def Thread.touches (t : Thread) (u : Use) (o : Opd) (r : Nat) : Bool :=
  let n := match u with
    | .dst n _ => n
    | .dstPlain n => n
    | .src n _ _ => n
    | .plain n => n
    | _ => 0
  let any := match u with
    | .dst _ _ => true
    | .dstPlain _ => true
    | .src _ _ _ => true
    | .plain _ => true
    | _ => false
  match t.named o with
  | some b => any && decide (b ≤ r) && (n == 0 || decide (r < b + n))
  | none => false

/-- A field reads bypass slot i, with B1 as slot 0. -/
def readsSlot (u : Use) (o : Opd) (i : Nat) : Bool :=
  match u, o with
  | .src _ _ _, .special c => c.toNat == i + 1
  | _, _ => false

/-- The arrivals whose token is not written yet and whose register the word reads or writes, or whose slot it reads (R122,
R124, R237). -/
def Thread.awaited (t : Thread) (f : Form) (w : Word) : List Nat :=
  (t.tokens.filter (fun k => k.ev.isArrival && (
    readsSlot f.a w.a k.shifts || readsSlot f.b w.b k.shifts || readsSlot f.c w.c k.shifts ||
    match k.dst with
    | some r => t.touches f.d w.d r || t.touches f.a w.a r || t.touches f.b w.b r || t.touches f.c w.c r
    | none => false))).map Token.op

def Thread.awaits (t : Thread) (f : Form) (w : Word) : Bool := !(t.awaited f w).isEmpty

/-- A lane whose word carries YLD and takes a handled trap yields in its handler (R116). -/
def State.yieldAt (s : State) (blk tidx : Nat) (w : Word) (tr : Trap) : State :=
  if w.hnt.yld && handled tr.cause then s.mapThread blk tidx Thread.yields else s

/-- One lane of a bundle, from check 2 of R109 on: the state that it leaves, and the trap that it raises there. A word whose effect is a
handled trap has issued, so its YLD acts (R116). -/
def laneOut (p : Plan) (body : Bool → Env → State → LaneEnd) (steps : List Nat) (blk : Nat) (s : State) (tidx : Nat) :
    State × Option (Trap × Nat) :=
  match s.block? blk with
  | none => (s, none)
  | some b =>
    match b.thread? tidx with
    | none => (s, none)
    | some t =>
      let sec := s.sectionOf blk tidx
      let g := t.guard p.w.grd
      let step := steps.contains (b.gidOf tidx) && !p.noStep
      let pass (s : State) (pc : W32) (step : Bool) : State × Option (Trap × Nat) :=
        let r := s.passLane blk tidx pc p.w.hnt.yld step
        (r.1, r.2.map (fun tr => (tr, 0)))
      if p.f.sup && !t.sup then (s, some (mkTrap 2 0 t.pc, 0))
      else if b.decl.preds ≤ p.w.grd.pred.toNat then (s, some (mkTrap 3 0 t.pc, 0))
      else if sectionForbids (opNum p.i) && (sec.map Section.live).getD false then
        match sec with
        | some x => (s.abortSection x.cluster x.slot 7 none, none)
        | none => (s, none)
      else if (!g && !p.always) || p.skip ⟨b, t⟩ then pass s (t.pc + 1) step
      else if g && (p.ctr.map (fun c => decide (63 ≤ t.cnt.get c))).getD false then
        (s.hold blk tidx (.full (p.ctr.getD .ld)), none)
      else if g && !p.elected && t.awaits p.f p.w then (s.hold blk tidx (.token (t.awaited p.f p.w)), none)
      else if g && !p.elected && !t.rangesOk b.decl p.f p.w then (s, some (mkTrap 3 0 t.pc, 0))
      else match body g ⟨b, t⟩ s with
        | .done s' pc => pass s' pc (step && !p.actNoStep)
        | .stay s' => (s', none)
        | .trap s' tr acc => (s'.yieldAt blk tidx p.w tr, some (tr, acc))

/-- One lane of a bundle with the trap that it takes. -/
def lane (p : Plan) (body : Bool → Env → State → LaneEnd) (steps : List Nat) (blk : Nat) (s : State) (tidx : Nat) :
    State :=
  match laneOut p body steps blk s tidx with
  | (s', none) => s'
  | (s', some (tr, acc)) => s'.takeTrap blk tidx tr acc

/-- The lanes of a bundle in ascending TIDX. A translation fault, and a trap that ends the block, take effect behind the last lane, so the
other threads complete the word (R110, R347). -/
def runLanes (p : Plan) (body : Bool → Env → State → LaneEnd) (steps : List Nat) (blk : Nat) :
    List Nat → List (Nat × Trap × Nat) → State → State
  | [], ds, s => s.takeTraps blk ds
  | t :: ts, ds, s =>
    match laneOut p body steps blk s t with
    | (s', none) => runLanes p body steps blk ts ds s'
    | (s', some (tr, acc)) =>
      if replayable tr.cause || (((s'.block? blk).bind (fun b => (b.thread? t).map (fun x => s'.endsBlock b x tr))).getD false) then
        runLanes p body steps blk ts (ds ++ [(t, tr, acc)]) s'
      else runLanes p body steps blk ts ds (s'.takeTrap blk t tr acc)

/-- Groups whose step bit is set as a word issues. -/
def Block.stepping (b : Block) : List Nat := (b.groups.filter Group.step).map Group.gid

/-- The word has issued: the bundle is spent and the stream of free values moves on. -/
def State.endWord (s : State) : State := { s with latch := none, free := s.free + 1024 }

/-- A word acts on the bundle. With no bundle nothing happens. `post` sees the bundle and the state before. -/
def runWord (p : Plan) (body : Bool → Env → State → LaneEnd)
    (post : Bundle → State → State → State := fun _ _ s => s) (s : State) : Host.Outcome State Fault Refusal :=
  match s.latch with
  | none => .next s
  | some u =>
    match s.block? u.blk with
    | none => .next s.endWord
    | some b =>
      let d := illegalDetail b p.i p.f.team
      if d ≠ 0 then .next (s.takeTraps u.blk (u.lanes.map (fun t => (t, mkTrap 1 d u.pc, 0)))).endWord
      else .next (post u s (runLanes p body b.stepping u.blk u.lanes [] s)).endWord

/-- The form of an instruction that has a word of its own. -/
def formIn (i : Instr) : Form := ((formOf i).map Prod.snd).getD {}

/-- The plain plan of an instruction. -/
def planOf (i : Instr) (w : Word) : Plan := { i := i, w := w, f := formIn i }

/-- A word of the plain families: each lane computes a result from its own operands (R110). -/
def runAlu (i : Instr) (w : Word) (g : State → Env → Except (Nat × Nat) Res) (s : State) :
    Host.Outcome State Fault Refusal :=
  runWord (planOf i w) (fun _ e s =>
    match g s e with
    | .ok r => .done (s.mapThread e.blk.id e.th.tidx (fun t => t.apply w r)) (e.th.pc + 1)
    | .error (c, d) => .trap s (mkTrap c d e.th.pc) 0) (fun _ _ s => s) s

/-- A word of the plain families whose result follows from the operands alone. -/
def runPure (i : Instr) (w : Word) (g : Env → Res) (s : State) : Host.Outcome State Fault Refusal :=
  runAlu i w (fun _ e => .ok (g e)) s

/-- A counted operation is issued (R125). -/
def State.issueOp (s : State) (b t : Nat) (c : Ctr) (pc : W32) (a : Act)
    (slot : Option Nat := none) : State :=
  let s' := { s with seq := s.seq + 1 }
  s'.mapThread b t (fun t => { t with cnt := t.cnt.add c, pend := t.pend ++ [⟨s.seq, c, pc, a, slot⟩] })

/-- A counted operation is over (R125). -/
def State.finishOp (s : State) (b t op : Nat) : State :=
  s.mapThread b t (fun t =>
    match t.pend.find? (fun p => p.op == op) with
    | some p => { t with cnt := t.cnt.sub p.ctr, pend := t.pend.filter (fun p => p.op != op) }
    | none => t)

/-- A trap of a memory access. -/
def memTrap (cause : Nat) (detail : W32) (va : Nat) (pc : W32) (write : Bool) : Trap :=
  { cause := cause, detail := detail, faddr := BitVec.ofNat 64 va, pc := pc, write := write }

end Sys2Proof.Machine
end

