-- ==== Sys2Proof/Machine/Integer.lean ====
section
/-! DEFINITION. Integer, address, logic and predicate instructions (chapter 08, R151 to R168). -/

namespace Sys2Proof.Machine

/-! ### Values -/

/-- The type in MOD[2:0] (R93). -/
def typeOf (w : Word) : ITy := ITy.ofCode (modF w 0 3)

/-- The position of a type's 64-bit operands (R100). Log entry 16 (DEDUCED). -/
def ITy.pos (t : ITy) : Pos := if t.signed then .signed else .unsigned

/-- Int(X, TYPE) of an operand (R153). -/
def Env.int (e : Env) (t : ITy) (o : Opd) (imm : W32) : Int :=
  if t.w = 64 then t.value (e.dword t.pos o imm).toNat else t.value (e.word o imm).toNat

/-- An unsigned operand of 32 or 64 bits. -/
def Env.bitsOf (e : Env) (n : Nat) (o : Opd) (imm : W32) : Nat :=
  if n = 64 then (e.dword .unsigned o imm).toNat else (e.word o imm).toNat

/-- A register result from a number of n bits. -/
def resOf (n v : Nat) : Res := { regs := some (natWords (n / 32) v) }

/-- D := x mod 2^w, clamped first where SAT is set (R153). -/
def intResult (t : ITy) (sat : Bool) (x : Int) : Nat := t.image (if sat then t.clamp x else x)

/-- The mould of R152. -/
def arith (op : ITy → Int → Int → Int) (w : Word) (e : Env) : Res :=
  let t := typeOf w
  resOf t.w (intResult t (modB w 3) (op t (e.int t w.a w.imm) (e.int t w.b w.imm)))

/-- Truncated quotient and remainder (R154). -/
def quotient (t : ITy) (a b : Int) : Int := if b = 0 then (if t.signed then -1 else t.max) else a.tdiv b
def remainder (_ : ITy) (a b : Int) : Int := if b = 0 then a else a.tmod b

def mulHigh (t : ITy) (a b : Int) : Int := (a * b) / (2 ^ t.w : Nat)

/-! ### The two-source mould (R152 to R154) -/

def execIadd (w : Word) (s : State) := runPure (.iadd w) w (arith (fun _ a b => a + b) w) s
def execIsub (w : Word) (s : State) := runPure (.isub w) w (arith (fun _ a b => a - b) w) s
def execImul (w : Word) (s : State) := runPure (.imul w) w (arith (fun _ a b => a * b) w) s
def execImulh (w : Word) (s : State) := runPure (.imulh w) w (arith mulHigh w) s
def execImin (w : Word) (s : State) := runPure (.imin w) w (arith (fun _ a b => min a b) w) s
def execImax (w : Word) (s : State) := runPure (.imax w) w (arith (fun _ a b => max a b) w) s
def execIabs (w : Word) (s : State) := runPure (.iabs w) w (arith (fun _ a _ => |a|) w) s
def execIdiv (w : Word) (s : State) := runPure (.idiv w) w (arith quotient w) s
def execIrem (w : Word) (s : State) := runPure (.irem w) w (arith remainder w) s

/-! ### Three sources (R155) -/

def imadRes (w : Word) (e : Env) : Res :=
  let t := typeOf w
  resOf t.w (intResult t (modB w 3) (e.int t w.a 0 * e.int t w.b 0 + e.int t w.c 0))

def execImad (w : Word) (s : State) := runPure (.imad w) w (imadRes w) s

def imadwRes (w : Word) (e : Env) : Res :=
  let t := typeOf w
  let t2 : ITy := ⟨t.signed, 64⟩
  resOf 64 (intResult t2 (modB w 3) (e.int t w.a 0 * e.int t w.b 0 + e.int t2 w.c 0))

def execImadw (w : Word) (s : State) := runPure (.imadw w) w (imadwRes w) s

/-- Byte i of a word, with the signedness of IDOT4. -/
def byteInt (signed : Bool) (v : W32) (i : Nat) : Int := (ITy.mk signed 8).value (v.extractLsb' (8 * i) 8).toNat

def idot4Res (w : Word) (e : Env) : Res :=
  let t : ITy := ⟨true, 32⟩
  let a := e.word w.a 0
  let b := e.word w.b 0
  let p (i : Nat) : Int := byteInt (modB w 0) a i * byteInt (modB w 1) b i
  resOf 32 (intResult t (modB w 3) (e.int t w.c 0 + p 0 + p 1 + p 2 + p 3))

def execIdot4 (w : Word) (s : State) := runPure (.idot4 w) w (idot4Res w) s

def isadRes (w : Word) (e : Env) : Res :=
  let t := typeOf w
  let u : ITy := ⟨false, 32⟩
  resOf 32 (intResult u (modB w 3) (e.int u w.c 0 + |e.int t w.a 0 - e.int t w.b 0|))

def execIsad (w : Word) (s : State) := runPure (.isad w) w (isadRes w) s

/-! ### Carries and addresses (R156, R157) -/

def iaddcRes (w : Word) (e : Env) : Res :=
  let cin := e.th.pred (immF w 0 7) != immB w 7
  let b := e.word w.b 0
  let x := (e.word w.a 0).toNat + (if modB w 0 then ~~~b else b).toNat + cin.toNat
  { resOf 32 (x % 2 ^ 32) with preds := [(immF w 8 7, decide (2 ^ 32 ≤ x))] }

def execIaddc (w : Word) (s : State) := runPure (.iaddc w) w (iaddcRes w) s

def leaRes (w : Word) (e : Env) : Res :=
  let b := e.word w.b w.imm
  let off : W64 := if modB w 3 then b.signExtend 64 else b.setWidth 64
  resOf 64 (e.dword .unsigned w.a w.imm + (off <<< modF w 0 3)).toNat

def execLea (w : Word) (s : State) := runPure (.lea w) w (leaRes w) s

/-! ### Bits (R158) -/

/-- The width that W64 chooses. -/
def bitsW (w : Word) : Nat := if modB w 8 then 64 else 32

def shlN (n a c : Nat) : Nat := if n ≤ c then 0 else (a <<< c) % 2 ^ n
def shrN (n a c : Nat) : Nat := if n ≤ c then 0 else a >>> c
def sarN (n a c : Nat) : Nat := (ITy.mk true n).image ((ITy.mk true n).value a / (2 ^ (min c n) : Nat))
def rotlN (n a c : Nat) : Nat := ((a <<< (c % n)) ||| (a >>> (n - c % n))) % 2 ^ n

def shiftRes (op : Nat → Nat → Nat → Nat) (w : Word) (e : Env) : Res :=
  resOf (bitsW w) (op (bitsW w) (e.bitsOf (bitsW w) w.a w.imm) (e.word w.b w.imm).toNat)

def execShl (w : Word) (s : State) := runPure (.shl w) w (shiftRes shlN w) s
def execShr (w : Word) (s : State) := runPure (.shr w) w (shiftRes shrN w) s
def execSar (w : Word) (s : State) := runPure (.sar w) w (shiftRes sarN w) s
def execRotl (w : Word) (s : State) := runPure (.rotl w) w (shiftRes rotlN w) s

def popN (n a : Nat) : Nat := ((List.range n).filter (fun i => a.testBit i)).length
def clzN (n a : Nat) : Nat := if a = 0 then n else n - 1 - Nat.log2 a
def brevN (n a : Nat) : Nat := ((List.range n).map (fun i => if a.testBit (n - 1 - i) then 2 ^ i else 0)).sum
def ffsN (n a : Nat) : Nat := ((List.range n).find? (fun i => a.testBit i)).getD 0xFFFFFFFF

/-- One-source operations: the result has `out` bits. -/
def unaryRes (op : Nat → Nat → Nat) (narrow : Bool) (w : Word) (e : Env) : Res :=
  resOf (if narrow then 32 else bitsW w) (op (bitsW w) (e.bitsOf (bitsW w) w.a w.imm))

def execPopc (w : Word) (s : State) := runPure (.popc w) w (unaryRes popN true w) s
def execClz (w : Word) (s : State) := runPure (.clz w) w (unaryRes clzN true w) s
def execBrev (w : Word) (s : State) := runPure (.brev w) w (unaryRes brevN false w) s
def execFfs (w : Word) (s : State) := runPure (.ffs w) w (unaryRes ffsN true w) s
def execMov (w : Word) (s : State) := runPure (.mov w) w (unaryRes (fun _ a => a) false w) s

def movwRes (w : Word) (e : Env) : Res := { regs := some [e.word w.a w.imm, e.word w.b w.imm] }

def execMovw (w : Word) (s : State) := runPure (.movw w) w (movwRes w) s

def selRes (w : Word) (e : Env) : Res :=
  let n := bitsW w
  resOf n (if e.th.pred (modF w 0 7) != modB w 7 then e.bitsOf n w.a w.imm else e.bitsOf n w.b w.imm)

def execSel (w : Word) (s : State) := runPure (.sel w) w (selRes w) s

/-! ### LUT3, FUNNEL, BFI, BFX, BPRM (R159 to R161) -/

/-- A three-input table applied to each bit of n. -/
def lutN (n lut a b c : Nat) : Nat :=
  ((List.range n).map (fun j =>
    if lut.testBit (4 * (a.testBit j).toNat + 2 * (b.testBit j).toNat + (c.testBit j).toNat) then 2 ^ j else 0)).sum

def lut3Res (w : Word) (e : Env) : Res :=
  let n := bitsW w
  resOf n (lutN n (immF w 10 8) (e.bitsOf n w.a 0) (e.bitsOf n w.b 0) (e.bitsOf n w.c 0))

def execLut3 (w : Word) (s : State) := runPure (.lut3 w) w (lut3Res w) s

def funnelRes (w : Word) (e : Env) : Res :=
  let k := (e.word w.c 0).toNat
  let c := if modB w 1 then min k 32 else k % 32
  let x := (e.word w.b 0).toNat * 2 ^ 32 + (e.word w.a 0).toNat
  resOf 32 (if modB w 0 then (x <<< c) / 2 ^ 32 % 2 ^ 32 else (x >>> c) % 2 ^ 32)

def execFunnel (w : Word) (s : State) := runPure (.funnel w) w (funnelRes w) s

def bfiRes (w : Word) (e : Env) : Res :=
  let n := bitsW w
  let k := e.word w.c 0
  let pos := (k.extractLsb' 0 8).toNat
  let len := min (k.extractLsb' 8 8).toNat (n - pos)
  let mask := (2 ^ len - 1) <<< pos
  let b := e.bitsOf n w.b 0
  resOf n ((b - (b &&& mask)) ||| ((e.bitsOf n w.a 0 <<< pos) &&& mask))

def execBfi (w : Word) (s : State) := runPure (.bfi w) w (bfiRes w) s

def bfxRes (w : Word) (e : Env) : Res :=
  let t := typeOf w
  let k := e.word w.b w.imm
  let pos := (k.extractLsb' 0 8).toNat
  let len := (k.extractLsb' 8 8).toNat
  let a := if t.w = 64 then (e.dword t.pos w.a w.imm).toNat else (e.word w.a w.imm).toNat
  if len = 0 ∨ t.w ≤ pos then resOf t.w 0
  else
    let n := min len (t.w - pos)
    resOf t.w (t.image ((ITy.mk t.signed n).value ((a >>> pos) % 2 ^ n)))

def execBfx (w : Word) (s : State) := runPure (.bfx w) w (bfxRes w) s

/-- Result byte i of BPRM under its 5-bit control. -/
def bprmByte (src k : Nat) : Nat :=
  let b := src / 256 ^ (k % 8) % 256
  if k / 8 = 0 then b else if k / 8 = 1 then (if 128 ≤ b then 255 else 0) else 0

def bprmRes (w : Word) (e : Env) : Except (Nat × Nat) Res :=
  let ctl := if modB w 0 then (e.word w.c 0).toNat % 2 ^ 20 else immF w 0 20
  let k (i : Nat) : Nat := ctl / 32 ^ i % 32
  let src := (e.word w.b 0).toNat * 2 ^ 32 + (e.word w.a 0).toNat
  if (List.range 4).any (fun i => k i / 8 == 3) then .error (1, 10)
  else .ok (resOf 32 (((List.range 4).map (fun i => bprmByte src (k i) * 256 ^ i)).sum))

def execBprm (w : Word) (s : State) := runAlu (.bprm w) w (fun _ e => bprmRes w e) s

/-! ### Comparisons and classes (R162 to R164) -/

/-- CMB of R162. -/
def combine (c : Nat) (p t : Bool) : Bool :=
  if c = 0 then t else if c = 1 then p && t else if c = 2 then p || t else p != t

/-- A predicate result combined with the predicate's value. -/
def cmpPred (w : Word) (e : Env) (i : Nat) (t : Bool) : Nat × Bool :=
  let d := (e.th.named w.d).getD 0 + i
  (d, combine (modF w 8 2) (e.th.pred d) t)

def icmpRes (w : Word) (e : Env) : Res :=
  let t := typeOf w
  { preds := [cmpPred w e 0 (relation (modF w 3 3) (compare (e.int t w.a w.imm) (e.int t w.b w.imm)))] }

def execIcmp (w : Word) (s : State) := runPure (.icmp w) w (icmpRes w) s

def fcmpRes (w : Word) (e : Env) : Res :=
  let (t, fl) := compareF .f32 (modB w 7) (modF w 3 3) (e.word w.a w.imm).toNat (e.word w.b w.imm).toNat
  { preds := [cmpPred w e 0 t], flags := fl }

def execFcmp (w : Word) (s : State) := runPure (.fcmp w) w (fcmpRes w) s

def dcmpRes (w : Word) (e : Env) : Res :=
  let (t, fl) := compareF .f64 false (modF w 3 3) (e.dword .double w.a w.imm).toNat (e.dword .double w.b w.imm).toNat
  { preds := [cmpPred w e 0 t], flags := fl }

def execDcmp (w : Word) (s : State) := runPure (.dcmp w) w (dcmpRes w) s

/-- The 16-bit format of FMT. -/
def halfFmt (bf : Bool) : Fmt := if bf then .bf16 else .f16

/-- Element i of two packed 16-bit codes (R130). -/
def half16 (v : W32) (i : Nat) : Nat := (v.extractLsb' (16 * i) 16).toNat

def hcmp2Res (w : Word) (e : Env) : Res :=
  let f := halfFmt (modB w 6)
  let a := e.word w.a w.imm
  let b := e.word w.b w.imm
  let t0 := compareF f (modB w 7) (modF w 3 3) (half16 a 0) (half16 b 0)
  let t1 := compareF f (modB w 7) (modF w 3 3) (half16 a 1) (half16 b 1)
  { preds := [cmpPred w e 0 t0.1, cmpPred w e 1 t1.1], flags := t0.2 ||| t1.2 }

def execHcmp2 (w : Word) (s : State) := runPure (.hcmp2 w) w (hcmp2Res w) s

/-- The class bit of a code (R164). -/
def classBit (f : Fmt) (c : Nat) : Nat :=
  match f.value c with
  | .nan _ sig _ => if sig then 8 else 9
  | .inf n => if n then 0 else 7
  | .fin n q =>
    if q = 0 then (if n then 3 else 4)
    else if f.subnormal c then (if n then 2 else 5)
    else if n then 1 else 6

def fclassRes (w : Word) (e : Env) : Res :=
  let k := modF w 0 2
  let c :=
    if k = 3 then classBit .f64 (e.dword .double w.a w.imm).toNat
    else if k = 0 then classBit .f32 (e.word w.a w.imm).toNat
    else classBit (halfFmt (k == 2)) (half16 (e.word w.a w.imm) (modB w 2).toNat)
  resOf 32 (2 ^ c)

def execFclass (w : Word) (s : State) := runPure (.fclass w) w (fclassRes w) s

/-! ### Predicates (R165 to R167) -/

/-- The predicate that a field names. -/
def Env.predOf (e : Env) (o : Opd) : Bool := e.th.pred ((e.th.named o).getD 0)

def plopRes (w : Word) (e : Env) : Res :=
  let i := 4 * (e.predOf w.a).toNat + 2 * (e.predOf w.b).toNat + (e.predOf w.c).toNat
  { preds := [((e.th.named w.d).getD 0, (immF w 10 8).testBit i)] }

def execPlop (w : Word) (s : State) := runPure (.plop w) w (plopRes w) s

def p2vRes (w : Word) (e : Env) : Res :=
  let a := (e.th.named w.a).getD 0
  resOf 32 (((List.range (modF w 0 5 + 1)).map (fun i => if e.th.pred (a + i) then 2 ^ i else 0)).sum)

def execP2v (w : Word) (s : State) := runPure (.p2v w) w (p2vRes w) s

def v2pRes (w : Word) (e : Env) : Res :=
  let d := (e.th.named w.d).getD 0
  let v := e.word w.a w.imm
  { preds := (List.range (modF w 0 5 + 1)).map (fun i => (d + i, v.getLsbD i)) }

def execV2p (w : Word) (s : State) := runPure (.v2p w) w (v2pRes w) s

/-- TQk of a group; TQ0 reads true (R167). -/
def Group.tile (g : Group) (k : Nat) : Bool := k == 0 || g.tq.getLsbD k

/-- TQk := v; a write to TQ0 is discarded (R167). -/
def Group.setTile (g : Group) (k : Nat) (v : Bool) : Group :=
  if k = 0 then g
  else { g with tq := if v then g.tq ||| (1#16 <<< k) else g.tq &&& ~~~(1#16 <<< k) }

/-- TQk of a lane's group. -/
def Env.tile (e : Env) (k : Nat) : Bool := ((e.blk.group? e.gid).map (fun g => g.tile k)).getD true

/-- TQSET writes one at a time, in ascending lane (R167). -/
def execTqset (w : Word) (s : State) : Host.Outcome State Fault Refusal :=
  runWord (planOf (.tqset w) w) (fun _ e s =>
    let k := (e.th.named w.d).getD 0
    let v := e.predOf w.a != modB w 7
    .done (s.mapGroup e.blk.id e.gid (fun g => g.setTile k (combine (modF w 8 2) (g.tile k) v))) (e.th.pc + 1))
    (fun _ _ s => s) s

def tqgetRes (w : Word) (e : Env) : Res :=
  { preds := [((e.th.named w.d).getD 0, e.tile ((e.th.named w.a).getD 0))] }

def execTqget (w : Word) (s : State) := runPure (.tqget w) w (tqgetRes w) s

end Sys2Proof.Machine
end

