-- ==== Sys2Proof/Machine/Special.lean ====
section
/-! DEFINITION. The special functions (R183, R184). The manual gives a bound on each result and no value: a free value
chooses among the results within the bound (log entry 8). Rational enclosures of the exact value, far narrower than an f32 step,
tell which results those are. -/

namespace Sys2Proof.Machine

/-- An enclosure of an exact value: lower and upper end. -/
structure Enc where
  lo : Rat
  hi : Rat
  deriving DecidableEq, Repr

/-- The scale of fixed-point work: 192 fraction bits. -/
def fixOne : Nat := 2 ^ 192

/-- π in 400 fraction bits, rounded down. -/
def piBits : Nat :=
  0x3243f6a8885a308d313198a2e03707344a4093822299f31d0082efa98ec4e6c89452821e638d01377be5466cf34e90c6cc0ac

/-- ln 2 in 224 fraction bits, rounded down. -/
def ln2Bits : Nat := 0xb17217f7d1cf79abc9e3b39803f2f6af40f343267298b62d8a0d175b

/-- The slack, in units of the fixed-point scale, that covers every truncation of the series below. -/
def slack : Nat := 2 ^ 12

/-- Terms of the exponential series from the n-th. -/
def expTerms (y : Nat) : Nat → Nat → Nat → Nat
  | 0, _, _ => 0
  | k + 1, n, t =>
    let t' := t * y / fixOne / n
    t' + expTerms y k (n + 1) t'

/-- e to y for 0 ≤ y < 1 in fixed point, rounded down within the slack. -/
def expFix (y : Nat) : Nat := fixOne + expTerms y 50 1 fixOne

/-- Terms of the sine or cosine series: the sign alternates, and n counts factorial factors. -/
def trigTerms (r : Nat) : Nat → Nat → Nat → Int
  | 0, _, _ => 0
  | k + 1, n, t =>
    let t' := t * r / fixOne * r / fixOne / (n * (n + 1))
    (t' : Int) - trigTerms r k (n + 2) t'

def sinFix (r : Nat) : Int := (r : Int) - trigTerms r 30 2 r

def cosFix (r : Nat) : Int := (fixOne : Int) - trigTerms r 30 1 fixOne

/-- Terms of the inverse hyperbolic tangent series. -/
def atanhTerms (zz : Nat) : Nat → Nat → Nat → Nat
  | 0, _, _ => 0
  | k + 1, n, t => t / n + atanhTerms zz k (n + 2) (t * zz / fixOne)

/-- A fixed-point number and its slack as an enclosure. -/
def encFix (x : Int) : Enc := ⟨((x - slack : Int) : Rat) / fixOne, ((x + slack : Int) : Rat) / fixOne⟩

/-- 2 to x. -/
def encExp2 (x : Rat) : Enc :=
  if 0 < x ∧ x < pow2 (-40) then ⟨1 + x / 2, 1 + x⟩
  else if x < 0 ∧ -pow2 (-40) < x then ⟨1 + x, 1 + x / 2⟩
  else
    let n := x.floor
    let f := ((x - n) * fixOne).floor.toNat
    let e := encFix (expFix (f * ln2Bits / 2 ^ 224))
    ⟨e.lo * pow2 n, e.hi * pow2 n⟩

/-- e to x, for moderate x. -/
def encExp (x : Rat) : Enc :=
  let n := (x * 2 ^ 224 / ln2Bits).floor
  let g := ((x - n * (ln2Bits : Rat) / 2 ^ 224) * fixOne).floor.toNat
  let e := encFix (expFix g)
  ⟨e.lo * pow2 n, e.hi * pow2 n⟩

/-- log2 x of a positive x that is no power of two. -/
def encLog2 (x : Rat) : Enc :=
  let n := log2Rat x
  let m := x * pow2 (-n)
  let z := ((m - 1) / (m + 1) * fixOne).floor.toNat
  let a := atanhTerms (z * z / fixOne) 64 1 z
  let e := encFix ((2 * a * 2 ^ 224 / ln2Bits : Nat) : Int)
  ⟨n + e.lo, n + e.hi⟩

/-- tanh x for x > 0. -/
def encTanh (x : Rat) : Enc :=
  if x < pow2 (-20) then
    let c := x - x ^ 3 / 3
    ⟨c, c + 2 * x ^ 5 / 15⟩
  else if 50 < x then ⟨1 - pow2 (-100), 1⟩
  else
    let e := encExp (2 * x)
    ⟨(e.lo - 1) / (e.lo + 1), (e.hi - 1) / (e.hi + 1)⟩

/-- The logistic function of x ≠ 0. -/
def encSigm (x : Rat) : Enc :=
  if -pow2 (-20) < x ∧ x < pow2 (-20) then
    let c := 1 / 2 + x / 4
    let d := |x| ^ 3 / 48
    if 0 < x then ⟨c - d, c⟩ else ⟨c, c + d⟩
  else if 100 < x then ⟨1 - pow2 (-100), 1⟩
  else if x < -150 then ⟨pow2 (-400), pow2 (-151)⟩
  else
    let e := encExp x
    ⟨e.lo / (1 + e.lo), e.hi / (1 + e.hi)⟩

/-- The sine (or cosine) of a finite x ≠ 0: the reduction modulo π/2 keeps 400 bits of π. -/
def encTrig (cosine : Bool) (x : Rat) : Enc :=
  if |x| < pow2 (-30) then
    if cosine then ⟨1 - x ^ 2 / 2, 1 - x ^ 2 / 2 + x ^ 4 / 24⟩
    else
      let c := |x| - |x| ^ 3 / 6
      let d := |x| ^ 5 / 120
      if 0 < x then ⟨c, c + d⟩ else ⟨-c - d, -c⟩
  else
    let half : Rat := (piBits : Rat) / 2 ^ 401
    let k := (|x| / half).floor
    let r := ((|x| - k * half) * fixOne).floor.toNat
    let q := (k.toNat + cosine.toNat) % 4
    let v := if q % 2 = 0 then sinFix r else cosFix r
    let v := if 2 ≤ q then -v else v
    encFix (if x < 0 ∧ cosine = false then -v else v)

/-- A signed rational rounded to an f32 code. -/
def codeOf (r : Rnd) (q : Rat) : Nat := (roundTo .f32 r false (decide (q < 0)) |q|).1

/-- A result delivered within its bound (R184): FTZ flushes a tiny one, and a zero delivered for a nonzero exact value
sets UF and NX. -/
def deliver32 (ftz : Bool) (c : Nat) : Nat × W32 :=
  if c % 2 ^ 31 = 0 then (c, flagUF ||| flagNX)
  else if ftz && Fmt.f32.subnormal c then (c / 2 ^ 31 * 2 ^ 31, flagUF ||| flagNX)
  else (c, 0)

/-- A faithful result: one of the two codes that bracket the exact value, as the free value says. Log entry 8 (DESIGN CHOICE). -/
def faithful (ftz : Bool) (e : Enc) (fr : Nat) : Nat × W32 :=
  deliver32 ftz (if fr % 2 = 0 then codeOf .rd e.lo else codeOf .ru e.hi)

/-- A result within 0.75 ulp: the one that the free value names of the codes that are near enough, which are among the two that bracket the
exact value and their neighbours. -/
def within75 (ftz : Bool) (e : Enc) (fr : Nat) : Nat × W32 :=
  let dn := codeOf .rd e.lo
  let up := codeOf .ru e.hi
  let ulp := pow2 (max (log2Rat (max |e.lo| |e.hi|)) (-126) - 23)
  let near (c : Nat) : Bool :=
    let v := (Fmt.f32.value c).toRat
    decide (|v - e.lo| ≤ 3 / 4 * ulp) && decide (|v - e.hi| ≤ 3 / 4 * ulp)
  let all := ([dn, up, dn - 1, dn + 1, up - 1, up + 1].filter (fun c =>
    (c / 2 ^ 31 == dn / 2 ^ 31 || c / 2 ^ 31 == up / 2 ^ 31) && decide (c % 2 ^ 31 < 0x7F800000) && near c)).dedup
  deliver32 ftz (all.getD (fr % all.length) dn)

/-- The bits of the square root of n from bit k down, above a. -/
def sqrtBits (n : Nat) : Nat → Nat → Nat
  | 0, a => a
  | k + 1, a => if (a + 2 ^ k) * (a + 2 ^ k) ≤ n then sqrtBits n k (a + 2 ^ k) else sqrtBits n k a

/-- RSQS of a positive finite x: the code the free value names if |result − 1/√x| ≤ 2⁻¹⁴/√x, else a nearest one. -/
def rsqsFin (ftz : Bool) (x : Rat) (fr : Nat) : Nat × W32 :=
  let c := fr % 2 ^ 31
  let ok : Bool := match Fmt.f32.value c with
    | .fin _ y => decide ((1 - pow2 (-14)) ^ 2 ≤ y ^ 2 * x) && decide (y ^ 2 * x ≤ (1 + pow2 (-14)) ^ 2)
    | _ => false
  let root : Rat := (sqrtBits (1 / x * 2 ^ 256).floor.toNat 220 0 : Nat) / 2 ^ 128
  deliver32 ftz (if ok then c else codeOf .rn root)

/-- RCPS of a finite nonzero x, with the sign apart. -/
def rcpsFin (ftz neg : Bool) (x : Rat) (fr : Nat) : Nat × W32 :=
  let y := 1 / x
  if Fmt.f32.maxMag < y then (Fmt.f32.infCode neg, flagOF ||| flagNX)
  else
    let c := fr % 2 ^ 31
    let ok : Bool := match Fmt.f32.value c with
      | .fin _ v => decide (|v - y| ≤ max (pow2 (-14) * y) (pow2 (-149)))
      | _ => false
    deliver32 ftz (Fmt.f32.signBit neg + if ok then c else codeOf .rn y)

/-- The eight special functions. -/
inductive SFun where
  | rsqs | rcps | sinr | cosr | ex2 | lg2 | tnh | sigm
  deriving DecidableEq, Repr

/-- The code of 1.0 and its negative, of 0.5. -/
def oneF32 : Nat := 0x3F800000
def halfF32 : Nat := 0x3F000000

/-- The result of a special function with its flags (R184). Log entry 8 (DESIGN CHOICE). -/
def special (g : SFun) (ftz : Bool) (code : Nat) (fr : Nat) : Nat × W32 :=
  let canon := (Fmt.f32.canon, flagNV)
  let inf (n : Bool) := Fmt.f32.infCode n
  match readF .f32 ftz code with
  | .nan _ sig _ => (Fmt.f32.canon, flagIf sig flagNV)
  | .inf n =>
    match g with
    | .rsqs => if n then canon else (0, 0)
    | .rcps => (Fmt.f32.signBit n, 0)
    | .sinr => canon
    | .cosr => canon
    | .ex2 => if n then (0, 0) else (inf false, 0)
    | .lg2 => if n then canon else (inf false, 0)
    | .tnh => (Fmt.f32.signBit n + oneF32, 0)
    | .sigm => if n then (0, 0) else (oneF32, 0)
  | .fin n m =>
    if m = 0 then
      match g with
      | .rsqs => (inf n, flagDZ)
      | .rcps => (inf n, flagDZ)
      | .sinr => (Fmt.f32.signBit n, 0)
      | .cosr => (oneF32, 0)
      | .ex2 => (oneF32, 0)
      | .lg2 => (inf true, flagDZ)
      | .tnh => (Fmt.f32.signBit n, 0)
      | .sigm => (halfF32, 0)
    else
      let x := if n then -m else m
      match g with
      | .rsqs => if n then canon else rsqsFin ftz m fr
      | .rcps => rcpsFin ftz n m fr
      | .sinr => within75 ftz (encTrig false x) fr
      | .cosr => within75 ftz (encTrig true x) fr
      | .ex2 =>
        if 128 ≤ x then (inf false, flagOF ||| flagNX)
        else if x ≤ -150 then (0, flagUF ||| flagNX)
        else if x = x.floor then deliver32 ftz (codeOf .rn (pow2 x.floor))
        else faithful ftz (encExp2 x) fr
      | .lg2 =>
        if n then canon
        else if pow2 (log2Rat m) = m then (codeOf .rn (log2Rat m), 0)
        else faithful ftz (encLog2 m) fr
      | .tnh =>
        let (c, fl) := faithful ftz (encTanh m) fr
        (Fmt.f32.signBit n + c, fl)
      | .sigm => faithful ftz (encSigm x) fr

end Sys2Proof.Machine
end

