-- ==== Sys2Proof/Machine/Float.lean ====
section
/-! DEFINITION. Floating-point, conversion and special-function instructions (chapter 09, R169 to R184). -/

namespace Sys2Proof.Machine

/-- RND and FTZ (R92). -/
def rndOf (w : Word) : Rnd := Rnd.ofCode (modF w 8 2)
/-- Log entry 20 (DEDUCED). -/
def ftzOf (w : Word) : Bool := modB w 7

/-- A floating result of n registers with its flags. -/
def fRes (n : Nat) (r : Nat × W32) : Res := { regs := some (natWords n r.1), flags := r.2 }

/-! ### Operations on codes, shared by the formats and by the halves of the paired word (R171, R174) -/

def addCode (f : Fmt) (r : Rnd) (ftz na nb : Bool) (a b : Nat) : Nat × W32 :=
  finish f r ftz (sumV r [(readF f ftz a).flipIf na, (readF f ftz b).flipIf nb])

def mulCode (f : Fmt) (r : Rnd) (ftz neg : Bool) (a b : Nat) : Nat × W32 :=
  finish f r ftz ((mulV (readF f ftz a) (readF f ftz b)).flipIf neg)

def fmaCode (f : Fmt) (r : Rnd) (ftz np nc : Bool) (a b c : Nat) : Nat × W32 :=
  finish f r ftz (sumV r [(mulV (readF f ftz a) (readF f ftz b)).flipIf np, (readF f ftz c).flipIf nc])

/-- An operand of a format of one or two registers. -/
def Env.code (e : Env) (n : Nat) (o : Opd) (imm : W32) : Nat :=
  if n = 2 then (e.dword .double o imm).toNat else (e.word o imm).toNat

/-- Two-source arithmetic of a format with its negations in MOD[6] and MOD[5]. -/
def faddRes (f : Fmt) (n : Nat) (w : Word) (e : Env) : Res :=
  fRes n (addCode f (rndOf w) (ftzOf w) (modB w 6) (modB w 5) (e.code n w.a w.imm) (e.code n w.b w.imm))

def fmulRes (f : Fmt) (n : Nat) (w : Word) (e : Env) : Res :=
  fRes n (mulCode f (rndOf w) (ftzOf w) (modB w 6) (e.code n w.a w.imm) (e.code n w.b w.imm))

def ffmaRes (f : Fmt) (n : Nat) (w : Word) (e : Env) : Res :=
  fRes n (fmaCode f (rndOf w) (ftzOf w) (modB w 6) (modB w 5) (e.code n w.a 0) (e.code n w.b 0) (e.code n w.c 0))

def fminRes (f : Fmt) (n : Nat) (greater : Bool) (w : Word) (e : Env) : Res :=
  fRes n (minMax f (ftzOf w) greater (e.code n w.a w.imm) (e.code n w.b w.imm))

def execFadd (w : Word) (s : State) := runPure (.fadd w) w (faddRes .f32 1 w) s
def execFmul (w : Word) (s : State) := runPure (.fmul w) w (fmulRes .f32 1 w) s
def execFfma (w : Word) (s : State) := runPure (.ffma w) w (ffmaRes .f32 1 w) s
def execFmin (w : Word) (s : State) := runPure (.fmin w) w (fminRes .f32 1 false w) s
def execFmax (w : Word) (s : State) := runPure (.fmax w) w (fminRes .f32 1 true w) s

def execDadd (w : Word) (s : State) := runPure (.dadd w) w (faddRes .f64 2 w) s
def execDmul (w : Word) (s : State) := runPure (.dmul w) w (fmulRes .f64 2 w) s
def execDfma (w : Word) (s : State) := runPure (.dfma w) w (ffmaRes .f64 2 w) s
def execDmin (w : Word) (s : State) := runPure (.dmin w) w (fminRes .f64 2 false w) s
def execDmax (w : Word) (s : State) := runPure (.dmax w) w (fminRes .f64 2 true w) s

/-! ### FRND, FSCALE, FGETEXP, FSET, FCPYSGN (R171, R173) -/

def frndRes (w : Word) (e : Env) : Res :=
  fRes 1 (match readF .f32 (ftzOf w) (e.word w.a w.imm).toNat with
    | .fin n q =>
      let k := roundMag (rndOf w) n q
      ((roundTo .f32 .rz false n k).1, flagIf (modB w 6 && decide ((k : Rat) ≠ q)) flagNX)
    | v => finish .f32 .rn false v)

def execFrnd (w : Word) (s : State) := runPure (.frnd w) w (frndRes w) s

/-- a × 2^b; beyond ±400 the exponent no longer changes the rounded result. -/
def fscaleRes (w : Word) (e : Env) : Res :=
  let b : Int := max (-400) (min 400 (e.word w.b w.imm).toInt)
  fRes 1 (finish .f32 (rndOf w) (ftzOf w) (match readF .f32 (ftzOf w) (e.word w.a w.imm).toNat with
    | .fin n q => .fin n (q * pow2 b)
    | v => v))

def execFscale (w : Word) (s : State) := runPure (.fscale w) w (fscaleRes w) s

def fgetexpRes (w : Word) (e : Env) : Res :=
  fRes 1 (match readF .f32 (ftzOf w) (e.word w.a w.imm).toNat with
    | .nan _ _ _ => (0x80000000, flagNV)
    | .inf _ => (0x7FFFFFFF, flagNV)
    | .fin _ q => if q = 0 then (0x80000000, flagDZ) else ((ITy.mk true 32).image (log2Rat q), 0))

def execFgetexp (w : Word) (s : State) := runPure (.fgetexp w) w (fgetexpRes w) s

def fsetRes (w : Word) (e : Env) : Res :=
  let (t, fl) := compareF .f32 (ftzOf w) (modF w 3 3) (e.word w.a w.imm).toNat (e.word w.b w.imm).toNat
  fRes 1 (if t then (if modB w 6 then 0xFFFFFFFF else 0x3F800000) else 0, fl)

def execFset (w : Word) (s : State) := runPure (.fset w) w (fsetRes w) s

def fcpysgnRes (w : Word) (e : Env) : Res :=
  let a := e.word w.a w.imm
  let b := e.word w.b w.imm
  let neg := (if modB w 5 then a.getLsbD 31 != b.getLsbD 31 else b.getLsbD 31) != modB w 6
  fRes 1 (neg.toNat * 2 ^ 31 + a.toNat % 2 ^ 31, 0)

def execFcpysgn (w : Word) (s : State) := runPure (.fcpysgn w) w (fcpysgnRes w) s

/-! ### Packed 16-bit (R175, R176) -/

/-- Elements 0 and 1 of a packed result; a skipped element is 0x0000 and raises nothing. -/
def packed (w : Word) (g : Nat → Nat × W32) : Res :=
  let el (i : Nat) (skip : Bool) : Nat × W32 := if skip then (0, 0) else g i
  let r0 := el 0 (modB w 3)
  let r1 := el 1 (modB w 4)
  fRes 1 (r0.1 + 2 ^ 16 * r1.1, r0.2 ||| r1.2)

def hfmt (w : Word) : Fmt := halfFmt (modB w 6)

def hadd2Res (w : Word) (e : Env) : Res :=
  packed w (fun i => addCode (hfmt w) (rndOf w) (ftzOf w) false (modB w 5) (half16 (e.word w.a w.imm) i)
    (half16 (e.word w.b w.imm) i))

def hmul2Res (w : Word) (e : Env) : Res :=
  packed w (fun i => mulCode (hfmt w) (rndOf w) (ftzOf w) false (half16 (e.word w.a w.imm) i)
    (half16 (e.word w.b w.imm) i))

def hminRes (greater : Bool) (w : Word) (e : Env) : Res :=
  packed w (fun i => minMax (hfmt w) (ftzOf w) greater (half16 (e.word w.a w.imm) i) (half16 (e.word w.b w.imm) i))

def hfma2Res (w : Word) (e : Env) : Res :=
  packed w (fun i => fmaCode (hfmt w) (rndOf w) (ftzOf w) (modB w 5) false (half16 (e.word w.a 0) i)
    (half16 (e.word w.b 0) i) (half16 (e.word w.c 0) i))

/-- Log entry 21 (DEDUCED). -/
def hdot2Res (w : Word) (e : Env) : Res :=
  let f := hfmt w
  let p (i : Nat) : FVal :=
    (mulV (readF f (ftzOf w) (half16 (e.word w.a 0) i)) (readF f (ftzOf w) (half16 (e.word w.b 0) i))).flipIf (modB w 5)
  fRes 1 (finish .f32 (rndOf w) (ftzOf w) (sumV (rndOf w)
    ([readF .f32 (ftzOf w) (e.word w.c 0).toNat] ++ (if modB w 3 then [] else [p 0]) ++ (if modB w 4 then [] else [p 1]))))

def execHadd2 (w : Word) (s : State) := runPure (.hadd2 w) w (hadd2Res w) s
def execHmul2 (w : Word) (s : State) := runPure (.hmul2 w) w (hmul2Res w) s
def execHfma2 (w : Word) (s : State) := runPure (.hfma2 w) w (hfma2Res w) s
def execHmin2 (w : Word) (s : State) := runPure (.hmin2 w) w (hminRes false w) s
def execHmax2 (w : Word) (s : State) := runPure (.hmax2 w) w (hminRes true w) s
def execHdot2 (w : Word) (s : State) := runPure (.hdot2 w) w (hdot2Res w) s

/-! ### Conversion (R178 to R181) -/

/-- A format of R178: floating or integer. -/
inductive Cfmt where
  | flt (f : Fmt)
  | int (t : ITy)
  deriving DecidableEq, Repr

/-- The format of a code; a pnf side reads its format register, and an invalid one gives none (R135). -/
def cfmtOf (b : Block) (fmr code : Nat) : Option Cfmt :=
  match code with
  | 0 => some (.flt .f32)
  | 1 => some (.flt .f16)
  | 2 => some (.flt .bf16)
  | 3 => some (.flt .f64)
  | 4 => some (.flt .e4m3)
  | 5 => some (.flt .e5m2)
  | 6 => some (.flt .e3m2)
  | 7 => some (.flt .e2m3)
  | 8 => some (.flt .e2m1)
  | 9 => (pnfOf (NMap.read 0 b.fm fmr)).map Cfmt.flt
  | 0xA => some (.int ⟨true, 8⟩)
  | 0xB => some (.int ⟨false, 8⟩)
  | 0xC => some (.int ⟨true, 4⟩)
  | 0xD => some (.int ⟨true, 16⟩)
  | 0xE => some (.int ⟨false, 16⟩)
  | 0xF => some (.int ⟨true, 32⟩)
  | 0x10 => some (.int ⟨false, 32⟩)
  | 0x11 => some (.int ⟨true, 64⟩)
  | _ => some (.int ⟨false, 64⟩)

/-- The trap of an invalid format register (R135). Log entry 51 (DEDUCED). -/
def formatReg : Except (Nat × Nat) Res := .error (0x14, 0)

/-- Element i of a register under a format code (R130). -/
def elementOf (code i v : Nat) : Nat := v / 2 ^ (32 / fmtElems code * i) % 2 ^ (32 / fmtElems code)

/-- One element converted (R145 to R149). Log entry 22 (DEDUCED). -/
def convert (r : Rnd) (ftz sat : Bool) (src dst : Cfmt) (c : Nat) : Nat × W32 :=
  match src, dst with
  | .flt f, .flt g => toFloat g r ftz (readF f ftz c)
  | .flt f, .int t => toInteger t r (readF f ftz c)
  | .int u, .flt g => fromInteger g r ftz (u.value c)
  | .int u, .int t => (t.image (if sat then t.clamp (u.value c) else u.value c), 0)

/-- A source of one or two registers by its format code. -/
def Env.fmtSource (e : Env) (code : Nat) (o : Opd) : Nat :=
  if code = 3 then (e.dword .double o 0).toNat
  else if code = 0x11 then (e.dword .signed o 0).toNat
  else if code = 0x12 then (e.dword .unsigned o 0).toNat
  else (e.word o 0).toNat

def cvtRes (w : Word) (e : Env) : Except (Nat × Nat) Res :=
  let sf := immF w 0 5
  let df := immF w 8 5
  match cfmtOf e.blk (immF w 16 3) sf, cfmtOf e.blk (immF w 16 3) df with
  | some src, some dst =>
    let v := e.fmtSource sf w.a
    let c := if fmtRegs sf = 2 then v else elementOf sf (immF w 20 3) v
    .ok (fRes (fmtRegs df) (convert (rndOf w) (ftzOf w) (modB w 6) src dst c))
  | _, _ => formatReg

def execCvt (w : Word) (s : State) := runAlu (.cvt w) w (fun _ e => cvtRes w e) s

/-- Whether an integer code of PACKN and UNPKN pairs with n32; the others pair with s32 (R180). -/
def packUnsigned (code : Nat) : Bool := code == 0xB || code == 0xE

/-- The 32-bit side of PACKN and UNPKN (R180). -/
def packSide (code : Nat) : Cfmt := if fmtInt code then .int ⟨!packUnsigned code, 32⟩ else .flt .f32

def packnRes (w : Word) (e : Env) : Except (Nat × Nat) Res :=
  let f := immF w 0 5
  match cfmtOf e.blk (immF w 16 3) f with
  | none => formatReg
  | some dst =>
    let n := modF w 3 3 + 1
    let rs := (e.tuple w.a n).map (fun v => convert (rndOf w) (ftzOf w) (modB w 6) (packSide f) dst v.toNat)
    .ok (fRes 1 (((rs.zipIdx).map (fun (r, i) => r.1 * 2 ^ (32 / fmtElems f * i))).sum,
      rs.foldl (fun acc r => acc ||| r.2) 0))

def execPackn (w : Word) (s : State) := runAlu (.packn w) w (fun _ e => packnRes w e) s

def unpknRes (w : Word) (e : Env) : Except (Nat × Nat) Res :=
  let f := immF w 0 5
  match cfmtOf e.blk (immF w 16 3) f with
  | none => formatReg
  | some src =>
    let v := (e.word w.a 0).toNat
    let rs := (List.range (modF w 3 3 + 1)).map (fun j =>
      convert .rn (ftzOf w) false src (packSide f) (elementOf f (modF w 0 3 + j) v))
    .ok { regs := some (rs.map (fun r => BitVec.ofNat 32 r.1)), flags := rs.foldl (fun acc r => acc ||| r.2) 0 }

def execUnpkn (w : Word) (s : State) := runAlu (.unpkn w) w (fun _ e => unpknRes w e) s

/-- The value that `.q` of CVTSC converts, with the flags of its own (R181). -/
def scaleQuot (s a : FVal) : FVal × W32 :=
  if s.isNan then (.nan false false 0, flagNV)
  else if s.isZero && (a.isZero || a.isNan) then (.nan false false 0, flagIf (a.isZero || a.isSnan) flagNV)
  else if s.isZero then (.inf a.neg?, flagIf (!a.isInf) flagDZ)
  else match a with
    | .fin n q => (.fin n (q / s.toRat), 0)
    | a => (a, 0)

/-- The product that `.dq` of CVTSC rounds (R181). -/
def scaleProd (s x : FVal) : FVal × W32 :=
  if s.isNan || x.isNan || (x.isInf && s.isZero) then
    (.nan false false 0, flagIf (s.isNan || x.isSnan || (x.isInf && s.isZero)) flagNV)
  else (mulV x s, 0)

/-- Log entry 22 (DEDUCED). -/
def cvtscRes (w : Word) (e : Env) : Except (Nat × Nat) Res :=
  let f := immF w 0 5
  match cfmtOf e.blk (immF w 16 3) f with
  | none => formatReg
  | some nf =>
    let sc := Fmt.e5m3.value ((e.word w.b 0).toNat / 256 ^ immF w 8 2 % 256)
    let v := (e.word w.a 0).toNat
    if modB w 6 then
      let x := match nf with
        | .flt g => g.value (elementOf f (immF w 20 3) v)
        | .int t => FVal.ofRat (t.value (elementOf f (immF w 20 3) v))
      let (p, fl) := scaleProd sc x
      let (c, fl') := finish .f32 (rndOf w) (ftzOf w) p
      .ok (fRes 1 (c, fl ||| fl'))
    else
      let (q, fl) := scaleQuot sc (readF .f32 (ftzOf w) v)
      let (c, fl') := match nf with
        | .flt g => toFloat g (rndOf w) (ftzOf w) q
        | .int t => toInteger t (rndOf w) q
      .ok (fRes 1 (c, fl ||| fl'))

def execCvtsc (w : Word) (s : State) := runAlu (.cvtsc w) w (fun _ e => cvtscRes w e) s

/-! ### Format registers (R134, R182) -/

/-- FMSET writes in ascending TIDX (R134). -/
def execFmset (w : Word) (s : State) : Host.Outcome State Fault Refusal :=
  runWord (planOf (.fmset w) w) (fun _ e s =>
    .done (s.mapBlock e.blk.id (fun b => { b with fm := NMap.put 0 b.fm ((e.th.named w.d).getD 0) (e.word w.a w.imm) }))
      (e.th.pc + 1)) (fun _ _ s => s) s

def fmgetRes (w : Word) (e : Env) : Res := { regs := some [NMap.read 0 e.blk.fm ((e.th.named w.a).getD 0)] }

def execFmget (w : Word) (s : State) := runPure (.fmget w) w (fmgetRes w) s

/-! ### Special functions (R183, R184) -/

/-- The lane's free value chooses within the accuracy bound (log entry 8). -/
def sfunRes (g : SFun) (w : Word) (s : State) (e : Env) : Res :=
  fRes 1 (special g (ftzOf w) (e.word w.a w.imm).toNat (s.pick e.th.tidx))

def execRsqs (w : Word) (s : State) := runAlu (.rsqs w) w (fun s e => .ok (sfunRes .rsqs w s e)) s
def execRcps (w : Word) (s : State) := runAlu (.rcps w) w (fun s e => .ok (sfunRes .rcps w s e)) s
def execSinr (w : Word) (s : State) := runAlu (.sinr w) w (fun s e => .ok (sfunRes .sinr w s e)) s
def execCosr (w : Word) (s : State) := runAlu (.cosr w) w (fun s e => .ok (sfunRes .cosr w s e)) s
def execEx2 (w : Word) (s : State) := runAlu (.ex2 w) w (fun s e => .ok (sfunRes .ex2 w s e)) s
def execLg2 (w : Word) (s : State) := runAlu (.lg2 w) w (fun s e => .ok (sfunRes .lg2 w s e)) s
def execTnh (w : Word) (s : State) := runAlu (.tnh w) w (fun s e => .ok (sfunRes .tnh w s e)) s
def execSigm (w : Word) (s : State) := runAlu (.sigm w) w (fun s e => .ok (sfunRes .sigm w s e)) s

end Sys2Proof.Machine
end

