-- ==== Sys2Proof/Machine/Trace.lean ====
section
/-! DEFINITION. Trace records and replay (R378 to R387). -/

namespace Sys2Proof.Machine

/-- The lanes that a record names. -/
def TraceRec.names (r : TraceRec) (g lane : Nat) : Bool := r.gid == g && (r.maskA ||| r.maskB).getLsbD lane

/-- A record as it stands in memory, with its ring number (R379). -/
def TraceRec.bytes (r : TraceRec) (seq : Nat) : List Byte :=
  leBytes 4 r.lid ++ leBytes 4 r.bx ++ leBytes 2 r.by' ++ leBytes 2 r.bz ++ leBytes 2 r.gid ++ leBytes 1 r.type ++
    leBytes 1 0 ++ leBytes 4 seq ++ leBytes 4 r.pc.toNat ++ leBytes 8 r.ptime.toNat ++ leBytes 8 r.maskA.toNat ++
    leBytes 8 r.maskB.toNat ++ leBytes 4 r.obj.toNat ++ leBytes 2 r.phase.toNat ++ List.replicate 10 0

/-- What one lane contributes to the comparison of R386. -/
def TraceRec.entry (r : TraceRec) (lane : Nat) : Nat × W32 × W32 × BitVec 16 × Bool × Bool :=
  (r.type, r.pc, r.obj, r.phase, r.maskA.getLsbD lane, r.maskB.getLsbD lane)

/-- The recorded entries of a lane, each with the index of its record. -/
def Replay.expected (p : Replay) (g lane : Nat) : List (Nat × TraceRec) :=
  (p.records.zipIdx.filter (fun e => e.1.names g lane)).map (fun e => (e.2, e.1))

/-- The next recorded entry of a thread. -/
def Replay.next (p : Replay) (b : Block) (t : Thread) : Option (Nat × TraceRec) :=
  (p.expected (b.gidOf t.tidx) (t.tidx % b.decl.width))[t.replayed]?

/-- Recorded record i is matched: each lane it names has produced its entry (R385). -/
def Replay.matched (p : Replay) (b : Block) (i : Nat) : Bool :=
  match p.records[i]? with
  | none => true
  | some r => b.threads.all (fun t =>
      let lane := t.tidx % b.decl.width
      !r.names (b.gidOf t.tidx) lane ||
        ((p.expected (b.gidOf t.tidx) lane).take t.replayed).any (fun e => e.1 == i))

/-- The next recorded entry of a thread that satisfies a condition. Log entry 65 (DEDUCED). -/
def Replay.nextOf (p : Replay) (b : Block) (t : Thread) (c : TraceRec → Bool) : Option (Nat × TraceRec) :=
  ((p.expected (b.gidOf t.tidx) (t.tidx % b.decl.width)).drop t.replayed).find? (fun e => c e.2)

/-- A steering word's turn (R385): the next RECONV record that names the lane is the earliest unmatched one that names any
lane of its MASKA. -/
def State.turn (s : State) (b : Block) (t : Thread) : Bool :=
  match s.replayOf b.id with
  | none => true
  | some p =>
    if t.inTrap then true
    else match p.nextOf b t (fun r => r.type == 2) with
      | none => true
      | some (i, r) =>
        (List.range i).all (fun j =>
          match p.records[j]? with
          | none => true
          | some q => q.gid != r.gid || (q.maskA ||| q.maskB) &&& r.maskA == 0 || p.matched b j)

/-- Arrivals of the thread on an object that have issued and are not applied, and that a record will tell of (R380). -/
def Thread.arriving (t : Thread) (off : Nat) : Nat :=
  (t.tokens.filter (fun k => k.val.isNone && !k.quiet && k.off == off && match k.ev with
    | .arrive _ _ => true
    | _ => false)).length

/-- An ARRV's turn (R385): the arrivals of every BARR record for the object before the one that tells of it have been applied. One in the
handler produces no record and is not held. -/
def State.barTurn (s : State) (b : Block) (t : Thread) (off : Nat) : Bool :=
  match s.replayOf b.id with
  | none => true
  | some p =>
    if t.inTrap then true
    else match (((p.expected (b.gidOf t.tidx) (t.tidx % b.decl.width)).drop t.replayed).filter (fun e =>
        e.2.type == 3 && e.2.obj.toNat == off))[t.arriving off]? with
    | none => true
    | some (i, _) =>
      (List.range i).all (fun j =>
        match p.records[j]? with
        | none => true
        | some q => q.type != 3 || q.obj.toNat != off || p.matched b j)

/-- The recorded counterpart of a replayed record: the first that a lane it names expects next and that tells of the same event. -/
def Replay.counterpart (p : Replay) (b : Block) (r : TraceRec) : Option Nat :=
  ((b.threads.filter (fun t => r.names (b.gidOf t.tidx) (t.tidx % b.decl.width))).filterMap (fun t =>
    match p.next b t with
    | some (i, q) => if q.type = r.type ∧ q.pc = r.pc ∧ q.obj = r.obj ∧ q.phase = r.phase then some i else none
    | none => none)).min?

/-- A lane of a replay produces an entry: the index at which it departs from the recording, if it does. -/
def Replay.departs (p : Replay) (b : Block) (t : Thread) (r : TraceRec) : Option Nat :=
  match p.next b t with
  | none => some ((p.counterpart b r).getD p.records.length)
  | some (i, q) =>
    if q.entry (t.tidx % b.decl.width) = r.entry (t.tidx % b.decl.width) then none else some i

/-- A record of a replayed block is compared lane by lane (R386). Log entry 65 (DEDUCED). -/
def State.compare (s : State) (p : Replay) (b : Block) (r : TraceRec) : State :=
  let lanes := b.threads.filter (fun t => r.names (b.gidOf t.tidx) (t.tidx % b.decl.width))
  match (lanes.filterMap (fun t => p.departs b t r)).min? with
  | some i => s.stopReplay b.id 2 i (r.bytes 0)
  | none => s.mapBlock b.id (fun x => x.mapThreads (fun t =>
      if r.names (x.gidOf t.tidx) (t.tidx % x.decl.width) then { t with replayed := t.replayed + 1 } else t))

/-- A record is written to the ring, or dropped and counted as LOST (R381). Log entry 67 (DEDUCED). -/
def State.traceWrite (s : State) (ctx : Nat) (r : TraceRec) : State :=
  let c := s.ctx ctx
  let log := (c.trRing.extractLsb' 0 5).toNat
  let base := (c.trRing.extractLsb' 6 58).toNat * 64
  let lose := s.mapCtx ctx (fun c => { c with trLost := addSat c.trLost 1 32 })
  if 2 ^ log = (c.trSeq + 2 ^ 32 - c.trHead) % 2 ^ 32 then lose
  else match s.writeVirt ctx (base + 64 * (c.trSeq % 2 ^ log)) (r.bytes c.trSeq) with
    | .ok s' => s'.mapCtx ctx (fun c => { c with trSeq := (c.trSeq + 1) % 2 ^ 32 })
    | .error _ => lose

/-- OBSCTL enables the record types 1 to 4 with bits [2] to [5] (R378). -/
def Context.traces (c : Context) (type : Nat) : Bool := c.obsCtl.getLsbD (type + 1)

/-- Lanes of a group in their handler, which produce no records (R380). -/
def Block.trapMask (b : Block) (g : Nat) : W64 :=
  b.threads.foldl (fun m t => if b.gidOf t.tidx = g && t.inTrap then m ||| (1#64 <<< (t.tidx % b.decl.width)) else m) 0

/-- An event of a group is recorded, or compared where the block is a replay (R380, R386). Log entry 67 (DEDUCED). -/
def State.traceRaw (s : State) (blk g type : Nat) (pc : W32) (maskA maskB : W64) (obj : W32) (phase : BitVec 16) : State :=
  match s.block? blk with
  | none => s
  | some b =>
    let r : TraceRec := ⟨b.decl.lid, b.bx, b.by', b.bz, g, type, pc, s.ptime, maskA, maskB, obj, phase⟩
    if maskA ||| maskB = 0 ∨ (s.ctx b.decl.ctx).traces type = false then s
    else match s.replayOf blk with
      | some p => if type = 1 then s else s.compare p b r
      | none => s.traceWrite b.decl.ctx r

/-- The same for lanes that stand at the word, without those that are in their handler. -/
def State.trace (s : State) (blk g type : Nat) (pc : W32) (maskA maskB : W64) (obj : W32) (phase : BitVec 16) : State :=
  let out := ((s.block? blk).map (fun b => ~~~(b.trapMask g))).getD 0
  s.traceRaw blk g type pc (maskA &&& out) (maskB &&& out) obj phase

/-- A branch word of a bundle in a replay: each lane whose next recorded entry is a DIV at this PC produces its own entry; the
replay stops at the lowest index at which one differs (R386). `taken` says which lanes branch. -/
def State.replayBranch (s : State) (b : Block) (lanes : List Thread) (taken : Thread → Bool) : State :=
  match s.replayOf b.id with
  | none => s
  | some p =>
    let mask (g : Nat) (c : Thread → Bool) : W64 := lanes.foldl (fun m t =>
      if b.gidOf t.tidx = g && c t then m ||| (1#64 <<< (t.tidx % b.decl.width)) else m) 0
    let record (t : Thread) : TraceRec :=
      let g := b.gidOf t.tidx
      ⟨b.decl.lid, b.bx, b.by', b.bz, g, 1, t.pc, s.ptime, mask g taken, mask g (fun x => !taken x), 0, 0⟩
    let hits := lanes.filterMap (fun t => match p.next b t with
      | some (i, q) => if q.type = 1 ∧ q.pc = t.pc then some (t, i, q) else none
      | none => none)
    let lane (t : Thread) : Nat := t.tidx % b.decl.width
    let bad := hits.filter (fun h => h.2.2.entry (lane h.1) != (record h.1).entry (lane h.1))
    match (bad.map (fun h => h.2.1)).min? with
    | some i =>
      let r := ((bad.find? (fun h => h.2.1 == i)).map (fun h => (record h.1).bytes 0)).getD []
      s.stopReplay b.id 2 i r
    | none => s.mapBlock b.id (fun x => x.mapThreads (fun t =>
        if hits.any (fun h => h.1.tidx == t.tidx) then { t with replayed := t.replayed + 1 } else t))

/-- The end of a replay once every thread has exited and its arrivals have been applied (R386): MATCHED, or DIVERGED at the first entry not
produced. -/
def State.replayEnd (s : State) (blk : Nat) : State :=
  match s.replayOf blk, s.block? blk with
  | some p, some b =>
    if b.threads.any (fun t => t.life != .exited || t.tokens.any (fun k => k.val.isNone)) then s
    else match (List.range p.records.length).find? (fun i => !p.matched b i) with
      | none => s.stopReplay blk 1 0 []
      | some i => s.stopReplay blk 2 i []
  | _, _ => s

/-- A replay in which every lane is held or has exited has diverged at the oldest unmatched record (R386). -/
def State.replayStuck (s : State) (blk : Nat) (held : State → Block → Thread → Bool) : State :=
  match s.replayOf blk, s.block? blk with
  | some p, some b =>
    let live := b.threads.filter (fun t => t.life == .live)
    if live.isEmpty || !live.all (fun t => held s b t) || b.threads.any (fun t => t.tokens.any (fun k => k.val.isNone)) then s
    else match (List.range p.records.length).find? (fun i => !p.matched b i) with
      | some i => s.stopReplay blk 2 i []
      | none => s
  | _, _ => s

end Sys2Proof.Machine
end

