-- ==== Sys2Proof/Machine/Objects.lean ====
section
/-! DEFINITION. Scratchpad bytes, the tile table's entries and barrier objects (R213, R214, R234 to R239). -/

namespace Sys2Proof.Machine

/-! ### Scratchpad -/

/-- Number of a scratchpad sector of a block, in the numbering of poisoned sectors. -/
def scratchKey (blk off : Nat) : Nat := 2 ^ 67 + blk * 2 ^ 32 + off

/-- Sectors that a write covers whole are clean (R350). -/
def State.clean (s : State) (k n : Nat) : State :=
  { s with poison := s.poison.filter (fun p => !(decide (k ≤ 32 * p) && decide (32 * p + 32 ≤ k + n))) }

/-- Sectors that several writes, each a key and a length, cover whole between them are clean (R350). -/
def State.cleanAll (s : State) (ws : List (Nat × Nat)) : State :=
  let covers (p : Nat) : Bool := (List.range 32).all (fun i => ws.any (fun w =>
    decide (w.1 ≤ 32 * p + i) && decide (32 * p + i < w.1 + w.2)))
  if s.poison.isEmpty then s else { s with poison := s.poison.filter (fun p => !covers p) }

def Block.scratchBytes (b : Block) : Nat := b.decl.scratch * 4096

def Block.sbyte (b : Block) (o : Nat) : Byte := NMap.read 0 b.scratch o

def Block.sbytes (b : Block) (o n : Nat) : List Byte := (List.range n).map (fun i => b.sbyte (o + i))

/-- Bytes stored into a block's scratchpad, in ascending order. -/
def Block.sput (b : Block) (o : Nat) (bs : List Byte) : Block := { b with scratch := putBytes b.scratch o bs }

/-! ### Tile entries (R213) -/

def tileBase (e : BitVec 128) : Nat := (e.extractLsb' 64 14).toNat * 128
def tileState (e : BitVec 128) : Nat := (e.extractLsb' 78 2).toNat
def tileSize (e : BitVec 128) : Nat := (e.extractLsb' 80 14).toNat * 128
def tileTag (e : BitVec 128) : W64 := e.extractLsb' 0 64
def tileBar (e : BitVec 128) : Nat := (e.extractLsb' 96 17).toNat * 16
def tileBarv (e : BitVec 128) : Bool := e.getLsbD 113

/-- The entry with another STATE. -/
def withTileState (e : BitVec 128) (st : BitVec 2) : BitVec 128 :=
  e.extractLsb' 80 48 ++ st ++ e.extractLsb' 0 78

def Block.tile (b : Block) (i : Nat) : BitVec 128 := NMap.read 0 b.tiles i

def Block.setTile (b : Block) (i : Nat) (e : BitVec 128) : Block := { b with tiles := NMap.put 0 b.tiles i e }

/-- The state codes of R213. -/
def tileEmpty : BitVec 2 := 0#2
def tileFilling : BitVec 2 := 1#2
def tileReady : BitVec 2 := 2#2
def tileDraining : BitVec 2 := 3#2

/-! ### Barrier objects (R234) -/

/-- The fields of an object; `resv` keeps bits [127:115]. -/
structure Obj where
  expa : Nat
  arrd : Nat
  expb : Nat
  land : Nat
  phase : BitVec 16
  init : Bool
  exitdrop : Bool
  ovf : Bool
  resv : Nat
  deriving DecidableEq, Repr

def Obj.ofNat (n : Nat) : Obj :=
  { expa := n % 2 ^ 16, arrd := n / 2 ^ 16 % 2 ^ 16, expb := n / 2 ^ 32 % 2 ^ 32, land := n / 2 ^ 64 % 2 ^ 32,
    phase := BitVec.ofNat 16 (n / 2 ^ 96), init := n.testBit 112, exitdrop := n.testBit 113, ovf := n.testBit 114,
    resv := n / 2 ^ 115 }

def Obj.toNat (o : Obj) : Nat :=
  o.expa + o.arrd * 2 ^ 16 + o.expb * 2 ^ 32 + o.land * 2 ^ 64 + o.phase.toNat * 2 ^ 96 + o.init.toNat * 2 ^ 112 +
    o.exitdrop.toNat * 2 ^ 113 + o.ovf.toNat * 2 ^ 114 + o.resv * 2 ^ 115

/-- The object bit of a granule (R234). -/
def Block.isObject (b : Block) (off : Nat) : Bool := b.objects.contains (off / 16)

/-- The object at an offset; without its object bit a granule reads as INIT = 0 (R234). -/
def Block.obj (b : Block) (off : Nat) : Obj :=
  let o := Obj.ofNat (leNat (b.sbytes off 16))
  if b.isObject off then o else { o with init := false }

def Block.setObj (b : Block) (off : Nat) (o : Obj) : Block := b.sput off (leBytes 16 o.toNat)

/-- An operation writes the 16 bytes of an object. -/
def Act.meetsObj (a : Act) (blk off : Nat) : Bool :=
  match a with
  | .binit o _ _ => o == off
  | .store ps => ps.any (fun p => match p.1 with
      | .scratch b o => b == blk && overlap o p.2.length off 16
      | _ => false)
  | .atom (.scratch b o) _ k _ _ _ _ _ => b == blk && overlap o (match k with | .wide _ => 16 | _ => 8) off 16
  | _ => false

/-- Events of the block's threads on an object that come before a place in issue order and are not applied (R236). -/
def Block.objBefore (b : Block) (off stamp : Nat) : Bool :=
  b.threads.any (fun t =>
    t.tokens.any (fun k => k.val.isNone && k.off == off && decide (k.op < stamp)) ||
    t.pend.any (fun p => decide (p.op < stamp) && p.act.meetsObj b.id off))

/-- The token that a thread waits with at PWAIT on an object whose earlier events have applied, where its check of INIT has passed or
passes now. -/
def Block.waitsWith (b : Block) (t : Thread) (off : Nat) : Option (BitVec 16 × Bool) :=
  match t.wait with
  | some (.phase o tok yld stamp c) =>
    if o = off ∧ b.objBefore off stamp = false ∧ (c = true ∨ (b.obj off).init = true) then some (tok, yld) else none
  | _ => none

def Block.waitsOn (b : Block) (t : Thread) (off : Nat) : Bool := (b.waitsWith t off).isSome

/-- Some command still lands bytes for a tile slot of a block. -/
def State.slotBusy (s : State) (blk slot : Nat) : Bool :=
  s.cmds.any (fun c => match c.job with
    | .copy _ _ _ _ _ _ ts => ts.any (fun t => t.blk == blk && t.slot == some slot && !t.todo.isEmpty)
    | .gleaner _ _ n k0 _ _ _ next => c.blk == blk && decide (k0 + next ≤ slot) && decide (slot < k0 + n)
    | _ => false)

/-- FILLING entries linked to a completed phase become READY once their copy has landed (R214). -/
def State.readyTiles (s : State) (blk off : Nat) : State :=
  s.mapBlock blk (fun b => { b with tiles := b.tiles.map (fun (i, e) =>
    (i, if e.extractLsb' 78 2 == tileFilling && tileBarv e && tileBar e == off && !s.slotBusy blk i then
      withTileState e tileReady else e)) })

/-- Lanes of a group that wait at PWAIT on an object. -/
def Block.phaseMask (b : Block) (g off : Nat) : W64 :=
  b.threads.foldl (fun m t =>
    if b.gidOf t.tidx = g && b.waitsOn t off then m ||| (1#64 <<< (t.tidx % b.decl.width)) else m) 0

/-- Threads whose token differs from the phase of their object pass their PWAIT (R237), with its YLD hint (R116). -/
def State.releaseWaiters (s : State) (blk off : Nat) : State :=
  match s.block? blk with
  | none => s
  | some b =>
    b.threads.foldl (fun s t =>
      match b.waitsWith t off with
      | some (tok, yld) =>
        if (b.obj off).phase = tok then s
        else (s.passPhase b.coreId blk t.tidx off tok.toNat).completeLane blk t.tidx (t.pc + 1) yld
          (b.stepping.contains (b.gidOf t.tidx))
      | none => s) s

/-- The completion test of R235, which a block that is being restored does not make (R353): where it holds the phase completes in
one step, exit drops apply (R239), every waiter is released, and linked tile slots become READY. Log entry 69 (DEDUCED). -/
def State.phaseTest (s : State) (blk off : Nat) : State :=
  match s.block? blk with
  | none => s
  | some b =>
    let o := b.obj off
    if b.stage = .restoring ∨ (o.init && !o.ovf && o.arrd == o.expa && o.land == o.expb) = false then s
    else
      let drops := ((b.xregs.find? (fun x => x.off == off)).map XReg.drops).getD 0
      let o' := { o with phase := o.phase + 1, arrd := 0, expb := 0, land := 0, expa := o.expa - drops }
      let s1 := s.mapBlock blk (fun b =>
        { (b.setObj off o') with xregs := b.xregs.map (fun x =>
            if x.off = off then { x with arrived := [], drops := 0 } else x) })
      let s2 := (b.groups.map Group.gid).foldl (fun s g =>
        match (b.threads.filter (fun t => b.gidOf t.tidx = g && b.waitsOn t off)).head? with
        | some t => s.trace blk g 4 t.pc (b.phaseMask g off) 0 (BitVec.ofNat 32 off) o.phase
        | none => s) s1
      (s2.readyTiles blk off).releaseWaiters blk off

/-- A landing of n bytes by an engine (R235). -/
def Obj.landed (o : Obj) (n : Nat) : Obj :=
  if 2 ^ 32 ≤ o.land + n then { o with land := 2 ^ 32 - 1, ovf := true } else { o with land := o.land + n }

/-- An engine lands bytes on an object, if its block is still there (R235). -/
def State.landOn (s : State) (blk off n : Nat) : State :=
  (s.mapBlock blk (fun b => b.setObj off ((b.obj off).landed n))).phaseTest blk off

/-- An arrival of count n, with the bytes it expects first, or none where it is a misuse (R235, R237, R239). -/
def Block.arrive (b : Block) (who : Option Nat) (off n bytes : Nat) : Option Block :=
  let o := b.obj off
  let reg := b.xregs.find? (fun x => x.off == off)
  let twice := match reg, who with
    | some x, some t => x.arrived.contains t || n != 1
    | some _, none => true
    | none, _ => false
  if !o.init || twice || 2 ^ 16 ≤ n || n == 0 || decide (o.expa < o.arrd + n) || decide (2 ^ 32 ≤ o.expb + bytes) then none
  else
    let b1 := b.setObj off { o with expb := o.expb + bytes, arrd := o.arrd + n }
    some (match who with
      | some t => { b1 with xregs := b1.xregs.map (fun x =>
          if x.off = off then { x with arrived := x.arrived ++ [t] } else x) }
      | none => b1)

/-- The exit of a thread acts on each EXITDROP registration (R239). Log entry 38 (DEDUCED). -/
def State.exitDrops (s : State) (blk tidx : Nat) : State :=
  match s.block? blk with
  | none => s
  | some b =>
    b.xregs.foldl (fun s x =>
      if x.arrived.contains tidx then
        s.mapBlock blk (fun b => { b with xregs := b.xregs.map (fun y =>
          if y.off = x.off then { y with drops := y.drops + 1 } else y) })
      else
        (s.mapBlock blk (fun b => b.setObj x.off { (b.obj x.off) with expa := (b.obj x.off).expa - 1 })).phaseTest
          blk x.off) s

/-- A store into scratchpad: bytes, and for every object written into the completion test and the threads whose token its
phase no longer is (R234, R236, R237). -/
def State.storeScratch (s : State) (blk o : Nat) (bs : List Byte) : State :=
  match s.block? blk with
  | none => s
  | some b =>
    let hit := b.objects.filter (fun k => overlap (16 * k) 16 o bs.length)
    hit.foldl (fun s k => (s.phaseTest blk (16 * k)).releaseWaiters blk (16 * k))
      ((s.mapBlock blk (fun b => b.sput o bs)).clean (scratchKey blk o) bs.length)

/-- The check of an object's offset by every barrier instruction (R237): cause and detail. -/
def Block.objFault (b : Block) (off : Nat) : Option (Nat × Nat) :=
  if off % 16 ≠ 0 then some (4, 1)
  else if b.scratchBytes < off + 16 then some (7, 0)
  else none

/-! ### What an operation reads or writes (R212, R242, R300) -/

/-- A piece of storage: 0 physical memory, 1 bins, 2 + b the scratchpad of block b; where it begins, its bytes, and the address
that the access gave for it. -/
structure Span where
  space : Nat
  base : Nat
  len : Nat
  va : Nat
  deriving DecidableEq, Repr

def Span.meets (a b : Span) : Bool := a.space == b.space && overlap a.base a.len b.base b.len

/-- The span of a location. -/
def Loc.span (l : Loc) (va n : Nat) : List Span :=
  match l with
  | .phys k => [⟨0, k, n, va⟩]
  | .scratch b o => [⟨2 + b, o, n, o⟩]
  | .param _ => []
  | .ones => []

def Place.span (p : Place) (n : Nat) : List Span := p.loc.span p.va n

/-- Bytes of an operation's element (R240). -/
def AtomKind.size : AtomKind → Nat
  | .int _ ty => (ITy.ofCode ty).w / 8
  | .cas ty => (ITy.ofCode ty).w / 8
  | .flt _ fmt => if fmt = 1 then 8 else 4
  | .wide _ => 16

/-- What an operation of a block reads or writes. -/
def Act.spans (blk : Nat) : Act → List Span
  | .load src va n k _ _ _ _ => src.span va (n * k)
  | .deliver _ _ _ _ => []
  | .store ps => (ps.map (fun p => p.1.span 0 p.2.length)).flatten
  | .atom loc va kind _ _ _ _ _ => loc.span va kind.size
  | .gradients adds => adds.map (fun a => ⟨0, a.key, 4, a.va⟩)
  | .expand src esz _ _ _ _ => (src.map (fun p => p.span esz)).flatten
  | .features rows _ _ _ _ _ => (rows.map (fun ts => (ts.map (fun t => t.place.span 4)).flatten)).flatten
  | .binit off _ _ => [⟨2 + blk, off, 16, off⟩]
  | .append ctx idx bin _ _ _ => [⟨1, (ctx * 4096 + idx) * 2 ^ 40 + bin, 1, 0⟩]
  | .done => []
  | .tile _ => []
  | .ctrs _ _ _ _ _ _ _ => []

/-- Operations on the same bytes. -/
def Act.meets (blk : Nat) (a b : Act) : Bool := (a.spans blk).any (fun x => (b.spans blk).any (fun y => x.meets y))

/-- The scope of an SC operation, or 0. -/
def Act.scope : Act → Nat
  | .atom _ _ _ _ _ sc _ _ => sc
  | _ => 0

def Act.isAtom : Act → Bool
  | .atom _ _ _ _ _ _ _ _ => true
  | _ => false

/-- An operation that the counters LDC and STC count, and so may have to wait for others. -/
def Pend.isAccess (p : Pend) : Bool := p.ctr == .ld || p.ctr == .st

/-- A read of n bytes meets a poisoned sector (R350). Log entry 30 (DEDUCED). -/
def State.poisoned (s : State) (x : Span) : Bool :=
  let k := if x.space = 0 then x.base else scratchKey (x.space - 2) x.base
  x.space != 1 && s.poison.any (fun p => overlap (32 * p) 32 k x.len)

end Sys2Proof.Machine
end

