-- ==== Sys2Proof/Machine/Access.lean ====
section
/-! DEFINITION. How a thread's access reaches memory: checks and translation (R207, R345), tracking inside a section (R321 to
R324, R328 to R330), and the load cache (R299). -/

namespace Sys2Proof.Machine

/-- Digit k of a lane's free value, for the k-th open choice of its word (log entry 2). -/
def State.choice (s : State) (lane k : Nat) : Nat := s.pick lane / 8 ^ k

/-- A global access passes R207 and translates, or the trap that it raises. -/
def State.reach (s : State) (e : Env) (addr : W64) (size : Nat) (n : Need) (k : Nat) : Except Trap Xlat :=
  match misaligned addr size with
  | some d => .error { cause := 4, detail := d, faddr := addr, pc := e.th.pc, write := n.w }
  | none =>
    match s.xlate (coreCaches e.blk.coreId) e.blk.decl.ctx (vaOf addr) n e.th.sup (s.choice e.th.tidx k) with
    | .error (c, d) =>
      .error { cause := c, detail := BitVec.ofNat 32 d, faddr := BitVec.ofNat 64 (vaOf addr), pc := e.th.pc, write := n.w }
    | .ok x => .ok x

/-- What an access leaves behind: its leaf in the caches of its core (R346), and a host or peer line in the MSC (R208). -/
def State.touch (s : State) (e : Env) (addr : W64) (x : Xlat) : State :=
  (s.cacheLeaf (coreCaches e.blk.coreId) e.blk.decl.ctx (vaOf addr) x).fillMsc x.key x.cp (s.choice e.th.tidx 20)

/-- The element that an access reads. -/
def Xlat.place (x : Xlat) (addr : W64) : Place := ⟨.phys x.key, vaOf addr, x.cp != 0⟩

/-! ### Tracked accesses -/

/-- Uncommitted sections of a cluster. -/
def State.liveSections (s : State) (c : Nat) : List Section := s.sections.filter (fun x => x.cluster == c && x.live)

/-- Slots that must commit before slot k, waiting edges included, up to n links away (R324). -/
def State.ancestors (s : State) (c : Nat) : Nat → List Nat → List Nat
  | 0, ks => ks
  | n + 1, ks =>
    let more := (s.liveSections c).filter (fun x => ks.contains x.slot)
    s.ancestors c n ((ks ++ (more.map (fun x => x.preds ++ x.waitsOn)).flatten).dedup)

/-- The newest version of a cluster that covers a byte (R323). -/
def State.versionAt (s : State) (c key : Nat) : Option Version :=
  (s.versions.filter (fun v => v.cluster == c && (NMap.lookup v.bytes key).isSome)).foldl
    (fun best v => match best with
      | none => some v
      | some b => if b.seq < v.seq then some v else some b) none

/-- A byte as a section of the cluster reads it. -/
def State.trackedByte (s : State) (c key : Nat) : Byte :=
  match s.versionAt c key with
  | some v => (NMap.lookup v.bytes key).getD 0
  | none => s.byte key

/-- What became of a tracked access. -/
inductive Tracked where
  | aborts (cause : Nat) (other : Option Nat)
  | waits (w : Wait) (s : State)
  | runs (s : State)

/-- A section of another cluster stands in the way of an access (R329). -/
def State.remoteBlocks (s : State) (c sector : Nat) (write : Bool) : Bool :=
  s.sections.any (fun h => h.live && h.cluster != c &&
    (h.writes.contains sector || (write && h.reads.contains sector)))

/-- Sections that a read of n bytes consumes (R323). -/
def State.eats (s : State) (x : Section) (key n : Nat) : List Nat :=
  ((List.range n).filterMap (fun i => (s.versionAt x.cluster (key + i)).map Version.slot)).dedup.filter
    (fun k => k != x.slot)

/-- The depth that a read would give its section (R323). -/
def State.readDepth (s : State) (x : Section) (key n : Nat) : Nat :=
  let all := (s.eats x key n ++ x.consumes).filter (fun y => ((s.section? x.cluster y).map Section.live).getD false)
  if all.isEmpty then 0 else 1 + (all.map (s.fxDepth x.cluster 64)).foldl max 0

/-- A tracked access of a section to n bytes at a key (R321 to R324, R328, R329). -/
def State.track (s : State) (x : Section) (tier key n : Nat) (write : Bool) : Tracked :=
  let sector := key / 32
  let mine := (s.liveSections x.cluster).filter (fun y => y.slot != x.slot)
  let known := x.reads.contains sector || x.writes.contains sector
  let eaten := s.eats x key n
  let edges := if write then
      (mine.filter (fun y => y.reads.contains sector || y.writes.contains sector)).map Section.slot
    else eaten
  if 2 ≤ tier then .aborts 7 none
  else if s.remoteBlocks x.cluster sector write then .waits (.fxRemote key n write) s
  else if !known && decide (128 ≤ (x.reads ++ x.writes).dedup.length) then .aborts 2 none
  else match edges.find? (fun k => (s.ancestors x.cluster 64 [k]).contains x.slot) with
    | some k => .aborts 3 (some k)
    | none =>
      if !write && decide (5 ≤ s.readDepth x key n) then
        .waits (.fxDepth key n) (s.mapSection x.cluster x.slot (fun y => { y with waitsOn := edges }))
      else .runs (s.mapSection x.cluster x.slot (fun y => { y with
        preds := (y.preds ++ edges).dedup, waitsOn := [],
        consumes := if write then y.consumes else (y.consumes ++ eaten).dedup,
        reads := if write then y.reads else (y.reads ++ [sector]).dedup,
        writes := if write then (y.writes ++ [sector]).dedup else y.writes }))

/-- A tracked write makes a version (R323). -/
def State.addVersion (s : State) (x : Section) (key : Nat) (bs : List Byte) : State :=
  { s with seq := s.seq + 1,
           versions := s.versions ++ [⟨x.cluster, x.slot, key / 32, s.seq, bs.zipIdx.map (fun (b, i) => (key + i, b))⟩] }

/-- A translation fault of a tracked access: a request is posted, the group stays, the section aborts (R330). -/
def State.trackedFault (s : State) (e : Env) (x : Section) (tr : Trap) (acc : Nat) : State :=
  let s1 := (s.pageRequest e.blk.decl.ctx tr.faddr.toNat tr.cause (acc + 16 * e.th.sup.toNat) e.blk.decl.lid []).getD s
  s1.abortSection x.cluster x.slot 8 none

/-! ### Load cache (R299) -/

/-- Lines that a core holds. -/
def State.lines (s : State) (core : Nat) : NMap Line := (NMap.lookup s.lcache core).getD []

def State.setLines (s : State) (core : Nat) (ls : NMap Line) : State :=
  { s with lcache := if ls.isEmpty then NMap.remove s.lcache core else NMap.insert s.lcache core ls }

/-- The line of a byte. -/
def lineOf (key : Nat) : Nat := key / 128 * 128

/-- A line is filled with what stands at home. -/
def State.fillLine (s : State) (core ctx va key : Nat) : State :=
  s.setLines core (NMap.insert (s.lines core) (lineOf key) ⟨ctx, va / 128 * 128, s.bytes (lineOf key) 128⟩)

/-- Log entry 27 (DEDUCED). -/
def State.dropLine (s : State) (core key : Nat) : State := s.setLines core (NMap.remove (s.lines core) (lineOf key))

/-- The lines of a core that satisfy a condition are dropped. Log entry 28 (DEDUCED). -/
def State.dropLines (s : State) (core : Nat) (p : Line → Bool) : State :=
  s.setLines core ((s.lines core).filter (fun e => !p e.2))

/-- What an element read returns: the bytes at home, or those of the core's line where it holds one and the free value
says so. -/
def State.cachedBytes (s : State) (core key n pick : Nat) : List Byte :=
  match NMap.lookup (s.lines core) (lineOf key) with
  | none => s.bytes key n
  | some line =>
    let old := (line.bytes.drop (key - lineOf key)).take n
    if old = s.bytes key n then old else if pick % 2 = 0 then old else s.bytes key n

end Sys2Proof.Machine
end

