-- ==== Sys2Proof/Machine/Memory.lean ====
section
/-! DEFINITION. Loads and stores, tile-table instructions, STW2, LDXP, PRF and CCTL (R206 to R223). A counted operation is
issued here and performed by its own event. -/

namespace Sys2Proof.Machine

/-- Element size and count, and the access size (R210). -/
def elemBytes (w : Word) : Nat := 2 ^ (modF w 0 3 % 4)
def elemCount (w : Word) : Nat := 2 ^ modF w 4 2
def accessBytes (w : Word) : Nat := elemBytes w * elemCount w

/-- Registers of one element. -/
def elemRegs (n : Nat) : Nat := if n = 8 then 2 else 1

/-- The low n bytes of each element of a data tuple (R211). -/
def dataBytes (n k : Nat) (vs : List W32) : List Byte :=
  ((List.range k).map (fun j => leBytes n (wordsNat ((vs.drop (elemRegs n * j)).take (elemRegs n))))).flatten

/-- The position of a data operand's type (R100). -/
def dataPos (w : Word) : Pos := if modF w 0 3 < 4 then .signed else .unsigned

/-- A + SExt(IMM) mod 2^64. -/
def Env.address (e : Env) (w : Word) : W64 := e.dword .unsigned w.a 0 + w.imm.signExtend 64

/-- A global access that fails: inside a section it aborts the section where translation failed (R330).
Log entry 25 (DEDUCED). -/
def accessFault (e : Env) (s : State) (tr : Trap) (n : Need) : LaneEnd :=
  match s.sectionOf e.blk.id e.th.tidx with
  | some x =>
    if replayable tr.cause && x.live then .stay (s.trackedFault e x tr n.acc) else .trap s tr n.acc
  | none => .trap s tr n.acc

/-- Earlier operations of the thread on the bytes of a tracked access, and its `.sc` atomics, come first (R212, R300, R305). -/
def Thread.ahead (t : Thread) (blk : Nat) (x : Span) : Bool :=
  t.pend.any (fun p => p.isAccess && (p.act.scope != 0 || (p.act.spans blk).any (fun y => y.meets x)))

/-- A global load or store of a lane once it has translated: tracked inside a section, else issued with the act. An access to a host or
peer page that aborts the section reaches no port (R328). Between an abort and its delivery a load returns what stands at home and a store
is discarded; behind a commit, in a handler, both are plain (R330). -/
def accessGo (e : Env) (s : State) (x : Xlat) (addr : W64) (size : Nat) (write : Bool) (tracked : State → Section → State)
    (aborted plain : State → State) : LaneEnd :=
  let va := vaOf addr
  let span : Span := ⟨0, x.key, size, va⟩
  match s.sectionOf e.blk.id e.th.tidx with
  | none => .done (plain (s.touch e addr x)) (e.th.pc + 1)
  | some sec =>
    let s1 := s.cacheLeaf (coreCaches e.blk.coreId) e.blk.decl.ctx va x
    if sec.state = .committed then .done (plain (s.touch e addr x)) (e.th.pc + 1)
    else if !sec.live then .done (aborted (s.touch e addr x)) (e.th.pc + 1)
    else if e.th.ahead e.blk.id span then .stay s1
    else match s1.track sec x.tier x.key size write with
      | .aborts cause other => .stay (s1.abortSection sec.cluster sec.slot cause other)
      | .waits w s' => .stay (s'.hold e.blk.id e.th.tidx w)
      | .runs s' =>
        if !write && s.poisoned span then .trap s' (memTrap 0xC 0 va e.th.pc false) 0
        else .done (tracked s' sec) (e.th.pc + 1)

/-- The values of elements read from bytes (R211). -/
def elements (n k : Nat) (sx : Bool) (bs : List Byte) : List W32 :=
  ((List.range k).map (fun j =>
    let v := leNat ((bs.drop (n * j)).take n)
    let x := if sx then (ITy.mk true (max 32 (8 * n))).image ((ITy.mk true (8 * n)).value v) else v
    natWords (elemRegs n) x)).flatten

def execLd (w : Word) (s : State) : Host.Outcome State Fault Refusal :=
  runWord { planOf (.ld w) w with ctr := some .ld } (fun _ e s =>
    let addr := e.address w
    let size := accessBytes w
    match s.reach e addr size Need.load 0 with
    | .error tr => accessFault e s tr Need.load
    | .ok x =>
      let n := elemBytes w
      let k := elemCount w
      let sx := decide (modF w 0 3 < 4)
      let dst := e.th.dests w.d (k * elemRegs n)
      let load (nc : Bool) (s' : State) : State := s'.issueOp e.blk.id e.th.tidx .ld e.th.pc
        (.load (.phys x.key) (vaOf addr) n k sx nc (modF w 6 2 == 2) dst)
      accessGo e s x addr size false
        (fun s' sec => s'.issueOp e.blk.id e.th.tidx .ld e.th.pc (.deliver dst
          (elements n k sx ((List.range size).map (fun i => s'.trackedByte sec.cluster (x.key + i)))) [] 0))
        (load true) (load (modF w 6 2 == 1 || x.cp != 0)))
    (fun _ _ s => s) s

def execSt (w : Word) (s : State) : Host.Outcome State Fault Refusal :=
  runWord { planOf (.st w) w with ctr := some .st } (fun _ e s =>
    let addr := e.address w
    let size := accessBytes w
    let n := elemBytes w
    let k := elemCount w
    let bs := dataBytes n k (e.words (dataPos w) w.b 0 (k * elemRegs n))
    match s.reach e addr size Need.store 0 with
    | .error tr => accessFault e s tr Need.store
    | .ok x =>
      accessGo e s x addr size true
        (fun s' sec => (s'.addVersion sec x.key bs).issueOp e.blk.id e.th.tidx .st e.th.pc .done)
        id (fun s' => s'.issueOp e.blk.id e.th.tidx .st e.th.pc (.store [(.phys x.key, bs)])))
    (fun _ _ s => s) s

/-! ### Scratchpad and parameters -/

/-- A trap of a scratchpad access: FADDR gives the offset (R336). -/
def scratchTrap (cause detail : Nat) (off : Int) (pc : W32) (write : Bool) : Trap :=
  { cause := cause, detail := BitVec.ofNat 32 detail, faddr := (BitVec.ofInt 32 off).setWidth 64, pc := pc,
    write := write }

/-- The checks of R211 on a scratchpad offset. -/
def Env.scratchAt (e : Env) (off : Int) (size : Nat) (write : Bool) : Except Trap Nat :=
  if off < 0 ∨ (e.blk.scratchBytes : Int) < off + size then .error (scratchTrap 7 0 off e.th.pc write)
  else if off % size ≠ 0 then .error (scratchTrap 4 1 off e.th.pc write)
  else .ok off.toNat

/-- A scratchpad load of a lane is issued; `slot` is the tile slot that it names. -/
def Env.issueLds (e : Env) (s : State) (w : Word) (off : Nat) (slot : Option Nat := none) : LaneEnd :=
  let n := elemBytes w
  let k := elemCount w
  .done (s.issueOp e.blk.id e.th.tidx .ld e.th.pc
    (.load (.scratch e.blk.id off) off n k (decide (modF w 0 3 < 4)) true false (e.th.dests w.d (k * elemRegs n))) slot)
    (e.th.pc + 1)

/-- A scratchpad store of a lane is issued. -/
def Env.issueSts (e : Env) (s : State) (w : Word) (data : Opd) (off : Nat) (slot : Option Nat := none) : LaneEnd :=
  let n := elemBytes w
  let k := elemCount w
  .done (s.issueOp e.blk.id e.th.tidx .st e.th.pc
    (.store [(.scratch e.blk.id off, dataBytes n k (e.words (dataPos w) data 0 (k * elemRegs n)))]) slot) (e.th.pc + 1)

/-- Exact(A + SExt(IMM)) of a 32-bit offset. -/
def Env.offset (e : Env) (w : Word) : Int := (e.word w.a 0).toNat + w.imm.toInt

def execLds (w : Word) (s : State) : Host.Outcome State Fault Refusal :=
  runWord { planOf (.lds w) w with ctr := some .ld } (fun _ e s =>
    match e.scratchAt (e.offset w) (accessBytes w) false with
    | .error tr => .trap s tr 0
    | .ok off => e.issueLds s w off) (fun _ _ s => s) s

def execSts (w : Word) (s : State) : Host.Outcome State Fault Refusal :=
  runWord { planOf (.sts w) w with ctr := some .st } (fun _ e s =>
    match e.scratchAt (e.offset w) (accessBytes w) true with
    | .error tr => .trap s tr 0
    | .ok off => e.issueSts s w w.b off) (fun _ _ s => s) s

def execLdp (w : Word) (s : State) : Host.Outcome State Fault Refusal :=
  runWord { planOf (.ldp w) w with ctr := some .ld } (fun _ e s =>
    let off := (e.word w.a 0 + w.imm).toNat
    let n := elemBytes w
    let k := elemCount w
    if off % accessBytes w ≠ 0 then .trap s (scratchTrap 4 1 off e.th.pc false) 0
    else .done (s.issueOp e.blk.id e.th.tidx .ld e.th.pc
      (.load (.param off) 0 n k (decide (modF w 0 3 < 4)) true false (e.th.dests w.d (k * elemRegs n)))) (e.th.pc + 1))
    (fun _ _ s => s) s

/-- Access to a tile slot (R217): the slot exists, is READY, and holds the offset. -/
def Env.tileAccess (e : Env) (s : State) (w : Word) (write : Bool) (go : Nat → Nat → LaneEnd) : LaneEnd :=
  let i := (e.word w.a 0).toNat
  let size := accessBytes w
  if e.blk.decl.tiles ≤ i then .trap s { mkTrap 8 0 e.th.pc with write := write } 0
  else
    let ent := e.blk.tile i
    if ent.extractLsb' 78 2 ≠ tileReady then .stay (s.hold e.blk.id e.th.tidx (.tile i false))
    else
      let off := (e.word w.b w.imm).toNat
      if tileSize ent < off + size then .trap s (scratchTrap 7 0 (tileBase ent + off) e.th.pc write) 0
      else if off % size ≠ 0 then .trap s (scratchTrap 4 1 (tileBase ent + off) e.th.pc write) 0
      else go i (tileBase ent + off)

def execLdsx (w : Word) (s : State) : Host.Outcome State Fault Refusal :=
  runWord { planOf (.ldsx w) w with ctr := some .ld } (fun _ e s =>
    e.tileAccess s w false (fun i off => e.issueLds s w off (some i))) (fun _ _ s => s) s

def execStsx (w : Word) (s : State) : Host.Outcome State Fault Refusal :=
  runWord { planOf (.stsx w) w with ctr := some .st } (fun _ e s =>
    e.tileAccess s w true (fun i off => e.issueSts s w w.c off (some i))) (fun _ _ s => s) s

/-! ### The tile table (R213 to R216) -/

def execTlk (w : Word) (s : State) : Host.Outcome State Fault Refusal :=
  runWord { planOf (.tlk w) w with ctr := some .tl } (fun _ e s =>
    let tag := e.dword .unsigned w.a 0
    let hit := (List.range e.blk.decl.tiles).find? (fun i =>
      e.blk.tile i |>.extractLsb' 78 2 |> (· != tileEmpty) |> (· && tileTag (e.blk.tile i) == tag))
    let v : W32 := match hit with
      | some i => BitVec.ofNat 32 i
      | none => 0xFFFFFFFF#32
    .done (s.issueOp e.blk.id e.th.tidx .tl e.th.pc
      (.deliver (e.th.dests w.d 1) [v] [((e.th.named w.b).getD 0, hit.isSome)] 0)) (e.th.pc + 1)) (fun _ _ s => s) s

def execTstat (w : Word) (s : State) : Host.Outcome State Fault Refusal :=
  runWord { planOf (.tstat w) w with ctr := some .tl } (fun _ e s =>
    let i := (e.word w.a w.imm).toNat
    if e.blk.decl.tiles ≤ i then .trap s (mkTrap 8 0 e.th.pc) 0
    else .done (s.issueOp e.blk.id e.th.tidx .tl e.th.pc
      (.deliver (e.th.dests w.d 4) (natWords 4 (e.blk.tile i).toNat) [] 0)) (e.th.pc + 1)) (fun _ _ s => s) s

/-- An entry is EMPTY or READY (R214). -/
def tileIdle (e : BitVec 128) : Bool := e.extractLsb' 78 2 == tileEmpty || e.extractLsb' 78 2 == tileReady

/-- A TTAG or TINV of a lane: the entry is written, so that every later word sees it, and the operation is counted until the
accesses of earlier cycles to the slot have been performed (R216). -/
def Env.issueTile (e : Env) (s : State) (i : Nat) (f : Block → Block) : LaneEnd :=
  .done ((s.mapBlock e.blk.id f).issueOp e.blk.id e.th.tidx .tl e.th.pc (.tile i)) (e.th.pc + 1)

def execTinv (w : Word) (s : State) : Host.Outcome State Fault Refusal :=
  runWord { planOf (.tinv w) w with ctr := some .tl } (fun _ e s =>
    let i := (e.word w.a w.imm).toNat
    if e.blk.decl.tiles ≤ i then .trap s (mkTrap 8 0 e.th.pc) 0
    else if !tileIdle (e.blk.tile i) then .stay (s.hold e.blk.id e.th.tidx (.tile i true))
    else e.issueTile s i (fun b => b.setTile i (withTileState (b.tile i) tileEmpty))) (fun _ _ s => s) s

/-- The checks of TTAG on an image (R215): cause, detail, and the scratchpad offset that is out of range (R336). -/
def ttagFault (b : Block) (v : BitVec 128) : Option (Nat × Nat × Nat) :=
  let st := v.extractLsb' 78 2
  if v.extractLsb' 94 2 ≠ 0 ∨ v.extractLsb' 114 14 ≠ 0 ∨ tileSize v = 0 ∨ 12288 * 128 < tileSize v ∨
      (st ≠ tileEmpty ∧ st ≠ tileReady) then some (1, 10, 0)
  else if b.scratchBytes < tileBase v + tileSize v then some (7, 0, tileBase v)
  else if tileBarv v = true ∧ b.scratchBytes < tileBar v + 16 then some (7, 0, tileBar v)
  else none

def execTtag (w : Word) (s : State) : Host.Outcome State Fault Refusal :=
  runWord { planOf (.ttag w) w with ctr := some .tl } (fun _ e s =>
    let i := (e.word w.a w.imm).toNat
    let v : BitVec 128 := BitVec.ofNat 128 (wordsNat (e.tuple w.b 4))
    if e.blk.decl.tiles ≤ i then .trap s (mkTrap 8 0 e.th.pc) 0
    else match ttagFault e.blk v with
      | some (c, d, off) => .trap s (scratchTrap c d off e.th.pc false) 0
      | none =>
        if !tileIdle (e.blk.tile i) then .stay (s.hold e.blk.id e.th.tidx (.tile i true))
        else e.issueTile s i (fun b => b.setTile i v)) (fun _ _ s => s) s

/-! ### STW2 (R218, R219) -/

/-- Accesses of one size to a list of addresses, all translated, or the first trap. -/
def State.reachAll (s : State) (e : Env) (size : Nat) (n : Need) : Nat → List W64 → Except Trap (List Xlat)
  | _, [] => .ok []
  | k, a :: as =>
    match s.reach e a size n k with
    | .error tr => .error tr
    | .ok x =>
      match s.reachAll e size n (k + 1) as with
      | .error tr => .error tr
      | .ok xs => .ok (x :: xs)

/-- The first address that R207 refuses. Log entry 25 (DEDUCED). -/
def misalignedAny (size : Nat) (pc : W32) (write : Bool) : List W64 → Option Trap
  | [] => none
  | a :: as =>
    match misaligned a size with
    | some d => some { cause := 4, detail := d, faddr := a, pc := pc, write := write }
    | none => misalignedAny size pc write as

/-- STW2: the plain copy, and the transposed one. Which transposed elements are written before a translation fault in the transposed copy
R219 leaves open: that none is, is the model's choice (log entry 124, DESIGN CHOICE). -/
def execStw2 (w : Word) (s : State) : Host.Outcome State Fault Refusal :=
  runWord { planOf (.stw2 w) w with ctr := some .st } (fun _ e s =>
    let size := if modB w 0 then 4 else 2
    let n := 2 ^ modF w 3 3
    let data := leBytes (n * size) (wordsNat (e.tuple w.b (max 1 (n * size / 4))))
    let a := e.dword .unsigned w.a 0
    let c := e.dword .unsigned w.c 0
    let rows := (List.range n).map (fun j => c + BitVec.ofNat 64 (immF w 10 22 * j))
    match misalignedAny (n * size) e.th.pc true [a], misalignedAny size e.th.pc true rows with
    | some tr, _ => .trap s tr 0
    | none, some tr => .trap s tr 0
    | none, none =>
      match s.reach e a (n * size) Need.store 0 with
      | .error tr => .trap s tr Need.store.acc
      | .ok x =>
        let s1 := s.touch e a x
        match s1.reachAll e size Need.store 1 rows with
        | .error tr => .trap (s1.issueOp e.blk.id e.th.tidx .st e.th.pc (.store [(.phys x.key, data)]))
            { tr with half := true } Need.store.acc
        | .ok ys => .done (s1.issueOp e.blk.id e.th.tidx .st e.th.pc
            (.store ((.phys x.key, data) :: ys.zipIdx.map (fun (y, j) =>
              (.phys y.key, (data.drop (size * j)).take size))))) (e.th.pc + 1)) (fun _ _ s => s) s

/-! ### LDXP (R220, R221) -/

/-- C(n, k), 0 for n < k: each partial product is divisible. -/
def binom (n k : Nat) : Nat := (List.range k).foldl (fun a i => a * (n - i) / (i + 1)) 1

/-- The greatest c below 64 with C(c, i) at most x. -/
def greatest (i x : Nat) : Nat → Nat
  | 0 => 0
  | c + 1 => if binom (c + 1) i ≤ x then c + 1 else greatest i x c

/-- The positions of a pattern, c1 first (R221). -/
def positions : Nat → Nat → List Nat
  | 0, _ => []
  | i + 1, x =>
    let c := greatest (i + 1) x 63
    positions i (x - binom c (i + 1)) ++ [c]

/-- Log entry 12 (DEDUCED). -/
def execLdxp (w : Word) (s : State) : Host.Outcome State Fault Refusal :=
  runWord { planOf (.ldxp w) w with ctr := some .ld } (fun _ e s =>
    let size := 2 ^ modF w 0 2
    let n := 8 * 2 ^ modF w 2 2
    let x := (e.dword .unsigned w.b 0).toNat
    let a := e.dword .unsigned w.a 0
    if binom 64 n ≤ x then .trap s (mkTrap 1 10 e.th.pc) 0
    else
      let addrs := (List.range n).map (fun i => a + BitVec.ofNat 64 (size * i))
      match s.reachAll e size Need.load 0 addrs with
      | .error tr => .trap s tr Need.load.acc
      | .ok xs => .done (s.issueOp e.blk.id e.th.tidx .ld e.th.pc
          (.expand (List.zipWith Xlat.place xs addrs) size (immF w 0 7) (positions n x) (e.th.dests w.d (16 * size))
            (immF w 8 7))) (e.th.pc + 1)) (fun _ _ s => s) s

/-! ### PRF and CCTL (R222, R223) -/

/-- A prefetch that can be made leaves the line in the load cache and the MSC, or in the MSC alone, as its page allows (R222, R345). -/
def execPrf (w : Word) (s : State) : Host.Outcome State Fault Refusal :=
  runWord (planOf (.prf w) w) (fun _ e s =>
    let addr := e.address w
    match s.reach e addr 1 Need.load 0 with
    | .error _ => .done s (e.th.pc + 1)
    | .ok x =>
      let s1 := s.touch e addr x
      .done (if modF w 0 2 = 0 && x.cp == 0 then
          s1.fillLine e.blk.coreId e.blk.decl.ctx (vaOf addr) x.key else s1) (e.th.pc + 1)) (fun _ _ s => s) s

/-- CCTL on an address: what it needs, then its effect on the core's lines. -/
def cctl (i : Instr) (w : Word) (n : Need) (act : State → Env → Xlat → State) (s : State) :
    Host.Outcome State Fault Refusal :=
  runWord (planOf i w) (fun _ e s =>
    let addr := e.address w
    match s.reach e addr 1 n 0 with
    | .error tr => .trap s tr n.acc
    | .ok x => .done (act (s.touch e addr x) e x) (e.th.pc + 1)) (fun _ _ s => s) s

def execCctlIvl (w : Word) (s : State) := cctl (.cctlIvl w) w Need.load (fun s e x => s.dropLine e.blk.coreId x.key) s

/-- Log entry 13 (DEDUCED). -/
def execCctlIva (w : Word) (s : State) : Host.Outcome State Fault Refusal :=
  runWord (planOf (.cctlIva w) w) (fun _ e s => .done (s.setLines e.blk.coreId []) (e.th.pc + 1)) (fun _ _ s => s) s

/-- The MSC line of the address is written back (R223); over GDDR and LPDDR this changes nothing that can be read. -/
def execCctlWbm (w : Word) (s : State) :=
  cctl (.cctlWbm w) w Need.both (fun s _ x => s.writeBack (fun l => l == x.key / 128)) s

/-- The MSC line of the address is written back and dropped (R223). -/
def execCctlWim (w : Word) (s : State) :=
  cctl (.cctlWim w) w Need.both (fun s _ x => s.dropMsc (fun l => l == x.key / 128)) s

end Sys2Proof.Machine
end

