-- ==== Sys2Proof/Machine/Atomics.lean ====
section
/-! DEFINITION. Atomic operations (R240 to R243): issue of the seven instructions, and the operation performed at home. -/

namespace Sys2Proof.Machine

/-! ### The operation at home (R241) -/

/-- The new value of an integer operation; values wrap at the width of the type. -/
def atomInt (op : Nat) (t : ITy) (old b : Nat) : Nat :=
  match op with
  | 0 => (old + b) % 2 ^ t.w
  | 1 => t.image (min (t.value old) (t.value b))
  | 2 => t.image (max (t.value old) (t.value b))
  | 3 => old &&& b
  | 4 => old ||| b
  | 5 => old ^^^ b
  | 6 => b
  | _ => if b ≤ old then 0 else old + 1

/-- The format of FMT with the number of its elements (R240). -/
def atomFmt (fmt : Nat) : Fmt × Nat :=
  match fmt with
  | 0 => (.f32, 1)
  | 1 => (.f64, 1)
  | 2 => (.f16, 2)
  | _ => (.bf16, 2)

/-- One element of a floating operation: subnormals are kept, and flags are lost. -/
def atomFloat1 (op : Nat) (f : Fmt) (old b : Nat) : Nat :=
  match op with
  | 0 => (addCode f .rn false false false old b).1
  | 1 => (minMax f false false old b).1
  | _ => (minMax f false true old b).1

/-- A floating operation on every element. -/
def atomFloat (op fmt : Nat) (old b : Nat) : Nat :=
  let (f, n) := atomFmt fmt
  let w := 2 ^ f.width
  ((List.range n).map (fun i => atomFloat1 op f (old / w ^ i % w) (b / w ^ i % w) * w ^ i)).sum

/-- OP(old, B, C). -/
def AtomKind.apply (k : AtomKind) (old b c : Nat) : Nat :=
  match k with
  | .int op ty => atomInt op (ITy.ofCode ty) old b
  | .cas _ => if old = b then c else old
  | .flt op fmt => atomFloat op fmt old b
  | .wide isCas => if isCas then (if old = b then c else old) else b

/-! ### Issue (R240) -/

/-- The position of an integer operand. -/
def intPos (ty : Nat) : Pos := if ty < 4 then .signed else .unsigned

/-- The scope of an `.sc` operation, or 0. -/
def atomSc (w : Word) : Nat := if modB w 6 then modF w 7 3 else 0

/-- A global atomic of a lane: checks, translation for reading and writing, and issue. -/
def atomGlobal (i : Instr) (w : Word) (c : Ctr) (kind : AtomKind) (offset : Bool) (b x : Env → Nat) (n : Nat) (s : State) :
    Host.Outcome State Fault Refusal :=
  runWord { planOf i w with ctr := some c } (fun _ e s =>
    let addr := if offset then e.address w else e.dword .unsigned w.a 0
    match s.reach e addr kind.size Need.both 0 with
    | .error tr => .trap s tr Need.both.acc
    | .ok y =>
      .done ((s.touch e addr y).issueOp e.blk.id e.th.tidx c e.th.pc
        (.atom (.phys y.key) (vaOf addr) kind (BitVec.ofNat 128 (b e)) (BitVec.ofNat 128 (x e)) (atomSc w) (y.leaf.getLsbD 8)
          (if c = .ld then e.th.dests w.d n else []))) (e.th.pc + 1)) (fun _ _ s => s) s

/-- The value of B for an integer type, and of C. -/
def atomB (w : Word) (e : Env) : Nat := wordsNat (e.words (intPos (modF w 0 3)) w.b 0 (tyRegs (modF w 0 3)))
def atomC (w : Word) (e : Env) : Nat := wordsNat (e.words (intPos (modF w 0 3)) w.c 0 (tyRegs (modF w 0 3)))

/-- Registers of a FMT, and the value of B in it. -/
def atomRegs (w : Word) : Nat := if modF w 0 3 = 1 then 2 else 1
def atomFB (w : Word) (e : Env) : Nat := e.code (atomRegs w) w.b 0

def execAtom (w : Word) (s : State) : Host.Outcome State Fault Refusal :=
  atomGlobal (.atom w) w .ld (.int (modF w 3 3) (modF w 0 3)) true (atomB w) (fun _ => 0) (tyRegs (modF w 0 3)) s

def execAtomc (w : Word) (s : State) : Host.Outcome State Fault Refusal :=
  atomGlobal (.atomc w) w .ld (.cas (modF w 0 3)) false (atomB w) (atomC w) (tyRegs (modF w 0 3)) s

def execAtomf (w : Word) (s : State) : Host.Outcome State Fault Refusal :=
  atomGlobal (.atomf w) w .ld (.flt (modF w 3 3) (modF w 0 3)) true (atomFB w) (fun _ => 0) (atomRegs w) s

def execRed (w : Word) (s : State) : Host.Outcome State Fault Refusal :=
  atomGlobal (.red w) w .st (.int (modF w 3 3) (modF w 0 3)) true (atomB w) (fun _ => 0) 0 s

def execRedf (w : Word) (s : State) : Host.Outcome State Fault Refusal :=
  atomGlobal (.redf w) w .st (.flt (modF w 3 3) (modF w 0 3)) true (atomFB w) (fun _ => 0) 0 s

/-- Log entry 19 (DEDUCED). -/
def execAtomw (w : Word) (s : State) : Host.Outcome State Fault Refusal :=
  atomGlobal (.atomw w) w .ld (.wide (modF w 3 3 == 1)) false (fun e => wordsNat (e.tuple w.b 4))
    (fun e => wordsNat (e.tuple w.c 4)) 4 s

/-- What ATOMS does (R240). -/
def atomsKind (w : Word) : AtomKind :=
  if modB w 7 then .flt (modF w 3 3) 0
  else if modF w 3 3 = 7 then .cas (modF w 0 3)
  else .int (modF w 3 3) (modF w 0 3)

def execAtoms (w : Word) (s : State) : Host.Outcome State Fault Refusal :=
  runWord { planOf (.atoms w) w with ctr := some .ld } (fun _ e s =>
    let kind := atomsKind w
    let cas := modF w 3 3 = 7
    let off : Int := if cas then (e.word w.a 0).toNat else e.offset w
    match e.scratchAt off kind.size true with
    | .error tr => .trap s tr 0
    | .ok o =>
      let b := if modB w 7 then (e.word w.b 0).toNat else atomB w e
      let x := if cas then atomC w e else 0
      .done (s.issueOp e.blk.id e.th.tidx .ld e.th.pc
        (.atom (.scratch e.blk.id o) o kind (BitVec.ofNat 128 b) (BitVec.ofNat 128 x) (if modB w 6 then 2 else 0) false
          (e.th.dests w.d (if modB w 7 then 1 else tyRegs (modF w 0 3))))) (e.th.pc + 1)) (fun _ _ s => s) s

end Sys2Proof.Machine
end

