-- ==== Sys2Proof/Machine/Barriers.lean ====
section
/-! DEFINITION. Barrier instructions and the application of arrivals (R235 to R239, R306). -/

namespace Sys2Proof.Machine

/-! ### What a thread has not finished -/

/-- A store, atomic or BINIT, which a release side waits for (R306). -/
def Pend.isWrite (p : Pend) : Bool := p.ctr == .st || p.act.isAtom

/-- Every store, atomic and BINIT that the thread issued before a stamp has been performed. -/
def Thread.writtenBefore (t : Thread) (op : Nat) : Bool := t.pend.all (fun p => !p.isWrite || decide (op ≤ p.op))

/-- No store, atomic or BINIT is outstanding. Log entries 45 (DEDUCED), 75 (DEDUCED). -/
def Thread.written (t : Thread) : Bool := t.pend.all (fun p => !p.isWrite)

/-- No load, store or atomic is outstanding (R245). -/
def Thread.performed (t : Thread) : Bool := t.pend.all (fun p => p.ctr != .ld && p.ctr != .st)

/-- No load or atomic is outstanding. -/
def Thread.loaded (t : Thread) : Bool := t.pend.all (fun p => p.ctr != .ld && !p.act.isAtom)

/-! ### Arrivals (R235, R237, R306, R380) -/

/-- Arrivals of one bundle and group on one object in one phase that no record tells of yet (R380). -/
structure ArrRun where
  gid : Nat
  bundle : Nat
  off : Nat
  phase : BitVec 16
  pc : W32
  mask : W64
  deriving DecidableEq, Repr

/-- A run of arrivals is recorded (R380). -/
def State.flushRun (s : State) (blk : Nat) : Option ArrRun → State
  | none => s
  | some r => s.traceRaw blk r.gid 3 r.pc r.mask 0 (BitVec.ofNat 32 r.off) r.phase

/-- Two runs are one record. -/
def ArrRun.same (a b : ArrRun) : Bool := a.gid == b.gid && a.bundle == b.bundle && a.off == b.off && a.phase == b.phase && a.pc == b.pc

/-- The object's phase is about to complete. -/
def Block.completes (b : Block) (off : Nat) : Bool :=
  let o := b.obj off
  o.init && !o.ovf && o.arrd == o.expa && o.land == o.expb

def Act.isCtrs : Act → Bool
  | .ctrs _ _ _ _ _ _ _ => true
  | _ => false

/-- The barrier arrivals of the thread's earlier CTRS words have been made. -/
def Thread.ctrsBefore (t : Thread) (op : Nat) : Bool := t.pend.all (fun p => !p.act.isCtrs || decide (op ≤ p.op))

/-- The operation is an event of an object: BINIT, or a store or atomic into an object or into what an earlier BINIT makes one
(R234, R236). -/
def Block.objWrite (b : Block) (p : Pend) : Bool :=
  let made := (b.threads.map (fun t => t.pend.filterMap (fun q => match q.act with
    | .binit off _ _ => if q.op < p.op then some (off / 16) else none
    | _ => none))).flatten
  match p.act with
  | .binit _ _ _ => true
  | a => (b.objects ++ made).any (fun g => a.meetsObj b.id (16 * g))

/-- The first event of the block's threads in issue order that the bank has not applied. -/
def Block.nextEvent (b : Block) : Option (Thread × Token) :=
  (b.threads.map (fun t => (t.tokens.filter (fun k => k.val.isNone)).map (fun k => (t, k)))).flatten.foldl
    (fun best e => match best with
      | none => some e
      | some x => if e.2.op < x.2.op then some e else some x) none

/-- An event may be applied: the object writes that come before it in issue order are performed, and for an arrival the
waits of R306 are over. -/
def Block.applies (b : Block) (t : Thread) (k : Token) : Bool :=
  b.threads.all (fun u => u.pend.all (fun p => decide (k.op ≤ p.op) || !b.objWrite p)) && t.ctrsBefore k.op &&
    match k.ev with
    | .arrive _ _ => t.writtenBefore k.op
    | .ctrs => t.writtenBefore k.op
    | _ => true

/-- An event has been applied and leaves nothing to write. -/
def State.dropToken (s : State) (blk tidx op : Nat) : State :=
  s.mapThread blk tidx (fun t => { t with tokens := t.tokens.filter (fun k => k.op != op) })

/-- The bytes that BEXP expects are added, or none where it is a misuse (R235). -/
def Block.expect (b : Block) (off n : Nat) : Option Block :=
  let o := b.obj off
  if !o.init || decide (2 ^ 32 ≤ o.expb + n) then none else some (b.setObj off { o with expb := o.expb + n })

/-- The result of PTEST, or none where it is a misuse (R237). -/
def Block.testPhase (b : Block) (off : Nat) (tok : BitVec 16) : Option Bool :=
  if (b.obj off).init then some ((b.obj off).phase != tok) else none

/-- An arrival of ARRV is applied: the token is known, and the arrival joins the run of its bundle. -/
def State.applyArrive (s : State) (b b1 : Block) (tidx : Nat) (k : Token) (run : Option ArrRun) : State × Option ArrRun :=
  let phase := (b.obj k.off).phase
  let b2 := b1.mapThread tidx (fun t => { t with tokens := t.tokens.map (fun x =>
    if x.op = k.op then { x with val := some (phase.setWidth 32) } else x) })
  let s1 := s.mapBlock b.id (fun _ => b2)
  let mine : ArrRun :=
    ⟨b.gidOf tidx, k.bundle, k.off, phase, k.pc, if k.quiet then 0 else 1#64 <<< (tidx % b.decl.width)⟩
  let joined : Option ArrRun × Option ArrRun := match run with
    | none => (none, some mine)
    | some r => if r.same mine then (none, some { r with mask := r.mask ||| mine.mask }) else (some r, some mine)
  let s2 := s1.flushRun b.id joined.1
  if b2.completes k.off then ((s2.flushRun b.id joined.2).phaseTest b.id k.off, none) else (s2, joined.2)

/-- An event is applied at the bank (R235, R237, R239, R263); an arrival is the release side of its phase (R302, R306). A misuse is delivered against the word. -/
def State.applyEvent (s : State) (b : Block) (t : Thread) (k : Token) (run : Option ArrRun) : State × Option ArrRun :=
  let told := s.tellAll (fun e => e.releasedBy b.id t.tidx k.op) (.phase b.id k.off (b.obj k.off).phase.toNat) 0
  let misuse : State × Option ArrRun := ((s.flushRun b.id run).takeTrap b.id t.tidx (mkTrap 0x15 0 k.pc), none)
  let set (s : State) (b1 : Block) : State := ((s.flushRun b.id run).mapBlock b.id (fun _ => b1)).dropToken b.id t.tidx k.op
  match k.ev with
  | .arrive n bytes =>
    match b.arrive (some t.tidx) k.off n bytes with
    | none => misuse
    | some b1 => told.applyArrive b b1 t.tidx k run
  | .ctrs =>
    match b.arrive (some t.tidx) k.off 1 0 with
    | none => misuse
    | some b1 => ((set told b1).phaseTest b.id k.off, none)
  | .expect n =>
    match b.expect k.off n with
    | none => misuse
    | some b1 => ((set s b1).phaseTest b.id k.off, none)
  | .test tok pred =>
    match b.testPhase k.off tok with
    | none => misuse
    | some q => ((if q then (set s b).passPhase b.coreId b.id t.tidx k.off tok.toNat else set s b).mapThread b.id t.tidx (fun t =>
        t.setPred pred q), none)
  | .exit => ((set s b).exitDrops b.id t.tidx, none)

/-- The events of a block are applied in issue order while the first of them may be (R236). Log entry 37 (DEDUCED). -/
def State.applyEvents : Nat → State → Nat → Option ArrRun → State
  | 0, s, blk, run => s.flushRun blk run
  | n + 1, s, blk, run =>
    match s.block? blk with
    | none => s
    | some b =>
      match b.nextEvent with
      | none => s.flushRun blk run
      | some (t, k) =>
        if b.applies t k then
          let r := s.applyEvent b t k run
          State.applyEvents n r.1 blk r.2
        else s.flushRun blk run

/-- After something of a block has been performed: the object events that waited for it may follow, and with the last of them a replay
may end (R386). -/
def State.settle (s : State) (blk : Nat) : State :=
  match s.block? blk with
  | none => s
  | some b => (s.applyEvents (b.threads.map (fun t => t.tokens.length)).sum blk none).replayEnd blk

/-- An event joins the queue of its thread, at the end of the issue order. -/
def State.enqueue (s : State) (b : Block) (t : Thread) (off : Nat) (ev : ObjEvent) (dst : Option Nat) : State :=
  let k : Token := { op := s.seq, bundle := b.issued, pc := t.pc, off := off, ev := ev, dst := dst, shifts := 0,
                     quiet := t.inTrap, val := none }
  ({ s with seq := s.seq + 1 } : State).mapThread b.id t.tidx (fun t => { t with tokens := t.tokens ++ [k] })

/-- No event of the block's threads waits, so an event of this thread acts at once. -/
def Block.quietBank (b : Block) (t : Thread) : Bool :=
  b.threads.all (fun u => u.tokens.all (fun k => k.val.isSome) && u.pend.all (fun p => !b.objWrite p)) &&
    t.pend.all (fun p => !p.act.isCtrs)

/-! ### The instructions (R237) -/

/-- The offset that A names. -/
def Env.objOff (e : Env) (w : Word) : Nat := (e.word w.a w.imm).toNat

/-- The trap of an object check: FADDR gives the offset where the access was the cause (R336). -/
def objTrap (c d off : Nat) (pc : W32) : Trap :=
  { cause := c, detail := BitVec.ofNat 32 d, faddr := BitVec.ofNat 64 off, pc := pc }

/-- A barrier instruction whose object check has passed. -/
def onObject (i : Instr) (w : Word) (ctr : Option Ctr) (body : Env → Nat → State → LaneEnd)
    (post : Bundle → State → State → State) (s : State) : Host.Outcome State Fault Refusal :=
  runWord { planOf i w with ctr := ctr } (fun _ e s =>
    let off := e.objOff w
    match e.blk.objFault off with
    | some (c, d) => .trap s (objTrap c d off e.th.pc) 0
    | none => body e off s) post s

def misuse (s : State) (e : Env) : LaneEnd := .trap s (mkTrap 0x15 0 e.th.pc) 0

def execBinit (w : Word) (s : State) : Host.Outcome State Fault Refusal :=
  onObject (.binit w) w (some .st) (fun e off s =>
    let drop := modB w 0
    let n := (e.word w.b w.imm).toNat
    if !drop && (n == 0 || decide (65535 < n)) then misuse s e
    else .done (s.issueOp e.blk.id e.th.tidx .st e.th.pc (.binit off n drop)) (e.th.pc + 1)) (fun _ _ s => s) s

/-- An arrival is issued: the token's slot shifts in now, and the token follows (R122, R237). In a replay it is held until its
turn (R385). -/
def execArrv (w : Word) (s : State) : Host.Outcome State Fault Refusal :=
  onObject (.arrv w) w none (fun e off s =>
    if !s.barTurn e.blk e.th off then .stay (s.hold e.blk.id e.th.tidx (.steer (some off)))
    else
      let exp := modB w 0
      let v := (e.word w.b w.imm).toNat
      .done ((s.mapThread e.blk.id e.th.tidx (fun t => t.shift 0 false)).enqueue e.blk e.th off
        (.arrive (if exp then 1 else v) (if exp then v else 0)) (e.th.named w.d)) (e.th.pc + 1))
    (fun u _ s => s.settle u.blk) s

/-- BEXP: the expected bytes rise, unless the sum passes its field; then the completion test (R235). Behind events that wait
it takes its place in their order, and the thread issues nothing before it is applied (R236, R237). -/
def execBexp (w : Word) (s : State) : Host.Outcome State Fault Refusal :=
  onObject (.bexp w) w none (fun e off s =>
    let n := (e.word w.b w.imm).toNat
    if !e.blk.quietBank e.th then .done (s.enqueue e.blk e.th off (.expect n) none) (e.th.pc + 1)
    else match e.blk.expect off n with
      | none => misuse s e
      | some b1 => .done ((s.mapBlock e.blk.id (fun _ => b1)).phaseTest e.blk.id off) (e.th.pc + 1))
    (fun u _ s => s.settle u.blk) s

/-- PWAIT waits for the earlier events on its object, checks INIT once, and then waits while the phase is its token's (R236, R237). -/
def execPwait (w : Word) (s : State) : Host.Outcome State Fault Refusal :=
  onObject (.pwait w) w none (fun e off s =>
    let tok := (e.word w.b w.imm).setWidth 16
    let stamp := match e.th.wait with
      | some (.phase _ _ _ n _) => n
      | _ => s.seq
    let checked := match e.th.wait with
      | some (.phase _ _ _ _ c) => c
      | _ => false
    let wait (c : Bool) := LaneEnd.stay (({ s with seq := s.seq + 1 } : State).hold e.blk.id e.th.tidx (.phase off tok w.hnt.yld stamp c))
    if e.blk.objBefore off stamp then wait checked
    else if !checked && !(e.blk.obj off).init then misuse s e
    else if (e.blk.obj off).phase = tok then wait true
    else .done (s.passPhase e.blk.coreId e.blk.id e.th.tidx off tok.toNat) (e.th.pc + 1)) (fun _ _ s => s) s

/-- PTEST; behind events that wait it takes its place in their order (R236). -/
def execPtest (w : Word) (s : State) : Host.Outcome State Fault Refusal :=
  onObject (.ptest w) w none (fun e off s =>
    let tok := (e.word w.b w.imm).setWidth 16
    let d := (e.th.named w.d).getD 0
    if !e.blk.quietBank e.th then .done (s.enqueue e.blk e.th off (.test tok d) none) (e.th.pc + 1)
    else match e.blk.testPhase off tok with
      | none => misuse s e
      | some q => .done ((if q then s.passPhase e.blk.coreId e.blk.id e.th.tidx off tok.toNat else s).mapThread e.blk.id e.th.tidx
          (fun t => t.setPred d q)) (e.th.pc + 1))
    (fun u _ s => s.settle u.blk) s

/-- BINIT is performed (R237): a thread whose exit comes after it in the order of R236 counts as not yet exited. It is refused with BARRIER_MISUSE while a thread waits on the object, or beyond 8 EXITDROP
registrations. -/
def State.performBinit (s : State) (blk tidx : Nat) (pc : W32) (off expa : Nat) (drop : Bool) : State :=
  match s.block? blk with
  | none => s
  | some b =>
    let o := b.obj off
    if o.init && b.threads.any (fun t => b.waitsOn t off) then s.takeTrap blk tidx (mkTrap 0x15 0 pc)
    else if drop && decide (8 ≤ (b.xregs.filter (fun x => x.off != off)).length) then
      s.takeTrap blk tidx (mkTrap 0x15 0 pc)
    else
      let live := (b.threads.filter (fun t => t.life != .exited || t.tokens.any (fun k => k.ev == .exit))).length
      let o' : Obj := { o with expa := if drop then live else expa, arrd := 0, expb := 0, land := 0, phase := 0, ovf := false,
                               init := true, exitdrop := drop }
      let rest := b.xregs.filter (fun x => x.off != off)
      (s.forgetObject blk off).mapBlock blk (fun b => { (b.setObj off o') with
        objects := if b.isObject off then b.objects else b.objects ++ [off / 16],
        xregs := if drop then rest ++ [⟨off, [], 0⟩] else rest })

end Sys2Proof.Machine
end

