-- ==== Sys2Proof/Machine/CrossLane.lean ====
section
/-! DEFINITION. What a cross-lane word delivers to each lane of a release (R198 to R205), and the named set with which a lane
arrives (R197). -/

namespace Sys2Proof.Machine

/-- A lane of a release: its operands, its named set and its guard as it arrived. -/
structure Member where
  env : Env
  named : W64
  guard : Bool
  deriving DecidableEq, Repr

def Member.lane (m : Member) : Nat := m.env.lane

/-- Lanes of a group that have exited (R189). -/
def Block.exitedMask (b : Block) (g : Nat) : W64 :=
  b.threads.foldl (fun m t =>
    if b.gidOf t.tidx = g ∧ t.life = .exited then m ||| (1#64 <<< (t.tidx % b.decl.width)) else m) 0

/-- Bits at or above W and bits of exited lanes are dropped (R190, R197). -/
def Block.clip (b : Block) (g : Nat) (m : W64) : W64 := m &&& laneMask b.decl.width &&& ~~~(b.exitedMask g)

/-- Join mask k of a group (R190). -/
def Block.joinMask (b : Block) (g k : Nat) : W64 := ((b.group? g).map (fun x => NMap.read 0 x.jm k)).getD 0

/-- N(L) of a word (R197, R275). -/
def Env.namedSet (e : Env) (w : Word) (guard : Bool) : W64 :=
  let mm := modF w 8 2
  e.blk.clip e.gid (
    if mm = 1 then e.blk.joinMask e.gid (modF w 5 3)
    else if mm = 2 then (if guard then e.dword .unsigned w.c 0 else 1#64 <<< e.lane)
    else laneMask e.blk.decl.width)

/-- v is a contributor to L (R197). -/
def contributes (l v : Member) : Bool := v.guard && (l.named.getLsbD v.lane || v.lane == l.lane)

/-- The contributors to L in ascending virtual lane. -/
def contributors (r : List Member) (l : Member) : List Member := r.filter (contributes l)

/-- The contributor at a lane, if there is one. -/
def contributorAt (r : List Member) (l : Member) (v : Nat) : Option Member :=
  (contributors r l).find? (fun m => m.lane == v)

/-! ### SHFL and XBF (R199, R200) -/

def shflRes (w : Word) (r : List Member) (l : Member) : Res :=
  let c : Int := (l.env.word w.b w.imm).toNat
  let me : Int := l.lane
  let k := modF w 0 2
  let src : Int := if k = 0 then c else if k = 1 then me - c else if k = 2 then me + c else ((l.lane ^^^ c.toNat : Nat) : Int)
  let from' := if 0 ≤ src ∧ src < l.env.blk.decl.width then contributorAt r l src.toNat else none
  { regs := some [(from'.getD l).env.word w.a w.imm] }

def xbfRes (w : Word) (r : List Member) (l : Member) : Res :=
  let n := 8 * 2 ^ modF w 0 2
  let k := modF w 2 3
  let h := 2 ^ k
  let mine := l.env.tuple w.a n
  match contributorAt r l (l.lane ^^^ h) with
  | none => { regs := some mine }
  | some p =>
    let theirs := p.env.tuple w.a n
    { regs := some ((List.range n).map (fun j =>
        if j.testBit k != l.lane.testBit k then theirs.getD (j ^^^ h) 0 else mine.getD j 0)) }

/-! ### VOTE, MATCH, ELECT (R201, R204) -/

/-- A mask of the contributors that satisfy a condition. -/
def maskOf (ms : List Member) (p : Member → Bool) : W64 :=
  ms.foldl (fun m v => if p v then m ||| (1#64 <<< v.lane) else m) 0

def words64 (v : W64) : List W32 := [v.extractLsb' 0 32, v.extractLsb' 32 32]

def voteRes (w : Word) (r : List Member) (l : Member) : Res :=
  let cs := contributors r l
  let q (m : Member) : Bool := m.env.predOf w.a != modB w 2
  let k := modF w 0 2
  if k = 3 then { regs := some (words64 (maskOf cs q)) }
  else
    let t := if k = 0 then cs.all q else if k = 1 then cs.any q else cs.all q || cs.all (fun m => !q m)
    { preds := [((l.env.th.named w.d).getD 0, t)] }

def matchRes (w : Word) (r : List Member) (l : Member) : Res :=
  { regs := some (words64 (maskOf (contributors r l) (fun m => m.env.word w.a w.imm == l.env.word w.a w.imm))) }

/-- The lowest contributor to itself with a true guard is elected (R204). -/
def electRes (w : Word) (r : List Member) (l : Member) : Res :=
  { preds := [((l.env.th.named w.d).getD 0, (r.filter Member.guard).head?.map Member.lane == some l.lane)] }

/-! ### REDG and SCANG (R202, R203) -/

/-- One node: the operation on two codes with its flags. -/
def redOp (op : Nat) (a b : W32) : W32 × W32 :=
  let i (r : Int) : W32 × W32 := (BitVec.ofInt 32 r, 0)
  let f (r : Nat × W32) : W32 × W32 := (BitVec.ofNat 32 r.1, r.2)
  match op with
  | 0 => (a + b, 0)
  | 1 => i (min a.toInt b.toInt)
  | 2 => i (min (a.toNat : Int) b.toNat)
  | 3 => i (max a.toInt b.toInt)
  | 4 => i (max (a.toNat : Int) b.toNat)
  | 5 => (a &&& b, 0)
  | 6 => (a ||| b, 0)
  | 7 => (a ^^^ b, 0)
  | 8 => f (addCode .f32 .rn false false false a.toNat b.toNat)
  | 9 => f (minMax .f32 false false a.toNat b.toNat)
  | _ => f (minMax .f32 false true a.toNat b.toNat)

/-- The identity of an operation (R202). -/
def redIdentity (op : Nat) : W32 :=
  match op with
  | 1 => 0x7FFFFFFF#32
  | 2 => 0xFFFFFFFF#32
  | 3 => 0x80000000#32
  | 5 => 0xFFFFFFFF#32
  | 8 => 0x80000000#32
  | 9 => 0x7F800000#32
  | 10 => 0xFF800000#32
  | _ => 0#32

/-- The tree over 2^k lanes from lo. -/
def redTree (op : Nat) (leaf : Nat → Option W32) : Nat → Nat → Option (W32 × W32)
  | 0, lo => (leaf lo).map (fun v => (v, 0))
  | k + 1, lo =>
    match redTree op leaf k lo, redTree op leaf k (lo + 2 ^ k) with
    | none, y => y
    | x, none => x
    | some (x, fx), some (y, fy) =>
      let r := redOp op x y
      some (r.1, fx ||| fy ||| r.2)

def redgRes (w : Word) (r : List Member) (l : Member) : Res :=
  let leaf (v : Nat) : Option W32 := (contributorAt r l v).map (fun m => m.env.word w.a w.imm)
  match redTree (modF w 0 4) leaf (Nat.log2 l.env.blk.decl.width) 0 with
  | some (v, f) => { regs := some [v], flags := f }
  | none => {}

/-- The running combination up to lane L: the values before and after L's own, with the flags passed through. R203 does not say whether
the first acc is A of the lowest contributor or OP(identity, A), which differ for NaN and its flags: that it is A as it stands is the
model's choice (log entry 123, DESIGN CHOICE). -/
def scanTo (op lane : Nat) : List (Nat × W32) → Option W32 → W32 → Option W32 × W32 × W32 × W32
  | [], acc, f => (acc, acc.getD 0, f, f)
  | (v, x) :: rest, acc, f =>
    let (y, g) := match acc with
      | none => (x, (0 : W32))
      | some a => redOp op a x
    if v = lane then (acc, y, f, f ||| g) else scanTo op lane rest (some y) (f ||| g)

def scangRes (w : Word) (r : List Member) (l : Member) : Res :=
  let op := modF w 0 4
  let vs := (contributors r l).map (fun m => (m.lane, m.env.word w.a w.imm))
  let (before, after, f0, f1) := scanTo op l.lane vs none 0
  if modB w 4 then { regs := some [before.getD (redIdentity op)], flags := f0 }
  else { regs := some [after], flags := f1 }

/-! ### TOPK (R205) -/

/-- a ranks before b: greater value, then lower index, then lower lane. -/
def ranksBefore (signed : Bool) (a b : W32 × W32 × Nat) : Bool :=
  let key (x : W32) : Int × Rat :=
    if signed then (0, x.toInt)
    else match Fmt.f32.value x.toNat with
      | .nan _ _ _ => (-2, 0)
      | .inf n => (if n then -1 else 1, 0)
      | v => (0, v.toRat)
  let ka := key a.1
  let kb := key b.1
  if ka.1 ≠ kb.1 then decide (kb.1 < ka.1)
  else if ka.2 ≠ kb.2 then decide (kb.2 < ka.2)
  else if a.2.1 ≠ b.2.1 then decide (a.2.1.toNat < b.2.1.toNat)
  else decide (a.2.2 < b.2.2)

/-- The entries in order of rank: the one of rank i is preceded by exactly i others. -/
def ranked (signed : Bool) (es : List (W32 × W32 × Nat)) (i : Nat) : Option (W32 × W32 × Nat) :=
  es.find? (fun e => (es.filter (fun x => ranksBefore signed x e)).length == i)

/-- A lane at or beyond k writes nothing. -/
def topkRes (w : Word) (r : List Member) (l : Member) : Res :=
  let signed := modB w 4
  let es := (contributors r l).map (fun m => (m.env.word w.a w.imm, m.env.word w.b w.imm, m.lane))
  if modF w 0 4 + 1 ≤ l.lane then {}
  else match ranked signed es l.lane with
    | some (v, i, _) => { regs := some [v, i] }
    | none => { regs := some [if signed then 0x80000000#32 else 0x7FC00000#32, 0xFFFFFFFF#32] }

/-- What a lane of a release with a true guard receives from a cross-lane word. -/
def crossRes (m : Meet) (w : Word) (r : List Member) (l : Member) : Res :=
  match m with
  | .shfl => shflRes w r l
  | .xbf => xbfRes w r l
  | .vote => voteRes w r l
  | .redg => redgRes w r l
  | .scang => scangRes w r l
  | .matchLanes => matchRes w r l
  | .elect => electRes w r l
  | .topk => topkRes w r l
  | _ => {}

end Sys2Proof.Machine
end

