-- ==== Sys2Proof/Machine/Granary.lean ====
section
/-! DEFINITION. The granary: handles and slots, instances of a contraction, their exact sums, and tile moves (R247 to R272). -/

namespace Sys2Proof.Machine

/-! ### Slots and handles (R247, R248) -/

def State.slot? (s : State) (blk i : Nat) : Option Slot := (s.block? blk).bind (fun b => b.slots[i]?)

def State.mapSlot (s : State) (blk i : Nat) (f : Slot → Slot) : State :=
  s.mapBlock blk (fun b => { b with slots := b.slots.zipIdx.map (fun (x, j) => if j = i then f x else x) })

/-- The blocks of a block's team; itself where its launch has no team. -/
def State.teamBlocks (s : State) (b : Block) : List Block :=
  if b.decl.team = 0 then [b]
  else (s.blocks.map Prod.snd).filter (fun x => x.decl.lid == b.decl.lid && x.pass == b.pass && x.teamId == b.teamId)

/-- The handle of a slot (R247). -/
def handleOf (gen : BitVec 8) (rank i : Nat) : W32 := gen ++ BitVec.ofNat 8 rank ++ 0#6 ++ BitVec.ofNat 10 i

/-- A handle resolves in a thread to a block's slot, or the detail of its ACC_OWNER (R248). -/
def State.resolve (s : State) (e : Env) (h : W32) : Except Nat (Block × Nat × Slot) :=
  let i := (h.extractLsb' 0 10).toNat
  let rank := (h.extractLsb' 16 8).toNat
  if h.extractLsb' 10 6 ≠ 0 ∨ e.blk.decl.slots ≤ i ∨ max 1 e.blk.decl.team ≤ rank then .error 1
  else
    let owner := if e.blk.decl.team = 0 then some e.blk else (s.teamBlocks e.blk).find? (fun x => x.brank == rank)
    match owner with
    | none => .error 1
    | some ob =>
      match ob.slots[i]? with
      | none => .error 1
      | some sl =>
        let mine := match sl.own with
          | .team => true
          | .block => ob.id == e.blk.id
          | .group => ob.id == e.blk.id && sl.group == e.gid
        if sl.state = .free ∨ sl.gen ≠ h.extractLsb' 24 8 then .error 1 else if !mine then .error 2 else .ok (ob, i, sl)

/-- The scope index of a thread of a block in a slot (R253). -/
def Slot.indexOf (sl : Slot) (b : Block) (tidx : Nat) : Nat :=
  match sl.own with
  | .group => tidx % b.decl.width
  | .block => tidx
  | .team => b.brank * b.decl.nthr + tidx

/-- NT (R253). -/
def Slot.threads (sl : Slot) (ob : Block) : Nat :=
  match sl.own with
  | .group => ob.decl.width
  | .block => ob.decl.nthr
  | .team => ob.decl.team * ob.decl.nthr

/-- Scope indices of the owner's live threads (R253). -/
def State.liveIndices (s : State) (ob : Block) (sl : Slot) : List Nat :=
  let alive (b : Block) := b.threads.filter (fun t => t.life != .exited)
  match sl.own with
  | .group => ((alive ob).filter (fun t => ob.gidOf t.tidx == sl.group)).map (fun t => sl.indexOf ob t.tidx)
  | .block => (alive ob).map (fun t => sl.indexOf ob t.tidx)
  | .team => ((s.teamBlocks ob).map (fun b => (alive b).map (fun t => sl.indexOf b t.tidx))).flatten

/-- An instance whose expected set has arrived starts to close (R254, R258). -/
def Slot.closeTest (sl : Slot) : Slot :=
  match sl.inst with
  | some x => if sl.state = .opened ∧ x.expected.all x.arrived.contains then { sl with state := .closing } else sl
  | none => sl

/-- A member leaves the expected set by exit or withdrawal (R253). -/
def Slot.leave (sl : Slot) (si : Nat) : Slot :=
  match sl.inst with
  | some x => ({ sl with inst := some { x with expected := x.expected.filter (fun k => k != si) } } : Slot).closeTest
  | none => sl

/-- The exit of a thread: it leaves every instance that expects it, and its withdrawals are discarded (R189, R253,
R256). -/
def State.exitSlots (s : State) (b : Block) (tidx : Nat) : State :=
  (s.teamBlocks b).foldl (fun s ob => s.mapBlock ob.id (fun x => { x with slots := x.slots.map (fun sl =>
    let mine := match sl.own with
      | .team => true
      | .block => ob.id == b.id
      | .group => ob.id == b.id && sl.group == b.gidOf tidx
    if mine then
      let si := sl.indexOf b tidx
      ({ sl with withdrawn := sl.withdrawn.filter (fun k => k != si) } : Slot).leave si
    else sl) })) s

/-- An expectation of a member whose arrival is not recorded: the self-wait of R267. -/
def Slot.expects (sl : Slot) (si : Nat) : Bool :=
  match sl.inst with
  | some x => x.expected.contains si && !x.arrived.contains si
  | none => false

/-! ### Slot order (R266) -/

/-- Place in slot order of a word that waits on a slot, and whether it is a move that ASTAT waits for (R269). -/
def Wait.slotPlace (blk slot : Nat) : Wait → Option (Nat × Bool)
  | .closure b i n => if b = blk ∧ i = slot then some (n, false) else none
  | .table b i n => if b = blk ∧ i = slot then some (n, false) else none
  | .acc b i n frees => if b = blk ∧ i = slot then some (n, !frees) else none
  | .drains b i n => if b = blk ∧ i = slot then some (n, true) else none
  | _ => none

/-- A word that waits on the slot stands before a place in slot order; `moves` asks only for those that ASTAT waits for. -/
def State.heldAhead (s : State) (blk slot stamp : Nat) (moves : Bool) : Bool :=
  s.blocks.any (fun e => e.2.threads.any (fun t => match t.wait.bind (Wait.slotPlace blk slot) with
    | some (n, m) => decide (n < stamp) && (m || !moves)
    | none => false))

/-- A drain that stands before a place in slot order has not read its cells. -/
def State.drainAhead (s : State) (blk slot stamp : Nat) : Bool :=
  s.cmds.any (fun d => decide (d.id < stamp) && match d.job with
    | .drain b k _ _ _ _ _ _ _ => b == blk && k == slot
    | _ => false)

/-- The accumulator interlock holds for an operation at a place in slot order: an instance is open or closing, or an earlier
operation has not retired (R266). -/
def State.interlock (s : State) (blk slot stamp : Nat) (sl : Slot) : Bool :=
  sl.inst.isSome || s.heldAhead blk slot stamp false || (decide (0 < sl.drains) && s.drainAhead blk slot stamp)

/-- What ASTAT waits for: earlier moves and drains (R269). -/
def State.statusWait (s : State) (blk slot stamp : Nat) (sl : Slot) : Bool :=
  s.heldAhead blk slot stamp true || (decide (0 < sl.drains) && s.drainAhead blk slot stamp)

/-- The place of a word in slot order: the one that it has waited with, or the last. -/
def Env.slotStamp (e : Env) (s : State) (blk slot : Nat) : Nat :=
  ((e.th.wait.bind (Wait.slotPlace blk slot)).map Prod.fst).getD s.seq

/-- A word waits on a slot and keeps its place. -/
def State.holdAt (s : State) (e : Env) (w : Wait) : LaneEnd :=
  .stay (({ s with seq := s.seq + 1 } : State).hold e.blk.id e.th.tidx w)

/-! ### Arrival (R250 to R254, R262) -/

/-- The parameters that a word fixes or must match (R252). -/
def paramsOf (w : Word) (kind : Nat) : InstParams :=
  { form := kind, fmt := modF w 6 4, own := modF w 4 2, scl := modB w 3, sba := immF w 27 2, sbb := immF w 29 2,
    rows := immF w 10 5 + 1, cols := immF w 15 5 + 1, low := modF w 0 3 }

def ownCode : Own → Nat
  | .group => 0
  | .block => 1
  | .team => 2

/-- The word suits the slot (R252). -/
def suits (p : InstParams) (sl : Slot) : Bool := p.own == ownCode sl.own && (decide (0xA ≤ p.fmt) == (sl.fmt == 2))

/-- An instance opens: its parameters and its expected set are fixed, and pending withdrawals are consumed (R253). -/
def State.openInst (s : State) (ob : Block) (i : Nat) (sl : Slot) (p : InstParams) (jm : W64) : State :=
  let live := (s.liveIndices ob sl).filter (fun k => sl.own != .group || jm.getLsbD k)
  let x : Inst := { id := s.seq, params := p, expected := live.filter (fun k => !sl.withdrawn.contains k), arrived := [],
                    contribs := [], patterns := [] }
  ({ s with seq := s.seq + 1 } : State).mapSlot ob.id i (fun sl =>
    ({ sl with inst := some x, state := .opened, withdrawn := [] } : Slot).closeTest)

/-- Contributions that one pass of the engine takes (R272). Log entry 49 (DEDUCED). -/
def passRoom (fmt : Nat) : Nat := if fmt = 0 then 4 else if fmt ≤ 2 then 16 else if fmt = 8 ∨ fmt = 0xC then 64 else 32

/-- A contributing arrival posts its work in the cluster's reservation table, unless it is full (R272).
Log entry 49 (DEDUCED). -/
def State.postPass (s : State) (ob : Block) (i fmt : Nat) : Option State :=
  let ps := (s.cluster ob.cluster).passes
  let mine (p : Pass) : Bool := p.blk == ob.id && p.slot == i && decide (0 < p.left)
  match ps.find? mine with
  | some q => some (s.mapCluster ob.cluster (fun c => { c with passes := c.passes.map (fun p =>
      if p = q then { p with left := p.left - 1 } else p) }))
  | none =>
    if 32 ≤ ps.length then none
    else some (({ s with seq := s.seq + 1 } : State).mapCluster ob.cluster (fun c => { c with
      passes := c.passes ++ [⟨ob.id, i, passRoom fmt - 1, ob.decl.prio, s.seq⟩] }))

/-- The 32 element codes of a vector held in n registers or 4n bytes (R130, R250). -/
def vecCodes (n v : Nat) : List Nat := (List.range 32).map (fun i => v / 2 ^ (n * i) % 2 ^ n)

/-- The checks of R262 on the operands of CTRS, in order. Log entry 47 (DEDUCED). -/
def ctrsFault (e : Env) (w : Word) : Option Trap :=
  let offs := (e.tuple w.b 2).map BitVec.toNat
  let n := 4 * vecRegs (modF w 6 4)
  let bar := (e.word w.c 0).toNat
  match offs.find? (fun o => o % 16 != 0) with
  | some o => some (scratchTrap 4 1 o e.th.pc false)
  | none =>
    match offs.find? (fun o => decide (e.blk.scratchBytes < o + n)) with
    | some o => some (scratchTrap 7 0 o e.th.pc false)
    | none =>
      match e.blk.objFault bar with
      | some (c, d) => some (scratchTrap c d bar e.th.pc false)
      | none => if (e.blk.obj bar).init then none else some (mkTrap 0x15 0 e.th.pc)

/-- A pending operation that no counter counts. -/
def State.issueQuiet (s : State) (b t : Nat) (pc : W32) (a : Act) : State :=
  ({ s with seq := s.seq + 1 } : State).mapThread b t (fun t => { t with pend := t.pend ++ [⟨s.seq, .tl, pc, a, none⟩] })

/-- The contribution of a thread that arrives with its guard and its tile predicate true. -/
def contribOf (e : Env) (w : Word) (kind si : Nat) : Contrib :=
  let n := vecRegs (modF w 6 4)
  let ctl := e.tuple w.a (if modB w 3 then 2 else 1)
  { si := si, a := if kind = 1 then [] else vecCodes n (wordsNat (e.tuple w.b n)),
    b := if kind = 1 then [] else vecCodes n (wordsNat (e.tuple w.c n)),
    fm := NMap.read 0 e.blk.fm (modF w 0 3), scale := ctl.getD 1 0, ready := kind != 1 }

/-- An arrival is recorded in an open instance (R254): contribution, pattern word, counter, and for CTRS the operand
reads and the barrier arrival after them, or the barrier arrival at once where it does not contribute (R263). -/
def State.recordArrival (s : State) (e : Env) (w : Word) (kind : Nat) (ob : Block) (i si : Nat) (g con : Bool) : State :=
  let inst := ((s.slot? ob.id i).bind Slot.inst).map Inst.id
  let s1 := s.mapSlot ob.id i (fun sl =>
    ({ sl with inst := sl.inst.map (fun x => { x with
        arrived := x.arrived ++ [si],
        contribs := if con then x.contribs ++ [contribOf e w kind si] else x.contribs,
        patterns := if kind = 2 ∧ g = true then NMap.put 0 x.patterns si ((e.tuple w.a 3).getD 2 0) else x.patterns }) } :
      Slot).closeTest)
  let s2 := if g then s1.issueOp e.blk.id e.th.tidx .tl e.th.pc .done else s1
  if kind = 1 then
    let offs := (e.tuple w.b 2).map BitVec.toNat
    let bar := (e.word w.c 0).toNat
    if (e.blk.objFault bar).isSome then s2
    else if con then
      s2.issueQuiet e.blk.id e.th.tidx e.th.pc (.ctrs ob.id i con (offs.getD 0 0) (offs.getD 1 0) bar (inst.getD 0))
    else s2.enqueue e.blk e.th bar .ctrs none
  else s2

/-- A lane of CTR, CTRS or CTRSP (R254). An arrival that would open an instance stands behind the words that wait on the slot
(R266). The run-time ILLEGAL of R252 comes before the checks of R262 (R109). Log entries 47 (DEDUCED), 51 (DEDUCED). -/
def ctrLane (w : Word) (kind : Nat) (g : Bool) (e : Env) (s : State) : LaneEnd :=
  let next : LaneEnd := .done s (e.th.pc + 1)
  let p := paramsOf w kind
  if !g && !(e.th.tupleOk e.blk.decl.regs 1 w.a && (kind != 1 || e.th.tupleOk e.blk.decl.regs 1 w.c)) then next
  else match s.resolve e ((e.tuple w.a 1).getD 0 0) with
    | .error d => if g then .trap s (mkTrap 9 d e.th.pc) 0 else next
    | .ok (ob, i, sl) =>
      let si := sl.indexOf e.blk e.th.tidx
      let stamp := e.slotStamp s ob.id i
      let s1 := if sl.inst.isNone then s.openInst ob i sl p (e.blk.joinMask e.gid (immF w 20 3)) else s
      let x := (s1.slot? ob.id i).bind Slot.inst
      let blocked := (x.map (fun x => !x.expected.contains si || x.arrived.contains si)).getD true
      let con := g && e.tile (immF w 23 4)
      let differ := (x.map (fun x => decide (x.params ≠ p))).getD false
      if g && (!suits p sl || (differ && !blocked)) then .trap s (mkTrap 1 10 e.th.pc) 0
      else match (if g && kind == 1 then ctrsFault e w else none) with
        | some tr => .trap s tr 0
        | none =>
          if sl.inst.isNone && s.heldAhead ob.id i stamp false then s.holdAt e (.closure ob.id i stamp)
          else if blocked then s1.holdAt e (.closure ob.id i stamp)
          else if g && p.fmt == 9 && (pnfOf (NMap.read 0 e.blk.fm p.low)).isNone then .trap s (mkTrap 0x14 0 e.th.pc) 0
          else if con then
            match s1.postPass ob i p.fmt with
            | none => s.holdAt e (.table ob.id i stamp)
            | some s2 => .done (s2.recordArrival e w kind ob i si g con) (e.th.pc + 1)
          else .done (s1.recordArrival e w kind ob i si g con) (e.th.pc + 1)

/-- A contraction word: a lane whose bit is clear in JMk passes at once at GROUP scope. -/
def ctrWord (i : Instr) (w : Word) (kind : Nat) (s : State) : Host.Outcome State Fault Refusal :=
  runWord { planOf i w with
      ctr := some .tl, always := true,
      skip := fun e => modF w 4 2 == 0 && !(e.blk.joinMask e.gid (immF w 20 3)).getLsbD e.lane }
    (ctrLane w kind) (fun u _ s => s.settle u.blk) s

def execCtr (w : Word) (s : State) : Host.Outcome State Fault Refusal := ctrWord (.ctr w) w 0 s
def execCtrs (w : Word) (s : State) : Host.Outcome State Fault Refusal := ctrWord (.ctrs w) w 1 s
def execCtrsp (w : Word) (s : State) : Host.Outcome State Fault Refusal := ctrWord (.ctrsp w) w 2 s

/-! ### CWD, AALLOC, AFREE (R249, R256) -/

/-- A word that names a slot by the handle in A. -/
def onSlot (i : Instr) (w : Word) (ctr : Option Ctr) (body : Env → Block → Nat → Slot → State → LaneEnd) (s : State) :
    Host.Outcome State Fault Refusal :=
  runWord { planOf i w with ctr := ctr } (fun _ e s =>
    match s.resolve e (e.word w.a 0) with
    | .error d => .trap s (mkTrap 9 d e.th.pc) 0
    | .ok (ob, k, sl) => body e ob k sl s) (fun _ _ s => s) s

def execCwd (w : Word) (s : State) : Host.Outcome State Fault Refusal :=
  onSlot (.cwd w) w none (fun e ob k sl s =>
    let si := sl.indexOf e.blk e.th.tidx
    .done (s.mapSlot ob.id k (fun sl =>
      if sl.state = .opened ∧ sl.expects si = true then sl.leave si
      else if sl.withdrawn.contains si then sl else { sl with withdrawn := sl.withdrawn ++ [si] })) (e.th.pc + 1)) s

def ownOf (c : Nat) : Own := if c = 0 then .group else if c = 1 then .block else .team

def execAalloc (w : Word) (s : State) : Host.Outcome State Fault Refusal :=
  runWord (planOf (.aalloc w) w) (fun _ e s =>
    let give (s : State) (h : W32) : LaneEnd :=
      .done (s.mapThread e.blk.id e.th.tidx (fun t => t.result w.d false [h])) (e.th.pc + 1)
    match e.blk.slots.findIdx? (fun sl => sl.state == .free) with
    | none => give s 0xFFFFFFFF#32
    | some k =>
      let gen := (e.blk.slots[k]?.map Slot.gen).getD 0
      give (s.mapSlot e.blk.id k (fun sl => { sl with
        state := .idle, fmt := modF w 0 2, own := ownOf (modF w 2 2), group := e.gid, cells := [], status := 0 }))
        (handleOf gen e.blk.brank k)) (fun _ _ s => s) s

/-- An operation that takes its turn on the slot: R267 first, then the interlock of R266. -/
def gated (e : Env) (ob : Block) (k : Nat) (sl : Slot) (s : State) (go : LaneEnd) (frees : Bool := false) : LaneEnd :=
  let stamp := e.slotStamp s ob.id k
  if sl.expects (sl.indexOf e.blk e.th.tidx) then .trap s (mkTrap 0xA 0 e.th.pc) 0
  else if s.interlock ob.id k stamp sl then s.holdAt e (.acc ob.id k stamp frees)
  else go

def execAfree (w : Word) (s : State) : Host.Outcome State Fault Refusal :=
  onSlot (.afree w) w none (fun e ob k sl s =>
    gated e ob k sl s (.done (s.mapSlot ob.id k (fun sl => { sl with
      state := .free, gen := sl.gen + 1, withdrawn := [] })) (e.th.pc + 1)) true) s

/-! ### Tile moves (R268, R269) -/

def Slot.cell (sl : Slot) (k : Nat) : BitVec 40 := NMap.read 0 sl.cells k

/-- FORM suits the slot (R268). -/
def formSuits (form fmt : Nat) : Bool := (form == 0 && decide (fmt ≤ 1)) || (form == 1 && fmt == 1) || (form == 2 && fmt == 2)

/-- First cell and number of cells that a row selector names. -/
def rowCells (w : Word) (sel : W32) : Nat × Nat :=
  let r := 32 * (sel.extractLsb' 0 5).toNat
  if modB w 2 then (r + 16 * (sel.getLsbD 5).toNat, 16) else (r, 32)

/-- What ALD delivers for a cell, with its flags. -/
def loadCell (form fmt : Nat) (c : BitVec 40) : List W32 × W32 :=
  if form = 1 then ([c.setWidth 32, (c.extractLsb' 32 8).setWidth 32], 0)
  else if form = 0 ∧ fmt = 1 then
    let r := toFloat .f32 .rn false (Fmt.xf40.value c.toNat)
    ([BitVec.ofNat 32 r.1], r.2)
  else ([c.setWidth 32], 0)

/-- What AST stores in a cell from its registers, with its flags. Log entry 24 (DEDUCED). -/
def storeCell (form fmt : Nat) (vs : List W32) : BitVec 40 × W32 :=
  let v := vs.getD 0 0
  if form = 1 then (((vs.getD 1 0).setWidth 8) ++ v, 0)
  else if form = 0 ∧ fmt = 1 then
    let r := toFloat .xf40 .rn false (Fmt.f32.value v.toNat)
    (BitVec.ofNat 40 r.1, r.2)
  else (v.setWidth 40, 0)

/-- Log entry 50 (DEDUCED). -/
def execAld (w : Word) (s : State) : Host.Outcome State Fault Refusal :=
  onSlot (.ald w) w (some .tl) (fun e ob k sl s =>
    let form := modF w 0 2
    let (c0, n) := rowCells w (e.word w.b w.imm)
    if !formSuits form sl.fmt then .trap s (mkTrap 1 10 e.th.pc) 0
    else
      let rs := (List.range n).map (fun i => loadCell form sl.fmt (sl.cell (c0 + i)))
      gated e ob k sl s (.done (s.issueOp e.blk.id e.th.tidx .tl e.th.pc
        (.deliver (e.th.dests w.d (rowRegs w)) (rs.map Prod.fst).flatten [] (rs.foldl (fun f r => f ||| r.2) 0)))
        (e.th.pc + 1))) s

/-- Log entry 50 (DEDUCED). -/
def execAst (w : Word) (s : State) : Host.Outcome State Fault Refusal :=
  onSlot (.ast w) w (some .tl) (fun e ob k sl s =>
    let form := modF w 0 2
    let per := if form = 1 then 2 else 1
    let (c0, n) := rowCells w (e.word w.b 0)
    if !formSuits form sl.fmt then .trap s (mkTrap 1 10 e.th.pc) 0
    else
      let vs := e.tuple w.c (rowRegs w)
      let rs := (List.range n).map (fun i => storeCell form sl.fmt ((vs.drop (per * i)).take per))
      gated e ob k sl s (.done ((s.mapSlot ob.id k (fun sl => { sl with
          cells := rs.zipIdx.foldl (fun m (r, i) => NMap.put 0 m (c0 + i) r.1) sl.cells })).issueOp
        e.blk.id e.th.tidx .tl e.th.pc (.deliver [] [] [] (rs.foldl (fun f r => f ||| r.2) 0))) (e.th.pc + 1))) s

def execAzero (w : Word) (s : State) : Host.Outcome State Fault Refusal :=
  onSlot (.azero w) w (some .tl) (fun e ob k sl s =>
    let count (s : State) : LaneEnd := .done (s.issueOp e.blk.id e.th.tidx .tl e.th.pc .done) (e.th.pc + 1)
    if !e.tile (immF w 0 4) then count s
    else gated e ob k sl s (count (s.mapSlot ob.id k (fun sl => { sl with cells := [], status := 0 })))) s

/-- The status image of R271. -/
def Slot.image (sl : Slot) : W32 :=
  0#21 ++ BitVec.ofBool sl.inst.isSome ++ BitVec.ofNat 2 sl.fmt ++ sl.status

def execAstat (w : Word) (s : State) : Host.Outcome State Fault Refusal :=
  onSlot (.astat w) w (some .tl) (fun e ob k sl s =>
    let stamp := e.slotStamp s ob.id k
    if s.statusWait ob.id k stamp sl then s.holdAt e (.drains ob.id k stamp)
    else .done ((s.mapSlot ob.id k (fun sl => if modB w 0 then { sl with status := 0 } else sl)).issueOp
      e.blk.id e.th.tidx .tl e.th.pc (.deliver (e.th.dests w.d 1) [sl.image] [] 0)) (e.th.pc + 1)) s

/-! ### The sum (R255, R259 to R261) -/

/-- The format of a contribution's elements. -/
def Contrib.fmt (c : Contrib) (fmt : Nat) : Fmt :=
  match fmt with
  | 0 => .f32
  | 1 => .f16
  | 2 => .bf16
  | 4 => .e4m3
  | 5 => .e5m2
  | 6 => .e3m2
  | 7 => .e2m3
  | 8 => .e2m1
  | _ => (pnfOf c.fm).getD .f32

/-- The scale that applies at a scope index: byte of the scale word of the contributing thread, else 1.0 (R259). -/
def Inst.scaleAt (x : Inst) (idx byte : Nat) : FVal :=
  match x.contribs.find? (fun c => c.si == idx) with
  | some c => Fmt.e5m3.value (c.scale.extractLsb' (8 * byte) 8).toNat
  | none => .fin false 1

/-- P(t, i, j) of a floating instance (R261). -/
def Inst.product (x : Inst) (c : Contrib) (i j : Nat) : FVal :=
  let f := c.fmt x.params.fmt
  let a := f.value (c.a.getD i 0)
  let b := f.value (c.b.getD j 0)
  if x.params.scl then
    let g := 32 * (c.si / 32)
    mulV (mulV a (x.scaleAt (g + i) x.params.sba)) (mulV b (x.scaleAt (g + j) x.params.sbb))
  else mulV a b

/-- P(t, i, j) of an integer instance. -/
def Inst.intProduct (x : Inst) (c : Contrib) (i j : Nat) : Int :=
  let t : ITy := if x.params.fmt = 0xA then ⟨true, 8⟩ else if x.params.fmt = 0xB then ⟨false, 8⟩ else ⟨true, 4⟩
  t.value (c.a.getD i 0) * t.value (c.b.getD j 0)

/-- The pattern number of row i in K-group h (R260). -/
def Inst.pattern (x : Inst) (h i : Nat) : Nat :=
  let w (p : Nat) : Nat := (NMap.read 0 x.patterns (64 * h + p)).toNat
  if 4 ≤ x.params.low then w i + 2 ^ 32 * w (i + 32) else w (2 * i) + 2 ^ 32 * w (2 * i + 1)

/-- N of CTRSP. -/
def Inst.patternCount (x : Inst) : Nat := 8 * 2 ^ (x.params.low % 4)

/-- The positions that row i takes from K-group h; none where the number is out of range. -/
def Inst.picks (x : Inst) (h i : Nat) : Option (List Nat) :=
  let n := x.patternCount
  let v := x.pattern h i
  if binom 64 n ≤ v then none else some (positions n v)

/-- Contributions that row i takes (R260). -/
def Inst.rowTakes (x : Inst) (i : Nat) : List Contrib :=
  if x.params.form = 2 then x.contribs.filter (fun c => ((x.picks (c.si / 64) i).getD []).contains (c.si % 64))
  else x.contribs

/-- PI and ST that a closure raises (R260, R271). -/
def Inst.patternStatus (x : Inst) (nt : Nat) : BitVec 8 :=
  if x.params.form ≠ 2 then 0
  else
    let rows := ((List.range ((nt + 63) / 64)).map (fun h => (List.range x.params.rows).map (fun i => (h, x.picks h i)))).flatten
    (if rows.any (fun r => r.2.isNone) then 0x80#8 else 0) |||
      (if rows.any (fun r => (r.2.getD []).any (fun p => decide (nt ≤ 64 * r.1 + p))) then 0x40#8 else 0)

/-- The new code of a floating cell with its flags (R255). -/
def closeFloat (f : Fmt) (old : FVal) (ps : List FVal) : Nat × W32 :=
  let vs := old :: ps
  let clash := vs.any (fun v => v == .inf false) && vs.any (fun v => v == .inf true)
  if ps.any FVal.isNan || clash then (f.canon, flagNV)
  else if old.isNan then (f.canon, 0)
  else finish f .rn false (sumV .rn vs)

/-- The new value of an INT32 cell, with SAT. -/
def closeInt (old : BitVec 40) (ps : List Int) : BitVec 40 × BitVec 8 :=
  let t : ITy := ⟨true, 32⟩
  let v := t.value (old.toNat % 2 ^ 32) + ps.sum
  (BitVec.ofNat 40 (t.image (t.clamp v)), if t.clamp v = v then 0 else 0x20#8)

/-- One cell of a closure: its new code and the status it raises. -/
def Inst.closeCell (x : Inst) (fmt i j : Nat) (old : BitVec 40) : BitVec 40 × BitVec 8 :=
  if fmt = 2 then closeInt old ((x.rowTakes i).map (fun c => x.intProduct c i j))
  else
    let f := if fmt = 1 then Fmt.xf40 else Fmt.f32
    let r := closeFloat f (f.value old.toNat) ((x.rowTakes i).map (fun c => x.product c i j))
    (BitVec.ofNat 40 r.1, r.2.setWidth 8)

/-- The slot after its instance has closed (R255, R258). -/
def Slot.closed (sl : Slot) (ob : Block) : Slot :=
  match sl.inst with
  | none => sl
  | some x =>
    let at' := ((List.range x.params.rows).map (fun i => (List.range x.params.cols).map (fun j => (i, j)))).flatten
    let done := at'.map (fun (i, j) => (32 * i + j, x.closeCell sl.fmt i j (sl.cell (32 * i + j))))
    { sl with
      state := .idle, inst := none,
      cells := done.foldl (fun m e => NMap.put 0 m e.1 e.2.1) sl.cells,
      status := done.foldl (fun st e => st ||| e.2.2) (sl.status ||| x.patternStatus (sl.threads ob)) }

end Sys2Proof.Machine
end

