-- ==== Sys2Proof/Machine/Regions.lean ====
section
/-! DEFINITION. The region table (R224 to R227, R285): descriptors, RBIND, and the appends of SHA (R286). -/

namespace Sys2Proof.Machine

/-- The bound entry of an index in a context. -/
def State.region? (s : State) (ctx idx : Nat) : Option Region := s.regions.find? (fun r => r.ctx == ctx && r.idx == idx)

/-- A little-endian field of a record. -/
def fieldOf (bs : List Byte) (o n : Nat) : Nat := leNat ((bs.drop o).take n)

/-- A level entry (R227). -/
def Level.ofBytes (bs : List Byte) : Level :=
  { poff := fieldOf bs 0 4, goff := fieldOf bs 4 4, logt := fieldOf bs 8 1, feats := fieldOf bs 9 1, fmt := fieldOf bs 10 1,
    nres := fieldOf bs 12 4 }

/-- Bytes of a feature in its format. -/
def Level.featBytes (l : Level) : Nat := if l.fmt = 0 then 4 else 2

/-- The level table's rules (R227). -/
def Level.ok (size : Nat) (bs : List Byte) : Bool :=
  let l := Level.ofBytes bs
  decide (l.poff % 64 = 0) && decide (l.goff % 64 = 0) && decide (l.logt ≤ 31) &&
    (l.feats == 1 || l.feats == 2 || l.feats == 4 || l.feats == 8) && decide (l.fmt ≤ 2) && fieldOf bs 11 1 == 0 &&
    decide (1 ≤ l.nres ∧ l.nres ≤ 2 ^ 24) && decide (l.poff + 2 ^ l.logt * l.feats * l.featBytes ≤ size)

/-- Every byte of a range is zero. -/
def zeroAt (bs : List Byte) (o n : Nat) : Bool := ((bs.drop o).take n).all (· == 0)

/-- A descriptor's region, before any check (R225, R227, R285). -/
def Region.ofBytes (ctx idx : Nat) (d : List Byte) (levels : List (List Byte)) : Region :=
  let cls := fieldOf d 0x10 1
  { ctx := ctx, idx := idx, base := fieldOf d 0 8, size := fieldOf d 8 8, cls := cls, home := fieldOf d 0x11 1,
    obj := fieldOf d 0x18 8, gtab := if cls = 1 then fieldOf d 0x28 8 else 0, ndims := if cls = 1 then fieldOf d 0x31 1 else 0,
    levels := levels.map Level.ofBytes, binbase := if cls = 2 then fieldOf d 0x20 8 else 0,
    bcap := if cls = 2 then fieldOf d 0x28 4 else 0, sublog := if cls = 2 then fieldOf d 0x2C 1 else 0 }

/-- Sub-regions of a BIN region and the address of a bin (R285). -/
def Region.nsub (r : Region) : Nat := r.size / 2 ^ r.sublog
def Region.binAt (r : Region) (k : Nat) : Nat := r.binbase + k * r.bcap

/-- The class bytes of a descriptor are well formed. -/
def Region.classOk (s : State) (r : Region) (d : List Byte) : Bool :=
  match r.cls with
  | 0 => zeroAt d 0x20 32
  | 1 => decide (fieldOf d 0x20 8 % 16 = 0) && decide (r.gtab ≠ 0 ∧ r.gtab % 64 = 0) &&
      decide (1 ≤ fieldOf d 0x30 1 ∧ fieldOf d 0x30 1 ≤ 16) && decide (1 ≤ r.ndims ∧ r.ndims ≤ 8) && zeroAt d 0x32 14
  | 2 => decide (r.binbase % 64 = 0) && decide (32 ≤ r.bcap ∧ r.bcap % 16 = 0) && decide (12 ≤ r.sublog ∧ r.sublog ≤ 20) &&
      decide (r.size % 2 ^ r.sublog = 0) && zeroAt d 0x2D 19 &&
      !((r :: s.regions).any (fun q => q.ctx == r.ctx && (q.idx != r.idx || q == r) &&
        overlap q.base q.size r.binbase (r.nsub * r.bcap)))
  | _ => false

/-- The descriptor breaks no rule of R225 or of its class table. Log entry 34 (DEDUCED). -/
def Region.descOk (s : State) (r : Region) (d : List Byte) : Bool :=
  decide (r.base % 65536 = 0) && decide (r.size ≠ 0 ∧ r.size % 65536 = 0) && decide (r.base + r.size ≤ 2 ^ 57) &&
    decide (2 ≤ r.home ∧ r.home ≤ 7) && zeroAt d 0x14 4 && decide (r.obj ≠ 0 ∧ r.obj % 16 = 0) && r.classOk s d

/-- The status of RBIND, in the order of R226. -/
def rbindStatus (s : State) (ctx idx : Nat) (d : List Byte) (levels : List (List Byte)) : Nat :=
  let r := Region.ofBytes ctx idx d levels
  let flags := fieldOf d 0x12 2
  if 4096 ≤ idx then 2
  else if 2 ≤ flags then 3
  else if flags = 0 then 1
  else if !r.descOk s d then 3
  else if s.regions.any (fun q => q.ctx == ctx && q.idx != idx && overlap q.base q.size r.base r.size) then 4
  else if r.cls = 1 && !levels.all (Level.ok r.size) then 5
  else 0

/-- Records read in order, each within one page, or the first trap. -/
def State.readRecords (s : State) (e : Env) (n : Nat) : Nat → List W64 → Except Trap (List (List Byte))
  | _, [] => .ok []
  | k, a :: as =>
    match s.reach e a n Need.load k with
    | .error tr => .error tr
    | .ok x => (s.readRecords e n (k + 1) as).map (fun rest => s.bytes x.key n :: rest)

/-- The level table of an HGRID descriptor that is bound. Log entry 34 (DEDUCED). -/
def State.readLevels (s : State) (e : Env) (d : List Byte) : Except Trap (List (List Byte)) :=
  let n := fieldOf d 0x30 1
  if fieldOf d 0x10 1 = 1 ∧ fieldOf d 0x12 2 % 2 = 1 ∧ 1 ≤ n ∧ n ≤ 16 ∧ fieldOf d 0x20 8 % 16 = 0 then
    s.readRecords e 16 1 ((List.range n).map (fun i => BitVec.ofNat 64 (fieldOf d 0x20 8 + 16 * i)))
  else .ok []

/-- Headers of bins are zeroed (R285), or the first trap. -/
def State.zeroBins (s : State) (e : Env) (r : Region) : Nat → Except Trap State
  | 0 => .ok s
  | k + 1 =>
    match s.zeroBins e r k with
    | .error tr => .error tr
    | .ok s' =>
      match s'.reach e (BitVec.ofNat 64 (r.binAt k)) 16 Need.store 2 with
      | .error tr => .error tr
      | .ok x => .ok (s'.postWrite (some e.blk.coreId) .core x.key (List.replicate 16 0))

/-- The table after RBIND: status 0 replaces the entry, status 1 clears it. -/
def State.rebind (s : State) (ctx idx status : Nat) (r : Region) : State :=
  let rest := s.regions.filter (fun q => !(q.ctx == ctx && q.idx == idx))
  if status = 0 then { s with regions := r :: rest } else if status = 1 then { s with regions := rest } else s

def execRbind (w : Word) (s : State) : Host.Outcome State Fault Refusal :=
  runWord (planOf (.rbind w) w) (fun _ e s =>
    let addr := e.dword .unsigned w.a 0
    let idx := (e.word w.b w.imm).toNat
    let ctx := e.blk.decl.ctx
    match s.reach e addr 64 Need.load 0 with
    | .error tr => .trap s tr Need.load.acc
    | .ok x =>
      let d := s.bytes x.key 64
      match s.readLevels e d with
      | .error tr => .trap s tr Need.load.acc
      | .ok levels =>
        let r := Region.ofBytes ctx idx d levels
        let st := rbindStatus s ctx idx d levels
        match s.zeroBins e r (if st = 0 ∧ r.cls = 2 then r.nsub else 0) with
        | .error tr => .trap s tr Need.store.acc
        | .ok s1 => .done (((s1.credit s.lastWrite (some e.blk.coreId) [(.thread e.blk.id e.th.tidx, s.seq)]).rebind ctx idx st r).mapThread e.blk.id e.th.tidx (fun t =>
            t.result w.d false [BitVec.ofNat 32 st])) (e.th.pc + 1)) (fun _ _ s => s) s

/-! ### SHA (R286) -/

/-- Bytes of a record TYPE (R285). -/
def shaBytes (ty : Nat) : Nat := if ty = 1 ∨ ty = 4 ∨ ty = 5 then 8 else 4

/-- The bound BIN region of a context that holds an address. -/
def State.binRegion (s : State) (ctx va : Nat) : Option Region :=
  s.regions.find? (fun r => r.ctx == ctx && r.cls == 2 && decide (r.base ≤ va) && decide (va < r.base + r.size))

/-- A record of R285. -/
def binRecord (off op ty val : Nat) : List Byte :=
  leBytes 4 off ++ leBytes 1 op ++ leBytes 1 ty ++ leBytes 2 0 ++ leBytes 8 val

/-- Log entry 35 (DEDUCED). -/
def execSha (w : Word) (s : State) : Host.Outcome State Fault Refusal :=
  runWord { planOf (.sha w) w with ctr := some .st } (fun _ e s =>
    let addr := e.address w
    let ty := modF w 0 3
    let n := shaBytes ty
    match misaligned addr n with
    | some d => .trap s { cause := 4, detail := d, faddr := addr, pc := e.th.pc, write := true } 0
    | none =>
      match s.binRegion e.blk.decl.ctx addr.toNat with
      | none => .trap s (mkTrap 1 10 e.th.pc) 0
      | some r =>
        let k := (addr.toNat - r.base) / 2 ^ r.sublog
        let val := wordsNat (e.words (if ty = 1 then .double else .unsigned) w.b 0 (n / 4))
        match s.reach e (BitVec.ofNat 64 (r.binAt k)) 16 Need.both 0 with
        | .error tr => if tr.cause = 6 then .done (s.fatal e.blk (s.entryFor e.blk e.th.tidx tr 0)) (e.th.pc + 1)
            else .trap s tr Need.both.acc
        | .ok _ => .done (s.issueOp e.blk.id e.th.tidx .st e.th.pc
            (.append e.blk.decl.ctx r.idx k (r.binAt k) r.bcap (binRecord ((addr.toNat - r.base) % 2 ^ r.sublog) (modF w 3 3) ty val)))
            (e.th.pc + 1)) (fun _ _ s => s) s

/-- Bytes are written by the CORE path (R298, R307). -/
def State.coreWrite (s : State) (core : Nat) (k : Nat) (bs : List Byte) : State := s.postWrite (some core) .core k bs

/-- The Sheaf writes bytes of a bin for an append (R286). -/
def State.binWrite (s : State) (k : Nat) (bs : List Byte) : State := s.postWrite none .sheaf k bs

/-- A replay holds the bin of a sub-region locked (R288). -/
def State.binLocked (s : State) (ctx idx k : Nat) : Bool :=
  s.cmds.any (fun c => match c.job with
    | .sheaf r _ _ locked => r.ctx == ctx && r.idx == idx && locked.any (fun x => x.sub == k)
    | _ => false)

/-- An append acts on its bin, whose address and size are those of the region's entry that the word used, whatever has been bound since
(R226): the record and the count, or the drop count; or the address, cause and detail of a page that refuses it.
Log entry 35 (DEDUCED). -/
def State.append (s : State) (b : Block) (t : Thread) (ctx base cap : Nat) (record : List Byte) :
    Except (Nat × Nat × Nat) State :=
  let cs := coreCaches b.coreId
  match s.xlate cs ctx base Need.both t.sup (s.choice t.tidx 1) with
  | .error (c, d) => .error (base, c, d)
  | .ok x =>
    let count := s.word x.key 4
    if cap / 16 - 1 ≤ count then
      .ok (s.binWrite (x.key + 4) (leBytes 4 (addSat (s.word (x.key + 4) 4) 1 32)))
    else
      let va := base + 16 + 16 * count
      match s.xlate cs ctx va Need.store t.sup (s.choice t.tidx 2) with
      | .error (c, d) => .error (va, c, d)
      | .ok y => .ok ((s.binWrite y.key record).binWrite x.key (leBytes 4 (count + 1)))

end Sys2Proof.Machine
end

