-- ==== Sys2Proof/Machine/HashGrid.lean ====
section
/-! DEFINITION. Hashed grids: corners and weights of a coordinate, HGL, HGA and HGW (R227 to R232). -/

namespace Sys2Proof.Machine

/-! ### Corners and weights (R228) -/

/-- One rounding to f32, as the exact value of its code. -/
def toF32 (q : Rat) : Rat := (Fmt.f32.value (codeOf .rn q)).toRat

/-- A dimension of a level: the cell and the two weights. -/
structure Axis where
  cell : Nat
  w0 : Rat
  w1 : Rat
  deriving DecidableEq, Repr

/-- The axis of a coordinate in [0, 1] at a resolution, by the interpolation code. -/
def axisOf (interp n : Nat) (x : Rat) : Axis :=
  let p := x * n
  let c := p.floor.toNat
  let cell := if c = n then n - 1 else c
  let f := toF32 (p - cell)
  if interp = 1 then (if 1 / 2 ≤ f then ⟨cell, 0, 1⟩ else ⟨cell, 1, 0⟩)
  else if interp = 2 then
    let w := f * f * (3 - 2 * f)
    ⟨cell, toF32 (1 - w), toF32 w⟩
  else ⟨cell, toF32 (1 - f), f⟩

/-- A coordinate: none where a component is NaN, else the components clamped to [0, 1]. -/
def clampCoord (xs : List W32) : Option (List Rat) :=
  xs.mapM (fun v => match Fmt.f32.value v.toNat with
    | .nan _ _ _ => none
    | .inf n => some (if n then 0 else 1)
    | .fin n m => some (if n then 0 else if 1 < m then 1 else m))

/-- Some component lies outside [0, 1]. -/
def clamps (xs : List W32) : Bool :=
  xs.any (fun v => match Fmt.f32.value v.toNat with
    | .nan _ _ _ => false
    | .inf _ => true
    | .fin n m => if n then decide (m ≠ 0) else decide (1 < m))

/-- The multipliers M0 to M7. -/
def hashMul (d : Nat) : Nat :=
  [0x00000001, 0x9E3779B1, 0x85EBCA77, 0xC2B2AE3D, 0x27D4EB2F, 0x165667B1, 0xD6E8FEB9, 0xFD7046C5].getD d 0

/-- The coordinate of corner j along axis d. -/
def cornerAt (axes : List Axis) (j d : Nat) : Nat := (axes.getD d ⟨0, 0, 0⟩).cell + (j.testBit d).toNat

/-- W(j): the exact product of the axis weights. -/
def cornerWeight (axes : List Axis) (j : Nat) : Rat :=
  ((axes.zipIdx).map (fun (a, d) => if j.testBit d then a.w1 else a.w0)).prod

/-- index(j) of a level. -/
def cornerIndex (l : Level) (axes : List Axis) (j : Nat) : Nat :=
  let ds := List.range axes.length
  if (l.nres + 1) ^ axes.length ≤ 2 ^ l.logt then (ds.map (fun d => cornerAt axes j d * (l.nres + 1) ^ d)).sum
  else (ds.map (fun d => cornerAt axes j d * hashMul d % 2 ^ 32)).foldl Nat.xor 0 % 2 ^ l.logt

/-! ### The word's checks (R229) -/

/-- The levels that a mask selects, in ascending order. -/
def Region.selected (r : Region) (mask : Nat) : List Level :=
  (r.levels.zipIdx.filter (fun e => mask.testBit e.2)).map Prod.fst

/-- The bound HGRID region of an index. -/
def State.grid (s : State) (e : Env) (w : Word) : Option Region :=
  match s.region? e.blk.decl.ctx (e.word w.b 0).toNat with
  | some r => if r.cls = 1 then some r else none
  | none => none

/-- L × F of a selection. -/
def featureCount (ls : List Level) : Nat := (ls.map Level.feats).sum

/-- The mask names only levels that exist, and the tuple of features is no longer than 64. -/
def maskOk (mask : Nat) (r : Region) : Bool :=
  decide (mask < 2 ^ r.levels.length) && decide (featureCount (r.selected mask) ≤ 64)

/-- A tuple whose width the region gives lies within the thread's registers. -/
def Env.spans (e : Env) (o : Opd) (n : Nat) : Bool := e.th.tupleOk e.blk.decl.regs n o

/-- Addresses, each with its weight, of the entries that feature f of a level reads or adds to. -/
def featureAddrs (base esz : Nat) (l : Level) (axes : List Axis) (f : Nat) : List (Rat × W64) :=
  (List.range (2 ^ axes.length)).map (fun j =>
    (cornerWeight axes j, BitVec.ofNat 64 (base + (cornerIndex l axes j * l.feats + f) * esz)))

/-- Lists of weighted addresses as lists of terms, all translated, or the first trap. -/
def State.reachTerms (s : State) (e : Env) (size : Nat) (n : Need) : List (List (Rat × W64)) → Except Trap (List (List Term))
  | [] => .ok []
  | row :: rows =>
    match s.reachAll e size n 0 (row.map Prod.snd) with
    | .error tr => .error tr
    | .ok xs => (s.reachTerms e size n rows).map (fun rest =>
        List.zipWith (fun (a : Rat × W64) (x : Xlat) => (⟨a.1, x.place a.2⟩ : Term)) row xs :: rest)

/-- What the reads of several places leave behind (R230, R345, R346). -/
def State.touchTerms (s : State) (e : Env) (size : Nat) (n : Need) (rows : List (List (Rat × W64))) : State :=
  rows.flatten.foldl (fun s' a => match s.reach e a.2 size n 0 with
    | .ok x => s'.touch e a.2 x
    | .error _ => s') s

/-- Translation of the rows of each level, with the size of its elements. -/
def State.reachLevels (s : State) (e : Env) (n : Need) : List (Nat × List (List (Rat × W64))) →
    Except Trap (List (List Term))
  | [] => .ok []
  | (size, rows) :: rest =>
    match s.reachTerms e size n rows with
    | .error tr => .error tr
    | .ok ts => (s.reachLevels e n rest).map (fun us => ts ++ us)

/-- The widths of the tuples come from the region, so a word without one is ILLEGAL; then the tuples are checked before the
levels (R109). Log entry 32 (DEDUCED). -/
def execHgl (w : Word) (s : State) : Host.Outcome State Fault Refusal :=
  runWord { planOf (.hgl w) w with ctr := some .ld } (fun _ e s =>
    let mask := immF w 0 16
    match s.grid e w with
    | none => .trap s (mkTrap 1 10 e.th.pc) 0
    | some r =>
      let ls := r.selected mask
      let n := featureCount ls
      if !e.spans w.a r.ndims || !e.spans w.d n then .trap s (mkTrap 3 0 e.th.pc) 0
      else if !maskOk mask r then .trap s (mkTrap 1 10 e.th.pc) 0
      else
        let xs := e.tuple w.a r.ndims
        let fmts := (ls.map (fun l => List.replicate l.feats l.fmt)).flatten
        let go (s : State) (rows : List (List Term)) (nan : Bool) : LaneEnd :=
          .done (s.issueOp e.blk.id e.th.tidx .ld e.th.pc
            (.features rows fmts nan (e.th.dests w.d n) (immF w 18 7) (clamps xs))) (e.th.pc + 1)
        match clampCoord xs with
        | none => go s (fmts.map (fun _ => [])) true
        | some ps =>
          let rows := ls.map (fun l =>
            let axes := ps.map (axisOf (immF w 16 2) l.nres)
            (l.featBytes, (List.range l.feats).map (featureAddrs (r.base + l.poff) l.featBytes l axes)))
          match s.reachLevels e Need.load rows with
          | .error tr => .trap s tr Need.load.acc
          | .ok ts => go (rows.foldl (fun s' l => s'.touchTerms e l.1 Need.load l.2) s) ts false) (fun _ _ s => s) s

/-- Gradient elements of rows of weighted addresses, all translated, or the first trap (R231, R243). -/
def State.reachGrads (s : State) (e : Env) : List (Nat × List (List (Rat × W64))) → Except Trap (List (List (Rat × Grad)))
  | [] => .ok []
  | (size, rows) :: rest =>
    match rows.mapM (fun row => (s.reachAll e size Need.both 0 (row.map Prod.snd)).map (fun xs =>
      List.zipWith (fun (a : Rat × W64) (x : Xlat) => (a.1, (⟨x.key, vaOf a.2, 0, x.leaf.getLsbD 8⟩ : Grad))) row xs)) with
    | .error tr => .error tr
    | .ok ts => (s.reachGrads e rest).map (fun us => ts ++ us)

/-- The gradient that a corner of weight w adds for a value (R231). -/
def gradient (w : Rat) (c : W32) : W32 :=
  BitVec.ofNat 32 (finish .f32 .rn false (mulV (.fin false w) (Fmt.f32.value c.toNat))).1

/-- A special as C holds at most 64 bits, so a wider tuple of values makes it ILLEGAL (R100, R229). Log entries 15 (DEDUCED),
32 (DEDUCED). -/
def execHga (w : Word) (s : State) : Host.Outcome State Fault Refusal :=
  runWord { planOf (.hga w) w with ctr := some .st } (fun _ e s =>
    let mask := immF w 10 16
    match s.grid e w with
    | none => .trap s (mkTrap 1 10 e.th.pc) 0
    | some r =>
      let ls := r.selected mask
      let n := featureCount ls
      if w.c.isSpecial && decide (2 < n) then .trap s (mkTrap 1 5 e.th.pc) 0
      else if !e.spans w.a r.ndims || !e.spans w.c n then .trap s (mkTrap 3 0 e.th.pc) 0
      else if !maskOk mask r then .trap s (mkTrap 1 10 e.th.pc) 0
      else
        let go (adds : List Grad) : LaneEnd :=
          .done (s.issueOp e.blk.id e.th.tidx .st e.th.pc (.gradients adds)) (e.th.pc + 1)
        match clampCoord (e.tuple w.a r.ndims) with
        | none => go []
        | some ps =>
          let rows := ls.map (fun l =>
            let axes := ps.map (axisOf (immF w 26 2) l.nres)
            (4, (List.range l.feats).map (fun f =>
              (featureAddrs (r.gtab + l.goff) 4 l axes f).filter (fun a => decide (a.1 ≠ 0)))))
          match s.reachGrads e rows with
          | .error tr => .trap s { tr with write := true } Need.both.acc
          | .ok ts => go ((List.zipWith (fun (row : List (Rat × Grad)) c =>
              row.map (fun t => { t.2 with value := gradient t.1 c })) ts (e.words .unsigned w.c 0 n)).flatten))
    (fun _ _ s => s) s

/-- The indices and weights that HGW writes (R232). -/
def hgwWords (l : Level) (interp first count : Nat) (xs : List W32) : List W32 :=
  match clampCoord xs with
  | none => List.replicate count 0xFFFFFFFF#32 ++ List.replicate count (BitVec.ofNat 32 Fmt.f32.canon)
  | some ps =>
    let axes := ps.map (axisOf interp l.nres)
    let js := (List.range count).map (fun k => first + k)
    js.map (fun j => BitVec.ofNat 32 (cornerIndex l axes j)) ++
      js.map (fun j => BitVec.ofNat 32 (codeOf .rn (cornerWeight axes j)))

def execHgw (w : Word) (s : State) : Host.Outcome State Fault Refusal :=
  runWord { planOf (.hgw w) w with ctr := some .ld } (fun _ e s =>
    let first := immF w 8 8
    let count := immF w 16 5 + 1
    match s.grid e w with
    | none => .trap s (mkTrap 1 10 e.th.pc) 0
    | some r =>
      if !e.spans w.a r.ndims then .trap s (mkTrap 3 0 e.th.pc) 0
      else if 2 ^ r.ndims < first + count then .trap s (mkTrap 1 10 e.th.pc) 0
      else match r.levels[immF w 0 4]? with
      | none => .trap s (mkTrap 1 10 e.th.pc) 0
      | some l =>
        .done (s.issueOp e.blk.id e.th.tidx .ld e.th.pc
          (.deliver (e.th.dests w.d (2 * count)) (hgwWords l (immF w 4 2) first count (e.tuple w.a r.ndims)) [] 0))
          (e.th.pc + 1)) (fun _ _ s => s) s

/-! ### The event's work -/

/-- A feature format of R227. -/
def featFmt (f : Nat) : Fmt := if f = 0 then .f32 else if f = 1 then .f16 else .bf16

/-- One result of HGL: the exact sum of weighted features, rounded once, with its flags (R230). -/
def featureSum (fmt : Nat) (nan : Bool) (vals : List (Rat × Nat)) : W32 × W32 :=
  if nan then (BitVec.ofNat 32 Fmt.f32.canon, 0)
  else
    let r := finish .f32 .rn false (sumV .rn (vals.map (fun v => mulV (.fin false v.1) ((featFmt fmt).value v.2))))
    (BitVec.ofNat 32 r.1, r.2)

end Sys2Proof.Machine
end

