-- ==== Sys2Proof/Machine/Engines.lean ====
section
/-! DEFINITION. Engine commands: the checks that the elected lane makes at the release of an engine word, and the commands it
issues (R270, R274 to R284, R287, R289, R291, R295). -/

namespace Sys2Proof.Machine

/-! ### The shape record (R277, R278) -/

/-- Bytes of an element of a format code, where a shape record may name it. -/
def shapeElem (fmt : Nat) : Option Nat :=
  match fmt with
  | 0 => some 4
  | 1 => some 2
  | 2 => some 2
  | 3 => some 8
  | 4 => some 1
  | 5 => some 1
  | 6 => some 1
  | 7 => some 1
  | 9 => some 1
  | 0xA => some 1
  | 0xB => some 1
  | 0xD => some 2
  | 0xE => some 2
  | 0xF => some 4
  | 0x10 => some 4
  | 0x11 => some 8
  | 0x12 => some 8
  | _ => none

def Shape.elem (r : Shape) : Nat := (shapeElem r.fmt).getD 1

/-- Box extents, elements and bytes. -/
def Shape.extent (r : Shape) (d : Nat) : Nat := r.boxes.getD d 0 + 1
def Shape.count (r : Shape) : Nat := (r.boxes.map (· + 1)).prod
def Shape.bytes (r : Shape) : Nat := r.elem * r.count

/-- A shape record from its bytes. -/
def Shape.ofBytes (bs : List Byte) : Shape :=
  { base := fieldOf bs 0 8, fmt := fieldOf bs 8 1, rank := fieldOf bs 9 1, swz := fieldOf bs 10 1, tier := fieldOf bs 11 1,
    fill := BitVec.ofNat 32 (fieldOf bs 12 4), dims := (List.range 5).map (fun d => fieldOf bs (0x10 + 4 * d) 4),
    strs := (List.range 4).map (fun d => fieldOf bs (0x24 + 4 * d) 4),
    boxes := (List.range 5).map (fun d => fieldOf bs (0x34 + d) 1) }

/-- The record breaks no rule of R277 but the alignment of BASE. -/
def Shape.ok (r : Shape) (bs : List Byte) : Bool :=
  (shapeElem r.fmt).isSome && decide (1 ≤ r.rank ∧ r.rank ≤ 5) && decide (r.swz ≤ 3) && decide (r.tier ≤ 2) &&
    (r.dims.zipIdx.all (fun (x, d) => if d < r.rank then x != 0 else x == 0)) &&
    (r.strs.zipIdx.all (fun (x, d) => decide (d + 1 < r.rank) || x == 0)) &&
    (r.boxes.zipIdx.all (fun (x, d) => decide (d < r.rank) || x == 0)) && zeroAt bs 0x39 7 &&
    decide (r.extent 0 * r.elem % 16 = 0) && decide (r.bytes ≤ 2 ^ 24) &&
    (r.swz == 0 || decide (r.bytes % (16 * 2 ^ r.swz) = 0))

/-- The place of the n-th element in the box, lowest dimension first. -/
def boxIndex : List Nat → Nat → List Nat
  | [], _ => []
  | e :: es, n => n % e :: boxIndex es (n / e)

def Shape.index (r : Shape) (n : Nat) : List Nat := boxIndex (r.boxes.map (· + 1)) n

/-- Global coordinates of an element, below RANK. -/
def Shape.coords (r : Shape) (org : List Int) (n : Nat) : List Int :=
  List.zipWith (fun (o : Int) (i : Nat) => o + i) org ((r.index n).take r.rank)

def Shape.inBounds (r : Shape) (org : List Int) (n : Nat) : Bool :=
  ((r.coords org n).zipIdx).all (fun (g, d) => decide (0 ≤ g) && decide (g < (r.dims.getD d 0 : Int)))

/-- addr(i) of an element in bounds (R278). -/
def Shape.addr (r : Shape) (org : List Int) (n : Nat) : Nat :=
  r.base + (((r.coords org n).zipIdx).map (fun (g, d) =>
    if d = 0 then r.elem * g.toNat else g.toNat * r.strs.getD (d - 1) 0 * 16)).sum

/-- o'(i): the swizzled box offset. -/
def Shape.local (r : Shape) (o : Nat) : Nat :=
  if r.swz = 0 then o
  else
    let s := 16 * 2 ^ r.swz
    o ^^^ ((o / s % (s / 16)) * 16)

/-- The bytes of FILL for one element. -/
def Shape.fillBytes (r : Shape) : List Byte := leBytes r.elem r.fill.toNat

/-- The highest address of an element in bounds, if there is one. -/
def Shape.top (r : Shape) (org : List Int) : Option Nat :=
  let his := (List.range r.rank).map (fun d =>
    let o := org.getD d 0
    let hi := min (r.extent d : Int) ((r.dims.getD d 0 : Int) - o) - 1
    (decide (max 0 (-o) ≤ hi), (o + hi).toNat))
  if his.all Prod.fst then
    some (r.base + (his.zipIdx.map (fun (h, d) =>
      if d = 0 then r.elem * h.2 else h.2 * r.strs.getD (d - 1) 0 * 16)).sum)
  else none

/-! ### Checks in the elected lane -/

/-- A trap of the elected lane's word. -/
def Env.trap (e : Env) (cause detail : Nat) : Trap := mkTrap cause detail e.th.pc

def Env.misalign (e : Env) (detail addr : Nat) (write : Bool) : Trap :=
  memTrap 4 (BitVec.ofNat 32 detail) addr e.th.pc write

/-- R207 on an address. -/
def Env.aligned (e : Env) (a : W64) (size : Nat) (write : Bool) : Except Trap Unit :=
  match misaligned a size with
  | some d => .error { cause := 4, detail := d, faddr := a, pc := e.th.pc, write := write }
  | none => .ok ()

def orTrap (ok : Bool) (tr : Trap) : Except Trap Unit := if ok then .ok () else .error tr

/-- A tuple that the elected lane reads exists (R99, R274). -/
def Env.readable (e : Env) (o : Opd) (n : Nat) : Except Trap Unit :=
  orTrap (e.th.tupleOk e.blk.decl.regs n o) (e.trap 3 0)

/-- Registers j to n − 1 of a tuple exist; those before j are not read, so no range check meets them (R99, R274). -/
def Env.readableFrom (e : Env) (o : Opd) (j n : Nat) : Except Trap Unit :=
  orTrap (match o with
    | .idx x off =>
      let i := e.th.at' x off
      decide (0 ≤ i + j) && decide (i + n ≤ e.th.xlimit x) && decide ((e.th.xbase x : Int) + i + n ≤ e.blk.decl.regs)
    | o => e.th.tupleOk e.blk.decl.regs n o) (e.trap 3 0)

/-- Registers j to n − 1 of a tuple, at their places in a list of n words. -/
def Env.tupleFrom (e : Env) (o : Opd) (j n : Nat) : List W32 :=
  (List.range n).map (fun i => if i < j then 0 else
    match o with
    | .idx x off => e.th.reg ((e.th.xbase x : Int) + e.th.at' x off + i).toNat
    | o => e.th.reg ((e.th.named o).getD 0 + i))

/-- Steps 3 to 5 of R262 on a barrier offset in a block. -/
def Env.barrier (e : Env) (b : Block) (bar : Nat) : Except Trap Unit :=
  match b.objFault bar with
  | some (c, d) => .error (scratchTrap c d bar e.th.pc false)
  | none => orTrap (b.obj bar).init (e.trap 0x15 0)

/-- An object that engine arrivals are refused on (R239). -/
def Env.arrivable (e : Env) (bar : Nat) : Except Trap Unit :=
  orTrap (!e.blk.xregs.any (fun x => x.off == bar)) (e.trap 0x15 0)

/-- The shape record at an address (R277). -/
def State.readShape (s : State) (e : Env) (a : W64) : Except Trap Shape := do
  let x ← s.reach e a 64 Need.load 0
  let bs := s.bytes x.key 64
  let r := Shape.ofBytes bs
  orTrap (r.ok bs) (e.trap 1 10)
  orTrap (decide (r.base % 16 = 0)) (e.misalign 1 r.base false)
  .ok r

/-- What an engine word issues: the state after its own effects, the job, and its start time (R282). -/
abbrev Issued := State × Job × Option W64

/-- A 64-bit value of two registers of a tuple. -/
def pairAt (vs : List W32) (i : Nat) : W64 := vs.getD (i + 1) 0 ++ vs.getD i 0

/-- Where a copy into or out of a block's scratchpad goes: local offset, barrier and slot (R280). R214's text lets a slot form wait at
issue until READY, and its table and R280 raise SLOT_STATE: that a copy out of a slot that is not READY traps is the model's choice (log
entry 125, DESIGN CHOICE). -/
def Env.localOf (e : Env) (b : Block) (slot : Bool) (dir : Nat) (r : Shape) (v bar : Nat) :
    Except Trap (Nat × Nat × Option Nat) := do
  let n := r.bytes
  if slot then
    orTrap (decide (v < b.decl.tiles)) (e.trap 8 0)
    let ent := b.tile v
    orTrap (tileBarv ent && ent.extractLsb' 78 2 == (if dir = 0 then tileEmpty else tileReady)) (e.trap 8 0)
    orTrap (decide (n ≤ tileSize ent)) (scratchTrap 7 0 (tileBase ent) e.th.pc (dir == 0))
    e.barrier b (tileBar ent)
    .ok (tileBase ent, tileBar ent, some v)
  else
    let al := if r.swz = 0 then 16 else 16 * 2 ^ r.swz
    orTrap (decide (v % al = 0)) (scratchTrap 4 1 v e.th.pc (dir == 0))
    orTrap (decide (v + n ≤ b.scratchBytes)) (scratchTrap 7 0 v e.th.pc (dir == 0))
    e.barrier b bar
    .ok (v, bar, none)

/-- A slot named by an accepted copy changes state in the same step (R214, R280). -/
def State.claimSlot (s : State) (blk : Nat) (slot : Option Nat) (st : BitVec 2) : State :=
  match slot with
  | none => s
  | some k => s.mapBlock blk (fun b => b.setTile k (withTileState (b.tile k) st))

/-- The coordinate tuple and the reach of the box (R280). -/
def Env.origin (e : Env) (w : Word) (r : Shape) : Except Trap (List Int) := do
  e.readable w.b r.rank
  let org := (e.tuple w.b r.rank).map BitVec.toInt
  orTrap (decide ((r.top org).getD 0 < 2 ^ 57)) (e.misalign 2 ((r.top org).getD 0) false)
  .ok org

/-- CPY in the elected lane (R279, R280). With SLOT the first register of C is not read (R274). -/
def issueCpy (w : Word) (e : Env) (s : State) : Except Trap Issued := do
  let dir := modF w 0 2
  let at' := modB w 4
  let len := if at' then 6 else if dir = 2 then 3 else 2
  let first := (modB w 2).toNat
  e.readable w.a 2
  e.readableFrom w.c first len
  let r ← s.readShape e (e.dword .unsigned w.a 0)
  let org ← e.origin w r
  let vs := e.tupleFrom w.c first len
  let start := if at' then some (pairAt vs 4) else none
  let all := [(0, r.count)]
  if dir = 2 then
    let dst := pairAt vs 1
    e.aligned dst 16 true
    let bar := (vs.getD 0 0).toNat
    e.barrier e.blk bar
    .ok (s, .copy 2 r org dst.toNat false false [⟨e.blk.id, 0, bar, none, all⟩], start)
  else
    let (loc, bar, slot) ← e.localOf e.blk (modB w 2) dir r (vs.getD 1 0).toNat (vs.getD 0 0).toNat
    .ok (s.claimSlot e.blk.id slot (if dir = 0 then tileFilling else tileDraining),
      .copy dir r org 0 (modB w 3) false [⟨e.blk.id, loc, bar, slot, all⟩], start)

/-- The targets of CPYM, each checked against its own block (R283). -/
def multicast (e : Env) (slot : Bool) (r : Shape) (v bar : Nat) : List Block → Except Trap (List Target)
  | [] => .ok []
  | b :: bs => do
    let (loc, bar', k) ← e.localOf b slot 0 r v bar
    let rest ← multicast e slot r v bar bs
    .ok (⟨b.id, loc, bar', k, [(0, r.count)]⟩ :: rest)

/-- CPYM in the elected lane (R283). -/
def issueCpym (w : Word) (e : Env) (s : State) : Except Trap Issued := do
  let at' := modB w 4
  let len := if at' then 6 else 4
  let first := (modB w 2).toNat
  e.readable w.a 2
  e.readableFrom w.c first len
  let r ← s.readShape e (e.dword .unsigned w.a 0)
  let org ← e.origin w r
  let vs := e.tupleFrom w.c first len
  let mask := pairAt vs 2
  let named := (s.teamBlocks e.blk).filter (fun b => mask.getLsbD b.brank)
  let ts ← multicast e (modB w 2) r (vs.getD 1 0).toNat (vs.getD 0 0).toNat named
  .ok (ts.foldl (fun s t => s.claimSlot t.blk t.slot tileFilling) s, .copy 0 r org 0 false false ts,
    if at' then some (pairAt vs 4) else none)

/-- SHF in the elected lane (R287). -/
def issueShf (w : Word) (e : Env) (s : State) : Except Trap Issued := do
  e.readable w.a 1
  e.readable w.b 1
  let imm := w.imm &&& 0x3FF#32
  let bar := (e.word w.b imm).toNat
  match s.region? e.blk.decl.ctx (e.word w.a imm).toNat with
  | none => .error (e.trap 1 10)
  | some r =>
    orTrap (r.cls == 2) (e.trap 1 10)
    e.barrier e.blk bar
    e.arrivable bar
    .ok (s, .sheaf r bar [0, 1, 2, 3] [], none)

/-- A collective record from its bytes (R289). -/
def CollRec.ofBytes (bs : List Byte) : CollRec :=
  let w (o : Nat) : W32 := BitVec.ofNat 32 (fieldOf bs o 4)
  { src := fieldOf bs 0 8, dst := fieldOf bs 8 8, count := fieldOf bs 0x10 8, kind := fieldOf bs 0x18 1,
    fmt := fieldOf bs 0x19 1, rop := fieldOf bs 0x1A 1, arg := fieldOf bs 0x1B 1, cid := fieldOf bs 0x1C 4,
    members := BitVec.ofNat 256 (fieldOf bs 0x20 32), wgt := fieldOf bs 0x40 8, mst1 := fieldOf bs 0x48 8,
    mst2 := fieldOf bs 0x50 8, pnd := fieldOf bs 0x58 8, c2 := w 0x60, lr := w 0x64, mu1 := w 0x68, mu2 := w 0x6C,
    eps := w 0x70, wd := w 0x74, gscale := w 0x78, c1 := w 0x7C }

/-- Pod indices of the members, ascending, and the rank of one. -/
def CollRec.devices (c : CollRec) : List Nat := (List.range 256).filter (fun p => c.members.getLsbD p)
def CollRec.rankOf (c : CollRec) (p : Nat) : Nat := ((c.devices).filter (fun q => decide (q < p))).length

/-- An address that a collective uses is usable. -/
def usable (a n : Nat) : Bool := decide (a ≠ 0) && decide (a % n = 0)

/-- The record breaks no rule of R289 on the device of a pod index. -/
def CollRec.ok (c : CollRec) (me : Nat) (bs : List Byte) : Bool :=
  decide (c.count ≠ 0 ∧ c.count % 16 = 0) && decide (c.kind ≤ 4) && decide (c.fmt ≤ (if c.kind = 4 then 2 else 3)) &&
    decide (c.rop ≤ (if c.kind = 4 then 0 else 2)) &&
    decide (c.arg < (if c.kind = 3 then c.devices.length else if c.kind = 4 then 2 else 1)) && c.cid != 0 &&
    c.members.getLsbD me && (c.kind == 4 || zeroAt bs 0x40 64) &&
    ((c.kind == 3 && c.rankOf me != c.arg) || usable c.src 64) && (c.kind == 4 || usable c.dst 64) &&
    (c.kind != 4 || (usable c.wgt 4 && usable c.mst1 4 && usable c.pnd 4 && (c.arg == 0 || usable c.mst2 4)))

/-- WNW in the elected lane (R289, R291). -/
def issueWnw (w : Word) (e : Env) (s : State) : Except Trap Issued := do
  let len := if modB w 4 then 4 else 2
  e.readable w.a 2
  e.readable w.b 1
  e.readable w.c len
  let x ← s.reach e (e.dword .unsigned w.a 0) 64 Need.load 0
  let y ← s.reach e (e.dword .unsigned w.a 0 + 64) 64 Need.load 1
  let bs := s.bytes x.key 64 ++ s.bytes y.key 64
  let c := CollRec.ofBytes bs
  orTrap (c.ok s.pod.index bs) (e.trap 1 10)
  let vs := e.tuple w.c len
  let status := pairAt vs 0
  e.aligned status 8 true
  let bar := (e.word w.b 0).toNat
  e.barrier e.blk bar
  e.arrivable bar
  .ok (s, .winnow c status.toNat bar 0 0 [], if modB w 4 then some (pairAt vs 2) else none)

/-- A slot of GLN is EMPTY and linked to a barrier. -/
def glnState (b : Block) (k : Nat) (e : Env) : Except Trap Unit :=
  let ent := b.tile k
  orTrap (tileBarv ent && ent.extractLsb' 78 2 == tileEmpty) (e.trap 8 0)

/-- A slot of GLN has room for the box. -/
def glnSize (b : Block) (n k : Nat) (e : Env) : Except Trap Unit :=
  orTrap (decide (n ≤ tileSize (b.tile k))) (scratchTrap 7 0 (tileBase (b.tile k)) e.th.pc true)

/-- Checks over a list, the first failure first. -/
def checkAll (f : Nat → Except Trap Unit) : List Nat → Except Trap Unit
  | [] => .ok ()
  | k :: ks =>
    match f k with
    | .error tr => .error tr
    | .ok _ => checkAll f ks

/-- GLN in the elected lane: its checks in the order of R295, each over every slot before the next. -/
def issueGln (w : Word) (e : Env) (s : State) : Except Trap Issued := do
  e.readable w.a 7
  e.readable w.b 2
  let vs := e.tuple w.a 7
  let r ← s.readShape e (e.dword .unsigned w.b 0)
  let n := (vs.getD 4 0).toNat
  let k0 := (vs.getD 5 0).toNat
  orTrap (decide (1 ≤ n ∧ n ≤ 32)) (e.trap 1 10)
  orTrap (decide (k0 + n ≤ e.blk.decl.tiles)) (e.trap 8 0)
  checkAll (fun i => glnState e.blk (k0 + i) e) (List.range n)
  checkAll (fun i => glnSize e.blk r.bytes (k0 + i) e) (List.range n)
  e.aligned (pairAt vs 0) 8 false
  e.aligned (pairAt vs 2) 4 false
  let tag := modB w 0
  let s1 := (List.range n).foldl (fun s i => (s.mapBlock e.blk.id (fun b =>
    let ent := withTileState (b.tile (k0 + i)) tileFilling
    b.setTile (k0 + i) (if tag then ent.extractLsb' 64 64 ++ BitVec.allOnes 64 else ent)))) s
  .ok (s1, .gleaner (pairAt vs 0).toNat (pairAt vs 2).toNat n k0 (vs.getD 6 0).toNat tag r 0, none)

/-- ADRN in the elected lane (R270): what it issues, or none where its tile predicate is false. -/
def issueAdrn (w : Word) (e : Env) (s : State) : Except Trap (Option Issued) := do
  e.readable w.a 1
  e.readable w.b 2
  e.readable w.c 3
  let vs := e.tuple w.c 3
  let addr := e.dword .unsigned w.b 0
  match s.resolve e (e.word w.a 0) with
  | .error d => .error (e.trap 9 d)
  | .ok (ob, k, sl) =>
    let stride := (vs.getD 0 0).toNat
    let bar := (vs.getD 2 0).toNat
    orTrap (decide (stride % 4 = 0)) (e.misalign 1 0 true)
    e.aligned addr 4 true
    e.barrier e.blk bar
    e.arrivable bar
    orTrap (!(modF w 0 2 == 2 && sl.fmt == 2)) (e.trap 1 10)
    if !e.tile (immF w 20 4) then .ok none
    else do
      orTrap (!sl.expects (sl.indexOf e.blk e.th.tidx)) (e.trap 0xA 0)
      .ok (some (s.mapSlot ob.id k (fun sl => { sl with drains := sl.drains + 1 }),
        .drain ob.id k addr.toNat stride (vs.getD 1 0) (modF w 0 2) (immF w 10 5 + 1) (immF w 15 5 + 1) bar, none))

/-- The word that a release of engine or drain lanes issues. Log entry 53 (DEDUCED). -/
def engineIssue (m : Meet) (w : Word) (e : Env) (s : State) : Except Trap (Option Issued) :=
  match m with
  | .adrn => issueAdrn w e s
  | .cpy => (issueCpy w e s).map some
  | .cpym => (issueCpym w e s).map some
  | .shf => (issueShf w e s).map some
  | .wnw => (issueWnw w e s).map some
  | .gln => (issueGln w e s).map some
  | _ => .ok none

/-- The command enters its engine's queue, and the lanes count on CPC (R275). -/
def queueCmd (e : Env) (lanes : List Nat) (x : Issued) : State :=
  let s0 := x.1
  let c : Cmd := { id := s0.seq, ctx := e.blk.decl.ctx, blk := e.blk.id, tidx := e.th.tidx, pc := e.th.pc, sup := e.th.sup,
                   cluster := e.blk.cluster, stage := .queued, start := x.2.2, lanes := lanes, gone := false, read := [], job := x.2.1 }
  let s1 : State := { s0 with seq := s0.seq + 1, cmds := s0.cmds ++ [c] }
  lanes.foldl (fun s t => s.mapThread e.blk.id t (fun t => { t with cnt := t.cnt.add .cp })) s1

end Sys2Proof.Machine
end

