-- ==== Sys2Proof/Machine/Rendezvous.lean ====
section
/-! DEFINITION. Rendezvous: which lanes a JOIN, a cross-lane word or an engine word releases, and what the release does (R193,
R194, R197, R270, R275, R306), with the arrival words themselves. -/

namespace Sys2Proof.Machine

/-! ### Who is released -/


/-- Words whose release is a cross-lane one. -/
def Meet.cross : Meet → Bool
  | .adrn => false
  | .cpy => false
  | .cpym => false
  | .shf => false
  | .wnw => false
  | .gln => false
  | _ => true

/-- A lane that waits at a cross-lane or engine word, with what it arrived with. Log entry 52 (DEDUCED). -/
structure Arrival where
  meet : Meet
  w : Word
  pc : W32
  th : Thread
  named : W64
  guard : Bool
  deriving DecidableEq, Repr

/-- The lanes of a group that wait at such words and count: their earlier stores and atomics have been performed (R306). While a block is being pre-empted its engine words do not release
(R351). Log entry 52 (DEDUCED). -/
def Block.arrivals (b : Block) (g : Nat) : List Arrival :=
  b.threads.filterMap (fun t =>
    match t.wait with
    | some (.meet m w named guard) =>
      if b.gidOf t.tidx = g ∧ t.written = true ∧ (m.cross = true ∨ b.stage = .running) then some ⟨m, w, t.pc, t, named, guard⟩ else none
    | _ => none)

/-- Two lanes wait at one word. -/
def Arrival.at (a b : Arrival) : Bool := a.meet == b.meet && a.w == b.w && a.pc == b.pc

/-- Virtual lane of an arrival. -/
def Arrival.lane (b : Block) (a : Arrival) : Nat := a.th.tidx % b.decl.width

/-- Lanes whose named lanes are not all in the set leave it; what stays after enough rounds is the largest closed set
(R197). -/
def closed (b : Block) (g : Nat) : Nat → List Arrival → List Arrival
  | 0, as => as
  | n + 1, as =>
    let set : W64 := as.foldl (fun m a => m ||| (1#64 <<< a.lane b)) 0
    closed b g n (as.filter (fun a => b.clip g a.named &&& ~~~set == 0))

/-- The first word of a group at which a release is due, with the lanes it releases. -/
def Block.releasable (b : Block) (g : Nat) : Option (List Arrival) :=
  let all := b.arrivals g
  (all.map (fun a => closed b g 64 (all.filter (fun x => a.at x)))).find? (fun r => !r.isEmpty)

/-- A lane waits at a JOIN on JMk. -/
def Thread.joins (t : Thread) (k : Nat) : Bool := t.wait == some (.join k false) || t.wait == some (.join k true)

/-- Lanes of a group that wait at a JOIN on JMk, and count (R306). -/
def Block.joining (b : Block) (g k : Nat) : List Thread :=
  b.threads.filter (fun t => b.gidOf t.tidx == g && t.joins k && t.written)

/-- JMk of a group is met: every bit set in it belongs to a lane that waits on it (R193). -/
def Block.joinMet (b : Block) (g k : Nat) : Bool :=
  let ts := b.joining g k
  !ts.isEmpty && b.joinMask g k &&& ~~~(ts.foldl (fun m t => m ||| (1#64 <<< (t.tidx % b.decl.width))) 0) == 0

/-! ### What a release does -/

/-- The lanes of a set as a mask. -/
def lanesMask (b : Block) (ts : List Nat) : W64 := ts.foldl (fun m t => m ||| (1#64 <<< (t % b.decl.width))) 0

/-- The lanes go on at PC + 1 of their own word. -/
def State.passAll (s : State) (b : Block) (ts : List (Nat × W32 × Bool)) : State :=
  ts.foldl (fun s t => s.completeLane b.id t.1 (t.2.1 + 1) t.2.2 (b.stepping.contains (b.gidOf t.1))) s

/-- Lanes are released together: each observes what every one of them passes on (R302, R306). -/
def State.meetKnow (s : State) (b : Block) (ts : List Nat) : State :=
  let p (e : Stale) : Bool := ts.any (fun u => e.releasedBy b.id u s.seq)
  let s1 := { s with stale := s.stale.map (fun e => if p e then ts.foldl (fun e u => e.tell (.thread b.id u) s.seq) e else e) }
  s1.renew b.coreId (s.stale.filter (fun e => p e && ts.any (fun u => !e.knows (.thread b.id u))))

/-- A JOIN release (R193); a lane whose word carries YLD yields (R116). -/
def State.releaseJoin (s : State) (b : Block) (g k : Nat) : State :=
  let ts := b.joining g k
  let pc := (ts.head?.map Thread.pc).getD 0
  let s1 := s.trace b.id g 2 pc (lanesMask b (ts.map Thread.tidx)) (b.joinMask g k) (BitVec.ofNat 32 k) 0
  (s1.meetKnow b (ts.map Thread.tidx)).passAll b (ts.map (fun t => (t.tidx, t.pc, t.wait == some (.join k true))))

/-- A release of a cross-lane word: every lane with a true guard receives its result (R197). -/
def State.releaseCross (s : State) (b : Block) (a : Arrival) (r : List Arrival) : State :=
  let members : List Member := r.map (fun x => ⟨⟨b, x.th⟩, b.clip (b.gidOf x.th.tidx) x.named, x.guard⟩)
  members.foldl (fun s m =>
    if m.guard then s.mapThread b.id m.env.th.tidx (fun t => t.apply a.w (crossRes a.meet a.w members m)) else s) s

/-- A release of an engine or drain word (R270, R275): the elected lane issues. A replayable fault there withdraws the
whole release; any other fault leaves the command unissued. Log entry 53 (DEDUCED). -/
def State.releaseEngine (s : State) (b : Block) (a : Arrival) (r : List Arrival) : State :=
  let all := r.map (fun x => (x.th.tidx, x.pc, x.w.hnt.yld))
  match r.find? (fun x => x.guard) with
  | none => s.passAll b all
  | some x =>
    let e : Env := ⟨b, x.th⟩
    match engineIssue a.meet a.w e s with
    | .ok none => s.passAll b all
    | .ok (some y) => (queueCmd e ((r.filter Arrival.guard).map (fun x => x.th.tidx)) y).passAll b all
    | .error tr =>
      if replayable tr.cause then s.takeTrap b.id x.th.tidx tr Need.load.acc
      else (s.passAll b (all.filter (fun t => t.1 != x.th.tidx))).takeTrap b.id x.th.tidx tr

/-- A release of the lanes that wait at one word, with its record (R380). -/
def State.release (s : State) (b : Block) (g : Nat) (r : List Arrival) : State :=
  match r.head? with
  | none => s
  | some a =>
    let mask := lanesMask b (r.map (fun x => x.th.tidx))
    let s0 := if a.meet.cross || a.meet == .adrn then s.trace b.id g 2 a.pc mask (b.clip g a.named) 0x80000000#32 0 else s
    let s1 := s0.meetKnow b (r.map (fun x => x.th.tidx))
    if a.meet.cross then
      (s1.releaseCross b a r).passAll b (r.map (fun x => (x.th.tidx, x.pc, x.w.hnt.yld)))
    else s1.releaseEngine b a r

/-- The next release of a group, if one is due. -/
def State.releaseOne (s : State) (b : Block) (g : Nat) : Option State :=
  match (List.range 8).find? (b.joinMet g) with
  | some k => some (s.releaseJoin b g k)
  | none => (b.releasable g).map (s.release b g)

/-- The rendezvous of a group are re-examined until no release is due. -/
def State.reexamine : Nat → State → Nat → Nat → State
  | 0, s, _, _ => s
  | n + 1, s, blk, g =>
    match s.block? blk with
    | none => s
    | some b =>
      match s.releaseOne b g with
      | none => s
      | some s' => s'.reexamine n blk g

/-- Every group of a block is re-examined. -/
def State.meetAll (s : State) (blk : Nat) : State :=
  match s.block? blk with
  | none => s
  | some b => (b.groups.map Group.gid).foldl (fun s g => s.reexamine 64 blk g) s

/-- After something of a thread has been performed: arrivals, exit, and the rendezvous of its group. -/
def State.settled (s : State) (blk tidx : Nat) : State :=
  match s.block? blk with
  | none => s
  | some b => (s.settle blk).reexamine 64 blk (b.gidOf tidx)

/-- The groups of a bundle are re-examined once its word has run. -/
def reexamineAfter (u : Bundle) (_ s : State) : State :=
  match s.block? u.blk with
  | none => s
  | some b => (u.lanes.map b.gidOf).dedup.foldl (fun s g => s.reexamine 64 u.blk g) s

/-! ### The arrival words -/

/-- A lane arrives at a cross-lane word, whatever its guard (R197). In a replay it is held until its turn (R385). -/
def meetWord (m : Meet) (i : Instr) (w : Word) (s : State) : Host.Outcome State Fault Refusal :=
  runWord { planOf i w with always := true } (fun g e s =>
    if !s.turn e.blk e.th then .stay (s.hold e.blk.id e.th.tidx (.steer none))
    else .stay (s.hold e.blk.id e.th.tidx (.meet m w (e.namedSet w g) g))) reexamineAfter s

def execShfl (w : Word) (s : State) := meetWord .shfl (.shfl w) w s
def execXbf (w : Word) (s : State) := meetWord .xbf (.xbf w) w s
def execVote (w : Word) (s : State) := meetWord .vote (.vote w) w s
def execRedg (w : Word) (s : State) := meetWord .redg (.redg w) w s
def execScang (w : Word) (s : State) := meetWord .scang (.scang w) w s
def execMatchLanes (w : Word) (s : State) := meetWord .matchLanes (.matchLanes w) w s
def execElect (w : Word) (s : State) := meetWord .elect (.elect w) w s
def execTopk (w : Word) (s : State) := meetWord .topk (.topk w) w s

/-- A lane arrives at an engine or drain word, of which a replay steers ADRN (R385); a lane with a true guard waits first while CPC stands at 63 (R125, R275). -/
def engineWord (m : Meet) (i : Instr) (w : Word) (s : State) : Host.Outcome State Fault Refusal :=
  runWord { planOf i w with ctr := some .cp, always := true, elected := true } (fun g e s =>
    if m == .adrn && !s.turn e.blk e.th then .stay (s.hold e.blk.id e.th.tidx (.steer none))
    else .stay (s.hold e.blk.id e.th.tidx (.meet m w (e.namedSet w g) g))) reexamineAfter s

def execAdrn (w : Word) (s : State) := engineWord .adrn (.adrn w) w s
def execCpy (w : Word) (s : State) := engineWord .cpy (.cpy w) w s
def execCpym (w : Word) (s : State) := engineWord .cpym (.cpym w) w s
def execShf (w : Word) (s : State) := engineWord .shf (.shf w) w s
def execWnw (w : Word) (s : State) := engineWord .wnw (.wnw w) w s
def execGln (w : Word) (s : State) := engineWord .gln (.gln w) w s

end Sys2Proof.Machine
end

