-- ==== Sys2Proof/Machine/Control.lean ====
section
/-! DEFINITION. Control flow, waits on counters and time, join masks, and the words that enter and leave the handler
(R128, R129, R186 to R195, R342). -/

namespace Sys2Proof.Machine

/-! ### NOP and YIELD (R188) -/

def execNop (w : Word) (s : State) : Host.Outcome State Fault Refusal :=
  runWord (planOf (.nop w) w) (fun _ e s => .done s (e.th.pc + 1)) (fun _ _ s => s) s

/-- YIELD is a NOP that carries YLD. -/
def execYield (w : Word) (s : State) : Host.Outcome State Fault Refusal :=
  runWord { planOf (.yield w) w with w := { w with hnt := { w.hnt with yld := true } } }
    (fun _ e s => .done s (e.th.pc + 1)) (fun _ _ s => s) s

/-! ### Branches and calls (R187) -/

/-- A lane's next PC under a branch word, as the word would compute it, whatever its guard. -/
abbrev Target' := Env → W32

/-- Lanes of a bundle whose next PCs differ leave a divergence record for each group (R380). In a replay each lane
produces its own entry (R386). -/
def divTrace (i : Instr) (w : Word) (target : Target') (u : Bundle) (old s : State) : State :=
  match old.block? u.blk with
  | none => s
  | some b =>
    let lanes := (u.lanes.filterMap (fun t => b.thread? t)).filter (fun t =>
      !t.inTrap && !(t.guard w.grd && t.awaits (formIn i) w))
    let next (t : Thread) : W32 := if t.guard w.grd then target ⟨b, t⟩ else t.pc + 1
    if s.replays u.blk then s.replayBranch b lanes (fun t => t.guard w.grd)
    else
      (lanes.map (fun t => b.gidOf t.tidx)).dedup.foldl (fun s g =>
        let mine := lanes.filter (fun t => b.gidOf t.tidx == g)
        if ((mine.map next).dedup).length ≤ 1 then s
        else
          let taken := mine.filter (fun t => t.guard w.grd)
          let rest := mine.filter (fun t => !t.guard w.grd)
          s.traceRaw u.blk g 1 u.pc (lanesMask b (taken.map Thread.tidx)) (lanesMask b (rest.map Thread.tidx)) 0 0) s

/-- A branch word: a link is written where the word has one, and the lane goes to its target. -/
def branch (i : Instr) (w : Word) (link : Bool) (target : Target') (s : State) : Host.Outcome State Fault Refusal :=
  runWord (planOf i w) (fun _ e s =>
    let s1 := if link then
        s.mapThread e.blk.id e.th.tidx (fun t => t.result w.d w.hnt.trn [e.th.pc + 1])
      else s
    .done s1 (target e)) (divTrace i w target) s

/-- The target of a relative branch. -/
def relTarget (w : Word) (e : Env) : W32 := e.th.pc + w.imm

/-- The target that A names. -/
def regTarget (w : Word) (e : Env) : W32 := e.word w.a w.imm

def execBra (w : Word) (s : State) : Host.Outcome State Fault Refusal := branch (.bra w) w false (relTarget w) s

/-- BRX adds its offset to A. -/
def execBrx (w : Word) (s : State) : Host.Outcome State Fault Refusal :=
  branch (.brx w) w false (fun e => e.word w.a 0 + w.imm) s

def execCall (w : Word) (s : State) : Host.Outcome State Fault Refusal := branch (.call w) w true (relTarget w) s

/-- CALLX reads A before D is written. -/
def execCallx (w : Word) (s : State) : Host.Outcome State Fault Refusal := branch (.callx w) w true (regTarget w) s

def execRet (w : Word) (s : State) : Host.Outcome State Fault Refusal := branch (.ret w) w false (regTarget w) s

/-! ### EXIT (R189) -/

/-- A counted operation of a thread that has exited writes no register (R126). -/
def Act.dropResults (a : Act) : Act :=
  match a with
  | .load src va n k sx nc ev dst => .load src va n k sx nc ev (dst.map (fun _ => none))
  | .deliver dst _ _ _ => .deliver (dst.map (fun _ => none)) [] [] 0
  | .atom loc va kind b c sc mrg dst => .atom loc va kind b c sc mrg (dst.map (fun _ => none))
  | .expand src esz kv pos dst tail => .expand src esz kv pos (dst.map (fun _ => none)) tail
  | .features rows fmts nan dst cp cl => .features rows fmts nan (dst.map (fun _ => none)) cp cl
  | a => a

/-- The bit of a thread leaves every join mask of its group (R189, R190). -/
def Group.clearLane (g : Group) (lane : Nat) : Group := { g with jm := g.jm.map (fun (k, m) => (k, m &&& ~~~(1#64 <<< lane))) }

/-- A thread ends (R189): its section aborts without a target, it leaves every mask, member set and expected set, and its
pending register writes are discarded. -/
def State.endThread (s : State) (b : Block) (tidx : Nat) : State :=
  let s1 := s.endSections b.id (fun t => t == tidx)
  let s2 := s1.mapGroup b.id (b.gidOf tidx) (fun g => g.clearLane (tidx % b.decl.width))
  let s3 := s2.mapThread b.id tidx (fun t => { t with
    life := .exited, wait := none,
    pend := t.pend.map (fun p => { p with act := p.act.dropResults }),
    tokens := t.tokens.map (fun k => { k with dst := none }) })
  let s4 := match b.thread? tidx with
    | some t => s3.enqueue b t 0 .exit none
    | none => s3
  ((s4.exitSlots b tidx).settle b.id).reexamine 64 b.id (b.gidOf tidx)

/-- A replay ends with its last thread (R386). -/
def execExit (w : Word) (s : State) : Host.Outcome State Fault Refusal :=
  runWord (planOf (.exit w) w) (fun _ e s => .stay (s.endThread e.blk e.th.tidx))
    (fun u _ s => s.replayEnd u.blk) s

/-! ### Join masks and JOIN (R190 to R193) -/

/-- Combine of R191. -/
def jmCombine (op : Nat) (old v : W64) : W64 :=
  if op = 0 then v else if op = 1 then old ||| v else if op = 2 then old &&& ~~~v else old &&& v

/-- A join mask takes a value, and the clearings of R190 apply. -/
def State.setJoin (s : State) (b : Block) (g k : Nat) (v : W64) : State :=
  s.mapGroup b.id g (fun x => { x with jm := NMap.put 0 x.jm k (b.clip g v) })

def execJmset (w : Word) (s : State) : Host.Outcome State Fault Refusal :=
  runWord (planOf (.jmset w) w) (fun _ e s =>
    let k := modF w 0 3
    let v : W64 := if modB w 5 then 1#64 <<< e.lane else e.dword .unsigned w.a w.imm
    let old := e.blk.joinMask e.gid k
    .done ((s.setJoin e.blk e.gid k (jmCombine (modF w 3 2) old v)).reexamine 64 e.blk.id e.gid) (e.th.pc + 1))
    (fun _ _ s => s) s

def execJmget (w : Word) (s : State) : Host.Outcome State Fault Refusal :=
  runPure (.jmget w) w (fun e => { regs := some (words64 (e.blk.joinMask e.gid (modF w 0 3))) }) s

/-- A lane whose bit is set arrives; the group is examined once the whole bundle has arrived. In a replay a lane is held, and
does not count as waiting, until its turn (R385). -/
def execJoin (w : Word) (s : State) : Host.Outcome State Fault Refusal :=
  runWord (planOf (.join w) w) (fun _ e s =>
    let k := modF w 0 3
    if !s.turn e.blk e.th then .stay (s.hold e.blk.id e.th.tidx (.steer none))
    else if (e.blk.joinMask e.gid k).getLsbD e.lane then .stay (s.hold e.blk.id e.th.tidx (.join k w.hnt.yld))
    else .done s (e.th.pc + 1)) reexamineAfter s

/-! ### WAITC and WAITT (R129, R195) -/

/-- Every counter is within its limit. -/
def Counts.within (c : Counts) (ld st cp tl : Nat) : Bool :=
  decide (c.ld ≤ ld) && decide (c.st ≤ st) && decide (c.cp ≤ cp) && decide (c.tl ≤ tl)

def execWaitc (w : Word) (s : State) : Host.Outcome State Fault Refusal :=
  runWord (planOf (.waitc w) w) (fun _ e s =>
    let ld := immF w 0 6
    let st := immF w 8 6
    let cp := immF w 16 6
    let tl := immF w 24 6
    if e.th.cnt.within ld st cp tl then .done s (e.th.pc + 1)
    else .stay (s.hold e.blk.id e.th.tidx (.counters ld st cp tl))) (fun _ _ s => s) s

def execWaitt (w : Word) (s : State) : Host.Outcome State Fault Refusal :=
  runWord (planOf (.waitt w) w) (fun _ e s =>
    let target := e.dword .unsigned w.a w.imm
    if target.toNat ≤ s.ptime.toNat then .done s (e.th.pc + 1)
    else .stay (s.hold e.blk.id e.th.tidx (.time target w.hnt.yld))) (fun _ _ s => s) s

/-! ### TRAP, BPT and ERET (R342) -/

/-- Log entry 60 (DEDUCED). -/
def execTrap (w : Word) (s : State) : Host.Outcome State Fault Refusal :=
  runWord (planOf (.trap w) w) (fun _ e s =>
    .trap s { mkTrap 0x10 0 (e.th.pc + 1) with detail := w.imm } 0) (fun _ _ s => s) s

def execBpt (w : Word) (s : State) : Host.Outcome State Fault Refusal :=
  runWord (planOf (.bpt w) w) (fun _ e s =>
    .trap s { mkTrap 0x0E 0 e.th.pc with detail := w.imm } 0) (fun _ _ s => s) s

/-- The last trap of a thread was PREEMPT (R337), on a save or on a restore. -/
def Thread.lastPreempt (t : Thread) (resume : Bool) : Bool :=
  let c := NMap.read 0 t.frame 1
  c.extractLsb' 0 8 == 0x11#8 && c.getLsbD 9 == resume

/-- ERET in one lane: a held PREEMPT replaces the return, a saved thread parks, and any other thread returns (R342).
Log entry 62 (DEDUCED). -/
def State.eretLane (s : State) (e : Env) : LaneEnd :=
  let b := e.blk
  let t := e.th
  if !t.inTrap then .trap s (mkTrap 2 0 t.pc) 0
  else if t.ppend then .stay (s.preemptAgain b t)
  else if t.lastPreempt false then
    .stay (s.mapThread b.id t.tidx (fun t => { t with life := .parked, wait := none }))
  else
    .done (s.mapThread b.id t.tidx (fun t => { t.eret with resumed := t.resumed || t.lastPreempt true })) t.eret.pc

def execEret (w : Word) (s : State) : Host.Outcome State Fault Refusal :=
  runWord { planOf (.eret w) w with actNoStep := true } (fun _ e s => s.eretLane e)
    (fun u _ s => s.restoredTest u.blk) s

end Sys2Proof.Machine
end

