-- ==== Sys2Proof/Machine/Fences.lean ====
section
/-! DEFINITION. FENCE, XFENCE, ACQ and REL (R244 to R246, R302 to R307). -/

namespace Sys2Proof.Machine

/-- A load-cache line may stay over an acquire of open memory: it lies in a bound region (R245). -/
def State.dropOpen (s : State) (core : Nat) : State := s.dropLines core (fun l => !s.inRegion l)

/-- The release side of an SC operation: at POD and SYSTEM scope what the MSC holds for host and peer pages is written to them (R303,
R305). -/
def State.scBefore (s : State) (scope : Nat) : State := if 6 ≤ scope then s.writeBack (fun _ => true) else s

/-- Its acquire side: beyond CORE the core's lines of open memory are dropped (R245, R305). -/
def State.scAfter (s : State) (scope core : Nat) : State := if 2 < scope then s.dropOpen core else s

/-- Whether the accesses that a fence of this KIND waits for have been performed: `.acq` waits for the loads and atomics
that may read the flag of R302. -/
def Thread.fenced (t : Thread) (kind : Nat) : Bool := if kind = 1 then t.loaded else t.performed

/-- FENCE.acq or .sc: of the flags that the thread has read, those released in its instance of the scope hand on what they carry
(R302). -/
def State.acquireFlags (s : State) (e : Env) (scope : Nat) : State :=
  s.observe e.blk.coreId e.blk.id e.th.tidx (fun x => x.asCore && x.by'.any (fun k => match k.1 with
    | .cand b t sc i => b == e.blk.id && t == e.th.tidx && sc == scope && i == scopeInst scope e.blk.coreId e.blk.id e.gid
    | _ => false))

/-- FENCE.rel or .sc: the thread's later writes carry what it passes on (R302). -/
def State.releaseFlags (s : State) (e : Env) (scope : Nat) : State :=
  s.tellAll (fun x => x.releasedBy e.blk.id e.th.tidx s.seq) (.rel e.blk.id e.th.tidx scope) s.seq

/-- An SC operation of a thread takes its place in the order of its scope instance (R305). -/
def State.orderSc (s : State) (e : Env) (scope at' : Nat) : State :=
  s.takeOrder e.blk.coreId e.blk.id e.th.tidx scope (scopeInst scope e.blk.coreId e.blk.id e.gid) at'

/-- FENCE (R245). At POD and SYSTEM scope a release has what the MSC holds for host and peer pages written to them.
Log entry 39 (DEDUCED). -/
def execFence (w : Word) (s : State) : Host.Outcome State Fault Refusal :=
  runWord (planOf (.fence w) w) (fun _ e s =>
    let kind := modF w 3 2
    if !e.th.fenced kind then .stay (s.hold e.blk.id e.th.tidx (if kind = 1 then .loaded else .performed))
    else
      let scope := modF w 0 3
      let s1 := if kind = 1 then s else s.scBefore scope
      let s2 := if kind = 2 then s1 else s1.scAfter scope e.blk.coreId
      let s3 := if kind = 2 then s2 else s2.acquireFlags e scope
      let s4 := if kind = 0 then s3.orderSc e scope s3.seq else s3
      .done (if kind = 1 then s4 else s4.releaseFlags e scope) (e.th.pc + 1)) (fun _ _ s => s) s

/-- The paths of R244. -/
def pathOf (c : Nat) : Path :=
  match c with
  | 0 => .core
  | 1 => .copy
  | 2 => .drain
  | 3 => .sheaf
  | 4 => .winnow
  | 5 => .glean
  | _ => .peer

/-- XFENCE: what the path FROM has written, and the thread observes, becomes visible to the reads of path TO in the scope instance; with
TO = CORE the core's lines of the thread's context are dropped (R245, R307). Log entries 33 (DEDUCED), 39 (DEDUCED). -/
def execXfence (w : Word) (s : State) : Host.Outcome State Fault Refusal :=
  runWord (planOf (.xfence w) w) (fun _ e s =>
    let s1 := if modF w 3 3 = 0 then s.dropLines e.blk.coreId (fun l => l.ctx == e.blk.decl.ctx) else s
    .done (s1.unveil (pathOf (modF w 0 3)) (pathOf (modF w 3 3)) (modF w 6 3) e.blk.cluster e.blk.id e.th.tidx) (e.th.pc + 1))
    (fun _ _ s => s) s

/-- An MSC line holds bytes of a host or peer page of a region. -/
def State.regionLine (s : State) (r : Region) (line : Nat) : Bool :=
  (List.range ((r.base % 65536 + r.size + 65535) / 65536)).any (fun i =>
    let lo := max r.base ((r.base / 65536 + i) * 65536)
    let hi := min (r.base + r.size) ((r.base / 65536 + i + 1) * 65536)
    match s.walk r.ctx lo with
    | .ok (leaf, n) => overlap (128 * line) 128 (leafKey leaf n lo) (hi - lo)
    | .error _ => false)

/-- The lines that ACQ drops (R246): with HOME = SYSTEM also those of the MSC for the region's host and peer pages. -/
def State.acquireLines (s : State) (core : Nat) (r : Region) : State :=
  let s1 := s.dropLines core (fun l => l.ctx == r.ctx && decide (r.base ≤ l.va) && decide (l.va < r.base + r.size))
  let s2 := if 2 < r.home then s1.dropOpen core else s1
  if r.home = 7 ∧ s2.msc ≠ [] then s2.dropMsc (s2.regionLine r) else s2

/-- SEQ of a region's object: its translation for an atomic (R345), and its value. -/
def State.seqOf (s : State) (e : Env) (r : Region) : Except Trap (Xlat × W64) :=
  (s.reach e (BitVec.ofNat 64 r.obj) 16 Need.both 0).map (fun x => (x, BitVec.ofNat 64 (s.word x.key 8)))

/-- An operation on 8 bytes of SEQ. -/
def Act.onSeq (blk key : Nat) (a : Act) : Bool :=
  a.isAtom && (a.spans blk).any (fun x => x.space == 0 && overlap x.base x.len key 8)

/-- The key of SEQ and the place in issue order of an ACQ or REL that waits. -/
def Wait.onSeq : Wait → Option (Nat × Nat)
  | .behind k n => some (k, n)
  | .seqRead k n _ => some (k, n)
  | _ => none

/-- What the block has issued earlier for SEQ comes first: atomics of its threads, and their ACQ and REL (R242). -/
def Block.seqHeld (b : Block) (t : Thread) (key stamp : Nat) : Bool :=
  b.threads.any (fun u => u.pend.any (fun q => decide (q.op < stamp) && q.act.onSeq b.id key) ||
    (u.tidx != t.tidx && ((u.wait.bind Wait.onSeq).map (fun x => overlap x.1 8 key 8 && decide (x.2 < stamp))).getD false))

/-- The place of an ACQ or REL in issue order. -/
def Env.seqStamp (e : Env) (s : State) : Nat := ((e.th.wait.bind Wait.onSeq).map Prod.snd).getD s.seq

/-- An ACQ or REL waits for its turn on SEQ (R242, R246). -/
def State.holdSeq (s : State) (e : Env) (key : Nat) : State :=
  ({ s with seq := s.seq + 1 } : State).hold e.blk.id e.th.tidx (.behind key (e.seqStamp s))

/-- ACQ; its read of SEQ is an SC atomic at HOME scope (R246, R305). Log entry 39 (DEDUCED). -/
def execAcq (w : Word) (s : State) : Host.Outcome State Fault Refusal :=
  runWord (planOf (.acq w) w) (fun _ e s =>
    let idx := (e.word w.a w.imm).toNat
    match s.region? e.blk.decl.ctx idx with
    | none => .trap s (mkTrap 1 10 e.th.pc) 0
    | some r =>
      match s.seqOf e r with
      | .error tr => if e.th.performed then .trap s tr Need.both.acc else .stay (s.hold e.blk.id e.th.tidx .performed)
      | .ok (x, seq) =>
        let target := e.dword .unsigned w.b w.imm
        if !e.th.performed || e.blk.seqHeld e.th x.key (e.seqStamp s) then .stay (s.holdSeq e x.key)
        else if modB w 0 ∧ seq.toNat < target.toNat then .stay (s.hold e.blk.id e.th.tidx (.acq idx target))
        else .done ((((s.scBefore r.home).acquireLines e.blk.coreId r).orderSc e r.home s.seq).mapThread e.blk.id e.th.tidx (fun t =>
          t.result w.d false [seq.extractLsb' 0 32, seq.extractLsb' 32 32])) (e.th.pc + 1)) (fun _ _ s => s) s

/-- SEQ as a REL has read it: as it stands, or as the port read it before another agent wrote to its host page (R241). -/
def Env.seqBefore (e : Env) (key : Nat) (seq : W64) : W64 :=
  match e.th.wait with
  | some (.seqRead k _ old) => if k = key then old else seq
  | _ => seq

/-- REL; what the MSC holds for host and peer pages is written to them first, and its update of SEQ is an SC atomic at HOME scope (R246,
R303, R305). Log entry 39 (DEDUCED). -/
def execRel (w : Word) (s : State) : Host.Outcome State Fault Refusal :=
  runWord (planOf (.rel w) w) (fun _ e s =>
    match s.region? e.blk.decl.ctx (e.word w.a w.imm).toNat with
    | none => .trap s (mkTrap 1 10 e.th.pc) 0
    | some r =>
      match s.seqOf e r with
      | .error tr => if e.th.performed then .trap s tr Need.both.acc else .stay (s.hold e.blk.id e.th.tidx .performed)
      | .ok (x, seq) =>
        if !e.th.performed || e.blk.seqHeld e.th x.key (e.seqStamp s) then .stay (s.holdSeq e x.key)
        else
          let v := e.dword .unsigned w.b w.imm
          let seq' := if modB w 0 then v else e.seqBefore x.key seq + v
          let s1 := ((s.scBefore r.home).coreWrite e.blk.coreId x.key (leBytes 8 seq'.toNat)).credit s.lastWrite (some e.blk.coreId)
            [(.thread e.blk.id e.th.tidx, s.seq)]
          .done ((s1.scAfter r.home e.blk.coreId).orderSc e r.home s.seq) (e.th.pc + 1))
    (fun _ _ s => s) s

end Sys2Proof.Machine
end

