-- ==== Sys2Proof/Machine/Record.lean ====
section
/-! DEFINITION. The launch record and the dependence map as bytes, what refuses them, and the boxes of a dependence
(R8 to R19, R25 to R28). -/

namespace Sys2Proof.Machine

/-- A level entry (R18). -/
def LevelEntry.ofBytes (bs : List Byte) : LevelEntry :=
  { ex := fieldOf bs 0 4, ey := fieldOf bs 4 2, ez := fieldOf bs 6 2, domain := fieldOf bs 8 1, scope := fieldOf bs 9 1 }

/-- The level entries of a record that NLEV counts. -/
def levelsOf (bs : List Byte) : List LevelEntry :=
  (List.range (min 8 (fieldOf bs 0x0C 1))).map (fun k => LevelEntry.ofBytes (bs.drop (0x10 + 16 * k)))

/-- Every must-be-zero field of a record is zero, and so is each field that R17 leaves unread. -/
def recordZero (bs : List Byte) : Bool :=
  let f : BitVec 16 := BitVec.ofNat 16 (fieldOf bs 0x0E 2)
  let n := min 8 (fieldOf bs 0x0C 1)
  decide (fieldOf bs 0x0D 1 < 4) && f.extractLsb' 6 10 == 0 && decide (fieldOf bs 0x9F 1 < 8) && zeroAt bs 0xA5 3 &&
    zeroAt bs 0xAC 4 && zeroAt bs 0xD0 48 &&
    (List.range n).all (fun k => zeroAt bs (0x1A + 16 * k) 6) && zeroAt bs (0x10 + 16 * n) (16 * (8 - n)) &&
    (f.getLsbD 4 || zeroAt bs 0xA8 4) && (f.getLsbD 3 || zeroAt bs 0xB8 8) &&
    (fieldOf bs 0xA4 1 != 0 || zeroAt bs 0xB0 8) && (fieldOf bs 0x98 2 != 0 || zeroAt bs 0x90 8)

/-- A launch record from its 256 bytes (R16, R17). -/
def LaunchRec.ofBytes (bs : List Byte) : LaunchRec :=
  { codebase := BitVec.ofNat 64 (fieldOf bs 0 8), entry := BitVec.ofNat 32 (fieldOf bs 8 4), nlev := fieldOf bs 0x0C 1,
    prio := fieldOf bs 0x0D 1 % 4, flags := BitVec.ofNat 16 (fieldOf bs 0x0E 2), levels := levelsOf bs,
    param := BitVec.ofNat 64 (fieldOf bs 0x90 8), psize := fieldOf bs 0x98 2, regs := fieldOf bs 0x9A 2,
    tiles := fieldOf bs 0x9C 2, preds := fieldOf bs 0x9E 1, maxrel := fieldOf bs 0x9F 1 % 8, scratch := fieldOf bs 0xA0 2,
    slots := fieldOf bs 0xA2 2, depcount := fieldOf bs 0xA4 1, proentry := BitVec.ofNat 32 (fieldOf bs 0xA8 4),
    depmap := BitVec.ofNat 64 (fieldOf bs 0xB0 8), start := BitVec.ofNat 64 (fieldOf bs 0xB8 8),
    complete := BitVec.ofNat 64 (fieldOf bs 0xC0 8), bitmap := BitVec.ofNat 64 (fieldOf bs 0xC8 8), zero := recordZero bs }

/-- Flags of a record (R17). -/
def LaunchRec.relaunchable (r : LaunchRec) : Bool := r.flags.getLsbD 0
def LaunchRec.pod (r : LaunchRec) : Bool := r.flags.getLsbD 1
def LaunchRec.hardCancel (r : LaunchRec) : Bool := r.flags.getLsbD 2
def LaunchRec.timed (r : LaunchRec) : Bool := r.flags.getLsbD 3
def LaunchRec.prologue (r : LaunchRec) : Bool := r.flags.getLsbD 4
def LaunchRec.persistent (r : LaunchRec) : Bool := r.flags.getLsbD 5

/-! ### The checks of R25 -/

/-- Reason 0x02: alignment. -/
def LaunchRec.aligned (r : LaunchRec) : Bool :=
  decide (r.codebase.toNat % 256 = 0) && decide (r.param.toNat % 64 = 0) && decide (r.depmap.toNat % 16 = 0) &&
    decide (r.complete.toNat % 32 = 0) && decide (r.bitmap.toNat % 8 = 0)

/-- Reason 0x03: NLEV, level 0, and the group level (R8, R10 items 1 and 2). -/
def LaunchRec.lowLevels (r : LaunchRec) : Bool :=
  decide (4 ≤ r.nlev ∧ r.nlev ≤ 8) && r.levels[0]? == some ⟨1, 1, 1, 0, 0⟩ &&
    ((r.levels[1]?.map (fun e => e.domain == 1)).getD false) &&
    (r.width == 8 || r.width == 16 || r.width == 32 || r.width == 64)

/-- Each level against the one below it. -/
def rises (key : LevelEntry → Nat) : List LevelEntry → Bool
  | a :: b :: rest => decide (key a ≤ key b) && rises key (b :: rest)
  | _ => true

/-- Reason 0x04: domains (R10 items 2, 3, 5, 6). -/
def LaunchRec.domains (r : LaunchRec) : Bool :=
  let up := r.levels.drop 2
  let top := (r.levels.getLast?.map LevelEntry.domain).getD 0
  let n := r.levels.length
  rises LevelEntry.domain (r.levels.drop 1) && up.all (fun e => decide (2 ≤ e.domain ∧ e.domain ≤ 6)) &&
    up.any (fun e => e.domain == 2) && (top == 5 || top == 6) &&
    (r.levels.zipIdx.all (fun (e, k) => e.domain != 5 || k + 1 == n || (k + 2 == n && top == 6)))

/-- Reason 0x05: scopes (R10 item 4). -/
def LaunchRec.scopes (r : LaunchRec) : Bool :=
  rises LevelEntry.scope r.levels && r.levels.all (fun e => decide (e.domain ≤ e.scope ∧ e.scope ≤ 7))

/-- Reason 0x06: extents and the grid's limits (R10 items 7 to 9, R13). -/
def LaunchRec.extents (r : LaunchRec) : Bool :=
  let (gx, gy, gz) := r.grid
  r.levels.all (fun e => e.ex != 0 && e.ey != 0 && e.ez != 0) && decide (r.threads ≤ 1024) && decide (gx < 2 ^ 32) &&
    decide (gy < 65536) && decide (gz < 65536) && decide (gx * gy * gz < 2 ^ 32)

/-- Reason 0x07: declarations (R16, R19, R23, R36). R25's table names no code for a DEPCOUNT above 4: that it is 0x07 is the model's
choice (log entry 116, DESIGN CHOICE). -/
def LaunchRec.resources (r : LaunchRec) (ring : Bool) : Bool :=
  decide (r.psize ≤ 4096 ∧ r.psize % 4 = 0) && decide (8 ≤ r.regs ∧ r.regs ≤ 256 ∧ r.regs % 8 = 0) && decide (r.tiles ≤ 256) &&
    decide (16 ≤ r.preds ∧ r.preds ≤ 128 ∧ r.preds % 16 = 0) && decide (r.scratch ≤ 384) && decide (r.slots ≤ 768) &&
    decide (r.depcount ≤ 4) && !(r.relaunchable && r.maxrel == 0) && (ring || r.complete != 0)

/-- A term of bpc (R15). -/
def share (have' need cap : Nat) : Nat := if need = 0 then cap else min cap (have' / need)

/-- bpc: the blocks that fit one core (R15). -/
def LaunchRec.bpc (r : LaunchRec) : Nat :=
  let t := r.threads
  share Config.tilesPerCore r.tiles (share Config.granulesPerCore r.scratch (share Config.regsPerCore (t * r.regs)
    (share Config.groupsPerCore (t / r.width) (share Config.threadsPerCore t Config.blocksPerCore))))

/-- Reason 0x09: each gang fits an empty cluster or die of so many clusters (R15). -/
def LaunchRec.gangsFit (r : LaunchRec) (dieClusters : Nat) : Bool :=
  r.levels.zipIdx.all (fun (e, k) =>
    let n := r.blocksIn k
    if k ≤ r.blockLevel then true
    else if e.domain = 3 then decide (n ≤ 4 * r.bpc ∧ n * r.slots ≤ Config.slotsPerCluster)
    else if e.domain = 4 then decide (n ≤ 4 * dieClusters * r.bpc)
    else true)

/-- A box rule from its 8 bytes (R27). -/
def BoxRule.ofBytes (bs : List Byte) : BoxRule :=
  let s (o : Nat) : Int := (BitVec.ofNat 16 (fieldOf bs o 2)).toInt
  { mul := s 0, lo := s 2, hi := s 4, shift := fieldOf bs 6 1, src := fieldOf bs 7 1 }

/-- A dependence entry from its 48 bytes. -/
def Dep.ofBytes (bs : List Byte) : Dep :=
  { pbmap := BitVec.ofNat 64 (fieldOf bs 0 8), pgx := fieldOf bs 8 4, pgy := fieldOf bs 12 2, pgz := fieldOf bs 14 2,
    dims := (List.range 3).map (fun d => BoxRule.ofBytes (bs.drop (0x10 + 8 * d))) }

/-- An entry breaks no rule of R27. Log entry 71 (DEDUCED). -/
def Dep.ok (d : Dep) : Bool :=
  d.pbmap != 0 && decide (d.pbmap.toNat % 8 = 0) && d.pgx != 0 && d.pgy != 0 && d.pgz != 0 &&
    d.dims.all (fun r => decide (r.shift ≤ 31 ∧ r.src ≤ 2))

/-- The grid's own reasons, which a prologue's LEND examines again (R42): R10 to R15 and R27. -/
def LaunchRec.gridReason (r : LaunchRec) (deps : List Dep) : Nat :=
  if !r.lowLevels then 3
  else if !r.domains then 4
  else if !r.scopes then 5
  else if !r.extents then 6
  else if r.bpc = 0 then 8
  else if !r.gangsFit 16 then 9
  else if !deps.all Dep.ok then 11
  else 0

/-- The least reason code that refuses a record, or 0 (R25). `ring` says that a completion ring exists for COMPLETE = 0,
`inPod` that the device is in a pod, and `dmap` are the entries of the dependence map as bytes. -/
def refusal (bs : List Byte) (dmap : List (List Byte)) (ring inPod : Bool) : Nat :=
  let r := LaunchRec.ofBytes bs
  let top := (r.levels.getLast?.map LevelEntry.domain).getD 0
  if !r.zero || dmap.any (fun d => !zeroAt d 0x28 8) then 1
  else if !r.aligned then 2
  else if !r.lowLevels then 3
  else if !r.domains then 4
  else if !r.scopes then 5
  else if !r.extents then 6
  else if !r.resources ring then 7
  else if r.bpc = 0 then 8
  else if !r.gangsFit 16 then 9
  else if r.pod != (top == 6) || (r.pod && !inPod) then 10
  else if !(dmap.map Dep.ofBytes).all Dep.ok then 11
  else 0

/-- Addresses of the dependence map's entries, where the record lets the device read it. -/
def LaunchRec.depAddrs (r : LaunchRec) : List W64 :=
  if 1 ≤ r.depcount ∧ r.depcount ≤ 4 ∧ r.depmap.toNat % 16 = 0 then
    (List.range r.depcount).map (fun k => r.depmap + BitVec.ofNat 64 (48 * k))
  else []

/-! ### Boxes (R27) -/

/-- lo and hi of one dimension. -/
def BoxRule.range (r : BoxRule) (extent : Nat) (b : Nat × Nat × Nat) : Int × Int :=
  let c : Int := if r.src = 0 then b.1 else if r.src = 1 then b.2.1 else b.2.2
  (max 0 ((c * r.mul + r.lo) / (2 ^ r.shift : Nat)), min ((extent : Int) - 1) ((c * r.mul + r.hi) / (2 ^ r.shift : Nat)))

/-- The coordinates lo to hi. -/
def between (lo hi : Int) : List Nat := (List.range (hi - lo + 1).toNat).map (fun i => lo.toNat + i)

/-- Bit indices of the producer's bitmap that a consumer block waits for. -/
def Dep.bits (d : Dep) (b : Nat × Nat × Nat) : List Nat :=
  let rule (i : Nat) := d.dims.getD i ⟨0, 0, 0, 0, 0⟩
  let x := (rule 0).range d.pgx b
  let y := (rule 1).range d.pgy b
  let z := (rule 2).range d.pgz b
  (between z.1 z.2).flatMap (fun k => (between y.1 y.2).flatMap (fun j =>
    (between x.1 x.2).map (fun i => i + d.pgx * (j + d.pgy * k))))

end Sys2Proof.Machine
end

