-- ==== Sys2Proof/Machine/Sections.lean ====
section
/-! DEFINITION. Forwarding atomic sections: FXB, FXE, FXA and FXS, and the events of the tracker (R315 to R331). -/

namespace Sys2Proof.Machine

/-! ### The status image (R319) -/

def FxState.code : FxState → Nat
  | .opened => 1
  | .ended => 2
  | .committed => 3
  | .aborted => 4

/-- The image of a section whose DEPTH is given. -/
def Section.image (x : Section) (depth : Nat) : W32 :=
  BitVec.ofNat 32 (2 ^ 30 + x.slot * 2 ^ 24 + x.other.isSome.toNat * 2 ^ 22 + x.other.getD 0 * 2 ^ 16 + depth * 2 ^ 8 +
    x.cause * 2 ^ 4 + x.state.code)

/-- The image of a section as it stands. -/
def State.fxImage (s : State) (x : Section) : W32 :=
  x.image (if x.live then s.fxDepth x.cluster 64 x.slot else 0)

/-- Vstatus takes an image, which is no bypassed result (R316). -/
def Thread.vstatus (t : Thread) (r : Option Nat) (v : W32) : Thread :=
  match r with
  | some n => t.setReg n v
  | none => t

/-- The end of a section is delivered: its image is kept and written, and its slot is free (R317, R330). -/
def State.deliverSection (s : State) (x : Section) : State :=
  let v := s.fxImage x
  ({ s with sections := s.sections.filter (fun y => !(y.cluster == x.cluster && y.slot == x.slot)) } : State).mapThread
    x.blk x.tidx (fun t => { t.vstatus x.vstatus v with fxLast := v })

/-! ### FXB (R316, R332) -/

/-- Free slots of a cluster's tracker, ascending. Log entry 43 (DEDUCED). -/
def State.fxFree (s : State) (c : Nat) : List Nat :=
  (List.range 64).filter (fun k => !s.sections.any (fun x => x.cluster == c && x.slot == k))

/-- The FXBs of a cluster that wait for a slot and issued before a stamp. -/
def State.fxAhead (s : State) (c stamp : Nat) : Nat :=
  (s.blocks.map (fun e => if e.2.cluster = c then
    (e.2.threads.filter (fun t => match t.wait with
      | some (.fxSlot n) => decide (n < stamp)
      | _ => false)).length else 0)).sum

/-- A section opens in a slot. -/
def State.openSection (s : State) (e : Env) (w : Word) (slot : Nat) : State :=
  let x : Section := { cluster := e.blk.cluster, slot := slot, blk := e.blk.id, tidx := e.th.tidx, state := .opened,
                       target := e.th.pc + w.imm, vstatus := e.th.named w.d, preds := [], consumes := [], waitsOn := [],
                       reads := [], writes := [], cause := 0, other := none, ended := 0 }
  ({ s with sections := s.sections ++ [x] } : State).mapThread e.blk.id e.th.tidx (fun t => t.vstatus x.vstatus (x.image 0))

/-- FXB takes the lowest free slot (R332), and waiting FXBs take freed slots in the order they issued (R316).
Log entries 43 (DEDUCED), 44 (DEDUCED). -/
def execFxb (w : Word) (s : State) : Host.Outcome State Fault Refusal :=
  runWord (planOf (.fxb w) w) (fun _ e s =>
    let s0 := match s.sectionOf e.blk.id e.th.tidx with
      | some x => if x.state == FxState.committed then s.deliverSection x else s
      | none => s
    let free := s0.fxFree e.blk.cluster
    let stamp := match e.th.wait with
      | some (.fxSlot n) => n
      | _ => s0.seq
    if (s0.sectionOf e.blk.id e.th.tidx).isSome then .stay s0
    else if free = [] ∨ s0.fxAhead e.blk.cluster stamp ≠ 0 then
      .stay (({ s0 with seq := s0.seq + 1 } : State).hold e.blk.id e.th.tidx (.fxSlot stamp))
    else .done (s0.openSection e w (free.headD 0)) (e.th.pc + 1))
    (fun _ _ s => s) s

/-! ### FXE, FXA, FXS (R317, R318) -/

/-- FXE ends the section and waits; after the commit it passes. -/
def execFxe (w : Word) (s : State) : Host.Outcome State Fault Refusal :=
  runWord (planOf (.fxe w) w) (fun _ e s =>
    match s.sectionOf e.blk.id e.th.tidx with
    | none => .trap s (mkTrap 1 10 e.th.pc) 0
    | some x =>
      match x.state with
      | .committed => .done (s.deliverSection x) (e.th.pc + 1)
      | .aborted => .stay s
      | .ended => .stay (s.hold e.blk.id e.th.tidx .fxCommit)
      | .opened => .stay ((({ s with seq := s.seq + 1 } : State).mapSection x.cluster x.slot (fun y => { y with
          state := .ended, ended := s.seq, waitsOn := [] })).hold e.blk.id e.th.tidx .fxCommit)) (fun _ _ s => s) s

/-- FXA aborts the section; a STEP due after it is deferred with the others (R330), and its YLD acts (R116). -/
def execFxa (w : Word) (s : State) : Host.Outcome State Fault Refusal :=
  runWord (planOf (.fxa w) w) (fun _ e s =>
    match s.sectionOf e.blk.id e.th.tidx with
    | none => .done s (e.th.pc + 1)
    | some x =>
      match x.state with
      | .committed => .done s (e.th.pc + 1)
      | .aborted => .stay s
      | _ =>
        let due := ((e.blk.group? e.gid).map Group.step).getD false && !e.th.inTrap
        .stay ((s.abortSection x.cluster x.slot 1 none).mapThread e.blk.id e.th.tidx (fun t =>
          let t1 : Thread := { t with stepDue := t.stepDue || due }
          if w.hnt.yld then t1.yields else t1))) (fun _ _ s => s) s

/-- Log entry 44 (DEDUCED). -/
def execFxs (w : Word) (s : State) : Host.Outcome State Fault Refusal :=
  runAlu (.fxs w) w (fun s e => .ok { regs := some [
    match s.sectionOf e.blk.id e.th.tidx with
    | some x => s.fxImage x
    | none => e.th.fxLast] }) s

/-! ### Tracker events -/

/-- A section is ready to commit (R325): it has ended, every predecessor has committed, and the earlier stores and atomics
of its thread have been performed, since the commit is a release side (R310). Log entry 45 (DEDUCED). -/
def State.fxReady (s : State) (x : Section) : Bool :=
  x.state == .ended && x.preds.isEmpty && ((s.thread? x.blk x.tidx).map Thread.written).getD true

/-- The section whose turn it is in a cluster: of those ready, the first that executed FXE. -/
def State.fxTurn (s : State) (c : Nat) : Option Section :=
  (s.sections.filter (fun x => x.cluster == c && s.fxReady x)).foldl
    (fun best x => match best with
      | none => some x
      | some b => if x.ended < b.ended then some x else some b) none

/-- The bytes that a section commits: each at its newest version (R325). -/
def State.fxBytes (s : State) (c k : Nat) : List (Nat × Byte) :=
  (s.versions.filter (fun v => v.cluster == c && v.slot == k)).foldl
    (fun m v => v.bytes.foldl (fun m e => NMap.insert m e.1 e.2) m) []

/-- Bytes in ascending order as runs of consecutive ones. -/
def byteRuns : List (Nat × Byte) → List (Nat × List Byte)
  | [] => []
  | (k, x) :: rest =>
    match byteRuns rest with
    | (k', xs) :: more => if k' = k + 1 then (k, x :: xs) :: more else (k, [x]) :: (k', xs) :: more
    | [] => [(k, [x])]

/-- A section commits in one step (R325): its bytes are written on the CORE path, and a sector that they cover whole is clean
(R350). -/
def State.commitSection (s : State) (x : Section) : State :=
  let core := (s.block? x.blk).map Block.coreId
  let s1 := (byteRuns (s.fxBytes x.cluster x.slot)).foldl (fun s e =>
    (s.note 0 e.1 (s.bytes e.1 e.2.length) .core).rawWrite core e.1 e.2) s
  let s1 := s1.credit s.lastWrite core [(.thread x.blk x.tidx, s.seq)]
  { s1 with
    versions := s1.versions.filter (fun v => !(v.cluster == x.cluster && v.slot == x.slot)),
    sections := s1.sections.map (fun (y : Section) =>
      if y.cluster ≠ x.cluster then y
      else if y.slot = x.slot then { y with state := .committed }
      else { y with preds := y.preds.filter (fun k => k != x.slot), waitsOn := y.waitsOn.filter (fun k => k != x.slot),
                    consumes := y.consumes.filter (fun k => k != x.slot) }) }

/-- An event that is not enabled changes nothing but the place in the stream of free values. -/
def State.tick (s : State) : State := { s with free := s.free + 1024 }

def execSectionCommit (cluster slot : Nat) (s : State) : Host.Outcome State Fault Refusal :=
  match s.fxTurn cluster with
  | some x => .next (if x.slot = slot then s.commitSection x else s).tick
  | none => .next s.tick

/-- A thread learns that its section has aborted (R330): Vstatus is written, the PC goes to the abort target, and a STEP
that was deferred is taken there. -/
def State.deliverAbort (s : State) (b : Block) (t : Thread) (x : Section) : State :=
  let s1 := (s.deliverSection x).mapThread b.id t.tidx (fun t => { t with pc := x.target, wait := none, stepDue := false })
  if t.stepDue && !t.inTrap then s1.takeTrap b.id t.tidx (mkTrap 0x0F 0 x.target) else s1

/-- The thread can issue, so an abort can be delivered. In a partition that is halting, one with a TRN result in a slot
still issues up to three words (R354). -/
def State.canIssue (s : State) (b : Block) (t : Thread) : Bool :=
  (b.stage == .running || b.stage == .stopping || b.stage == .saving || b.stage == .restoring || b.stage == .prologue) &&
    t.life == .live &&
    t.trap.isNone && !((b.group? (b.gidOf t.tidx)).map Group.desched).getD false &&
    match s.partitionOf b.cluster with
    | some n => (!(s.partition n).halt || (t.trn.contains true && decide (t.trnWords < 3))) &&
        !(s.partition n).halted && (s.partition n).actx == some b.decl.ctx
    | none => b.stage == .prologue

/-- A remote wait has lasted 4096 cc (R329). -/
def execRemotePatienceExpired (blk tidx : Nat) (s : State) : Host.Outcome State Fault Refusal :=
  match s.thread? blk tidx, s.sectionOf blk tidx with
  | some t, some x =>
    match t.wait with
    | some (.fxRemote _ _ _) => .next (s.abortSection x.cluster x.slot 6 none).tick
    | _ => .next s.tick
  | _, _ => .next s.tick

end Sys2Proof.Machine
end

