-- ==== Sys2Proof/Machine/Completion.lean ====
section
/-! DEFINITION. Completion: the bits of a grid's bitmap, the end of a launch or of a pass, the fault summary and the completion
record, and completion rings (R24, R26, R30, R36, R46, R361 to R372). -/

namespace Sys2Proof.Machine

/-! ### Descriptors of host queues (R30) -/

/-- Storage key of the descriptor of queue q. -/
def State.descKey (s : State) (q : Nat) : Nat := physKey 0 ((s.qtbase.extractLsb' 14 50).toNat * 16384 + 64 * q)

/-- The descriptor of queue q as it stands in memory. -/
def State.descBytes (s : State) (q : Nat) : List Byte := s.bytes (s.descKey q) 64

/-- Fields of a descriptor. -/
def descSq (d : List Byte) : Nat := fieldOf d 0 8
def descCq (d : List Byte) : Nat := fieldOf d 8 8
def descSqSize (d : List Byte) : Nat := 2 ^ fieldOf d 0x10 1
def descCqSize (d : List Byte) : Nat := 2 ^ fieldOf d 0x11 1
def descCtx (d : List Byte) : Nat := fieldOf d 0x12 1
def descEnable (d : List Byte) : Bool := fieldOf d 0x13 1 % 2 == 1
def descDevq (d : List Byte) : Bool := fieldOf d 0x13 1 / 2 % 2 == 1
def descHalted (d : List Byte) : Bool := fieldOf d 0x18 1 / 2 % 2 == 1

/-- Every must-be-zero field is zero, and sizes and alignments are in range. -/
def descOk (d : List Byte) : Bool :=
  decide (descSq d % 64 = 0) && decide (descCq d % 32 = 0) && decide (4 ≤ fieldOf d 0x10 1 ∧ fieldOf d 0x10 1 ≤ 16) &&
    decide (4 ≤ fieldOf d 0x11 1 ∧ fieldOf d 0x11 1 ≤ 16) && decide (descCtx d ≤ 15) && decide (fieldOf d 0x13 1 < 4) &&
    decide (fieldOf d 0x18 1 < 4) && zeroAt d 0x19 39

/-- STATUS bits are set in a descriptor. -/
def State.descError (s : State) (q bits : Nat) : State :=
  s.write none (s.descKey q + 0x18) (leBytes 1 (fieldOf (s.descBytes q) 0x18 1 ||| bits))

/-- ERR and HALTED are set, and the queue is served no further (R30, R31). -/
def State.haltQueue (s : State) (q : Nat) : State :=
  (s.descError q 3).mapQueue q (fun x => { x with live := false })

/-- The device-launch queue of a context (R30): the lowest-numbered enabled descriptor with DEVQ. -/
def State.devq (s : State) (ctx : Nat) : Option Nat :=
  if !s.qtbase.getLsbD 0 then none
  else (List.range 256).find? (fun q =>
    let d := s.descBytes q
    descOk d && descEnable d && descDevq d && descCtx d == ctx)

/-- Other enabled descriptors of the context with DEVQ take ERR. -/
def State.markDevqs (s : State) (ctx : Nat) : State :=
  match s.devq ctx with
  | none => s
  | some first => (List.range 256).foldl (fun s q =>
      let d := s.descBytes q
      if q ≠ first ∧ descOk d = true ∧ descEnable d = true ∧ descDevq d = true ∧ descCtx d = ctx then s.descError q 1
      else s) s

/-- A queue is taken up at a doorbell: SQHEAD and CQTAIL as written are the new head and tail, and the last tail and HEAD.
Log entry 72 (DEDUCED). -/
def takeUp (x : Queue) (d : List Byte) : Queue :=
  { x with live := true, desc := d, sqhead := fieldOf d 0x14 2, cqtail := fieldOf d 0x16 2, tail := fieldOf d 0x14 2,
           head := fieldOf d 0x16 2, blocked := false, podWait := false, broken := false }

/-- The descriptor is read anew, as it is at every doorbell: the queue is in service after it, if it may be. None is read while V of
QTBASE is 0 (R30). -/
def State.readDesc (s : State) (q : Nat) : Option State :=
  let d := s.descBytes q
  let x := s.queue q
  if !s.qtbase.getLsbD 0 || !descOk d || !descEnable d then none
  else if descHalted d then none
  else if !x.live || x.sqhead != fieldOf d 0x14 2 || x.cqtail != fieldOf d 0x16 2 then
    some (s.mapQueue q (fun x => takeUp x d))
  else some (s.mapQueue q (fun x => { x with desc := d }))

/-! ### Device writes of a completion (R367) -/

/-- What became of a device write: made, waiting for a page, or refused. -/
inductive Wrote where
  | made (s : State)
  | waits (s : State)
  | refused (cause : Nat)

/-- A completion write of a launch in a context. A miss posts a page request, and the write waits for the answer; a page that has just
been refused refuses it (R349). -/
def State.deviceWrite (s : State) (ctx lid va : Nat) (bs : List Byte) (w : Waiter) (bad : Option Nat) : Wrote :=
  if (s.ctx ctx).requests.any (fun q => q.page == va / 65536 && !q.perm && q.waiters.contains w) then .waits s
  else match s.writeVirt ctx va bs with
  | .ok s' => .made s'
  | .error (5, _) =>
    if bad = some (va / 65536) then .refused 5
    else match s.pageRequest ctx va 5 (2 + 8 + 16) lid [w] with
      | some s' => .waits s'
      | none => .refused 5
  | .error (c, _) => .refused c

/-! ### Completion bits (R26, R361, R367) -/

/-- The pass that runs is the one that ends the launch. -/
def Launch.ending (l : Launch) : Bool := decide (l.passes ≤ l.pass) || l.cancelled || l.faulted || l.state == .done

/-- The logical name of a bit of the bitmap. -/
def Launch.blockAt (l : Launch) (i : Nat) : Nat × Nat × Nat :=
  let (gx, gy, _) := l.record.grid
  (i % gx, i / gx % gy, i / (gx * gy))

/-- A bit that cannot be written ends the launch FAULTED and counts as one fault; one refused after this Spur's final report is kept for
the record that the Spur may have to write (R367). Log entry 73 (DEDUCED). -/
def State.bitFault (s : State) (l : Launch) (i va cause : Nat) : State :=
  let (x, y, z) := l.blockAt i
  let e : FaultEntry :=
    { bx := x, by' := y, bz := z, tidx := 0, cause := cause, eflags := 16, detail := 0x10#32, faddr := BitVec.ofNat 64 va,
      ptime := s.ptime, pc := 0, dev := s.pod.index, attempt := 0 }
  s.mapLaunch l.lid (fun l => { l.addFault e with
    faulted := true, late := if (NMap.lookup l.reports s.pod.index).isSome then l.late ++ [e] else l.late })

/-- One bit of a launch is set in its bitmap, by OR, or waits. -/
def State.setBit (s : State) (lid : Nat) (bad : Option Nat) (i : Nat) : State :=
  match s.launch? lid with
  | none => s
  | some l =>
    let va := l.record.bitmap.toNat + i / 8
    let done (s : State) : State := s.mapLaunch lid (fun l =>
      { l with bits := l.bits.filter (fun k => k != i), remote := l.remote.filter (fun k => k != i), marked := if l.marked.contains i then l.marked else l.marked ++ [i] })
    let old := match s.xlate [] l.ctx va Need.store true (s.pick 901) with
      | .ok x => s.word x.key 1
      | .error _ => 0
    if l.record.bitmap = 0 then done s
    else match s.deviceWrite l.ctx lid va (leBytes 1 (old ||| 2 ^ (i % 8))) (.bits lid) bad with
      | .made s' => done s'
      | .waits s' => s'
      | .refused c => done (s.bitFault l i va c)

/-- The bits of a launch whose pass ends it are written, and those that other devices have sent. -/
def State.flushBits (s : State) (lid : Nat) (bad : Option Nat) : State :=
  match s.launch? lid with
  | none => s
  | some l => (l.remote ++ if l.ending then l.bits else []).foldl (fun s i => s.setBit lid bad i) s

/-! ### Reports (R364 to R366, R370, R372) -/

/-- Entries in the order of R372. -/
def faultBefore (a b : FaultEntry) : Bool :=
  let ka := [a.ptime.toNat, a.dev, a.bz, a.by', a.bx, a.tidx]
  let kb := [b.ptime.toNat, b.dev, b.bz, b.by', b.bx, b.tidx]
  decide (ka < kb)

/-- An entry put in its place. -/
def insertFault (e : FaultEntry) : List FaultEntry → List FaultEntry
  | [] => [e]
  | x :: xs => if faultBefore e x then e :: x :: xs else x :: insertFault e xs

/-- The first 64 entries, ordered. -/
def firstFaults (es : List FaultEntry) : List FaultEntry := (es.foldl (fun l e => insertFault e l) []).take 64

def faultBytes (e : FaultEntry) : List Byte :=
  leBytes 4 e.bx ++ leBytes 2 e.by' ++ leBytes 2 e.bz ++ leBytes 2 e.tidx ++ leBytes 1 e.cause ++ leBytes 1 e.eflags ++
    leBytes 4 e.detail.toNat ++ leBytes 8 e.faddr.toNat ++ leBytes 8 e.ptime.toNat ++ leBytes 4 e.pc.toNat ++
    leBytes 1 e.dev ++ leBytes 1 e.attempt ++ leBytes 2 0

/-- A fault summary (R370). -/
def Report.summary (r : Report) (seq : Nat) : List Byte :=
  let es := firstFaults r.faults
  leBytes 4 seq ++ leBytes 4 r.lid ++ leBytes 4 r.total ++ leBytes 1 es.length ++
    leBytes 1 ((decide (64 < r.total)).toNat + 2 * r.podLost.toNat) ++ List.replicate 50 0 ++
    ((List.range 32).map (fun c => leBytes 4 ((NMap.lookup r.counts c).getD 0))).flatten ++ (es.map faultBytes).flatten ++
    List.replicate (4096 - 0xC0 - 40 * es.length) 0

/-- The completion record (R364). -/
def Report.record (r : Report) : List Byte :=
  leBytes 4 r.lid ++ leBytes 1 r.status ++
    leBytes 1 (r.cflags + 4 * r.sum.isSome.toNat + 8 * (decide (r.total ≠ 0) && r.sum.isNone).toNat) ++
    leBytes 2 (min r.passes 65535) ++ leBytes 4 r.done ++ leBytes 4 r.killed ++ leBytes 4 r.never ++
    leBytes 4 (r.sum.getD 0xFFFFFFFF) ++ leBytes 8 r.ptime.toNat

/-- SEQ of a context's summary area, its LOG and its address (R369). -/
def Context.fsSeq (c : Context) : Nat := (c.fsCtl.extractLsb' 0 32).toNat
def Context.fsSlot (c : Context) : Nat :=
  (c.fsBase.extractLsb' 12 52).toNat * 4096 + 4096 * (c.fsSeq % 2 ^ (c.fsCtl.extractLsb' 32 5).toNat)

def State.advanceFs (s : State) (ctx : Nat) : State :=
  s.mapCtx ctx (fun c => { c with fsCtl := c.fsCtl.extractLsb' 32 32 ++ (c.fsCtl.extractLsb' 0 32 + 1) })

/-- Records that wait are written into the completion ring while it has room: the slot, then CQTAIL; once the
ring has refused one, those behind it are lost until the queue is enabled again (R36, R367). -/
def State.flushQueue : Nat → State → Nat → Option Nat → State
  | 0, s, _, _ => s
  | n + 1, s, q, bad =>
    let x := s.queue q
    let size := descCqSize x.desc
    match x.pending with
    | [] => s
    | r :: rest =>
      if x.broken then s.mapQueue q (fun x => { x with pending := [] })
      else if !s.qtbase.getLsbD 0 || !descOk x.desc || !descEnable (s.descBytes q) || (x.cqtail + 1) % size = x.head then s
      else match s.deviceWrite (descCtx x.desc) (fieldOf r 0 4) (descCq x.desc + 32 * x.cqtail) r (.ring q) bad with
        | .waits s' => s'
        | .refused _ => (s.haltQueue q).mapQueue q (fun x => { x with pending := [], broken := true })
        | .made s' =>
          let tail := (x.cqtail + 1) % size
          ((s'.mapQueue q (fun x => { x with cqtail := tail, pending := rest })).write none (s'.descKey q + 0x16)
            (leBytes 2 tail)).flushQueue n q bad

/-- As many records as wait are written. -/
def State.flushRing (s : State) (q : Nat) (bad : Option Nat) : State := s.flushQueue (s.queue q).pending.length q bad

/-- A record goes to the end of a queue's completion ring. -/
def State.ringRecord (s : State) (q : Option Nat) (r : List Byte) (bad : Option Nat) : State :=
  match q with
  | none => s
  | some q =>
    let s1 := if (s.queue q).desc.isEmpty then (s.readDesc q).getD s else s
    (s1.mapQueue q (fun x => { x with pending := x.pending ++ [r] })).flushRing q bad

def State.mapReport (s : State) (id : Nat) (f : Report → Report) : State :=
  { s with reports := s.reports.map (fun r => if r.id = id then f r else r) }

/-- The summary of a report is written, dropped, or waits (R366, R367, R369). Log entry 73 (DEDUCED). -/
def State.summarise (s : State) (r : Report) (bad : Option Nat) : State :=
  let c := s.ctx r.ctx
  let skip (s : State) : State := s.mapReport r.id (fun r => { r with summarised := true })
  if r.total = 0 ∨ c.fsBase.extractLsb' 12 52 = 0 then skip s
  else match s.deviceWrite r.ctx r.lid c.fsSlot (r.summary c.fsSeq) (.report r.id) bad with
    | .waits s' => s'
    | .refused _ => (skip s).advanceFs r.ctx
    | .made s' => ((skip s').mapReport r.id (fun r => { r with sum := some c.fsSeq })).advanceFs r.ctx

/-- The record of a report is written, in the order of R366, goes to the ring, or waits. -/
def State.reportRecord (s : State) (r : Report) (bad : Option Nat) : State :=
  let drop (s : State) : State := { s with reports := s.reports.filter (fun x => x.id != r.id) }
  if r.complete = 0 then drop (s.ringRecord r.queue r.record bad)
  else match s.deviceWrite r.ctx r.lid (r.complete + 8) (r.record.drop 8) (.report r.id) bad with
    | .waits s' => s'
    | .refused _ => drop (s.ringRecord (r.queue.or (s.devq r.ctx)) r.record bad)
    | .made s' =>
      match s'.writeVirt r.ctx r.complete (r.record.take 8) with
      | .ok s'' => drop s''
      | .error _ => drop s'

/-- A report goes as far as it can. -/
def State.advanceReport (s : State) (id : Nat) (bad : Option Nat) : State :=
  match s.reports.find? (fun r => r.id == id) with
  | none => s
  | some r =>
    let s1 := if r.summarised then s else s.summarise r bad
    match s1.reports.find? (fun r => r.id == id) with
    | none => s1
    | some r => if r.summarised then s1.reportRecord r bad else s1

/-- A refusal of a host-queue submission (R25, R32, R371). -/
def State.refuseEntry (s : State) (q ctx reason : Nat) : State :=
  let e : FaultEntry :=
    { bx := 0, by' := 0, bz := 0, tidx := 0, cause := 0x16, eflags := 0, detail := BitVec.ofNat 32 reason, faddr := 0,
      ptime := s.ptime, pc := 0, dev := s.pod.index, attempt := 0 }
  let r : Report :=
    { id := s.seq, ctx := ctx, lid := 0, queue := some q, complete := 0, status := 3, cflags := 16, passes := 0, done := 0,
      killed := 0, never := 0, ptime := s.ptime, faults := [e], total := 1, counts := [(0x16, 1)], podLost := false,
      summarised := false, sum := none }
  ({ s with seq := s.seq + 1, reports := s.reports ++ [r] } : State).advanceReport r.id none

/-! ### The end of a launch (R42, R46, R362 to R365) -/

/-- STATUS (R365). Log entry 74 (DEDUCED). -/
def Launch.status (l : Launch) : Nat := if l.faulted then 3 else if l.cancelled then 2 else 1

/-- The queue to whose ring a launch's record goes where COMPLETE is 0 or its write is refused (R36, R367). -/
def State.reportQueue (s : State) (l : Launch) : Option Nat :=
  match l.src with
  | .queue q => some q
  | .thread _ _ => s.devq l.ctx
  | .device _ => none

/-- The report of a launch whose end has been decided. A killed or unfinished final pass does not count. -/
def State.reportOf (s : State) (l : Launch) : Report :=
  { id := s.seq, ctx := l.ctx, lid := l.lid, queue := s.reportQueue l, complete := l.record.complete.toNat,
    status := l.status, cflags := (l.hard && (l.cancelled || l.faulted)).toNat + 2 * l.pod.toNat,
    passes := l.passesDone, done := l.done, killed := l.killed, never := l.never, ptime := s.ptime, faults := l.faults,
    total := l.total, counts := l.counts, podLost := l.podLost, summarised := false, sum := none }

/-- A launch ends: its completion time is taken, and its report is made where this device writes it. -/
def State.finishLaunch (s : State) (l : Launch) (writes : Bool) : State :=
  let last := decide (l.killed = 0 ∧ l.never = 0 ∧ l.state ≠ .done)
  let l' := { l with passesDone := l.passesDone + last.toNat, state := .done, completion := some s.ptime }
  let r := s.reportOf l'
  let s1 := s.mapLaunch l.lid (fun _ => l')
  if writes then ({ s1 with seq := s1.seq + 1, reports := s1.reports ++ [r] } : State).advanceReport r.id none else s1

/-- The next pass of a launch begins to be dealt. Bits that other devices have sent are of the pass that ends the launch, and stay
(R361). -/
def Launch.nextPass (l : Launch) : Launch :=
  { l with state := .dealing, pass := l.pass + 1, passesDone := l.passesDone + 1, nextUnit := 0, runs := [], returned := [],
           done := 0, killed := 0, never := 0, bits := [], reports := [], late := [], dealtTo := [], splits := [] }

/-- Every block of the pass that this device answers for is accounted for. -/
def Launch.accounted (l : Launch) : Bool := decide (l.record.blocks ≤ l.done + l.killed + l.never)

/-- The Spur's decision on a device grid: the next pass, the end, or neither yet (R362). -/
def State.decideEnd (s : State) (lid : Nat) : State :=
  match s.launch? lid with
  | none => s
  | some l =>
    if l.pod || l.completion.isSome then s
    else if l.state = .done then s.finishLaunch l true
    else if l.accounted && (l.state == .draining || l.state == .cancelling) then
      if l.state = .draining ∧ l.pass < l.passes ∧ l.faulted = false then s.mapLaunch lid Launch.nextPass
      else if l.bits.isEmpty then s.finishLaunch l true
      else s
    else s

/-- Bits are written and ends are decided for every launch. -/
def State.settleLaunches (s : State) : State :=
  (s.launches.map Launch.lid).foldl (fun s lid => (s.flushBits lid none).decideEnd lid) s

end Sys2Proof.Machine
end

