-- ==== Sys2Proof/Machine/Front.lean ====
section
/-! DEFINITION. The front end: acceptance of launches, the rounds over host queues and LAUNCH requests, and pod submission
(R21, R25, R30 to R38, R40, R41, R47 to R50). -/

namespace Sys2Proof.Machine

/-! ### Acceptance (R37) -/

/-- A launch record as the front end holds it: its 256 bytes, then the bytes of its dependence map. -/
def depsOf (bs : List Byte) : List Dep :=
  (List.range (LaunchRec.ofBytes bs).depcount).map (fun k => Dep.ofBytes (bs.drop (256 + 48 * k)))

/-- The dependence map of such a record, as bytes. -/
def dmapOf (bs : List Byte) : List (List Byte) :=
  (List.range ((LaunchRec.ofBytes bs).depAddrs.length)).map (fun k => (bs.drop (256 + 48 * k)).take 48)

/-- A parameter copy from its bytes (R21). -/
def paramsOfBytes (bs : List Byte) : NMap Byte := bs.zipIdx.foldl (fun m (b, i) => NMap.put 0 m i b) []

/-- A launch as acceptance makes it: in PROLOGUE where the record asks for one, else in HELD (R42). -/
def Launch.make (lid ctx order : Nat) (src : Source) (r : LaunchRec) (lrec : W64) (deps : List Dep) (params : NMap Byte)
    (podSeq home : Nat) : Launch :=
  { lid := lid, ctx := ctx, src := src, record := r, lrec := lrec, deps := deps, params := params,
    state := if r.prologue then .prologue else .held, order := order, pod := r.pod, podSeq := podSeq, home := home,
    hard := false, cancelled := false, faulted := false, podLost := false, passes := 1, pass := 1, passesDone := 0,
    nextUnit := 0, runs := [], returned := [], wants := [], done := 0, killed := 0, never := 0, bits := [], faults := [],
    total := 0, counts := [], reports := [], dealtTo := [], forwarded := false, marked := [], remote := [], late := [], splits := [],
    ridgeLost := false, record0 := r, params0 := params, completion := none }

/-- The launch enters the machine; a completed launch that bore the same id is forgotten. -/
def State.enter (s : State) (l : Launch) : State :=
  { s with seq := s.seq + 1, launches := s.launches.filter (fun x => x.lid != l.lid) ++ [l] }

/-- The acceptance counter after its value n: one whose low 31 bits are zero is skipped. -/
def nextAccepted (n : Nat) : Nat := if (n + 1) % 2 ^ 31 = 0 then n + 2 else n + 1

/-- A device grid is accepted: its launch id, and the state after. -/
def State.accept (s : State) (ctx : Nat) (src : Source) (r : LaunchRec) (lrec : W64) (deps : List Dep)
    (params : NMap Byte) : Nat × State :=
  let lid := s.accepted % 2 ^ 31
  (lid, { s.enter (Launch.make lid ctx s.seq src r lrec deps params 0 s.pod.index) with accepted := nextAccepted s.accepted })

/-- The answer to a thread's LAUNCH (R40). -/
def State.answer (s : State) (blk tidx : Nat) (pc : W32) (lid reason : Nat) : State :=
  { s with answers := s.answers ++ [⟨blk, tidx, pc, lid, reason⟩] }

/-! ### Cancel and kill (R32, R41, R42, R53) -/

/-- The result word of LCTL.cancel and LCTL.kill on a launch id in a context, with the effect. A pod grid is cancelled at
Ridge. -/
def State.cancelBy (s : State) (ctx lid : Nat) (kill : Bool) : Nat × State :=
  match s.launches.find? (fun l => l.lid == lid && l.ctx == ctx) with
  | none => (1, s)
  | some l =>
    let hard := kill || l.record.hardCancel
    if l.state = .done then (2, s)
    else if l.state = .cancelling ∧ (l.hard = true ∨ hard = false) then (3, s)
    else if l.pod && s.pod.ridge != some s.pod.index then (0, s)
    else (0, ((s.cancelLaunch lid hard false).flushBits lid none).decideEnd lid)

/-- The state code of a launch (R42). -/
def LState.code : LState → Nat
  | .prologue => 0
  | .held => 1
  | .dealing => 2
  | .draining => 3
  | .cancelling => 4
  | .done => 5

/-- LCTL.query. -/
def State.query (s : State) (ctx lid : Nat) : Nat :=
  match s.launches.find? (fun l => l.lid == lid && l.ctx == ctx) with
  | none => 1
  | some l => if l.state = .done then 2 else 16 + l.state.code

/-! ### Reading for a queue (R34) -/

/-- Bytes read in pieces, each within one page, or the address and cause of the first that fails. -/
def State.readPieces (s : State) (ctx : Nat) : List (Nat × Nat) → Except (Nat × Nat) (List Byte)
  | [] => .ok []
  | (va, n) :: rest =>
    match s.readVirt ctx va n with
    | .error (c, _) => .error (va, c)
    | .ok bs => (s.readPieces ctx rest).map (fun more => bs ++ more)

/-- Pieces of at most k bytes. -/
def pieces (k va n : Nat) : List (Nat × Nat) :=
  (List.range ((n + k - 1) / k)).map (fun i => (va + k * i, min k (n - k * i)))

/-- What a read for a queue brings: bytes, a wait for a page, or its refusal. -/
inductive QRead where
  | got (bs : List Byte)
  | waits (s : State)
  | failed

/-- A read for queue q. A miss or a refusing leaf posts a request, unless its page has just been refused. -/
def State.queueRead (s : State) (q ctx : Nat) (ps : List (Nat × Nat)) (bad : Option Nat) : QRead :=
  match s.readPieces ctx ps with
  | .ok bs => .got bs
  | .error (va, c) =>
    if bad = some (va / 65536) then .failed
    else match s.pageRequest ctx va c (1 + 8 + 16) 0 [.queue q] with
      | some s' => .waits (s'.mapQueue q (fun x => { x with blocked := true }))
      | none => .failed

/-- SQHEAD passes an entry (R33). While ENABLE is 0, or V of QTBASE, the device writes nothing of the descriptor
(R30, R31). -/
def State.advanceQueue (s : State) (q : Nat) : State :=
  let x := s.queue q
  let h := (x.sqhead + 1) % descSqSize x.desc
  if !s.qtbase.getLsbD 0 || !descEnable (s.descBytes q) then s
  else (s.mapQueue q (fun x => { x with sqhead := h })).write none (s.descKey q + 0x14) (leBytes 2 h)

/-- An earlier launch of the queue has not completed (ORDERED, R32). -/
def State.incomplete (s : State) (q : Nat) : Bool :=
  s.launches.any (fun l => decide (l.src = .queue q) && (l.completion.isNone || s.reports.any (fun r => r.lid == l.lid)))

/-- The record of a pod grid waits in its Spur for Ridge (R49). -/
def State.forward (s : State) (ctx : Nat) (src : Source) (pc : W32) (addr : W64) (bs params : List Byte) : State :=
  { s with pod := { s.pod with outbox := s.pod.outbox ++ [⟨s.seq, 0, ctx, s.pod.index, bs, params, some src, pc, addr⟩] }, seq := s.seq + 1 }

/-- A record may be sent to Ridge. -/
def State.forPod (s : State) (r : LaunchRec) : Bool := r.pod && s.pod.inPod

/-- Bytes of the parameter block that the record lets the device read. -/
def LaunchRec.paramPieces (r : LaunchRec) : List (Nat × Nat) :=
  if r.psize ≤ 4096 ∧ r.param.toNat % 64 = 0 then pieces 64 r.param.toNat r.psize else []

/-- A launch entry of queue q whose ADDR may be read: record, dependence map and, unless something refuses the record (R25), parameters
are read, and the launch is refused, accepted, or sent to Ridge. -/
def State.takeRecord (s : State) (q ctx addr : Nat) (bad : Option Nat) : State :=
  let refuse (s : State) (reason : Nat) : State := (s.refuseEntry q ctx reason).advanceQueue q
  match s.queueRead q ctx (pieces 64 addr 256) bad with
  | .waits s' => s'
  | .failed => refuse s 12
  | .got bs =>
    let r := LaunchRec.ofBytes bs
    let own := refusal bs [] true s.pod.inPod
    let dmap := (r.depAddrs.map (fun a => pieces 16 a.toNat 48)).flatten
    match (if own ≠ 0 ∧ (s.readPieces ctx dmap).toOption = none then .got [] else s.queueRead q ctx dmap bad) with
    | .waits s' => s'
    | .failed => refuse s 12
    | .got ds =>
      let all := bs ++ ds
      let reason := if ds.isEmpty then own else refusal bs (dmapOf all) true s.pod.inPod
      let send (ps : List Byte) : State :=
        (s.forward ctx (.queue q) 0 (BitVec.ofNat 64 addr) all ps).mapQueue q (fun x => { x with podWait := true })
      if reason ≠ 0 then (if s.forPod r then send [] else refuse s reason)
      else match s.queueRead q ctx r.paramPieces bad with
        | .waits s' => s'
        | .failed => refuse s 12
        | .got ps =>
          if s.forPod r then send ps
          else
            ((s.accept ctx (.queue q) r (BitVec.ofNat 64 addr) (depsOf all) (paramsOfBytes ps)).2).advanceQueue q

/-- The blocks of a launch will observe what someone knows (R32, R40). -/
def State.handOn (s : State) (k : Knower) (lid : Nat) : State := s.tellAll (fun e => e.knows k) (.launch lid) 0

/-- What an ORDERED entry has had accepted observes the launches of its queue before it (R32). -/
def State.handQueue (s before : State) (q : Nat) (ordered : Bool) : State :=
  if !ordered then s
  else ((s.launches.filter (fun l => !before.launches.any (fun x => x.lid == l.lid))).map Launch.lid).foldl (fun s lid =>
    s.handOn (.queue q) lid) s

/-- The entry at SQHEAD of queue q is served while the queue is enabled (R30, R31, R32, R34): `only` restricts it to one KIND. R32 does
not say when a malformed entry with ORDERED is refused: that it is refused at once, and the record of a well-formed one read once the
earlier launches have completed, is the model's choice (log entry 117, DESIGN CHOICE). -/
def State.serveEntry (s : State) (q : Nat) (only bad : Option Nat) : State :=
  let x := s.queue q
  let ctx := descCtx x.desc
  if s.fw.down || !s.qtbase.getLsbD 0 || !x.live || x.blocked || x.podWait || x.sqhead == x.tail || !descEnable (s.descBytes q) then s
  else match s.queueRead q ctx [(descSq x.desc + 16 * x.sqhead, 16)] bad with
    | .waits s' => s'
    | .failed => s.haltQueue q
    | .got bs =>
      let addr := fieldOf bs 0 8
      let ctrl := fieldOf bs 8 4
      let kind := ctrl % 4
      let clean := decide (ctrl < 8) && fieldOf bs 12 4 == 0
      if (only.map (fun k => k != kind)).getD false then s
      else if kind = 3 then (s.descError q 1).advanceQueue q
      else if kind = 0 then
        if !clean then (s.refuseEntry q ctx 1).advanceQueue q
        else if addr % 64 ≠ 0 then (s.refuseEntry q ctx 2).advanceQueue q
        else if ctrl / 4 % 2 = 1 ∧ s.incomplete q = true then s
        else (s.takeRecord q ctx addr bad).handQueue s q (ctrl / 4 % 2 == 1)
      else if !clean || decide (2 ^ 32 ≤ addr) then (s.descError q 1).advanceQueue q
      else ((s.cancelBy ctx addr (kind == 2)).2).advanceQueue q

/-! ### Device launches (R35, R40) -/

/-- A LAUNCH request is taken: its parameters are copied (R21), and the grid is accepted and answered. Where they cannot be read any
more, the word runs again and meets the fault (R34). -/
def State.takeRequest (s : State) (q : LaunchReq) : State :=
  let s1 : State := { s with requests := s.requests.filter (fun r => r.id != q.id) }
  match s.readPieces q.ctx q.record.paramPieces with
  | .error _ => s1.mapThread q.blk q.tidx (fun t => if t.wait = some .launch then t.unwait else t)
  | .ok ps =>
    let (lid, s2) := s1.accept q.ctx (.thread q.blk q.tidx) q.record q.addr q.deps (paramsOfBytes ps)
    (s2.handOn (.request q.blk q.tidx) lid).answer q.blk q.tidx q.pc lid 0

/-- A pod grid that the same thread submitted earlier has not been answered (R38). -/
def State.behindPod (s : State) (r : LaunchReq) : Bool :=
  s.pod.outbox.any (fun h => decide (h.src = some (.thread r.blk r.tidx)) && decide (h.id < r.id))

/-- A device grid that the same thread submitted earlier waits (R38). -/
def State.behindRequest (s : State) (h : PodRec) : Bool :=
  s.requests.any (fun r => decide (h.src = some (.thread r.blk r.tidx)) && decide (r.id < h.id))

/-- No earlier launch of the record's source waits: a request of the same thread, or another record of it (R38). -/
def State.podTurn (s : State) (r : PodRec) : Bool :=
  !s.behindRequest r && !s.pod.outbox.any (fun h => decide (h.src = r.src) && decide (h.id < r.id))

/-! ### Pod launches (R37, R38, R50) -/

/-- Launch id of a pod sequence number (R37). -/
def podLid (n : Nat) : Nat := 2 ^ 31 + n % 2 ^ 31

/-- The first record of this device that waits for Ridge and satisfies a condition, and the state without it. -/
def State.takeOutbox (s : State) (p : PodRec → Bool) : Option (PodRec × State) :=
  match s.pod.outbox.findIdx? p with
  | none => none
  | some i => (s.pod.outbox[i]?).map (fun r => (r, { s with pod := { s.pod with outbox := s.pod.outbox.eraseIdx i } }))

/-- Ridge's answer reaches the submitter here: a launch id, or a reason. -/
def State.podAnswer (s : State) (r : PodRec) (lid reason : Nat) : State :=
  match r.src with
  | some (.queue q) =>
    let s1 := s.mapQueue q (fun x => { x with podWait := false })
    let s2 := if reason = 0 then s1 else s1.refuseEntry q r.ctx reason
    if (s.queue q).podWait then s2.advanceQueue q else s2
  | some (.thread b t) => (if reason = 0 then s.handOn (.request b t) lid else s).answer b t r.pc lid reason
  | _ => s

/-- The record of this device that a numbered one answers: the oldest with the same bytes in its context whose turn has come, if any
such record waits. -/
def State.mine? (s : State) (h : PodRec) (r : PodRec) : Bool := h.dev == s.pod.index && r.ctx == h.ctx && r.record == h.record

/-- A pod launch is accepted here (R37): its source, where this device submitted it, learns its id. On another device no address of the
record is known, and the model holds 0 as LREC (R22; log entry 111, DESIGN CHOICE). -/
def State.acceptPod (s : State) (h : PodRec) : State :=
  let bs := h.record
  let lid := podLid h.podSeq
  let make (s : State) (src : Source) (addr : W64) : State :=
    s.enter (Launch.make lid h.ctx s.seq src (LaunchRec.ofBytes bs) addr (depsOf bs) (paramsOfBytes h.params) h.podSeq h.dev)
  match s.takeOutbox (fun r => s.mine? h r && s.podTurn r) with
  | some (r, s1) => (make s1 (r.src.getD (.device h.dev)) r.addr).podAnswer r lid 0
  | none => make s (.device h.dev) 0

/-- Held records are accepted in ascending pod sequence number (R50); one of this device whose source has an earlier launch that waits
holds those behind it (R38). -/
def State.acceptHeld : Nat → State → State
  | 0, s => s
  | n + 1, s =>
    match s.pod.held.find? (fun h => h.podSeq == s.pod.expect) with
    | none => s
    | some h =>
      if s.pod.outbox.any (s.mine? h) && !s.pod.outbox.any (fun r => s.mine? h r && s.podTurn r) then s
      else
        let s1 : State := { s with pod := { s.pod with
          expect := s.pod.expect + 1, held := s.pod.held.filter (fun x => x.podSeq != h.podSeq) } }
        State.acceptHeld n (s1.acceptPod h)

/-- Held records are accepted as far as they may be. -/
def State.acceptPods (s : State) : State := State.acceptHeld s.pod.held.length s

/-- A numbered record is held until its turn. -/
def State.receivePod (s : State) (h : PodRec) : State :=
  let s1 : State := { s with pod := { s.pod with held := s.pod.held ++ [h] } }
  s1.acceptPods

/-! ### Rounds (R35) -/

/-- Up to 16 requests of a context are taken. -/
def State.takeRequests (s : State) (ctx : Nat) : State :=
  ((s.requests.filter (fun r => r.ctx == ctx && !s.behindPod r)).take 16).foldl State.takeRequest s

/-- Queue q is visited: one entry, and the LAUNCH requests of the context whose device-launch queue it is, unless it has halted. R35
names only the requests for such a queue: that one entry of its own ring is served beside them is the model's choice (log entry 110,
DESIGN CHOICE). -/
def State.visitQueue (s : State) (q : Nat) : State :=
  let s1 := s.serveEntry q none none
  let ctx := descCtx (s1.descBytes q)
  if s1.requests.isEmpty || !s1.qtbase.getLsbD 0 || s1.devq ctx != some q || descHalted (s1.descBytes q) then s1 else s1.takeRequests ctx

/-- Queue q may have something to serve. -/
def State.hasWork (s : State) (q : Nat) : Bool :=
  (NMap.lookup s.queues q).isSome || s.requests.any (fun r => s.devq r.ctx == some q)

/-- A round (R35): the queues in ascending number, then the contexts that have no device-launch queue; then
pod launches that waited for an earlier launch of their source (R38). -/
def State.round (s : State) : State :=
  (((List.range 16).filter (fun c => (s.devq c).isNone)).foldl State.takeRequests
    (((List.range 256).filter s.hasWork).foldl State.visitQueue s)).acceptPods

/-- The front end is served only while a Massif core is active (R389). Log entry 103 (DESIGN CHOICE). -/
def execFrontEndRound (s : State) : Host.Outcome State Fault Refusal :=
  .next (if s.fw.down then s else s.settleLaunches.round).tick

/-- Queue q is served one entry, if its KIND is the one named. -/
def execSubmitLaunch (q : Nat) (s : State) : Host.Outcome State Fault Refusal := .next (s.serveEntry q (some 0) none).tick

def execSubmitCancel (q : Nat) (s : State) : Host.Outcome State Fault Refusal := .next (s.serveEntry q (some 1) none).tick

def execSubmitKill (q : Nat) (s : State) : Host.Outcome State Fault Refusal := .next (s.serveEntry q (some 2) none).tick

def execEntryReserved (q : Nat) (s : State) : Host.Outcome State Fault Refusal := .next (s.serveEntry q (some 3) none).tick

/-! ### Doorbells (R30, R31) -/

/-- A doorbell of queue q with value v: what it does where it is well formed; records that wait are then written, if they can be
(R36). Log entry 72 (DEDUCED). -/
def State.doorbell (s : State) (q : Nat) (v : W64) (size : List Byte → Nat) (go : State → Nat → State) : State :=
  let d := s.descBytes q
  if !s.qtbase.getLsbD 0 || decide (256 ≤ q) then s
  else if descOk d && descEnable d && descHalted d then s
  else match s.readDesc q with
    | none => s.haltQueue q
    | some s1 =>
      if v.extractLsb' 16 48 ≠ 0 ∨ size d ≤ v.toNat then s1.haltQueue q
      else ((go s1 v.toNat).markDevqs (descCtx d)).flushRing q none

/-- SQDBq: the tail moves forward, or the queue halts. -/
def execSubmissionDoorbell (q : Nat) (v : W64) (s : State) : Host.Outcome State Fault Refusal :=
  .next (s.doorbell q v descSqSize (fun s i =>
    let x := s.queue q
    let n := descSqSize x.desc
    if (i + n - x.sqhead % n) % n < (x.tail + n - x.sqhead % n) % n then s.haltQueue q
    else s.mapQueue q (fun x => { x with tail := i }))).tick

/-- CQDBq: slots become free. -/
def execCompletionDoorbell (q : Nat) (v : W64) (s : State) : Host.Outcome State Fault Refusal :=
  .next (s.doorbell q v descCqSize (fun s i =>
    let x := s.queue q
    let n := descCqSize x.desc
    if (x.cqtail + n - x.head % n) % n < (i + n - x.head % n) % n then s.haltQueue q
    else s.mapQueue q (fun x => { x with head := i }))).tick

/-- QTBASE: a write with bits [13:1] nonzero is dropped. -/
def execQtbaseWrite (v : W64) (s : State) : Host.Outcome State Fault Refusal :=
  .next (if v.extractLsb' 1 13 ≠ 0 then s else { s with qtbase := v }).tick

end Sys2Proof.Machine
end

