-- ==== Sys2Proof/Machine/Launches.lean ====
section
/-! DEFINITION. LAUNCH and LCTL, the prologue with LPSET and LEND, and the release of a held launch (R39 to R48). -/

namespace Sys2Proof.Machine

/-! ### LAUNCH (R39, R40) -/

/-- A request of this lane at this word is with the front end or with Ridge. -/
def State.submitted (s : State) (e : Env) : Bool :=
  s.requests.any (fun r => r.blk == e.blk.id && r.tidx == e.th.tidx && r.pc == e.th.pc) ||
    s.pod.outbox.any (fun r => decide (r.src = some (.thread e.blk.id e.th.tidx)) && r.pc == e.th.pc)

/-- Addresses of the pieces of a structure, as a lane reads them. -/
def piecesAt (a : W64) (k n : Nat) : List W64 := (List.range n).map (fun i => a + BitVec.ofNat 64 (k * i))

/-- What a lane's LAUNCH reads: the record with its dependence map. A record that is refused whatever its map holds needs no map
(R25). -/
def State.readLaunch (s : State) (e : Env) (addr : W64) : Except Trap (List Byte) := do
  let bs := (← s.readRecords e 64 0 (piecesAt addr 64 4)).flatten
  let r := LaunchRec.ofBytes bs
  match s.readRecords e 16 4 ((r.depAddrs.map (fun a => piecesAt a 16 3)).flatten) with
  | .ok ds => .ok (bs ++ ds.flatten)
  | .error tr => if refusal bs [] (s.devq e.blk.decl.ctx).isSome s.pod.inPod ≠ 0 then .ok bs else .error tr

/-- The parameter block as a lane's LAUNCH reaches it: its faults are taken at the word (R34, R40). -/
def State.readParams (s : State) (e : Env) (r : LaunchRec) : Except Trap (List Byte) :=
  (s.readRecords e 64 16 (piecesAt r.param 64 (if r.paramPieces.isEmpty then 0 else (r.psize + 63) / 64))).map (fun ps =>
    ps.flatten.take r.psize)

/-- An earlier lane stands at the same LAUNCH and has not submitted: the lanes are served in ascending order (R40). -/
def Env.laneAhead (e : Env) : Bool :=
  e.blk.threads.any (fun t => decide (t.tidx < e.th.tidx) && t.pc == e.th.pc && t.wait == some .written)

/-- The lane's request reaches the front end, and releases what the lane passes on (R40); a pod grid's record waits for Ridge. -/
def State.submit (s : State) (e : Env) (addr : W64) (bs ps : List Byte) : State :=
  let r := LaunchRec.ofBytes bs
  let s1 : State := ({ s with seq := s.seq + 1 } : State).tellAll (fun x => x.releasedBy e.blk.id e.th.tidx s.seq)
    (.request e.blk.id e.th.tidx) 0
  let s2 := if s.forPod r then
      s1.forward e.blk.decl.ctx (.thread e.blk.id e.th.tidx) e.th.pc addr bs ps
    else { s1 with requests := s1.requests ++
      [⟨s.seq, e.blk.id, e.th.tidx, e.th.pc, e.blk.decl.ctx, addr, r, depsOf bs⟩] }
  s2.hold e.blk.id e.th.tidx .launch

/-- Log entry 75 (DEDUCED). -/
def execLaunch (w : Word) (s : State) : Host.Outcome State Fault Refusal :=
  runWord (planOf (.launch w) w) (fun _ e s =>
    let mine (a : LaunchAns) : Bool := a.blk == e.blk.id && a.tidx == e.th.tidx && a.pc == e.th.pc
    match s.answers.find? mine with
    | some a =>
      let s1 : State := { s with answers := s.answers.filter (fun x => !mine x) }
      if a.reason ≠ 0 then .trap s1 (mkTrap 0x16 a.reason e.th.pc) 0
      else .done (s1.mapThread e.blk.id e.th.tidx (fun t => t.result w.d false [BitVec.ofNat 32 a.lid])) (e.th.pc + 1)
    | none =>
      if s.submitted e then .stay (s.hold e.blk.id e.th.tidx .launch)
      else
        let addr := e.dword .unsigned w.a 0
        match misaligned addr 64 with
        | some d => .trap s { mkTrap 4 d.toNat e.th.pc with faddr := addr } 0
        | none =>
          match s.readLaunch e addr with
          | .error tr => .trap s tr Need.load.acc
          | .ok bs =>
            let r := LaunchRec.ofBytes bs
            let reason := refusal bs (if bs.length ≤ 256 then [] else dmapOf bs) (s.devq e.blk.decl.ctx).isSome s.pod.inPod
            let go (ps : List Byte) : LaneEnd :=
              if !e.th.written || e.laneAhead then .stay (s.hold e.blk.id e.th.tidx .written) else .stay (s.submit e addr bs ps)
            if reason ≠ 0 then (if s.forPod r then go [] else .trap s (mkTrap 0x16 reason e.th.pc) 0)
            else match s.readParams e r with
              | .error tr => .trap s tr Need.load.acc
              | .ok ps => go ps) (fun _ _ s => s) s

/-! ### LCTL (R41) -/

/-- A word of LCTL: the result of the front end's operation on the launch that A names. Log entry 77 (DEDUCED). -/
def lctl (i : Instr) (w : Word) (op : State → Nat → Nat → Nat × State) (s : State) : Host.Outcome State Fault Refusal :=
  runWord (planOf i w) (fun _ e s =>
    let r := op s e.blk.decl.ctx (e.word w.a 0).toNat
    .done (r.2.mapThread e.blk.id e.th.tidx (fun t => t.result w.d false [BitVec.ofNat 32 r.1])) (e.th.pc + 1))
    (fun _ _ s => s) s

def execLctlCancel (w : Word) (s : State) : Host.Outcome State Fault Refusal :=
  lctl (.lctlCancel w) w (fun s ctx lid => s.cancelBy ctx lid false) s

def execLctlKill (w : Word) (s : State) : Host.Outcome State Fault Refusal :=
  lctl (.lctlKill w) w (fun s ctx lid => s.cancelBy ctx lid true) s

def execLctlQuery (w : Word) (s : State) : Host.Outcome State Fault Refusal :=
  lctl (.lctlQuery w) w (fun s ctx lid => (s.query ctx lid, s)) s

/-! ### LPSET (R44, R45) -/

/-- An indexed source lies in its array (R98). -/
def Env.inArray (e : Env) : Opd → Bool
  | .idx x o => decide (0 ≤ e.th.at' x o) && decide (e.th.at' x o < e.th.xlimit x)
  | _ => true

/-- A source of LPSET lies in V0 to V63 (R45). -/
def Env.inPrologue (e : Env) (o : Opd) : Bool := ((e.th.named o).map (fun n => decide (n < 64))).getD true

/-- A field of the level entry k. -/
def setLevel (r : LaunchRec) (k : Nat) (f : LevelEntry → LevelEntry) : LaunchRec :=
  { r with levels := r.levels.zipIdx.map (fun (x, i) => if i = k then f x else x) }

/-- A parameter word of the copy. -/
def setParam (m : NMap Byte) (n : Nat) (v : W32) : NMap Byte :=
  (List.range 4).foldl (fun m i => NMap.put 0 m (4 * n + i) (v.extractLsb' (8 * i) 8)) m

/-- The check of A (R45). Log entry 18 (DEDUCED). -/
def lpsetOk (op a : Nat) (r : LaunchRec) : Bool :=
  if op = 0 then decide (a < r.psize / 4)
  else if op ≤ 3 then decide (r.blockLevel < a ∧ a < r.nlev)
  else true

/-- The pending launch after LPSET. -/
def Launch.lpset (l : Launch) (op : Nat) (a b : W32) : Launch :=
  let n := b.toNat
  match op with
  | 0 => { l with params := setParam l.params a.toNat b }
  | 1 => { l with record := setLevel l.record a.toNat (fun x => { x with ex := n }) }
  | 2 => { l with record := setLevel l.record a.toNat (fun x => { x with ey := n }) }
  | 3 => { l with record := setLevel l.record a.toNat (fun x => { x with ez := n }) }
  | _ => { l with record := { l.record with start := a ++ b, flags := l.record.flags ||| 8#16 } }

/-- Log entry 18 (DEDUCED). -/
def execLpset (w : Word) (s : State) : Host.Outcome State Fault Refusal :=
  runWord { planOf (.lpset w) w with elected := true } (fun _ e s =>
    let op := modF w 0 3
    let a := e.word w.a w.imm
    let b := e.word w.b w.imm
    let r := ((s.launch? e.blk.decl.lid).map Launch.record).getD (LaunchRec.ofBytes [])
    if !e.inArray w.a || !e.inArray w.b then .trap s (mkTrap 3 0 e.th.pc) 0
    else if !e.inPrologue w.a || !e.inPrologue w.b || !lpsetOk op a.toNat r then .trap s (mkTrap 1 10 e.th.pc) 0
    else
      let s1 := s.mapLaunch e.blk.decl.lid (fun l => l.lpset op a b)
      .done (if op = 0 then s1.mapBlock e.blk.id (fun x => { x with params := setParam x.params a.toNat b }) else s1)
        (e.th.pc + 1)) (fun _ _ s => s) s

/-! ### LEND (R42, R46) -/

/-- LEND with n passes: the prologue is over, and the launch is cancelled, checked again and held, or faulted.
Log entry 76 (DEDUCED). -/
def State.endPrologue (s : State) (blk lid passes : Nat) : State :=
  let s1 := s.removeBlock blk
  match s1.launch? lid with
  | none => s1
  | some l =>
    if passes = 0 then ((s1.cancelLaunch lid false false).flushBits lid none).decideEnd lid
    else
      let reason := l.record.gridReason l.deps
      if reason ≠ 0 then
        (s1.faultGrid lid
          { bx := 0, by' := 0, bz := 0, tidx := 0, cause := 0x16, eflags := 0, detail := BitVec.ofNat 32 reason, faddr := 0,
            ptime := s.ptime, pc := 0, dev := s.pod.index, attempt := 0 }).decideEnd lid
      else s1.mapLaunch lid (fun l => { l with state := .held, passes := passes })

/-- A word of LEND in the prologue thread. -/
def lend (i : Instr) (w : Word) (passes : Env → Nat) (s : State) : Host.Outcome State Fault Refusal :=
  runWord (planOf i w) (fun _ e s => .stay (s.endPrologue e.blk.id e.blk.decl.lid (passes e))) (fun _ _ s => s) s

def execLendLaunch (w : Word) (s : State) : Host.Outcome State Fault Refusal := lend (.lendLaunch w) w (fun _ => 1) s

def execLendCancel (w : Word) (s : State) : Host.Outcome State Fault Refusal := lend (.lendCancel w) w (fun _ => 0) s

def execLendRepeat (w : Word) (s : State) : Host.Outcome State Fault Refusal :=
  lend (.lendRepeat w) w (fun e => (e.word w.a w.imm).toNat) s

/-! ### The prologue thread (R43) -/

/-- A scalar thread on a Massif core: 64 registers, 16 predicates, and nothing else of a block (R43, R388). -/
def massifBlock (id core : Nat) (params : NMap Byte) (d : Decl) : Block :=
  ({ id := id, decl := d, bx := 0, by' := 0, bz := 0, pass := 0, attempt := 0, gang := none, brank := 0, teamId := 0,
     stage := .prologue, cluster := 64, core := core, sched := 0, placed := id, ptime := 0, order := id, params := params,
     threads := [], groups := [], scratch := [], objects := [], xregs := [], tiles := [], slots := [], fm := [], head := 0,
     mark := 0, lastIssue := none, issued := 0, saveAddr := 0, saveSize := 0 } : Block).fresh

/-- The prologue thread of a launch, on the active Massif core, which the model numbers as core 0 of cluster 64.
Log entry 76 (DEDUCED). -/
def Launch.prologueBlock (l : Launch) (id : Nat) : Block :=
  massifBlock id 0 l.params
    { lid := l.lid, ctx := l.ctx, prio := l.record.prio, regs := 64, preds := 16, tiles := 0, scratch := 0, slots := 0,
      width := 1, nthr := 1, codebase := l.record.codebase, entry := l.record.proentry, psize := l.record.psize, gx := 0,
      gy := 0, gz := 0, team := 0, part := 1, relaunchable := false, maxrel := 0, persistent := false, gridScope := 5, blkScope := 2,
      grpScope := 1, lrec := l.lrec }

/-- Glefin on a Massif core, as it starts from the image: a scalar thread that serves no launch (R388, R392).
Log entry 127 (DESIGN CHOICE). -/
def massifThread (id core : Nat) : Block :=
  massifBlock id core []
    { lid := 0, ctx := massifCtx, prio := 0, regs := 64, preds := 16, tiles := 0, scratch := 0, slots := 0, width := 1, nthr := 1,
      codebase := 0, entry := Config.massifEntry, psize := 0, gx := 0, gy := 0, gz := 0, team := 0, part := 1, relaunchable := false,
      maxrel := 0, persistent := false, gridScope := 5, blkScope := 2, grpScope := 1, lrec := 0 }

/-- The prologue of a launch that is in its thread. -/
def State.prologueOf (s : State) (lid : Nat) : Option Block :=
  (s.blocks.map Prod.snd).find? (fun b => b.mode == .prologue && b.decl.lid == lid)

/-- A pod grid's prologue runs on the device whose Ridge is active. -/
def State.dealsHere (s : State) (l : Launch) : Bool := !l.pod || s.pod.ridge == some s.pod.index

/-- The prologue thread starts. Its core keeps no line from before, so its loads observe what its submitter stored (R43). -/
def execPrologueStart (lid : Nat) (s : State) : Host.Outcome State Fault Refusal :=
  match s.launch? lid with
  | none => .next s.tick
  | some l =>
    if l.state = .prologue ∧ s.prologueOf lid = none ∧ s.dealsHere l = true then
      let s1 := s.dropLines (l.prologueBlock s.seq).coreId (fun _ => true)
      .next ({ s1 with seq := s.seq + 1, blocks := NMap.insert s1.blocks s.seq (l.prologueBlock s.seq) } : State).tick
    else .next s.tick

/-- Instructions that a prologue may execute. -/
def prologueBudget : Nat := 2 ^ 24

def execPrologueBudgetExpired (lid : Nat) (s : State) : Host.Outcome State Fault Refusal :=
  match s.prologueOf lid with
  | none => .next s.tick
  | some b =>
    if b.issued < prologueBudget then .next s.tick
    else .next ((s.takeTrap b.id 0 (mkTrap 1 1 (((b.thread? 0).map Thread.pc).getD 0))).decideEnd lid).tick

/-! ### Leaving HELD (R42, R48, R55) -/

/-- Pod time reaches START of a held launch. Log entry 99 (DESIGN CHOICE). -/
def execStartTimeReached (lid : Nat) (s : State) : Host.Outcome State Fault Refusal :=
  match s.launch? lid with
  | none => .next s.tick
  | some l =>
    if l.state = .held ∧ l.record.timed = true ∧ s.ptime.toNat < l.record.start.toNat then
      .next ({ s with ptime := l.record.start } : State).tick
    else .next s.tick

/-- A launch stands before another in the order that R42 uses. Log entry 70 (DEDUCED). -/
def Launch.earlier (a l : Launch) : Bool :=
  if l.pod then a.pod && decide (a.podSeq < l.podSeq) else decide (a.order < l.order)

/-- The partition in which a context is active (R55). -/
def State.activeIn (s : State) (ctx : Nat) : Option Nat :=
  (List.range 8).find? (fun n => (s.partition n).actx == some ctx)

/-- The conditions under which a launch leaves HELD: an earlier launch that has not left it, or not reached it, holds it (R42).
Log entry 70 (DEDUCED). -/
def State.releasableLaunch (s : State) (l : Launch) : Bool :=
  l.state == .held && (!l.record.timed || decide (l.record.start.toNat ≤ s.ptime.toNat)) && (s.activeIn l.ctx).isSome &&
    s.launches.all (fun a => !((a.state == .held || a.state == .prologue) && a.ctx == l.ctx && decide (l.record.prio ≤ a.record.prio) && a.earlier l))

def execLaunchRelease (lid : Nat) (s : State) : Host.Outcome State Fault Refusal :=
  match s.launch? lid with
  | none => .next s.tick
  | some l =>
    .next (if s.releasableLaunch l then s.mapLaunch lid (fun l => { l with state := .dealing }) else s).tick

end Sys2Proof.Machine
end

