-- ==== Sys2Proof/Machine/Clusters.lean ====
section
/-! DEFINITION. Room in the cores of a cluster, the pending blocks of a Cairn, the choice of a Cairn, and the failure of a cluster
(R22, R23, R54 to R60, R63 to R65, R112). -/

namespace Sys2Proof.Machine

/-! ### Room (R57) -/

/-- What is free in a core. -/
structure Room where
  blocks : Nat
  threads : Nat
  groups : Nat
  regs : Nat
  grans : Nat
  tiles : Nat
  deriving DecidableEq, Repr

/-- An empty core. -/
def Room.empty : Room :=
  { blocks := Config.blocksPerCore, threads := Config.threadsPerCore, groups := Config.groupsPerCore,
    regs := Config.regsPerCore, grans := Config.granulesPerCore, tiles := Config.tilesPerCore }

def Decl.groups (d : Decl) : Nat := d.nthr / d.width

/-- The room covers a block. -/
def Room.fits (r : Room) (d : Decl) : Bool :=
  decide (1 ≤ r.blocks ∧ d.nthr ≤ r.threads ∧ d.groups ≤ r.groups ∧ d.nthr * d.regs ≤ r.regs ∧ d.scratch ≤ r.grans ∧
    d.tiles ≤ r.tiles)

/-- The room less a block. -/
def Room.less (r : Room) (d : Decl) : Room :=
  { blocks := r.blocks - 1, threads := r.threads - d.nthr, groups := r.groups - d.groups, regs := r.regs - d.nthr * d.regs,
    grans := r.grans - d.scratch, tiles := r.tiles - d.tiles }

/-- Room of a cluster: of each core, and granary slots. -/
structure Bays where
  cores : List Room
  slots : Nat
  deriving DecidableEq, Repr

def Bays.empty : Bays := { cores := List.replicate Config.coresPerCluster Room.empty, slots := Config.slotsPerCluster }

/-- The cluster less a block on a core. -/
def Bays.less (x : Bays) (core : Nat) (d : Decl) : Bays :=
  { cores := x.cores.zipIdx.map (fun (r, i) => if i = core then r.less d else r), slots := x.slots - d.slots }

/-- The least element by a key, the first where several are least. -/
def leastBy {α : Type} (key : α → Nat) : List α → Option α
  | [] => none
  | x :: xs =>
    match leastBy key xs with
    | none => some x
    | some y => if key y < key x then some y else some x

/-- The core that takes a block: of those that fit, the one with the fewest free threads, ties to the lowest. -/
def Bays.core (x : Bays) (d : Decl) : Option Nat :=
  if x.slots < d.slots then none
  else (leastBy (fun (e : Room × Nat) => e.1.threads) (x.cores.zipIdx.filter (fun e => e.1.fits d))).map Prod.snd

/-- Cores for blocks taken in order, and the room after them, where all of them fit (R58). -/
def Bays.placeAll (x : Bays) : List Block → Option (List Nat × Bays)
  | [] => some ([], x)
  | b :: bs =>
    match x.core b.decl with
    | none => none
    | some c => ((x.less c b.decl).placeAll bs).map (fun r => (c :: r.1, r.2))

/-- How many blocks of a list fit, taken in order. -/
def Bays.fitting (x : Bays) : List Block → Nat
  | [] => 0
  | b :: bs =>
    match x.core b.decl with
    | none => 0
    | some c => 1 + (x.less c b.decl).fitting bs

/-! ### Blocks and their instances -/

/-- The gang record of a block. -/
def State.gang? (s : State) (lid id : Nat) : Option Gang := s.gangs.find? (fun g => g.lid == lid && g.id == id)

def State.mapGang (s : State) (lid id : Nat) (f : Gang → Gang) : State :=
  { s with gangs := s.gangs.map (fun g => if g.lid = lid ∧ g.id = id then f g else g) }

/-- The gang record of the block's instance. -/
def State.gangRecord (s : State) (b : Block) : Option Gang := b.gang.bind (fun g => s.gang? b.decl.lid g)

/-- The instance of a block is bound to DIE. -/
def State.inDieGang (s : State) (b : Block) : Bool := ((s.gangRecord b).map Gang.die).getD false

/-- A block takes room in its core: it is resident, or a DIE gang's placement holds room for it. -/
def State.holdsRoom (s : State) (b : Block) : Bool :=
  match b.stage with
  | .running => true
  | .stopping => true
  | .saving => true
  | .restoring => true
  | .pending => ((s.gangRecord b).map Gang.assigned).getD false
  | .saved => ((s.gangRecord b).map Gang.assigned).getD false
  | .retired => false
  | .prologue => false

def State.allBlocks (s : State) : List Block := s.blocks.map Prod.snd

/-- Room of a cluster for the blocks of a context. -/
def State.bays (s : State) (c ctx : Nat) : Bays :=
  (s.allBlocks.filter (fun b => b.cluster == c && b.decl.ctx == ctx && s.holdsRoom b)).foldl
    (fun x b => x.less b.core b.decl) Bays.empty

/-- A block waits at its Cairn. -/
def Block.waits (b : Block) : Bool := b.stage == .pending || b.stage == .saved

/-- Blocks that wait at a Cairn for a core of its cluster. -/
def State.waitingAt (s : State) (c ctx : Nat) : List Block :=
  s.allBlocks.filter (fun b => b.cluster == c && b.decl.ctx == ctx && b.waits && !s.inDieGang b)

/-- Waiting blocks as the items that are placed together: instances of gangs, and single blocks. -/
def itemsOf : Nat → List Block → List (List Block)
  | 0, _ => []
  | _, [] => []
  | n + 1, b :: bs =>
    let same (x : Block) : Bool := b.gang.isSome && x.gang == b.gang && x.decl.lid == b.decl.lid
    (b :: bs.filter same) :: itemsOf n (bs.filter (fun x => !same x))

/-- Place of an item in the walk of R57: priority, pre-empted blocks first (R61), relaunched ones next, then arrival. Of several
pre-empted items of one priority the one saved last stands first, which R61 leaves open: the model's choice (log entry 115,
DESIGN CHOICE). -/
def walkKey (item : List Block) : List Int :=
  match item.head? with
  | none => []
  | some b =>
    let kind : Int := if b.stage = .saved then 0 else if 0 < b.attempt then 1 else 2
    [-(b.decl.prio : Int), kind, if kind = 0 then -(b.order : Int) else b.order]

/-- Items in the order of the walk. -/
def insertItem (x : List Block) : List (List Block) → List (List Block)
  | [] => [x]
  | y :: ys => if walkKey x < walkKey y then x :: y :: ys else y :: insertItem x ys

def State.walkItems (s : State) (c ctx : Nat) : List (List Block) :=
  let bs := s.waitingAt c ctx
  (itemsOf bs.length bs).foldl (fun l x => insertItem x l) []

/-! ### The choice of a Cairn (R56) -/

/-- A cluster that can hold blocks: it is not lost, and its Cairn has an image (R390, R392). -/
def State.usable (s : State) (c : Nat) : Bool := !(s.cluster c).lost && !s.fw.cairnRefused

/-- Usable clusters of a partition. -/
def State.clustersOf (s : State) (n : Nat) : List Nat :=
  (List.range Config.clusters).filter (fun c => (s.partition n).mask.getLsbD c && s.usable c)

/-- Free thread capacity of a Cairn, less what its pending blocks will take, which may be more than it has. -/
def State.freeThreads (s : State) (c ctx : Nat) : Int :=
  (((s.bays c ctx).cores.map Room.threads).sum : Int) - ((s.waitingAt c ctx).map (fun b => b.decl.nthr)).sum

/-- Cores that the pending items would occupy, placed in the order of the walk. -/
def wouldOccupy : Bays → List (List Block) → List Nat
  | _, [] => []
  | x, item :: rest =>
    match x.placeAll item with
    | none => wouldOccupy x rest
    | some (cs, y) => cs ++ wouldOccupy y rest

/-- Free cores of a Cairn: those with no block, less those that its pending blocks would occupy, and never fewer than 0.
Log entry 78 (DEDUCED). -/
def State.freeCores (s : State) (c ctx : Nat) : Nat :=
  let x := s.bays c ctx
  (x.cores.filter (fun r => r.blocks == Config.blocksPerCore)).length - (wouldOccupy x (s.walkItems c ctx)).dedup.length

/-- The element with the most of a measure, ties to the first. -/
def mostBy {α : Type} (key : α → Int) (l : List α) : Option α := leastBy (fun x => (2 ^ 40 - key x).toNat) l

/-- The Cairn for an instance bound to CLUSTER, or for a single block. -/
def State.chooseCairn (s : State) (n ctx : Nat) (gang : Bool) : Option Nat :=
  mostBy (fun c => if gang then (s.freeCores c ctx : Int) else s.freeThreads c ctx) (s.clustersOf n)

/-- F: clusters of the partition in which some core has a block slot, threads, groups and registers left. -/
def State.freeClusters (s : State) (ctx : Nat) : Nat :=
  match s.activeIn ctx with
  | none => 0
  | some n => ((s.clustersOf n).filter (fun c => (s.bays c ctx).cores.any (fun r =>
      decide (0 < r.blocks ∧ 0 < r.threads ∧ 0 < r.groups ∧ 0 < r.regs)))).length

/-- Clusters of a die that can hold blocks. -/
def State.dieClusters (s : State) (d : Nat) : Nat := ((List.range 16).filter (fun i => s.usable (16 * d + i))).length

/-! ### The task record (R22) -/

/-- Task record of a block: PLACE gives die, physical cluster (16 for the spare), and core. -/
def State.taskRecord (s : State) (b : Block) : List Byte :=
  let phys := if (s.cluster b.cluster).spare then 16 else b.cluster % 16
  leBytes 4 b.decl.lid ++ leBytes 4 b.bx ++ leBytes 2 b.by' ++ leBytes 2 b.bz ++ leBytes 1 b.attempt ++
    leBytes 1 b.gang.isSome.toNat ++ leBytes 2 (b.cluster / 16 * 16384 + phys * 512 + b.core * 128) ++
    leBytes 8 b.decl.lrec.toNat ++ leBytes 8 b.ptime.toNat

/-! ### Failure of a cluster (R64, R65) -/

/-- The fault entry of a block that a cluster failure kills (R371). -/
def State.lostEntry (s : State) (b : Block) (reason flags : Nat) : FaultEntry :=
  { bx := b.bx, by' := b.by', bz := b.bz, tidx := 0, cause := 0xC, eflags := 64 + flags, detail := BitVec.ofNat 32 reason,
    faddr := 0, ptime := s.ptime, pc := 0, dev := s.pod.index, attempt := b.attempt }

/-- One instance dies with its cluster, once: it is queued again, or its grid is faulted (R23, R365). Each of its blocks counts one
fault (R371). -/
def State.loseInstance (s : State) (reason : Nat) (item : List Block) : State :=
  match item.head?.bind (fun b => s.block? b.id) with
  | none => s
  | some b =>
    let members := s.gangOf b
    let ending := ((s.launch? b.decl.lid).map (fun l => decide (l.state = .cancelling))).getD true
    let left := b.decl.relaunchable && members.all (fun x => decide (x.attempt + 1 ≤ x.decl.maxrel))
    let count (s : State) (flags : Nat) : State := members.foldl (fun s x =>
      s.mapLaunch b.decl.lid (fun l => l.addFault (s.lostEntry x reason flags))) s
    let s := (members.filter (fun x => x.cluster != b.cluster)).foldl (fun s x => s.tell x.cluster 2 x.id) s
    if s.replays b.id then s.stopReplay b.id 3 0 []
    else if left && !ending then
      count (members.foldl (fun s x =>
        let s' := s.removeBlock x.id
        { s' with blocks := NMap.insert s'.blocks x.id x.again }) s) 32
    else
      let s1 := count (members.foldl (fun s x => s.kill x) s) 0
      if left then s1 else s1.cancelLaunch b.decl.lid true true

/-- Blocks that stand in a cluster, active and shadow alike. -/
def State.standingIn (s : State) (c : Nat) : List Block :=
  s.allBlocks.filter (fun b => b.cluster == c && (b.stage == .running || b.stage == .stopping || b.stage == .saving ||
    b.stage == .restoring))

/-- The patches that a freshly loaded Cairn has: every applied one, and one that is being broadcast (R395). -/
def State.appliedPatches (s : State) : List (List Byte) :=
  if s.fw.state = .broadcast then s.fw.applied ++ [s.fw.image] else s.fw.applied

/-- The logical cluster is remapped to its die's spare, whose Cairn is loaded with its image and every applied patch, or is lost
(R64, R65, R395). -/
def State.remap (s : State) (c : Nat) : State :=
  let s1 : State := { s with
    lcache := s.lcache.filter (fun e => e.1 / 4 != c),
    icache := s.icache.filter (fun e => e.1 / 4 != c) }
  match NMap.lookup s.spares (c / 16) with
  | none => ({ s1 with
      spares := NMap.insert s1.spares (c / 16) c,
      fw := if s.fw.state = .broadcast then { s.fw with told := s.fw.told ++ [c], acks := s.fw.acks ++ [c] } else s.fw } :
        State).mapCluster c (fun x => { x with
      spare := true, parTimes := [], patches := s.appliedPatches, link := Link.reset, passes := [] })
  | some _ => s1.mapCluster c (fun x => { x with lost := true, passes := [], link := { x.link with out := [], back := [] } })

/-! ### Units that can no longer be placed (R52, R65) -/

/-- A number put in its place. -/
def insertNat (x : Nat) : List Nat → List Nat
  | [] => [x]
  | y :: ys => if x ≤ y then x :: y :: ys else y :: insertNat x ys

/-- Linear index of a block in its grid (R12). -/
def Block.index (b : Block) : Nat := b.teamId * max 1 b.decl.team + b.brank

/-- A block waits for its first placement, and no room is held for it. -/
def State.unplacedBlock (s : State) (b : Block) : Bool :=
  b.stage == .pending && b.attempt == 0 && !((s.gangRecord b).map Gang.assigned).getD false && !s.replays b.id

/-- Units dealt to this Spur and not placed, ascending: not handed to a Cairn, or with every block waiting at one (R51, R52). -/
def State.unplacedUnits (s : State) (l : Launch) : List Nat :=
  let mine := s.allBlocks.filter (fun b => b.decl.lid == l.lid)
  let unit (b : Block) : Nat := b.index / l.record.unitBlocks
  let waits (u : Nat) : Bool := decide ((mine.filter (fun b => unit b == u && s.unplacedBlock b)).length = l.record.unitBlocks)
  ((l.runs.flatMap (fun r => (List.range r.2).map (fun i => r.1 + i))) ++
    ((mine.map unit).dedup.filter waits)).foldl (fun us u => insertNat u us) []

/-- Units leave this Spur: their runs and their waiting blocks go. -/
def State.withdraw (s : State) (l : Launch) (us : List Nat) : State :=
  let mine (b : Block) : Bool := b.decl.lid == l.lid && us.contains (b.index / l.record.unitBlocks)
  let s1 : State := { s with blocks := s.blocks.filter (fun e => !mine e.2) }
  { s1.mapLaunch l.lid (fun l => { l with runs := us.foldl (fun rs u => cutRun u 1 rs) l.runs }) with
    gangs := s1.gangs.filter (fun g => g.lid != l.lid || s1.allBlocks.any (fun b => b.decl.lid == l.lid && b.gang == some g.id)) }

/-- Runs leave a device. -/
def Launch.takeFrom (l : Launch) (dev : Nat) (rs : List (Nat × Nat)) : Launch :=
  { l with dealtTo := NMap.insert l.dealtTo dev (rs.foldl (fun m r => cutRun r.1 r.2 m) ((NMap.lookup l.dealtTo dev).getD [])) }

/-- Units that this Spur cannot place go back: where it deals the grid itself they are undealt again, and otherwise they go to Ridge
(R52, R65). Log entry 80 (DEDUCED). -/
def State.returnUnits (s : State) (l : Launch) : State :=
  let us := s.unplacedUnits l
  let rs := us.map (fun u => (u, 1))
  if us.isEmpty then s
  else (s.withdraw l us).mapLaunch l.lid (fun l =>
    let l1 := l.takeFrom s.pod.index rs
    if s.dealsHere l then
      { l1 with returned := l1.returned ++ rs, state := if l1.state = .draining then .dealing else l1.state }
    else l1)

/-- The most clusters that a die of a partition still has. -/
def State.bestDie (s : State) (n : Nat) : Nat :=
  ((List.range 4).map (fun d => ((s.clustersOf n).filter (fun c => c / 16 == d)).length)).foldl max 0

/-- The gangs of a launch fit the clusters of its partition, lost ones too, and no longer fit those that are left (R65). -/
def State.shrunk (s : State) (l : Launch) : Bool :=
  match s.activeIn l.ctx with
  | none => false
  | some n =>
    let whole := ((List.range 4).map (fun d => ((List.range 16).filter (fun i =>
      (s.partition n).mask.getLsbD (16 * d + i))).length)).foldl max 0
    l.record.gangsFit whole && !l.record.gangsFit (s.bestDie n)

/-- The gangs of a launch fit what is left of its partition (R15, R65). -/
def State.canHold (s : State) (l : Launch) : Bool :=
  match s.activeIn l.ctx with
  | none => false
  | some n => !(s.clustersOf n).isEmpty && l.record.gangsFit (s.bestDie n)

/-- A launch is still dealt or drained. -/
def Launch.deals (l : Launch) : Bool := l.state == .dealing || l.state == .draining

/-- A DIE gang that holds room in a cluster that its partition no longer has gives all of it up. -/
def State.unassign (s : State) (cs : List Nat) (ctx : Nat) : State :=
  let stray (g : Gang) : Bool := g.die && s.allBlocks.any (fun b =>
    b.decl.lid == g.lid && b.gang == some g.id && b.waits && b.decl.ctx == ctx && !cs.contains b.cluster)
  { s with gangs := s.gangs.map (fun g => if stray g then { g with assigned := false, acks := [] } else g) }

/-- Items that wait go to another cluster, and with them the record of their gang; the Cairns of a DIE gang are told once it has room
(R59). -/
def State.moveItem (s : State) (item : List Block) (c : Nat) : State :=
  let s1 := item.foldl (fun s b =>
    let s1 := s.mapBlock b.id (fun b => { b with cluster := c })
    if s.inDieGang b then s1 else s1.tell c 1 b.id) s
  match item.head? with
  | some b => match b.gang with
    | some g => s1.mapGang b.decl.lid g (fun g => { g with cluster := if g.die then c / 16 else c })
    | none => s1
  | none => s1

/-- Blocks of a context that wait at a cluster which its partition no longer has go to another Cairn of the partition; units for which
there is none go back. Log entry 80 (DEDUCED). -/
def State.rehome (s0 : State) (n ctx : Nat) : State :=
  let cs := s0.clustersOf n
  let s := (s0.launches.filter (fun l => l.ctx == ctx && l.deals && (cs.isEmpty || (l.pod && !s0.canHold l) || s0.shrunk l))).foldl
    State.returnUnits (s0.unassign cs ctx)
  (itemsOf s.blocks.length (s.allBlocks.filter (fun b =>
      b.decl.ctx == ctx && b.waits && !cs.contains b.cluster))).foldl (fun s item =>
    let dest := if (item.head?.map s.inDieGang).getD false then cs.head?
      else s.chooseCairn n ctx ((item.head?.bind Block.gang).isSome)
    match dest with
    | none => s
    | some k => s.moveItem item k) s

/-- Waiting blocks stand at clusters of their contexts' partitions. -/
def State.settlePlaces (s : State) : State :=
  (List.range 8).foldl (fun s n => match (s.partition n).actx with
    | none => s
    | some ctx => s.rehome n ctx) s

/-- A device grid has a gang that the reduced device cannot hold. -/
def State.outgrown (s : State) (l : Launch) : Bool :=
  !l.pod && l.state != .done && l.state != .cancelling &&
    !l.record.gangsFit (((List.range 4).map s.dieClusters).foldl max 0)

/-- Device grids whose gangs no longer fit are faulted (R65). -/
def State.faultOutgrown (s : State) : State :=
  (s.launches.filter s.outgrown).foldl (fun s l => s.faultGrid l.lid
    { bx := 0, by' := 0, bz := 0, tidx := 0, cause := 0x16, eflags := 0, detail := 9, faddr := 0, ptime := s.ptime, pc := 0,
      dev := s.pod.index, attempt := 0 }) s

/-- The Spur sends the task records of the blocks that wait at a cluster to its new Cairn, with those of the DIE gangs that hold room
there, which the new Cairn has still to acknowledge (R59, R63, R64). -/
def State.replace (s : State) (c : Nat) : State :=
  let s1 : State := { s with gangs := s.gangs.map (fun g => if g.die then { g with acks := g.acks.filter (fun k => k != c) } else g) }
  (s.allBlocks.filter (fun b => b.cluster == c && b.waits &&
    (!s.inDieGang b || ((s.gangRecord b).map Gang.assigned).getD false))).foldl (fun s b => s.tell c 1 b.id) s1

/-- A cluster fails for a reason of R370's DETAIL: each instance that stands there dies once. Its spare holds every applied patch, so
nothing waits for its ACK (R395). Log entry 80 (DEDUCED). -/
def State.failCluster (s : State) (c reason : Nat) : State :=
  if Config.clusters ≤ c ∨ (s.cluster c).lost = true then s
  else
    let told : State := { s with fw := { s.fw with
      acks := if s.fw.state = .broadcast ∧ s.fw.acks.contains c = false then s.fw.acks ++ [c] else s.fw.acks } }
    let items := itemsOf s.blocks.length (s.standingIn c)
    let s1 := (items.foldl (fun s x => s.loseInstance reason x) told).remap c
    let s2 := if s1.usable c then s1.replace c else s1.faultOutgrown
    s2.settlePlaces.settleLaunches

/-- A time still lies within a window before now. -/
def within (now : W64) (window : Nat) (t : W64) : Bool := decide (now.toNat ≤ t.toNat + window)

/-- 1 ms and 1 s in ticks of pod time (R47). -/
def tickMs : Nat := 256000000
def tickS : Nat := 256000000000

/-- An unrepaired parity error counts; the third within 1 s fails the cluster. -/
def State.parityError (s : State) (c : Nat) : State :=
  let ts := s.ptime :: (s.cluster c).parTimes.filter (within s.ptime tickS)
  let s1 := s.mapCluster c (fun x => { x with parUnr := addSat x.parUnr 1 8, parTimes := ts })
  if 3 ≤ ts.length then s1.failCluster c 3 else s1

/-- A link error counts; the third within 1 ms fails the cluster. -/
def State.linkError (s : State) (c : Nat) : State :=
  let ts := s.ptime :: (s.cluster c).link.errors.filter (within s.ptime tickMs)
  let s1 := s.mapCluster c (fun x => { x with link := { x.link with errors := ts, dropped := x.link.dropped + 1 } })
  if 3 ≤ ts.length then s1.failCluster c 5 else s1

end Sys2Proof.Machine
end

