-- ==== Sys2Proof/Machine/Fetch.lean ====
section
/-! DEFINITION. Fetching the word of the bundle that issues (R89, R343), and placing a word where the next step fetches it. -/

namespace Sys2Proof.Machine

/-- Where the word at a PC stands (R89). -/
def Block.fetchVa (b : Block) (pc : W32) : Nat := vaOf (b.decl.codebase + BitVec.ofNat 64 (12 * pc.toNat))

/-- The lines of a core's instruction cache (R343). -/
def State.ilines (s : State) (core : Nat) : NMap (List Byte) := (NMap.lookup s.icache core).getD []

/-- Four bytes of code: those of the core's line where it holds one that differs from memory and the free value says so,
else those of memory, and the line is then filled. -/
def State.code4 (s : State) (core key k : Nat) : List Byte × State :=
  let home := s.bytes key 4
  let lines := NMap.insert (s.ilines core) (lineOf key) (s.bytes (lineOf key) 128)
  let fill : State := { s with icache := NMap.insert s.icache core lines }
  match NMap.lookup (s.ilines core) (lineOf key) with
  | none => (home, fill)
  | some line =>
    let old := (line.drop (key - lineOf key)).take 4
    if old = home then (home, s) else if s.pick (100 + k) % 2 = 0 then (old, s) else (home, fill)

/-- The 12 bytes of the word at an address, in three translated groups, or the address, cause and detail of a fault. A Massif core
runs the image that boot ROM has verified (R392). -/
def State.fetchBytes (s : State) (core ctx va : Nat) (sup : Bool) : Except (Nat × Nat × Nat) (List Byte × State) :=
  if ctx = massifCtx then .ok ((List.range 12).map (fun i => Config.massifImage.getD (va + i) 0), s)
  else (List.range 3).foldl (fun acc k =>
    match acc with
    | .error e => .error e
    | .ok (bs, s) =>
      match s.xlate (coreCaches core) ctx (va + 4 * k) Need.fetch sup (s.pick (110 + k)) with
      | .error (c, d) => .error (if k = 0 then va else va + 4 * k, c, d)
      | .ok x =>
        let r := (s.cacheLeaf (coreCaches core) ctx (va + 4 * k) x).code4 core x.key k
        .ok (bs ++ r.1, r.2)) (.ok ([], s))

/-- What a fetch brings: an instruction to run, or a state in which the bundle is spent. -/
inductive Fetched where
  | runs (i : Instr) (s : State)
  | ends (s : State)

/-- Lanes of a bundle that cannot fetch with their privilege take the fault (R89, R347). -/
def State.fetchFault (s : State) (u : Bundle) (lanes : List Nat) (va cause detail : Nat) : State :=
  let tr : Trap :=
    { cause := cause, detail := BitVec.ofNat 32 detail, faddr := BitVec.ofNat 64 va, pc := u.pc, fetch := true }
  s.takeTraps u.blk (lanes.map (fun t => (t, tr, Need.fetch.acc)))

/-- The word is decoded where it stands; one that fails a check raises ILLEGAL in every lane (R108, R110). -/
def State.decodeFor (s : State) (u : Bundle) (m : Mode) (bs : List Byte) : Fetched :=
  match decodeAt m (wordOfBytes bs) with
  | .ok i => .runs i s
  | .error d => .ends (s.takeTraps u.blk (u.lanes.map (fun t => (t, mkTrap 1 d u.pc, 0)))).endWord

/-- The fetch for the bundle. A page may be open to one privilege only, and lanes may differ in theirs. -/
def State.fetch (s : State) (u : Bundle) : Fetched :=
  match s.block? u.blk with
  | none => .ends s.endWord
  | some b =>
    let va := b.fetchVa u.pc
    let user := u.lanes.filter (fun t => !((b.thread? t).map Thread.sup).getD false)
    let sup := u.lanes.filter (fun t => ((b.thread? t).map Thread.sup).getD false)
    let try' (p : Bool) := s.fetchBytes b.coreId b.decl.ctx va p
    match user.isEmpty, sup.isEmpty with
    | true, _ =>
      match try' true with
      | .ok (bs, s') => s'.decodeFor u b.mode bs
      | .error (a, c, d) => .ends (s.fetchFault u sup a c d).endWord
    | false, true =>
      match try' false with
      | .ok (bs, s') => s'.decodeFor u b.mode bs
      | .error (a, c, d) => .ends (s.fetchFault u user a c d).endWord
    | false, false =>
      match try' false, try' true with
      | .ok (bs, s'), _ => s'.decodeFor u b.mode bs
      | .error (a, c, d), .ok (bs, s') =>
        let u' : Bundle := { u with lanes := sup }
        let s1 := s'.fetchFault u user a c d
        ({ s1 with latch := some u' } : State).decodeFor u' b.mode bs
      | .error (a, c, d), .error _ => .ends (s.fetchFault u u.lanes a c d).endWord

/-! ### Placing a word (the host's withFetchWord) -/

/-- A declared block of one thread that can hold any word. -/
def Decl.lone : Decl :=
  { lid := 1, ctx := 0, prio := 0, regs := 256, preds := 128, tiles := 4, scratch := 1, slots := 1, width := 1, nthr := 1,
    codebase := 0x10000#64, entry := 0, psize := 0, gx := 1, gy := 1, gz := 1, team := 1, part := 1, relaunchable := false,
    maxrel := 0, persistent := false, gridScope := 5, blkScope := 3, grpScope := 2, lrec := 0 }

/-- A block as a Cairn starts it: running on core 0 of cluster 0. -/
def Block.lone (id : Nat) (stage : Stage) : Block :=
  ({ id := id, decl := Decl.lone, bx := 0, by' := 0, bz := 0, pass := 0, attempt := 0, gang := none, brank := 0, teamId := 0,
     stage := stage, cluster := 0, core := 0, sched := 0, placed := 0, ptime := 0, order := 0, params := [], threads := [],
     groups := [], scratch := [], objects := [], xregs := [], tiles := [], slots := [], fm := [], head := 0, mark := 0,
     lastIssue := none, issued := 0, saveAddr := 0, saveSize := 0 } : Block).fresh

/-- Page tables at 0x1000, 0x2000 and 0x4000 of GDDR that map the first 2 GiB onto itself, for any access (R345). -/
def loneTables (m : List Host.Cell) : List Host.Cell :=
  putBytes (putBytes (putBytes m 0x1000 (leBytes 8 0x2001)) 0x2000 (leBytes 8 0x4001)) 0x4000 (leBytes 8 0xE3)

/-- A machine in which a lone block is about to issue the word at its ENTRY. Log entry 4 (DESIGN CHOICE). -/
def State.withLone (s : State) (stage : Stage) : State :=
  { s with
    off := false, fw := { s.fw with state := .idle }, tlb := [], icache := [], seq := s.seq + 1,
    mem := loneTables s.mem,
    contexts := NMap.put Context.reset s.contexts 0 { s.ctx 0 with root := 0x1001#64 },
    blocks := NMap.insert s.blocks s.seq (Block.lone s.seq stage),
    latch := some ⟨s.seq, [0], 0⟩ }

/-- Bytes are placed where the bundle's word is fetched; none where the bundle cannot fetch. -/
def State.placeWord (s : State) (bs : List Byte) : Option State :=
  match s.latch with
  | none => none
  | some u =>
    match s.block? u.blk with
    | none => none
    | some b =>
      if s.off || s.fw.state == .bootRefused || !(s.ilines b.coreId).isEmpty then none
      else
        (List.range 3).foldl (fun acc k =>
          match acc with
          | none => none
          | some s =>
            match s.xlate (coreCaches b.coreId) b.decl.ctx (b.fetchVa u.pc + 4 * k) Need.fetch false 0 with
            | .ok x => some { s with mem := putBytes s.mem x.key ((bs.drop (4 * k)).take 4) }
            | .error _ => none) (some s)

end Sys2Proof.Machine
end

