-- ==== Sys2Proof/Machine/Paired.lean ====
section
/-! DEFINITION. The paired word (R102 to R106). -/

namespace Sys2Proof.Machine

/-- A 9-bit half source as an operand (R103). -/
def halfOpd (x : BitVec 9) : Opd := if x.getLsbD 8 then .special (x.extractLsb' 0 8) else .reg (x.extractLsb' 0 8)

/-- A half as a word of its own: its operands under the common guard. -/
def halfWord (p : Pair) (h : Half) : Word :=
  { grd := p.grd, hnt := p.hnt, d := .reg h.d, a := halfOpd h.a, b := halfOpd h.b, mod := 0, imm := 0 }

/-- The registers of a half; MOV has one source, and an accumulating half reads its destination. -/
def halfForm (h : Half) : Form := { d := out 1, a := anySrc 1, b := if h.sub = 0x0A#6 then .unused else anySrc 1 }

/-- A signed or unsigned comparison of two words. -/
def halfPick (unsigned greater : Bool) (a b : W32) : W32 :=
  let t : ITy := ⟨!unsigned, 32⟩
  BitVec.ofNat 32 (t.image (if greater then max (t.value a.toNat) (t.value b.toNat)
    else min (t.value a.toNat) (t.value b.toNat)))

/-- Both elements of a packed half. -/
def halfPacked (g : Nat → Nat × W32) : Nat × W32 := ((g 0).1 + 2 ^ 16 * (g 1).1, (g 0).2 ||| (g 1).2)

/-- The result of a half-op with its flags (R104): a, b and the old value c of the destination. -/
def halfResult (sub : Nat) (m : BitVec 4) (a b c : W32) : W32 × W32 :=
  let r := Rnd.ofCode (m.toNat % 4)
  let ftz := m.getLsbD 2
  let neg := m.getLsbD 3
  let f := halfFmt neg
  let flt (x : Nat × W32) : W32 × W32 := (BitVec.ofNat 32 x.1, x.2)
  match sub with
  | 0x00 => (a + b, 0)
  | 0x01 => (a - b, 0)
  | 0x02 => (halfPick (m.getLsbD 0) false a b, 0)
  | 0x03 => (halfPick (m.getLsbD 0) true a b, 0)
  | 0x04 => (a &&& b, 0)
  | 0x05 => (a ||| b, 0)
  | 0x06 => (a ^^^ b, 0)
  | 0x07 => (BitVec.ofNat 32 (shlN 32 a.toNat b.toNat), 0)
  | 0x08 => (BitVec.ofNat 32 (shrN 32 a.toNat b.toNat), 0)
  | 0x09 => (BitVec.ofNat 32 (sarN 32 a.toNat b.toNat), 0)
  | 0x0A => (a, 0)
  | 0x0B => flt (addCode .f32 r ftz false neg a.toNat b.toNat)
  | 0x0C => flt (minMax .f32 ftz false a.toNat b.toNat)
  | 0x0D => flt (minMax .f32 ftz true a.toNat b.toNat)
  | 0x0E => (BitVec.ofNat 32 (rotlN 32 a.toNat b.toNat), 0)
  | 0x10 => (a * b, 0)
  | 0x11 =>
    let t : ITy := ⟨!m.getLsbD 0, 32⟩
    (BitVec.ofNat 32 (t.image (mulHigh t (t.value a.toNat) (t.value b.toNat))), 0)
  | 0x12 => flt (mulCode .f32 r ftz false a.toNat b.toNat)
  | 0x13 => flt (fmaCode .f32 r ftz neg false a.toNat b.toNat c.toNat)
  | 0x18 => flt (halfPacked (fun i => addCode f r false false false (half16 a i) (half16 b i)))
  | 0x19 => flt (halfPacked (fun i => mulCode f r false false (half16 a i) (half16 b i)))
  | 0x1A => flt (halfPacked (fun i => fmaCode f r false false false (half16 a i) (half16 b i) (half16 c i)))
  | 0x1B => flt (halfPacked (fun i => minMax f false false (half16 a i) (half16 b i)))
  | _ => flt (halfPacked (fun i => minMax f false true (half16 a i) (half16 b i)))

/-- A half's result in a lane, from the registers as they were before the word. -/
def halfValue (h : Half) (e : Env) : W32 × W32 :=
  halfResult h.sub.toNat h.m (e.word (halfOpd h.a) 0) (e.word (halfOpd h.b) 0) (e.th.reg h.d.toNat)

/-- Both halves read before either writes; half 0's result shifts into the slots first (R106). -/
def execPairedWord (p : Pair) (s : State) : Host.Outcome State Fault Refusal :=
  let w0 := halfWord p p.h0
  let w1 := halfWord p p.h1
  runWord { i := .pairedWord p, w := w0, f := {} } (fun _ e s =>
    if e.th.awaits (halfForm p.h0) w0 || e.th.awaits (halfForm p.h1) w1 then .stay (s.hold e.blk.id e.th.tidx
      (.token (e.th.awaited (halfForm p.h0) w0 ++ e.th.awaited (halfForm p.h1) w1)))
    else if !(e.th.rangesOk e.blk.decl (halfForm p.h0) w0 && e.th.rangesOk e.blk.decl (halfForm p.h1) w1) then
      .trap s (mkTrap 3 0 e.th.pc) 0
    else
      let r0 := halfValue p.h0 e
      let r1 := halfValue p.h1 e
      .done (s.mapThread e.blk.id e.th.tidx (fun t =>
        ((t.result w0.d false [r0.1]).result w1.d false [r1.1]).flag (r0.2 ||| r1.2))) (e.th.pc + 1))
    (fun _ _ s => s) s

end Sys2Proof.Machine
end

