-- ==== Sys2Proof/Machine/Issue.lean ====
section
/-! DEFINITION. The schedulers: which threads are eligible, the bundle of a cycle, the stall accounts, and the events that end
waits (R112 to R119, R195, R335, R345, R375 to R377). -/

namespace Sys2Proof.Machine

/-! ### Waits (R113, R233) -/

/-- A slot of a block, where it exists. -/
def State.slotIs (s : State) (blk slot : Nat) (p : Slot → Bool) : Bool := ((s.slot? blk slot).map p).getD true

/-- The section of a thread satisfies a condition. -/
def State.sectionIs (s : State) (b : Block) (t : Thread) (p : Section → Bool) : Bool :=
  ((s.sectionOf b.id t.tidx).map p).getD false

/-- SEQ that ACQ waits for has been reached, or the word no longer waits for it. -/
def State.acquired (s : State) (b : Block) (t : Thread) (idx : Nat) (target : W64) : Bool :=
  match s.region? b.decl.ctx idx with
  | none => true
  | some r =>
    match s.seqOf ⟨b, t⟩ r with
    | .error _ => true
    | .ok (_, seq) => decide (target.toNat ≤ seq.toNat)

/-- What a waiting thread waits for has come about, so its word can issue again. The waits for other lanes end by themselves, and a
wait for a phase mostly does; a move that the open instance of its slot expects issues again to trap (R267); a lane that a replay
holds stops precisely, with its counters drained (R374, R385). -/
def State.waitOver (s : State) (b : Block) (t : Thread) : Wait → Bool
  | .counters ld st cp tl => t.cnt.within ld st cp tl
  | .full c => decide (t.cnt.get c < 63)
  | .token ops => t.tokens.all (fun k => !ops.contains k.op)
  | .phase off tok _ stamp c => !b.objBefore off stamp && (!c || (b.obj off).phase != tok)
  | .tile i either =>
    let st := (b.tile i).extractLsb' 78 2
    st == tileReady || (either && st == tileEmpty)
  | .closure blk i n => s.slotIs blk i (fun sl => sl.expects (sl.indexOf b t.tidx) ||
      (sl.inst.isNone && !s.heldAhead blk i n false))
  | .acc blk i n _ => s.slotIs blk i (fun sl => sl.expects (sl.indexOf b t.tidx) || !s.interlock blk i n sl)
  | .drains blk i n => s.slotIs blk i (fun sl => !s.statusWait blk i n sl)
  | .table _ _ _ => decide ((s.cluster b.cluster).passes.length < 32)
  | .join _ _ => false
  | .steer off => t.cnt.none && (match off with
      | some o => s.barTurn b t o
      | none => s.turn b t)
  | .meet _ _ _ _ => false
  | .time target _ => decide (target.toNat ≤ s.ptime.toNat)
  | .fxSlot stamp => decide (s.fxAhead b.cluster stamp = 0) && !(s.fxFree b.cluster).isEmpty &&
      !s.sectionIs b t (fun x => x.state != .committed)
  | .fxCommit => s.sectionIs b t (fun x => x.state == .committed)
  | .fxDepth key n => s.sectionIs b t (fun x => decide (s.readDepth x key n < 5))
  | .fxRemote key _ write => s.sectionIs b t (fun x => !s.remoteBlocks x.cluster (key / 32) write)
  | .launch => s.answers.any (fun a => a.blk == b.id && a.tidx == t.tidx && a.pc == t.pc)
  | .performed => t.performed
  | .loaded => t.loaded
  | .written => t.written
  | .acq idx target => s.acquired b t idx target
  | .behind key stamp => t.performed && !b.seqHeld t key stamp
  | .seqRead _ _ _ => true

/-- Counter codes of R113. -/
def Ctr.code : Ctr → Nat
  | .ld => 3
  | .st => 4
  | .cp => 5
  | .tl => 6

/-- The stall code of a wait (R113): FENCE and REL are charged WAIT_ST (R245, R246), ACQ on its SEQ and LAUNCH WAIT_LD (R40,
R246), and a lane that a replay holds TRAPDBG (R385). -/
def Wait.code (t : Thread) : Wait → Nat
  | .counters ld st cp _ =>
    if ld < t.cnt.ld then 3 else if st < t.cnt.st then 4 else if cp < t.cnt.cp then 5 else 6
  | .full c => c.code
  | .token _ => 2
  | .phase _ _ _ _ _ => 7
  | .tile _ _ => 8
  | .closure _ _ _ => 10
  | .acc _ _ _ _ => 9
  | .drains _ _ _ => 9
  | .table _ _ _ => 9
  | .join _ _ => 11
  | .steer _ => 15
  | .meet _ _ _ _ => 11
  | .time _ _ => 14
  | .fxSlot _ => 12
  | .fxCommit => 12
  | .fxDepth _ _ => 12
  | .fxRemote _ _ _ => 12
  | .launch => 3
  | .performed => 4
  | .loaded => 4
  | .written => 3
  | .acq _ _ => 3
  | .behind _ _ => 4
  | .seqRead _ _ _ => 4

/-! ### The next word (R113) -/

/-- The counter that an instruction raises (R125). -/
def counterOf : Instr → Option Ctr
  | .ld _ => some .ld
  | .lds _ => some .ld
  | .ldp _ => some .ld
  | .ldsx _ => some .ld
  | .ldxp _ => some .ld
  | .hgl _ => some .ld
  | .hgw _ => some .ld
  | .atoms _ => some .ld
  | .atom _ => some .ld
  | .atomc _ => some .ld
  | .atomf _ => some .ld
  | .atomw _ => some .ld
  | .st _ => some .st
  | .sts _ => some .st
  | .stsx _ => some .st
  | .stw2 _ => some .st
  | .hga _ => some .st
  | .sha _ => some .st
  | .binit _ => some .st
  | .red _ => some .st
  | .redf _ => some .st
  | .cpy _ => some .cp
  | .cpym _ => some .cp
  | .shf _ => some .cp
  | .wnw _ => some .cp
  | .gln _ => some .cp
  | .adrn _ => some .cp
  | .tlk _ => some .tl
  | .ttag _ => some .tl
  | .tstat _ => some .tl
  | .tinv _ => some .tl
  | .ctr _ => some .tl
  | .ctrs _ => some .tl
  | .ctrsp _ => some .tl
  | .ald _ => some .tl
  | .ast _ => some .tl
  | .azero _ => some .tl
  | .astat _ => some .tl
  | _ => none

/-- The instructions that may have to wait for a phase, a slot, a time or their counters before they issue (R113). -/
def blocker : Instr → Option (State → Host.Outcome State Fault Refusal)
  | .waitc w => some (execWaitc w)
  | .waitt w => some (execWaitt w)
  | .pwait w => some (execPwait w)
  | .ldsx w => some (execLdsx w)
  | .stsx w => some (execStsx w)
  | .ttag w => some (execTtag w)
  | .tinv w => some (execTinv w)
  | .ctr w => some (execCtr w)
  | .ctrs w => some (execCtrs w)
  | .ctrsp w => some (execCtrsp w)
  | .ald w => some (execAld w)
  | .ast w => some (execAst w)
  | .azero w => some (execAzero w)
  | .afree w => some (execAfree w)
  | .astat w => some (execAstat w)
  | _ => none

/-- The next word of a thread, where it can be fetched and is legal. -/
def State.nextInstr (s : State) (b : Block) (t : Thread) : Option Instr :=
  match s.fetchBytes b.coreId b.decl.ctx (b.fetchVa t.pc) t.sup with
  | .error _ => none
  | .ok (bs, _) => (decodeAt b.mode (wordOfBytes bs)).toOption

/-- The wait that the word of a thread would begin with, for the thread alone: a full counter, a token, or what the word itself
waits for. -/
def State.wouldWait (s : State) (b : Block) (t : Thread) (i : Instr) : Option Wait :=
  match formOf i with
  | none => none
  | some (w, f) =>
    let g := t.guard w.grd && decide (w.grd.pred.toNat < b.decl.preds)
    let full := (counterOf i).bind (fun c => if 63 ≤ t.cnt.get c then some (Wait.full c) else none)
    let awaited := t.awaited f w
    if illegalDetail b i f.team ≠ 0 ∨ ((s.sectionOf b.id t.tidx).isSome ∧ sectionForbids (opNum i) = true) then none
    else if g && full.isSome then full
    else if g && !awaited.isEmpty && counterOf i != some .cp then some (.token awaited)
    else match blocker i with
      | none => none
      | some f =>
        match f { s with latch := some ⟨b.id, [t.tidx], t.pc⟩ } with
        | .next s' => ((s'.thread? b.id t.tidx).filter (fun t' => t'.pc == t.pc)).bind Thread.wait
        | _ => none


/-! ### Eligible threads (R113, R116) -/

/-- A thread has yielded and has not become eligible again. -/
def Thread.yielded (t : Thread) : Bool := decide (t.yieldBundles ≠ 0) || decide (t.yieldCc ≠ 0)

/-- A yield has run out: two further bundles have issued, or 32 cc have passed. -/
def Thread.expire (t : Thread) : Thread :=
  if t.yieldBundles = 0 ∨ t.yieldCc = 0 then { t with yieldBundles := 0, yieldCc := 0 } else t

/-- The fetch of the word, a collector or an interlocked result keeps the thread back in this cycle: the times are open, so
a free value says which (log entry 2). Log entry 79 (DESIGN CHOICE). -/
def State.slow (s : State) (b : Block) (t : Thread) : Bool := (s.pick (1 + b.id % 512)).testBit t.tidx

/-- The thread stands at an instruction boundary: it waits for nothing, or for what has come about. -/
def State.unheld (s : State) (b : Block) (t : Thread) : Bool :=
  match t.wait with
  | none => true
  | some w => s.waitOver b t w

/-- The aborted section of a thread that is about to issue its next word (R330). Log entry 97 (DEDUCED). -/
def State.abortDue (s : State) (b : Block) (t : Thread) : Option Section :=
  match s.sectionOf b.id t.tidx with
  | some x => if x.state = .aborted ∧ s.unheld b t = true ∧ s.canIssue b t = true then some x else none
  | none => none

def execAbortDelivery (blk tidx : Nat) (s : State) : Host.Outcome State Fault Refusal :=
  match s.block? blk with
  | none => .next s.tick
  | some b =>
    match b.thread? tidx with
    | none => .next s.tick
    | some t =>
      match s.abortDue b t with
      | some x => .next (s.deliverAbort b t x).tick
      | none => .next s.tick

/-- BEXP and PTEST of the thread have been applied (R236, R237). -/
def Thread.applied (t : Thread) : Bool :=
  t.tokens.all (fun k => k.val.isSome || match k.ev with
    | .expect _ => false
    | .test _ _ => false
    | _ => true)

/-- The thread could issue but for the times of fetch and results. Log entry 97 (DEDUCED). -/
def State.ready (s : State) (b : Block) (t : Thread) : Bool :=
  s.canIssue b t && !t.yielded && (s.abortDue b t).isNone && (b.stage != .restoring || !t.resumed) && t.applied && s.unheld b t

def State.eligible (s : State) (b : Block) (t : Thread) : Bool := s.ready b t && !s.slow b t

/-- PCs of the eligible runs of a block, ascending. -/
def State.runs (s : State) (b : Block) : List W32 :=
  (((b.threads.filter (s.eligible b)).map Thread.pc).foldl (fun ps p =>
    if ps.contains p then ps
    else (ps.filter (fun q => decide (q.toNat < p.toNat))) ++ p :: (ps.filter (fun q => decide (p.toNat < q.toNat)))) [])

/-- Threads of the run at a PC, in ascending TIDX. -/
def State.runAt (s : State) (b : Block) (pc : W32) : List Nat :=
  ((b.threads.filter (fun t => s.eligible b t && t.pc == pc)).map Thread.tidx)

/-- R115: the run that a selected block issues, with H and S after it. -/
def chooseRun (h : Nat) (mark : W32) : List W32 → Option (W32 × Nat × W32)
  | [] => none
  | [p] => some (p, 0, mark)
  | p :: rest =>
    if h = 64 then
      let q := (rest.find? (fun q => decide (mark.toNat < q.toNat))).getD (rest.headD p)
      some (q, 0, q)
    else some (p, h + 1, mark)

/-! ### Stall accounts (R375, R376) -/

/-- The first condition of R113 that holds for a thread that is not eligible. A thread that its partition's halt has stopped is charged
TRAPDBG, and one whose BEXP or PTEST is not applied COLLECTOR: the model's choice, no row of R113 names them. Log entries
98 (DEDUCED), 108 (DESIGN CHOICE). -/
def State.stallCode (s : State) (b : Block) (t : Thread) : Nat :=
  if t.yielded then 0
  else if s.ready b t then (if s.pick 600 % 2 = 0 then 1 else 2)
  else if ((b.group? (b.gidOf t.tidx)).map Group.desched).getD false then 13
  else if t.trap.isSome || t.life ≠ .live then 15
  else match t.wait with
    | some (.meet m w n g) =>
      if !m.cross && b.stage != .running then 5 else Wait.code t (.meet m w n g)
    | some w => Wait.code t w
    | none => if t.applied then 15 else 2

/-- A block of the active context of its partition that stands on its core. -/
def State.resident (s : State) (b : Block) : Bool :=
  match b.stage with
  | .pending => false
  | .saved => false
  | .retired => false
  | .prologue => true
  | _ =>
    match s.partitionOf b.cluster with
    | some n => (s.partition n).actx == some b.decl.ctx
    | none => false

/-- The blocks that a scheduler holds. -/
def State.onSched (s : State) (core sched : Nat) : List Block :=
  (s.blocks.map Prod.snd).filter (fun b => b.coreId == core && b.sched == sched && s.resident b)

/-- The reason charged for a scheduler without an eligible thread. Log entry 98 (DEDUCED). -/
def State.charged (s : State) (bs : List Block) : Nat :=
  let alive (b : Block) : List Thread := b.threads.filter (fun t => t.life != .exited)
  match leastBy Block.placed (bs.filter (fun b => !(alive b).isEmpty)) with
  | none => 15
  | some b =>
    let g := ((alive b).map (fun t => b.gidOf t.tidx)).foldl min 1024
    match leastBy (fun (t : Thread) => t.pc.toNat * 1024 + t.tidx) ((alive b).filter (fun t => b.gidOf t.tidx == g)) with
    | none => 15
    | some t => s.stallCode b t

/-- A counter of a scheduler counts one cycle. -/
def SchedRegs.bump (r : SchedRegs) (i : Nat) : SchedRegs :=
  if r.freeze then r else { r with counts := NMap.put 0 r.counts i (addSat (NMap.read 0 r.counts i) 1 64) }

/-- Threads whose next word could not issue begin to wait, or wait again for something else, before a bundle is chosen (R113). -/
def State.peek (s : State) (bs : List Block) : State :=
  bs.foldl (fun s b => b.threads.foldl (fun s t =>
    match (if s.ready b t then (s.nextInstr b t).bind (s.wouldWait b t) else none) with
    | some w => ({ s with seq := s.seq + 1 } : State).hold b.id t.tidx w
    | none => s) s) s

/-- The accounts of one cycle. -/
def State.account (s : State) (core sched : Nat) : State :=
  let bs := s.onSched core sched
  let n := (bs.map (fun b => ((s.runs b).map (fun pc => ((s.runAt b pc).length + 63) / 64)).sum)).sum
  s.mapSched (2 * core + sched) (fun r =>
    if bs.isEmpty then r.bump 33
    else if n = 0 then (r.bump 0).bump (17 + s.charged bs)
    else r.bump (min n 16))

/-! ### Errors of the part (R119, R350) -/

/-- Registers of a core that its blocks hold. -/
def State.regsHeld (s : State) (core : Nat) : Nat :=
  ((s.allBlocks.filter (fun b => b.coreId == core && s.resident b)).map (fun b => b.decl.nthr * b.decl.regs)).sum

/-- A copy of a live register of a core exists (R119), unless it has been dropped for a parity error of its own, as the free value says:
every one has its copy where the registers that no block has allocated suffice, none has where all are allocated, and in between the
free value says. -/
def State.copied (s : State) (core : Nat) : Bool :=
  let held := s.regsHeld core
  let spare := Config.regsPerCore - held
  decide (0 < spare) && s.pick 705 % 4 != 3 && (decide (held ≤ spare) || s.pick 703 % 2 == 0)

/-- A field reads vector registers. -/
def readsRegs (u : Use) (o : Opd) : Bool :=
  match u, o with
  | .src _ _ _, .reg _ => true
  | .src _ _ _, .idx _ _ => true
  | .plain _, .reg _ => true
  | _, _ => false

/-- The forms under which an instruction reads its operands: a half of a paired word each has its own (R103, R106). -/
def readForms : Instr → List (Form × Word)
  | .pairedWord p => [(halfForm p.h0, halfWord p p.h0), (halfForm p.h1, halfWord p p.h1)]
  | i => ((formOf i).map (fun x => (x.2, x.1))).toList

/-- The instruction reads a register; an accumulating half reads its destination (R104). -/
def regsRead (i : Instr) : Bool :=
  (readForms i).any (fun x => readsRegs x.1.a x.2.a || readsRegs x.1.b x.2.b || readsRegs x.1.c x.2.c) ||
    match i with
    | .pairedWord p => [p.h0.sub, p.h1.sub].any (fun n => n == 0x13#6 || n == 0x1A#6)
    | _ => false

/-- The instruction reads a predicate other than P0, which is no register, besides its guard: an operand, the carry in of IADDC or the
choice of SEL. -/
def predRead : Instr → Bool
  | .sel w => modF w 0 7 != 0
  | .iaddc w => immF w 0 7 != 0
  | .tlk _ => false
  | i => (readForms i).any (fun x => [(x.1.a, x.2.a), (x.1.b, x.2.b), (x.1.c, x.2.c)].any (fun y => match y with
    | (.pred n, .reg k) => decide (1 < n) || k != 0
    | _ => false))

/-- A lane finds a parity error in a register or predicate that its word reads (R119): a register is repaired from its copy, and
without one the thread raises PARITY_UNREPAIRED. Counts are those of a cluster, which a prologue's core does not belong to. -/
def State.parityUpset (s : State) (u : Bundle) (b : Block) : State :=
  let tidx := u.lanes.getD (s.pick 702 % u.lanes.length) 0
  match b.thread? tidx with
  | none => s
  | some t =>
    match s.nextInstr b t with
    | none => s
    | some i =>
      let grd := ((readForms i).head?.map (fun x => x.2.grd)).getD ⟨false, 0⟩
      let count (s : State) (g : State → State) : State := if b.stage = .prologue then s else g s
      let bad := count (s.takeTrap u.blk tidx (mkTrap 0xD 0 u.pc)) (fun s => s.parityError b.cluster)
      if t.guard grd && regsRead i && s.pick 704 % 2 == 0 then
        if s.copied b.coreId then
          count s (fun s => s.mapCluster b.cluster (fun c => { c with parRep := addSat c.parRep 1 16 }))
        else bad
      else if grd.pred != 0 || (t.guard grd && predRead i) then bad
      else s

/-- A parity error that a lane of the bundle reads, a corrected error, or an uncorrectable one in a sector of memory, as the free
values say. -/
def State.upset (s : State) (u : Bundle) (b : Block) : State :=
  match s.pick 700 % 8 with
  | 1 => s.parityUpset u b
  | 2 => if b.stage = .prologue then s else s.mapCluster b.cluster (fun c => { c with eccCor := addSat c.eccCor 1 16 })
  | 3 => { s with poison := if s.poison.contains (s.pick 701) then s.poison else s.poison ++ [s.pick 701] }
  | _ => s

/-! ### The cycle (R114) -/

/-- Of blocks with an eligible run, those of highest priority whose last bundle issued longest ago.
Log entry 79 (DESIGN CHOICE). -/
def State.candidates (s : State) (bs : List Block) : List Block :=
  let live := bs.filter (fun b => !(s.runs b).isEmpty)
  let top := (live.map (fun b => b.decl.prio)).foldl max 0
  let age (b : Block) : Nat := match b.lastIssue with
    | none => 0
    | some n => n + 1
  let best := live.filter (fun b => b.decl.prio == top)
  let old := (leastBy age best).map age
  best.filter (fun b => some (age b) == old)

/-- Yields of a scheduler's threads count down: cycles, and bundles where one issues. -/
def State.countYields (s : State) (bs : List Block) (issued : Bool) : State :=
  bs.foldl (fun s b => s.mapBlock b.id (fun b => b.mapThreads (fun t =>
    { t with yieldCc := t.yieldCc - 1, yieldBundles := if issued then t.yieldBundles - 1 else t.yieldBundles }))) s

/-- A bundle issues: the block remembers it, and the scheduler's sample names its first thread (R377). R43 does not say whether a word of a
prologue that is replayed after a translation fault counts again: that each issue counts is the model's choice (log entry 118, DESIGN
CHOICE). -/
def State.issueRun (s : State) (b : Block) (core sched : Nat) (run : W32 × Nat × W32) : State :=
  let lanes := (s.runAt b run.1).take 64
  let t := lanes.headD 0
  let s1 : State := ({ s with seq := s.seq + 1, latch := some ⟨b.id, lanes, run.1⟩ } : State).mapBlock b.id (fun b =>
    { b with head := run.2.1, mark := run.2.2, lastIssue := some s.seq, issued := b.issued + 1 })
  s1.mapSched (2 * core + sched) (fun r => { r with
    lastA := BitVec.ofNat 32 b.decl.lid ++ run.1,
    lastB := BitVec.ofNat 16 b.bz ++ BitVec.ofNat 16 b.by' ++ BitVec.ofNat 32 b.bx, lastC := BitVec.ofNat 64 t })

/-- The test for a replay in which every lane is held (R386). -/
def State.steer (s : State) : State :=
  s.replaying.foldl (fun s p => s.replayStuck p.blk (fun s b t => match t.wait with
    | some (.steer off) => t.cnt.none && !s.waitOver b t (.steer off)
    | _ => false)) s

/-- A line of the MSC may be replaced (R208), as the free value says. -/
def State.evictMsc (s : State) : State :=
  match s.msc[s.pick 803 % (2 * s.msc.length)]? with
  | some l => s.dropMsc (fun x => x == l)
  | none => s

/-- The threads of a block whose yields are over. -/
def State.expireYields (s : State) (bs : List Block) : State :=
  bs.foldl (fun s b => s.mapBlock b.id (fun b => b.mapThreads Thread.expire)) s

/-- One cc of a scheduler. Cores 256 and 257 are those of the Massif (R388); a prologue runs on the first, within its budget (R43). -/
def State.cycle (s : State) (core sched : Nat) : State :=
  let s0 := s.steer.evictMsc
  let s1 : State := { s0 with ptime := s0.ptime + BitVec.ofNat 64 (s0.pick 800 % 65536) }
  let s2 := ((s1.expireYields (s1.onSched core sched)).peek (s1.onSched core sched)).account core sched
  let bs := (s2.onSched core sched).filter (fun b => b.mode != .prologue || decide (b.issued < prologueBudget))
  let cs := s2.candidates bs
  match cs[s2.pick 801 % cs.length]? with
  | none => s2.countYields bs false
  | some b =>
    match chooseRun b.head b.mark (s2.runs b) with
    | none => s2.countYields bs false
    | some run =>
      let s3 := (s2.issueRun b core sched run).countYields bs true
      match s3.latch with
      | some u => s3.upset u b
      | none => s3

/-- Log entry 100 (DESIGN CHOICE). -/
def execIssueCycle (core sched : Nat) (s : State) : Host.Outcome State Fault Refusal :=
  .next (if 2 ≤ sched ∨ 258 ≤ core ∨ s.latch.isSome = true then s else s.cycle core sched).tick

/-! ### Ends of waits -/

def execYieldExpiry (blk tidx : Nat) (s : State) : Host.Outcome State Fault Refusal :=
  .next (s.mapThread blk tidx Thread.expire).tick

/-- The tokens of a thread's applied arrivals are written (R237). -/
def execResultWrite (blk tidx : Nat) (s : State) : Host.Outcome State Fault Refusal :=
  .next (s.mapThread blk tidx Thread.writeTokens).tick

/-- Pod time reaches the target of a WAITT that can go on, and the thread retires the word (R195).
Log entry 99 (DESIGN CHOICE). -/
def execTimeWaitExpiry (blk tidx : Nat) (s : State) : Host.Outcome State Fault Refusal :=
  match s.block? blk with
  | none => .next s.tick
  | some b =>
    match b.thread? tidx with
    | none => .next s.tick
    | some t =>
      match t.wait with
      | some (.time target yld) =>
        if s.canIssue b t then
          let s1 : State := { s with ptime := if s.ptime.toNat < target.toNat then target else s.ptime }
          .next (s1.completeLane blk tidx (t.pc + 1) yld (b.stepping.contains (b.gidOf tidx))).tick
        else .next s.tick
      | _ => .next s.tick

/-! ### Trap entry (R127, R335, R351) -/

/-- The trap of a thread whose counters stand at 0 is entered. A PREEMPT first learns of an aborted section (R330). -/
def execTrapEntry (blk tidx : Nat) (s : State) : Host.Outcome State Fault Refusal :=
  match s.block? blk with
  | none => .next s.tick
  | some b =>
    match b.thread? tidx with
    | none => .next s.tick
    | some t =>
      match t.trap with
      | none => .next s.tick
      | some tr =>
        if !handled tr.cause || !t.cnt.none then .next s.tick
        else if t.inTrap then .next (s.preemptAgain b t).tick
        else match s.sectionOf blk tidx with
          | some x =>
            if x.state = .aborted then
              .next ((s.deliverSection x).enterHandler b t { tr with pc := x.target }).tick
            else .next (s.enterHandler b t tr).tick
          | none => .next (s.enterHandler b t tr).tick

/-! ### Walks (R345, R346) -/

/-- A thread that stands at a word of a page takes the fault of its fetch, at the first byte of the word in that page (R89). -/
def State.walkFault (s : State) (ctx page cause detail : Nat) (who : Block → Thread → Bool) : State :=
  s.blocks.foldl (fun s e =>
    let b := e.2
    if b.decl.ctx ≠ ctx then s
    else b.threads.foldl (fun s t =>
      let va := vaOf (b.decl.codebase + BitVec.ofNat 64 (12 * t.pc.toNat))
      if s.canIssue b t && who b t && (va / 65536 == page || (va + 11) / 65536 == page) then
        s.takeTrap b.id t.tidx { cause := cause, detail := BitVec.ofNat 32 detail,
                                 faddr := BitVec.ofNat 64 (max va (page * 65536)), pc := t.pc,
                                 fetch := true } Need.fetch.acc
      else s) s) s

/-- A walk completes: its leaf enters the caches of a core, which the free value names, or, for a fetch, it ends in a fault. -/
def execTranslationWalk (ctx page acc : Nat) (s : State) : Host.Outcome State Fault Refusal :=
  let va := page * 65536
  match s.walk ctx va with
  | .ok (leaf, lo) =>
    let s1 := s.cacheLeaf (coreCaches (s.pick 804 % 256)) ctx va ⟨leafKey leaf lo va, leaf, lo⟩
    .next (if acc / 4 % 2 = 1 then
        s1.walkFault ctx page 6 3 (fun _ t => !leafAllows leaf Need.fetch t.sup) else s1).tick
  | .error d => .next (if acc / 4 % 2 = 1 then
      s.walkFault ctx page 5 d (fun b _ => (s.cached (coreCaches b.coreId) ctx va).isEmpty) else s).tick

end Sys2Proof.Machine
end

