-- ==== Sys2Proof/Machine/Perform.lean ====
section
/-! DEFINITION. Counted operations are performed: loads return, stores and atomics reach their home, tile operations retire, and
CTRS operands are read (R125, R126, R206 to R243, R263, R298 to R306, R312 to R314). -/

namespace Sys2Proof.Machine

/-! ### Order (R212, R216, R236, R242, R300, R305, R306) -/

/-- Earlier operations of the thread hold this one back: those on the same bytes, an earlier SC operation or, for an SC one,
any earlier access. -/
def Thread.holds (t : Thread) (blk : Nat) (p q : Pend) : Bool :=
  decide (q.op < p.op) && q.isAccess && (q.act.meets blk p.act || q.act.scope != 0 || p.act.scope != 0) && t.pend.contains q

/-- Earlier operations of the block on a tile slot: a TTAG or TINV waits for the accesses, an access for the TTAG or TINV
(R216). -/
def Block.slotHeld (b : Block) (p : Pend) : Bool :=
  let before (q : Pend → Bool) : Bool := b.threads.any (fun u => u.pend.any (fun x => decide (x.op < p.op) && q x))
  match p.act, p.slot with
  | .tile i, _ => before (fun q => q.slot == some i)
  | _, some i => before (fun q => q.act == .tile i)
  | _, none => false

/-- An event of an object waits for those before it in issue order, a BINIT also for what was stored before it where it makes an object
(R236), and for an arrival that an earlier CTRS of its thread has still to make (R263). -/
def Block.objHeld (b : Block) (t : Thread) (p : Pend) : Bool :=
  let makes (q : Pend) : Bool := match p.act with
    | .binit off _ _ => q.act.meetsObj b.id off
    | _ => false
  b.objWrite p && (!t.ctrsBefore p.op || b.threads.any (fun u =>
    u.tokens.any (fun k => k.val.isNone && decide (k.op < p.op)) ||
    u.pend.any (fun q => decide (q.op < p.op) && (b.objWrite q || makes q))))

/-- Earlier operations hold this one back: the thread's own, those on its tile slot, events of objects, and earlier atomics of
the block on the same bytes, an ACQ or REL on its SEQ among them (R242, R246). -/
def Block.held (b : Block) (t : Thread) (p : Pend) : Bool :=
  t.pend.any (t.holds b.id p) || b.slotHeld p || b.objHeld t p ||
    (p.act.isAtom && b.threads.any (fun u => u.pend.any (fun q =>
      decide (q.op < p.op) && q.act.isAtom && q.act.meets b.id p.act) ||
      ((u.wait.bind Wait.onSeq).map (fun x => p.act.onSeq b.id x.1 && decide (x.2 ≤ p.op))).getD false))

/-! ### Poison (R350) -/

/-- What an operation reads, for the check of R350. Log entry 30 (DEDUCED). -/
def Act.reads (blk : Nat) : Act → List Span
  | .store _ => []
  | .binit _ _ _ => []
  | .append _ _ _ _ _ _ => []
  | a => a.spans blk

/-! ### Landing (R126) -/

/-- The result of the counted operation at `op` lands in the registers that it still writes. -/
def Thread.land (t : Thread) (op : Nat) (dst : List (Option Nat)) (vals : List W32) : Thread :=
  (dst.zip vals).foldl (fun t e => match e.1 with
    | some n => t.landReg op n e.2
    | none => t) t

/-- Bytes of a parameter copy (R211). -/
def Block.paramBytes (b : Block) (off n : Nat) : List Byte := (List.range n).map (fun i => b.param (off + i))

/-- A plain load of k elements of n bytes through the load cache, and the line it leaves (R210, R299). Log entry 27 (DEDUCED). -/
def State.loadCached (s : State) (b : Block) (va key n k : Nat) (ev : Bool) : List Byte × State :=
  let s0 := if ev then s.dropLine b.coreId key else s
  let bs := ((List.range k).map (fun j => s0.cachedBytes b.coreId (key + n * j) n (s0.pick (40 + j)))).flatten
  let old := ((NMap.lookup (s0.lines b.coreId) (lineOf key)).map (fun l => (l.bytes.drop (key - lineOf key)).take (n * k))).getD []
  (bs, if bs = old then s0 else s0.fillLine b.coreId b.decl.ctx va key)

/-- Bytes that a load reads. A prologue's loads observe memory at device scope, so no line stands between (R43). -/
def State.loadBytes (s : State) (b : Block) (src : Loc) (va n k : Nat) (nc ev : Bool) : List Byte × State :=
  match src with
  | .phys key => if nc || b.stage == .prologue then (s.bytes key (n * k), s) else s.loadCached b va key n k ev
  | .scratch blk o => (((s.block? blk).map (fun x => x.sbytes o (n * k))).getD (List.replicate (n * k) 0), s)
  | .param o => (b.paramBytes o (n * k), s)
  | .ones => (List.replicate (n * k) 0xFF#8, s)

/-- The element of n bytes at a place, little-endian, read as a plain load reads it (R230, R300). -/
def State.loadPlace (s : State) (b : Block) (p : Place) (n k : Nat) : Nat × State :=
  match p.loc with
  | .phys key =>
    if p.nc then (s.word key n, s)
    else
      let r := ({ s with free := s.free + k } : State).loadCached b p.va key n 1 false
      (leNat r.1, { r.2 with free := s.free })
  | .ones => (2 ^ (8 * n) - 1, s)
  | _ => (0, s)

/-- Elements at several places, in order. -/
def State.loadPlaces (s : State) (b : Block) (n k : Nat) : List Place → List Nat × State
  | [] => ([], s)
  | p :: ps =>
    let r := s.loadPlace b p n k
    let rest := r.2.loadPlaces b n (k + 1) ps
    (r.1 :: rest.1, rest.2)

/-! ### Atomics (R241 to R243) -/

/-- An element of a binary tree of additions: two of the values are added until one is left. -/
def treeAdd (add : Nat → Nat → Nat) (pick : Nat → Nat) : Nat → List Nat → Nat
  | 0, vs => vs.headD 0
  | n + 1, vs =>
    if vs.length ≤ 1 then vs.headD 0
    else
      let i := pick (2 * n) % vs.length
      let rest := vs.eraseIdx i
      let j := pick (2 * n + 1) % rest.length
      treeAdd add pick n (add (vs.getD i 0) (rest.getD j 0) :: rest.eraseIdx j)

/-- An operation of a thread that is SC at a scope takes effect as such, or scope is 0 (R305). -/
def State.scEffect (s : State) (b : Block) (tidx scope op : Nat) : State :=
  if scope = 0 then s
  else ((s.scBefore scope).scAfter scope b.coreId).takeOrder b.coreId b.id tidx scope
    (scopeInst scope b.coreId b.id (b.gidOf tidx)) op

/-- A request to add to a floating-point element that a router may combine with others: block, thread, operation, which of its
additions, the operand, and the scope of an SC operation, or 0. -/
structure Request where
  blk : Nat
  tidx : Nat
  op : Nat
  idx : Nat
  operand : Nat
  sc : Nat
  deriving DecidableEq, Repr

/-- The request of an atomic to add to a location, if it is one that may be combined: a REDF.fadd whose page allows merging
(R243). -/
def Act.merges (a : Act) (loc : Loc) (fmt : Nat) : Option Nat :=
  match a with
  | .atom l _ (.flt 0 f) v _ _ true [] => if l = loc ∧ f = fmt then some v.toNat else none
  | _ => none

/-- The requests of a block that may join the run of one at a location: its atomics there in issue order, as long as each may
be combined and nothing but those before it holds it back (R242, R243). -/
def Block.mergeRun (b : Block) (loc : Loc) (fmt op : Nat) : List Request :=
  let there := (b.threads.map (fun t => (t.pend.filter (fun p => p.op != op && p.act.isAtom &&
    (p.act.spans b.id).any (fun x => (loc.span 0 4).any x.meets))).map (fun p => (t, p)))).flatten
  let sorted := there.mergeSort (fun x y => decide (x.2.op ≤ y.2.op))
  (sorted.foldl (fun (acc : List Request × Bool) x =>
    match x.2.act.merges loc fmt with
    | some v =>
      let free := x.1.pend.all (fun q => !x.1.holds b.id x.2 q || q.op == op || acc.1.any (fun r => r.op == q.op))
      if acc.2 && free then (acc.1 ++ [⟨b.id, x.1.tidx, x.2.op, 0, v, x.2.act.scope⟩], true) else (acc.1, false)
    | none => (acc.1, false)) ([], true)).1

/-- The additions of the block's HGA words to a location that may be combined; those of one word collide and combine too (R231, R243). -/
def Block.mergeGrads (b : Block) (loc : Loc) (fmt : Nat) : List Request :=
  (b.threads.map (fun t => (t.pend.map (fun p => match p.act with
    | .gradients adds => if fmt = 0 then
        (adds.zipIdx.filter (fun a => a.1.mrg && loc == .phys a.1.key)).map (fun a => ⟨b.id, t.tidx, p.op, a.2, a.1.value.toNat, 0⟩)
      else []
    | _ => [])).flatten)).flatten

/-- The requests that a router combines with one at a location: of each block a first part of its run, and any of its gradients,
as the free values say. Log entry 29 (DEDUCED). -/
def State.chosen (s : State) (loc : Loc) (fmt op : Nat) : List Request :=
  (s.blocks.zipIdx.map (fun e =>
    let run := e.1.2.mergeRun loc fmt op
    run.take (s.pick (560 + e.2 % 40) % (run.length + 1)) ++
      ((e.1.2.mergeGrads loc fmt).zipIdx.filter (fun g => (s.pick (60 + g.2 / 64 % 4)).testBit (g.2 % 64))).map Prod.fst)).flatten

/-- Combined requests have acted, those that are SC operations as such (R305); their own events count them down. -/
def State.mergeAway (s : State) (rs : List Request) : State :=
  let s1 := rs.foldl (fun s r => match s.block? r.blk with
    | some b => s.scEffect b r.tidx r.sc r.op
    | none => s) s
  (rs.map (fun r => (r.blk, r.tidx))).dedup.foldl (fun s k => s.mapThread k.1 k.2 (fun t => { t with pend := t.pend.map (fun p =>
    let mine := rs.filter (fun r => r.blk == k.1 && r.tidx == k.2 && r.op == p.op)
    if mine.isEmpty then p
    else { p with act := match p.act with
      | .gradients adds => .gradients ((adds.zipIdx.filter (fun a => !mine.any (fun r => r.idx == a.2))).map Prod.fst)
      | _ => .done }) })) s1

/-- What an addition whose page allows merging leaves: the old value, its operand and those of the requests that are combined with it are
the leaves of some binary tree (R243); with the threads whose operations are done. -/
def State.combined (s : State) (loc : Loc) (fmt old v op : Nat) : Nat × State × List (Knower × Nat) :=
  let ms := s.chosen loc fmt op
  (if ms.isEmpty then atomFloat 0 fmt old v
    else treeAdd (atomFloat 0 fmt) (fun k => s.pick 64 / 65536 ^ k) (ms.length + 1) (old :: v :: ms.map Request.operand),
    s.mergeAway ms, ms.map (fun r => (.thread r.blk r.tidx, r.op)))

/-- The value at a location, little-endian. -/
def State.valueAt (s : State) (loc : Loc) (n : Nat) : Nat :=
  match loc with
  | .phys k => s.word k n
  | .scratch b o => ((s.block? b).map (fun x => leNat (x.sbytes o n))).getD 0
  | .param _ => 0
  | .ones => 0

/-- Bytes are performed at a location by the CORE path (R298, R307). -/
def State.storeAt (s : State) (core : Option Nat) (loc : Loc) (bs : List Byte) : State :=
  match loc with
  | .phys k => (s.note 0 k (s.bytes k bs.length) .core).write core k bs
  | .scratch b o => (s.note (2 + b) o (((s.block? b).map (fun x => x.sbytes o bs.length)).getD []) .core).storeScratch b o bs
  | .param _ => s
  | .ones => s

/-! ### One operation -/

/-- Registers of an expanded row (R221): element j of the row at position pos j, zero elsewhere, and the tail predicate. -/
def expandRow (esz kv : Nat) (pos : List Nat) (elems : List Nat) : List W32 × Bool :=
  let row := (List.range 64).map (fun i =>
    match pos.idxOf? i with
    | some j => if i < kv then elems.getD j 0 else 0
    | none => 0)
  let bytes := (row.map (fun v => leBytes esz v)).flatten
  ((List.range (16 * esz)).map (fun r => BitVec.ofNat 32 (leNat ((bytes.drop (4 * r)).take 4))), pos.any (fun p => decide (kv ≤ p)))

/-- An atomic at its home (R241). `read` is what it has read already, where the port read before another agent wrote. -/
def State.performAtom (s : State) (b : Block) (t : Thread) (op : Nat) (loc : Loc) (kind : AtomKind) (v c sc : Nat) (mrg : Bool)
    (dst : List (Option Nat)) (read : Option Nat) : State :=
  let old := read.getD (s.valueAt loc kind.size)
  let m := match kind with
    | .flt 0 fmt => if mrg && dst.isEmpty then s.combined loc fmt old v op else (kind.apply old v c, s, [])
    | _ => (kind.apply old v c, s, [])
  let s1 := (m.2.1.storeAt (some b.coreId) loc (leBytes kind.size m.1)).credit m.2.1.lastWrite (some b.coreId)
    ((.thread b.id t.tidx, op) :: m.2.2)
  (s1.scEffect b t.tidx sc op).mapThread b.id t.tidx (fun t => t.land op dst (natWords dst.length old))

/-- One addition of a gradient, with those combined with it (R231, R243). -/
def State.addGrad (s : State) (b : Block) (tidx op : Nat) (g : Grad) (read : Option Nat) : State :=
  let old := read.getD (s.word g.key 4)
  let m := if g.mrg then s.combined (.phys g.key) 0 old g.value.toNat op else (atomFloat 0 0 old g.value.toNat, s, [])
  (m.2.1.storeAt (some b.coreId) (.phys g.key) (leBytes 4 m.1)).credit m.2.1.lastWrite (some b.coreId) ((.thread b.id tidx, op) :: m.2.2)

/-- The operation of a thread becomes another. -/
def State.setAct (s : State) (b t op : Nat) (a : Act) : State :=
  s.mapThread b t (fun t => { t with pend := t.pend.map (fun p => if p.op = op then { p with act := a } else p) })

/-- One of a word's gradients is added; the others stay to be added, or are combined with it (R231). -/
def State.oneGrad (s : State) (b : Block) (t : Thread) (op : Nat) (adds : List Grad) (i : Nat) (read : Option Nat) : State :=
  match adds[i]? with
  | some g => (s.setAct b.id t.tidx op (.gradients (adds.eraseIdx i))).addGrad b t.tidx op g read
  | none => s

/-- What is left of an operation that a later event performs: the gradients of a word are added one by one (R231). -/
def State.leftOf (s : State) (blk tidx op : Nat) : Option Act :=
  ((s.thread? blk tidx).bind (fun t => t.pend.find? (fun p => p.op == op))).bind (fun p => match p.act with
    | .gradients (g :: gs) => some (.gradients (g :: gs))
    | _ => none)

/-- The key of a location, in memory or in a scratchpad. -/
def Loc.key : Loc → Nat
  | .phys k => k
  | .scratch b o => scratchKey b o
  | _ => 0

/-- The effect of an operation at its home, and on its thread. Log entry 26 (DESIGN CHOICE). -/
def State.performAct (s : State) (b : Block) (t : Thread) (p : Pend) : State :=
  let core := some b.coreId
  let on (s : State) (f : Thread → Thread) : State := s.mapThread b.id t.tidx f
  match p.act with
  | .load src va n k sx nc ev dst =>
    let r := s.loadBytes b src va n k nc ev
    let vals := if src = .ones then dst.map (fun _ => 0xFFFFFFFF#32) else elements n k sx r.1
    on r.2 (fun t => t.land p.op dst vals)
  | .deliver dst vals preds flags => on s (fun t => ((t.land p.op dst vals).setPreds preds).flag flags)
  | .store ps => ((ps.foldl (fun s x => s.storeAt core x.1 x.2) s).cleanAll (ps.map (fun x => (x.1.key, x.2.length)))).credit
      s.lastWrite core [(.thread b.id t.tidx, p.op)]
  | .atom loc _ kind v c sc mrg dst => s.performAtom b t p.op loc kind v.toNat c.toNat sc mrg dst none
  | .gradients adds => s.oneGrad b t p.op adds (s.pick 70 % adds.length) none
  | .expand src esz kv pos dst tail =>
    let l := s.loadPlaces b esz 200 src
    let r := expandRow esz kv pos l.1
    on l.2 (fun t => (t.land p.op dst r.1).setPred tail r.2)
  | .features rows fmts nan dst cp clamped =>
    let l := rows.zipIdx.foldl (fun (acc : List (W32 × W32) × State) e =>
      let f := fmts.getD e.2 0
      let r := acc.2.loadPlaces b (if f = 0 then 4 else 2) (300 + 16 * e.2) (e.1.map Term.place)
      (acc.1 ++ [featureSum f nan ((e.1.map Term.weight).zip r.1)], r.2)) ([], s)
    on l.2 (fun t => ((t.land p.op dst (l.1.map Prod.fst)).setPred cp clamped).flag (l.1.foldl (fun f r => f ||| r.2) 0))
  | .binit off expa drop => s.performBinit b.id t.tidx p.pc off expa drop
  | .append ctx _ _ base cap record => ((s.append b t ctx base cap record).toOption).getD s
  | .done => s
  | .tile _ => s
  | .ctrs _ _ _ _ _ _ _ => s

/-- An operation has acted: it is counted down, or what is left of it waits. -/
def State.finishAct (s : State) (b : Block) (t : Thread) (p : Pend) (left : Option Act) : State :=
  match left with
  | some a => s.setAct b.id t.tidx p.op a
  | none => (s.finishOp b.id t.tidx p.op).settled b.id t.tidx

/-- A page refuses an append: where it is missing the thread's group waits for it and the append stays to be performed (R333,
R347); where it forbids the write the block takes the fault (R286). -/
def State.appendFault (s : State) (b : Block) (t : Thread) (p : Pend) (va cause detail : Nat) : State :=
  let tr := memTrap cause (BitVec.ofNat 32 detail) va p.pc true
  let fault := s.fatal b (s.entryFor b t.tidx tr 0)
  let g := b.gidOf t.tidx
  if cause ≠ 5 then fault
  else match s.pageRequest b.decl.ctx va cause (Need.both.acc + 16 * t.sup.toNat) b.decl.lid [.group b.id g] with
    | none => fault
    | some s' => s'.deschedule b.id g

/-- The page that an append needs and does not find as it should. -/
def State.appendMiss (s : State) (b : Block) (t : Thread) (a : Act) : Option (Nat × Nat × Nat) :=
  match a with
  | .append ctx _ _ base cap record => match s.append b t ctx base cap record with
    | .error e => some e
    | .ok _ => none
  | _ => none

/-! ### What a thread learns as it reads, and what its writes carry (R302, R303, R307) -/

/-- Bytes that an operation reads at home, not in a line: space, place and size. -/
def State.homeReads (s : State) (b : Block) (a : Act) : List (Nat × Nat × Nat) :=
  let home (past : Bool) (l : Loc) (n : Nat) : List (Nat × Nat × Nat) := match l with
    | .phys k => if past || b.stage == .prologue || (NMap.lookup (s.lines b.coreId) (lineOf k)).isNone then [(0, k, n)] else []
    | .scratch x o => [(2 + x, o, n)]
    | _ => []
  let at' (l : Loc) (i : Nat) : Loc := match l with
    | .phys k => .phys (k + i)
    | .scratch x o => .scratch x (o + i)
    | l => l
  match a with
  | .load src _ n k _ nc ev _ => ((List.range k).map (fun j => home (nc || ev) (at' src (n * j)) n)).flatten
  | .atom loc _ kind _ _ _ _ _ => home true loc kind.size
  | .expand src esz _ _ _ _ => (src.map (fun p => home p.nc p.loc esz)).flatten
  | .features rows _ _ _ _ _ => (rows.map (fun ts => (ts.map (fun t => home t.place.nc t.place.loc 2)).flatten)).flatten
  | _ => []

/-- A thread has read bytes at home: the newest write there, and the flag that it may be (R302, R303). To read a PEER write observes it and
what its requester posted before; no event of the model names the requester, so all are one requester's (R307; log entry 33). -/
def State.saw (s : State) (blk tidx op : Nat) (x : Nat × Nat × Nat) : State :=
  match s.stale.find? (fun e => e.space == x.1 && overlap e.key e.old.length x.2.1 x.2.2) with
  | none => s
  | some y => { s with stale := s.stale.map (fun e =>
      let e1 := if e.id = y.id then e.tell (.read blk tidx) op else e
      let e2 := if y.src == .peer && e.src == .peer && decide (e.id ≤ y.id) then e1.tell (.thread blk tidx) op else e1
      { e2 with by' := e2.by' ++ e2.by'.filterMap (fun k => match k.1 with
          | .flag id sc i => if id = y.id then some (.cand blk tidx sc i, op) else none
          | _ => none) }) }

def State.sawAll (s : State) (b : Block) (t : Thread) (p : Pend) : State :=
  if s.stale.isEmpty then s else (s.homeReads b p.act).foldl (fun s x => s.saw b.id t.tidx p.op x) s

/-- The writes of an operation carry what the thread's release fences hand on, and an atomic what the flag carried that it has read
(R302). -/
def State.carry (s before : State) (b : Block) (t : Thread) (p : Pend) : State :=
  let ids := (s.stale.filter (fun e => decide (before.lastWrite < e.id) && e.src == .core)).map Stale.id
  let read := match p.act with
    | .atom loc _ kind _ _ _ _ _ => ((loc.span 0 kind.size).head?.bind (fun x =>
        before.stale.find? (fun e => e.space == x.space && overlap e.key e.old.length x.base x.len))).map Stale.id
    | _ => none
  if ids.isEmpty then s
  else { s with stale := s.stale.map (fun e => { e with by' := e.by' ++ (ids.map (fun id => e.by'.filterMap (fun k => match k.1 with
    | .rel blk tidx sc => if blk = b.id ∧ tidx = t.tidx then some (.flag id sc (scopeInst sc b.coreId b.id (b.gidOf t.tidx)), 0) else none
    | .flag n sc i => if some n = read then some (.flag id sc i, 0) else none
    | _ => none))).flatten }) }

/-- An operation is performed and counted down. A read of poisoned data raises ECC_UNCORR at its address instead of delivering
(R336, R350). Log entry 26 (DESIGN CHOICE). -/
def State.perform (s : State) (b : Block) (t : Thread) (p : Pend) : State :=
  match (p.act.reads b.id).find? s.poisoned, s.appendMiss b t p.act with
  | some x, _ => s.takeTrap b.id t.tidx (memTrap 0xC 0 x.va p.pc false)
  | none, some (va, c, d) => s.appendFault b t p va c d
  | none, none =>
    let s1 := ((s.sawAll b t p).performAct b t p).carry s b t p
    s1.finishAct b t p (s1.leftOf b.id t.tidx p.op)

/-- An append waits: its group is descheduled (R347), or a replay has locked its bin (R288). -/
def State.appendWaits (s : State) (b : Block) (t : Thread) (a : Act) : Bool :=
  match a with
  | .append ctx idx k _ _ _ => ((b.group? (b.gidOf t.tidx)).map Group.desched).getD false || s.binLocked ctx idx k
  | _ => false

/-- The pending operation of a thread that an event names, where it is of the right kind and nothing holds it back. -/
def State.pending? (s : State) (blk tidx op : Nat) (kind : Pend → Bool) : Option (Block × Thread × Pend) :=
  match s.block? blk with
  | none => none
  | some b =>
    match b.thread? tidx with
    | none => none
    | some t =>
      match t.pend.find? (fun p => p.op == op) with
      | none => none
      | some p =>
        if kind p && !b.held t p && !p.act.isCtrs && !s.appendWaits b t p.act then some (b, t, p) else none

/-- An event that performs a pending operation. -/
def performEvent (kind : Pend → Bool) (blk tidx op : Nat) (s : State) : Host.Outcome State Fault Refusal :=
  match s.pending? blk tidx op kind with
  | some (b, t, p) => .next (s.perform b t p).tick
  | none => .next s.tick

def execLoadReturn (blk tidx op : Nat) (s : State) : Host.Outcome State Fault Refusal :=
  performEvent (fun p => p.ctr == .ld) blk tidx op s

def execStorePerformed (blk tidx op : Nat) (s : State) : Host.Outcome State Fault Refusal :=
  performEvent (fun p => p.ctr == .st) blk tidx op s

def execTileOpRetire (blk tidx op : Nat) (s : State) : Host.Outcome State Fault Refusal :=
  performEvent (fun p => p.ctr == .tl) blk tidx op s

/-! ### The host port (R312, R314, R401) -/

/-- A location of a host or peer page. -/
def Loc.remote : Loc → Bool
  | .phys k => remoteKey k
  | _ => false

/-- The n-th place of a host or peer page in a list has failed. -/
def failPlace (ps : List Place) (n : Nat) : List Place :=
  let far := (ps.zipIdx.filter (fun x => x.1.loc.remote)).map Prod.snd
  match far[n % far.length]? with
  | some i => ps.zipIdx.map (fun x => if x.2 = i then { x.1 with loc := .ones } else x.1)
  | none => ps

/-- A word that loads from a host or peer page, where one such load has ended without data: which, the free value says. -/
def Act.failRead (a : Act) (pick : Nat) : Option Act :=
  match a with
  | .load src va n k sx nc ev dst => if src.remote then some (.load .ones va n k sx nc ev dst) else none
  | .expand src esz kv pos dst tail =>
    if src.any (fun p => p.loc.remote) then some (.expand (failPlace src pick) esz kv pos dst tail) else none
  | .features rows fmts nan dst cp cl =>
    let far := (rows.zipIdx.filter (fun r => r.1.any (fun t => t.place.loc.remote))).map Prod.snd
    match far[pick % far.length]? with
    | some i => some (.features (rows.zipIdx.map (fun r =>
        if r.2 = i then List.zipWith (fun (t : Term) p => { t with place := p }) r.1 (failPlace (r.1.map Term.place) (pick / 64))
        else r.1)) fmts nan dst cp cl)
    | none => none
  | _ => none

/-- A load from a host or peer page. -/
def Pend.remoteLoad (p : Pend) : Bool := (p.act.failRead 0).isSome

/-- A load delivers all ones, raises nothing, and is counted in a field of HPERR; a word of several loads goes on with the
others. -/
def portRead (lo : Nat) (blk tidx op : Nat) (s : State) : Host.Outcome State Fault Refusal :=
  match s.pending? blk tidx op Pend.remoteLoad with
  | some (b, t, p) =>
    match p.act.failRead (s.pick 71) with
    | some a =>
      let s1 := (s.setAct blk tidx op a).portCount lo 16
      .next (match a with
        | .load _ _ _ _ _ _ _ _ => s1.perform b t { p with act := a }
        | _ => s1).tick
    | none => .next s.tick
  | none => .next s.tick

def execPortReadError (blk tidx op : Nat) (s : State) : Host.Outcome State Fault Refusal := portRead 32 blk tidx op s

def execPortReadTimeout (blk tidx op : Nat) (s : State) : Host.Outcome State Fault Refusal := portRead 48 blk tidx op s

/-- A word that writes to a host or peer page. -/
def Pend.remoteStore (p : Pend) : Bool :=
  match p.act with
  | .store ps => ps.any (fun x => x.1.remote)
  | .atom loc _ _ _ _ _ _ _ => loc.remote
  | .gradients adds => adds.any (fun g => remoteKey g.key)
  | _ => false

/-- The list without the n-th of its elements that satisfy a condition. -/
def dropNth {α : Type} (ps : List α) (c : α → Bool) (n : Nat) : List α :=
  let far := (ps.zipIdx.filter (fun x => c x.1)).map Prod.snd
  match far[n % far.length]? with
  | some i => ps.eraseIdx i
  | none => ps

/-- A posted write that a peer refuses is dropped and counted, one write at a time; the thread sees no effect, an atomic has read
its location, and what else the word stores is stored. -/
def execPeerWriteRefused (blk tidx op : Nat) (s : State) : Host.Outcome State Fault Refusal :=
  match s.pending? blk tidx op Pend.remoteStore with
  | some (b, t, p) =>
    let s1 := s.portCount 0 32
    match p.act with
    | .store ps =>
      let rest := dropNth ps (fun x => x.1.remote) (s.pick 72)
      .next (s1.finishAct b t p (if rest.isEmpty then none else some (.store rest))).tick
    | .gradients adds =>
      let rest := dropNth adds (fun g => remoteKey g.key) (s.pick 72)
      .next (s1.finishAct b t p (if rest.isEmpty then none else some (.gradients rest))).tick
    | .atom loc _ kind _ _ _ _ dst =>
      .next ((s1.mapThread blk tidx (fun t => t.land op dst (natWords dst.length (s.valueAt loc kind.size)))).finishAct
        b t p none).tick
    | _ => .next s.tick
  | none => .next s.tick

/-- The word adds gradients. -/
def Act.adds : Act → Bool
  | .gradients _ => true
  | _ => false

/-- Threads that may stand at a REL whose turn it is, each with its place in issue order: it is the word itself that tells. -/
def State.seqThreads (s : State) : List (Nat × Nat × Nat) :=
  (s.blocks.map (fun e => e.2.threads.filterMap (fun t => if t.life ≠ .live then none else match t.wait with
    | none => some (e.1, t.tidx, s.seq)
    | some (.behind _ n) => some (e.1, t.tidx, n)
    | _ => none))).flatten

/-- Pending atomics to a host page, the additions of gradients among them, that meet n bytes at a key, and which nothing holds back. -/
def State.portAtoms (s : State) (key n : Nat) : List (Block × Thread × Pend) :=
  (s.blocks.map (fun e => (e.2.threads.map (fun t => (t.pend.filter (fun p =>
    (p.act.isAtom || p.act.adds) && !e.2.held t p && (p.act.spans e.1).any (fun x => x.space == 0 && overlap x.base x.len key n))).map
      (fun p => (e.2, t, p)))).flatten)).flatten

/-- A write of the host or of a peer is performed (R313). Into device memory it goes by the PEER path. Into a host or peer page it
may fall between the read and the write of an atomic of the port, which is indivisible against device requests only (R241), as
the free value says: of a pending one, of one addition of a gradient, or of the update of SEQ by a REL. -/
def execPeerWrite (addr : Nat) (bytes : List Byte) (s : State) : Host.Outcome State Fault Refusal :=
  if !remoteKey addr then
    .next ((s.note 0 addr (s.bytes addr bytes.length) .peer).write none addr bytes).tick
  else
    let all := s.portAtoms addr bytes.length
    let s1 := s.hostWrite addr bytes
    match all[s.pick 73 % (all.length + 1)]? with
    | some (b, t, p) =>
      match p.act with
      | .atom loc _ kind v c sc mrg dst =>
        .next ((s1.performAtom b t p.op loc kind v.toNat c.toNat sc mrg dst (some (s.valueAt loc kind.size))).finishAct
          b t p none).tick
      | .gradients adds =>
        let hit := (adds.zipIdx.filter (fun x => overlap x.1.key 4 addr bytes.length)).map Prod.snd
        let i := hit.getD (s.pick 75 % hit.length) 0
        let s2 := s1.oneGrad b t p.op adds i (some (s.word ((adds[i]?.map Grad.key).getD 0) 4))
        .next (s2.finishAct b t p (s2.leftOf b.id t.tidx p.op)).tick
      | _ => .next s1.tick
    | none => match s.seqThreads[s.pick 76 % (2 * s.seqThreads.length + 1)]? with
      | some (blk, tidx, n) =>
        let key := (addr / 16 + s.pick 77 % ((addr + bytes.length + 15) / 16 - addr / 16)) * 16
        .next (s1.hold blk tidx (.seqRead key n (BitVec.ofNat 64 (s.word key 8)))).tick
      | none => .next s1.tick

/-! ### CTRS operands (R263, R264) -/

/-- A CTRS whose earlier writes are performed and whose thread's earlier events have applied (R236, R306). -/
def Thread.ctrsReady (t : Thread) (p : Pend) : Bool :=
  t.writtenBefore p.op && t.ctrsBefore p.op && t.tokens.all (fun k => k.val.isSome || decide (p.op < k.op))

/-- The engine has read the operands: the contribution is ready. Log entry 48 (DEDUCED). -/
def State.fillContrib (s : State) (b : Block) (t : Thread) (sb sl : Nat) (aOff bOff inst : Nat) : State :=
  s.mapSlot sb sl (fun x => { x with inst := x.inst.map (fun i =>
    if i.id ≠ inst then i
    else { i with contribs := i.contribs.map (fun c =>
      if c.si = x.indexOf b t.tidx then
        let n := 4 * vecRegs i.params.fmt
        { c with a := vecCodes (n / 4) (leNat (b.sbytes aOff n)), b := vecCodes (n / 4) (leNat (b.sbytes bOff n)), ready := true }
      else c) }) })

/-- A CTRS thread's operands are read and it arrives on its barrier object, once, with n = 1. Log entry 48 (DEDUCED). -/
def execCtrsBarrierArrival (blk tidx op : Nat) (s : State) : Host.Outcome State Fault Refusal :=
  match s.block? blk with
  | none => .next s.tick
  | some b =>
    match b.thread? tidx with
    | none => .next s.tick
    | some t =>
      match t.pend.find? (fun p => p.op == op) with
      | none => .next s.tick
      | some p =>
        match p.act with
        | .ctrs sb sl con aOff bOff bar inst =>
          if !t.ctrsReady p then .next s.tick
          else
            let n := 4 * vecRegs ((((s.slot? sb sl).bind Slot.inst).map (fun i => i.params.fmt)).getD 0)
            let bad := if !con then none else [aOff, bOff].find? (fun o => s.poisoned ⟨2 + blk, o, n, o⟩)
            match bad with
            | some o => .next (s.takeTrap blk tidx (memTrap 0xC 0 o p.pc false)).tick
            | none =>
              let s1 := if con then s.fillContrib b t sb sl aOff bOff inst else s
              let s2 := s1.mapThread blk tidx (fun t => { t with pend := t.pend.filter (fun q => q.op != op) })
              match s2.block? blk with
              | none => .next s2.tick
              | some b2 =>
                match b2.arrive (some tidx) bar 1 0 with
                | none => .next (s2.takeTrap blk tidx (mkTrap 0x15 0 p.pc)).tick
                | some b3 => .next (((s2.mapBlock blk (fun _ => b3)).phaseTest blk bar).settled blk tidx).tick
        | _ => .next s.tick

end Sys2Proof.Machine
end

