-- ==== Sys2Proof/Machine/Landing.lean ====
section
/-! DEFINITION. Engine commands at work: acceptance, copies and their landings, the walks of the Gleaner, drains, the passes of the
contraction engine and the close of an instance (R255, R270, R272, R275, R276, R281 to R284, R295). -/

namespace Sys2Proof.Machine

/-! ### Faults of an engine (R270, R284, R287) -/

/-- An access of an engine that did not go through: where, cause and detail, and what it needed. -/
structure EngErr where
  va : Nat
  cause : Nat
  detail : Nat
  need : Need
  deriving DecidableEq, Repr

/-- The path of an engine (R244). -/
def Job.path : Job → Path
  | .copy _ _ _ _ _ _ _ => .copy
  | .drain _ _ _ _ _ _ _ _ _ => .drain
  | .sheaf _ _ _ _ => .sheaf
  | .winnow _ _ _ _ _ _ => .winnow
  | .gleaner _ _ _ _ _ _ _ _ => .glean

/-- A fault of an engine on a command: the command stops, and the block of its elected lane is faulted against its word. -/
def State.engineFault (s : State) (c : Cmd) (e : EngErr) : State :=
  let s1 := s.dropCmd c.id
  if c.gone then s1
  else match s1.block? c.blk with
    | none => s1
    | some b =>
      let entry := s1.entryFor b c.tidx (memTrap e.cause (BitVec.ofNat 32 e.detail) e.va c.pc e.need.w) 16
      if e.cause = 0xC then s1.failOperational b entry else s1.fatal b entry

/-- The page request of an engine's miss, which the command joins (R347, R348); none where the context has no ring. -/
def State.engineMiss (s : State) (c : Cmd) (e : EngErr) : Option State :=
  let lid := ((s.block? c.blk).map (fun b => b.decl.lid)).getD 0
  s.pageRequest c.ctx e.va 5 (8 + 16 * c.sup.toNat + e.need.acc) lid [.cmd c.id]

/-- An access that failed: a miss is served, with the access waiting, and anything else is a fault of the engine. -/
def State.engineError (s : State) (c : Cmd) (e : EngErr) : State :=
  if e.cause ≠ 5 then s.engineFault c e else (s.engineMiss c e).getD (s.engineFault c e)

/-- A command waits for the answer to a request for the page of an address (R347, R349). -/
def State.awaits (s : State) (c : Cmd) (va : Nat) : Bool :=
  (s.ctx c.ctx).requests.any (fun q => q.page == va / 65536 && !q.perm && q.waiters.contains (.cmd c.id))

/-- An access of a command translates; before the answer to its page request it does not (R347). An address beyond the 57 bits has
no page (log entry 40). -/
def State.engineAt (s : State) (c : Cmd) (va : Nat) (n : Need) : Except EngErr Nat :=
  if 2 ^ 57 ≤ va then .error ⟨va, 6, 3, n⟩
  else if s.awaits c va then .error ⟨va, 5, 1, n⟩
  else match s.xlate (clusterCaches c.cluster) c.ctx va n c.sup (s.pick (910 + va / 65536 % 64)) with
    | .error (k, d) => .error ⟨va, k, d, n⟩
    | .ok x => .ok x.key

/-- Elements of n bytes as an engine reads them, given what stands there: each as it is, or, of writes of other paths that no
XFENCE has made visible, as it was (R284, R307). Log entry 33 (DEDUCED). -/
def State.asSeen (s : State) (c : Cmd) (space key n : Nat) (now : List Byte) : List Byte :=
  if s.stale.isEmpty then now
  else ((List.range (now.length / n)).map (fun i =>
    s.seenBy c.job.path c.cluster space (key + n * i) ((now.drop (n * i)).take n) (s.pick (1 + (key / n + i) % 900)))).flatten

/-- Bytes that a command reads in memory, in elements of a size. Log entry 33 (DEDUCED). -/
def State.engineRead (s : State) (c : Cmd) (va n unit : Nat) : Except EngErr (List Byte) :=
  match s.engineAt c va Need.load with
  | .error e => .error e
  | .ok k => if s.poisoned ⟨0, k, n, va⟩ then .error ⟨va, 0xC, 0, Need.load⟩ else .ok (s.asSeen c 0 k unit (s.bytes k n))

/-- A result for each element of a list, or the first error. -/
def eachOk {α β : Type} (f : α → Except EngErr β) : List α → Except EngErr (List β)
  | [] => .ok []
  | x :: xs =>
    match f x with
    | .error e => .error e
    | .ok y =>
      match eachOk f xs with
      | .error e => .error e
      | .ok ys => .ok (y :: ys)

/-- One write at home by an engine on its path. In a line that the MSC holds it is dirty; else it is posted, and may be refused (R314). -/
def State.engineByte (s : State) (path : Path) (k : Nat) (bs : List Byte) : State :=
  if s.inMsc k then
    let s1 := (s.note 0 k (s.bytes k bs.length) path).write none k bs
    { s1 with behind := s.dirty k bs.length }
  else s.postWrite none path k bs

/-- Writes noted after a number are those of a command, which its block's later releases may hand on (R28, R307). -/
def State.creditCmd (s : State) (after : Nat) (c : Cmd) : State :=
  s.credit after (some (4 * c.cluster)) [(.cmd c.id, 0), (.work c.blk, 0)]

/-- The phase of an object that is open counts writes of an engine that satisfy a condition (R307). -/
def State.countLanding (s : State) (blk off : Nat) (p : Stale → Bool) : State :=
  match s.block? blk with
  | none => s
  | some b => s.tellAll p (.landed blk off (b.obj off).phase.toNat) 0

/-- Writes at home by an engine on its path; what they cover whole between them is clean (R350). -/
def State.engineWrite (s : State) (c : Cmd) (ws : List (Nat × List Byte)) : State :=
  ((ws.foldl (fun s w => s.engineByte c.job.path w.1 w.2) s).cleanAll (ws.map (fun w => (w.1, w.2.length)))).creditCmd s.lastWrite c

/-- The final arrival of an engine on an object of its block: refused, it kills the block (R270); without its block it is
dropped (R276). -/
def State.engineArrive (s : State) (c : Cmd) (bar : Nat) : State :=
  if c.gone then s
  else match s.block? c.blk with
    | none => s
    | some b =>
      match b.arrive none bar 1 0 with
      | none => s.fatal b (s.entryFor b c.tidx (mkTrap 0x15 0 c.pc) 16)
      | some b1 => ((s.countLanding c.blk bar (fun e => e.knows (.cmd c.id))).mapBlock c.blk (fun _ => b1)).phaseTest c.blk bar

/-! ### Acceptance (R275, R282) -/

/-- Two commands go to one engine: the copy engine of a cluster, the Sheaf or the Gleaner of a die, or a Winnow engine. -/
def sameEngine (a b : Cmd) : Bool :=
  match a.job, b.job with
  | .copy _ _ _ _ _ _ _, .copy _ _ _ _ _ _ _ => a.cluster == b.cluster
  | .drain _ _ _ _ _ _ _ _ _, .drain _ _ _ _ _ _ _ _ _ => a.cluster == b.cluster
  | .sheaf _ _ _ _, .sheaf _ _ _ _ => a.cluster / 16 == b.cluster / 16
  | .gleaner _ _ _ _ _ _ _ _, .gleaner _ _ _ _ _ _ _ _ => a.cluster / 16 == b.cluster / 16
  | .winnow x _ _ _ _ _, .winnow y _ _ _ _ _ => x.cid % 4 == y.cid % 4
  | _, _ => false

/-- How many accepted commands an engine holds. -/
def Job.room : Job → Option Nat
  | .copy _ _ _ _ _ _ _ => some 64
  | .drain _ _ _ _ _ _ _ _ _ => none
  | .sheaf _ _ _ _ => some 16
  | .gleaner _ _ _ _ _ _ _ _ => some 16
  | .winnow _ _ _ _ _ _ => some 8

/-- A collective with the same id is live on this device (R292). -/
def State.liveCid (s : State) (c : Cmd) : Bool :=
  match c.job with
  | .winnow x _ _ _ _ _ => s.cmds.any (fun d => d.stage != .queued && match d.job with
      | .winnow y _ _ _ _ _ => x.cid == y.cid
      | _ => false)
  | _ => false

/-- The command is the first of its engine that waits, and the engine has room. -/
def State.acceptable (s : State) (c : Cmd) : Bool :=
  let mine := s.cmds.filter (fun d => sameEngine c d)
  c.stage == .queued && ((mine.find? (fun d => d.stage == .queued)).map Cmd.id) == some c.id && !s.liveCid c &&
    match c.job.room with
    | none => true
    | some n => decide ((mine.filter (fun d => d.stage != .queued)).length < n)

/-- A copy has nothing left to move. -/
def Job.over : Job → Bool
  | .copy _ _ _ _ _ _ ts => ts.all (fun t => t.todo.isEmpty)
  | _ => false

def execCommandAccept (cmd : Nat) (s : State) : Host.Outcome State Fault Refusal :=
  match s.cmd? cmd with
  | none => .next s.tick
  | some c =>
    if !s.acceptable c then .next s.tick
    else
      let later := (c.start.map (fun t => decide (s.ptime.toNat < t.toNat))).getD false
      let s1 := s.mapCmd cmd (fun c => { c with stage := if later then .held else .running, lanes := [] })
      let s2 := if c.gone then s1
        else c.lanes.foldl (fun s t => s.mapThread c.blk t (fun t => { t with cnt := t.cnt.sub .cp })) s1
      .next (if c.job.over then s2.dropCmd cmd else s2).tick

/-- Pod time reaches the start of a held command. -/
def execTimedCommandStart (cmd : Nat) (s : State) : Host.Outcome State Fault Refusal :=
  match s.cmd? cmd with
  | none => .next s.tick
  | some c =>
    if c.stage ≠ .held then .next s.tick
    else
      let t := c.start.getD 0
      .next (({ s with ptime := if s.ptime.toNat < t.toNat then t else s.ptime } : State).mapCmd cmd (fun c =>
        { c with stage := .running })).tick

/-! ### Copies (R278, R280, R281, R283) -/

/-- An element as a copy reads it: FILL, or the bytes at its address. -/
def State.readElem (s : State) (c : Cmd) (r : Shape) (org : List Int) (allFill : Bool) (i : Nat) :
    Except EngErr (List Byte) :=
  if allFill || !r.inBounds org i || decide (2 ^ 57 ≤ r.addr org i) then .ok r.fillBytes
  else match NMap.lookup c.read i with
    | some bs => .ok bs
    | none => s.engineRead c (r.addr org i) r.elem r.elem

/-- An element of scratchpad as a copy reads it. Log entry 33 (DEDUCED). -/
def State.scratchElem (s : State) (c : Cmd) (r : Shape) (loc i : Nat) : Except EngErr (List Byte) :=
  let off := loc + r.local (r.elem * i)
  if s.poisoned ⟨2 + c.blk, off, r.elem, off⟩ then .error ⟨off, 0xC, 0, Need.load⟩
  else .ok (s.asSeen c (2 + c.blk) off r.elem (((s.block? c.blk).map (fun b => b.sbytes off r.elem)).getD []))

/-- An element lands in a block's scratchpad by the COPY path. -/
def State.landElem (s : State) (blk off : Nat) (bs : List Byte) : State :=
  (s.note (2 + blk) off (((s.block? blk).map (fun b => b.sbytes off bs.length)).getD []) .copy).storeScratch blk off bs

/-- The bytes of a piece move, with the elements that were read; nothing moves where an access of the piece fails.
Log entry 31 (DESIGN CHOICE). -/
def State.movePiece (s : State) (c : Cmd) (dir : Nat) (r : Shape) (org : List Int) (dst : Nat) (allFill : Bool) (t : Target)
    (is : List Nat) : Except EngErr (State × List (List Byte)) :=
  if dir = 1 then
    match eachOk (s.scratchElem c r t.loc) is with
    | .error e => .error e
    | .ok ds =>
      let out := (is.zip ds).filter (fun e => r.inBounds org e.1)
      match eachOk (fun (e : Nat × List Byte) => s.engineAt c (r.addr org e.1) Need.store) out with
      | .error e => .error e
      | .ok ks => .ok (s.engineWrite c (ks.zip (out.map Prod.snd)), ds)
  else
    match eachOk (s.readElem c r org allFill) is with
    | .error e => .error e
    | .ok ds =>
      if dir = 0 then
        .ok ((((is.zip ds).foldl (fun s e => s.landElem t.blk (t.loc + r.local (r.elem * e.1)) e.2) s).cleanAll (is.map (fun i =>
          (scratchKey t.blk (t.loc + r.local (r.elem * i)), r.elem)))).creditCmd s.lastWrite c, ds)
      else match eachOk (fun i => s.engineAt c (dst + r.elem * i) Need.store) is with
        | .error e => .error e
        | .ok ks => .ok (s.engineWrite c (ks.zip ds), ds)

/-- The slot of a copy out of it once its last byte has been read. -/
def State.releaseSlot (s : State) (t : Target) (evict : Bool) : State :=
  match t.slot with
  | none => s
  | some k => s.mapBlock t.blk (fun b => b.setTile k (withTileState (b.tile k) (if evict then tileEmpty else tileReady)))

/-- Earlier accesses to a target's slot, or an earlier TTAG or TINV of it, are not performed (R216). -/
def State.slotPending (s : State) (t : Target) (id : Nat) : Bool :=
  match t.slot, s.block? t.blk with
  | some k, some b => b.threads.any (fun u => u.pend.any (fun p =>
      decide (p.op < id) && (p.slot == some k || p.act == .tile k)))
  | _, _ => false

/-- A piece of a copy lands on one target, and counts its bytes there. Log entry 31 (DESIGN CHOICE). -/
def execCopyLanding (cmd target first count : Nat) (s : State) : Host.Outcome State Fault Refusal :=
  match s.cmd? cmd with
  | none => .next s.tick
  | some c =>
    match c.job with
    | .copy dir r org dst evict allFill ts =>
      match ts[target]? with
      | none => .next s.tick
      | some t =>
        if c.stage ≠ .running ∨ holdsRun first count t.todo = false ∨ s.slotPending t c.id = true then .next s.tick
        else
          let is := (List.range count).map (fun k => first + k)
          match s.movePiece c dir r org dst allFill t is with
          | .error e => .next (s.engineError c e).tick
          | .ok (s1, ds) =>
            let t' : Target := { t with todo := cutRun first count t.todo }
            let job := Job.copy dir r org dst evict allFill (ts.zipIdx.map (fun (x, k) => if k = target then t' else x))
            let kept := if 1 < ts.length then (is.zip ds).foldl (fun m e => NMap.insert m e.1 e.2) c.read else []
            let s2 := s1.mapCmd cmd (fun c => { c with job := job, read := kept })
            let s3 := if job.over then s2.dropCmd cmd else s2
            let s4 := if dir = 1 ∧ t'.todo = [] then s3.releaseSlot t evict else s3
            let s5 := s4.countLanding t.blk t.bar (fun e => decide (s.lastWrite < e.id) && e.knows (.cmd cmd))
            .next (s5.landOn t.blk t.bar (count * r.elem)).tick
    | _ => .next s.tick

/-! ### The Gleaner (R295) -/

/-- The copy of one page into its slot. -/
def Cmd.pageCopy (c : Cmd) (b : Block) (id k page : Nat) (r : Shape) : Cmd :=
  let ent := b.tile k
  let fill := decide (page = 0) || decide (page % 16 ≠ 0) || decide (2 ^ 57 ≤ page)
  { c with
    id := id, stage := .queued, start := none, lanes := [], read := [],
    job := .copy 0 { r with base := page } (List.replicate r.rank 0) 0 false fill
      [⟨b.id, tileBase ent, tileBar ent, some k, [(0, r.count)]⟩] }

/-- An entry of the block table, or 0 beyond it. -/
def State.tableEntry (s : State) (c : Cmd) (table tlen i : Nat) : Except EngErr Nat :=
  if tlen ≤ i then .ok 0 else (s.engineRead c (table + 8 * i) 8 8).map leNat

/-- One page of the walk: list and table are read, the tag is written, and the page's copy is issued. -/
def execGleanerWalk (cmd : Nat) (s : State) : Host.Outcome State Fault Refusal :=
  match s.cmd? cmd with
  | none => .next s.tick
  | some c =>
    match c.job, s.block? c.blk with
    | .gleaner table list n k0 tlen tag r next, some b =>
      if c.stage ≠ .running then .next s.tick
      else match s.engineRead c (list + 4 * next) 4 4 with
        | .error e => .next (s.engineError c e).tick
        | .ok lb =>
          match s.tableEntry c table tlen (leNat lb) with
          | .error e => .next (s.engineError c e).tick
          | .ok page =>
            let k := k0 + next
            let s1 := if tag then
                s.mapBlock c.blk (fun b => b.setTile k ((b.tile k).extractLsb' 64 64 ++ BitVec.ofNat 64 (leNat lb)))
              else s
            let s2 : State := { s1 with seq := s1.seq + 1, cmds := s1.cmds ++ [c.pageCopy b s1.seq k page r] }
            .next (if n ≤ next + 1 then s2.dropCmd cmd
              else s2.mapCmd cmd (fun c => { c with job := .gleaner table list n k0 tlen tag r (next + 1) })).tick
    | _, _ => .next s.tick

/-! ### Drains (R266, R270) -/

/-- It is a drain's turn on its slot (R266): no instance opened before it is left, and no earlier operation waits. -/
def State.drainTurn (s : State) (c : Cmd) (sb sl : Nat) : Bool :=
  ((s.slot? sb sl).map (fun x => match x.inst with
    | none => true
    | some i => decide (c.id < i.id))).getD false && !s.heldAhead sb sl c.id false && !s.drainAhead sb sl c.id

/-- What a drain writes for a cell over the old word, with its flags. Log entry 24 (DEDUCED). -/
def drainCell (fmt op : Nat) (alpha : W32) (cell : BitVec 40) (old : Nat) : Nat × W32 :=
  if fmt = 2 then ((cell.toNat + (if op = 0 then 0 else old)) % 2 ^ 32, 0)
  else
    let v := (if fmt = 1 then Fmt.xf40 else Fmt.f32).value cell.toNat
    let m := Fmt.f32.value old
    finish .f32 .rn false (sumV .rn (
      if op = 0 then [v] else if op = 1 then [m, v] else [m, mulV (Fmt.f32.value alpha.toNat) v]))

/-- Where a cell is drained to. Log entry 56 (DESIGN CHOICE). -/
def State.drainAt (s : State) (c : Cmd) (addr stride op : Nat) (ij : Nat × Nat) : Except EngErr ((Nat × Nat) × Nat) :=
  let va := addr + ij.1 * stride + 4 * ij.2
  match s.engineAt c va (if op = 0 then Need.store else Need.both) with
  | .error e => .error e
  | .ok k => if op ≠ 0 ∧ s.poisoned ⟨0, k, 4, va⟩ = true then .error ⟨va, 0xC, 0, Need.load⟩ else .ok (ij, k)

/-- One cell is drained: what stands at its place is read as the drain sees it, its own writes included, and written. -/
def State.drainOne (s : State) (c : Cmd) (sl : Slot) (op : Nat) (alpha : W32) (x : (Nat × Nat) × Nat) : State × W32 :=
  let old := if op = 0 then 0 else leNat (s.asSeen c 0 x.2 4 (s.bytes x.2 4))
  let r := drainCell sl.fmt op alpha (sl.cell (32 * x.1.1 + x.1.2)) old
  (s.engineWrite c [(x.2, leBytes 4 r.1)], r.2)

/-- Cells drained one after another, with their flags (R270). -/
def State.drainCells (c : Cmd) (sl : Slot) (op : Nat) (alpha : W32) : List ((Nat × Nat) × Nat) → State → W32 → State × W32
  | [], s, f => (s, f)
  | x :: xs, s, f => State.drainCells c sl op alpha xs (s.drainOne c sl op alpha x).1 (f ||| (s.drainOne c sl op alpha x).2)

/-- A drain at its slot's turn: every cell is read, each is written at its home, and the engine arrives. Log entry 56 (DESIGN CHOICE). -/
def execDrainExecute (cmd : Nat) (s : State) : Host.Outcome State Fault Refusal :=
  match s.cmd? cmd with
  | none => .next s.tick
  | some c =>
    match c.job with
    | .drain sb k addr stride alpha op rows cols bar =>
      match s.slot? sb k with
      | none => .next s.tick
      | some sl =>
        if c.stage ≠ .running ∨ s.drainTurn c sb k = false then .next s.tick
        else
          let cells := ((List.range rows).map (fun i => (List.range cols).map (fun j => (i, j)))).flatten
          match eachOk (s.drainAt c addr stride op) cells with
          | .error e => .next (s.engineError c e).tick
          | .ok xs =>
            let r := State.drainCells c sl op alpha xs s 0
            let s1 := ((r.1.cleanAll (xs.map (fun x => (x.2, 4)))).mapSlot sb k (fun sl => { sl with
              status := sl.status ||| r.2.setWidth 8, drains := sl.drains - 1 })).dropCmd cmd
            .next (s1.engineArrive c bar).tick
    | _ => .next s.tick

/-! ### Faults that an engine finds (R23, R270, R284) -/

/-- The next access that a command makes, as far as one is left: its address and what it needs. -/
def Cmd.nextAccess (c : Cmd) : Option (Nat × Need) :=
  match c.job with
  | .copy dir r org dst _ allFill ts =>
    match (ts.find? (fun t => !t.todo.isEmpty)).bind (fun t => t.todo.head?) with
    | none => none
    | some (i, _) =>
      if dir = 2 then some (dst + r.elem * i, Need.store)
      else if allFill || !r.inBounds org i || decide (2 ^ 57 ≤ r.addr org i) then none
      else some (r.addr org i, if dir = 1 then Need.store else Need.load)
  | .drain _ _ addr _ _ op _ _ _ => some (addr, if op = 0 then Need.store else Need.both)
  | .gleaner _ list _ _ _ _ _ next => some (list + 4 * next, Need.load)
  | .sheaf r _ next _ =>
    match next.find? (fun k => decide (k < r.nsub)) with
    | none => none
    | some k => some (r.binAt k, Need.both)
  | .winnow x _ _ _ _ _ => some (x.src, Need.load)

/-! ### The contraction engine (R255, R258, R266, R272) -/

/-- An entry goes before another: the higher class, then the older. -/
def Pass.before (a b : Pass) : Bool := decide (b.cls < a.cls) || (a.cls == b.cls && decide (a.age < b.age))

/-- The engine of a cluster grants a pass. -/
def execEnginePassGrant (cluster : Nat) (s : State) : Host.Outcome State Fault Refusal :=
  let ps := (s.cluster cluster).passes
  match ps.find? (fun p => ps.all (fun q => q == p || p.before q)) with
  | none => .next s.tick
  | some p => .next (s.mapCluster cluster (fun c => { c with passes := c.passes.filter (fun q => q != p) })).tick

/-- An entry has waited for 512 cc. -/
def execClassAgeing (cluster entry : Nat) (s : State) : Host.Outcome State Fault Refusal :=
  .next (s.mapCluster cluster (fun c => { c with passes := c.passes.zipIdx.map (fun (p, i) =>
    if i = entry then { p with cls := min 3 (p.cls + 1) } else p) })).tick

/-- An instance that is closing can be written: every contribution has been read and its passes granted, and drains before it
have read the cells. -/
def State.closable (s : State) (b : Block) (k : Nat) (sl : Slot) (x : Inst) : Bool :=
  sl.state == .closing && x.contribs.all Contrib.ready &&
    !(s.cluster b.cluster).passes.any (fun p => p.blk == b.id && p.slot == k) &&
    !s.drainAhead b.id k x.id

def execInstanceClose (blk slot : Nat) (s : State) : Host.Outcome State Fault Refusal :=
  match s.block? blk, s.slot? blk slot with
  | some b, some sl =>
    match sl.inst with
    | some x => .next (if s.closable b slot sl x then s.mapSlot blk slot (fun sl => sl.closed b) else s).tick
    | none => .next s.tick
  | _, _ => .next s.tick

end Sys2Proof.Machine
end

