-- ==== Sys2Proof/Machine/Sheaf.lean ====
section
/-! DEFINITION. The Sheaf: replay of the bins of a region, sub-region by sub-region (R285, R287, R288). -/

namespace Sys2Proof.Machine

/-- A record of a bin. -/
structure BinRec where
  off : Nat
  op : Nat
  ty : Nat
  val : Nat
  deriving DecidableEq, Repr

def BinRec.ofBytes (bs : List Byte) : BinRec := ⟨fieldOf bs 0 4, fieldOf bs 4 1, fieldOf bs 5 1, fieldOf bs 8 8⟩

/-- The record names an operation, a type, and an element of the sub-region. -/
def BinRec.ok (x : BinRec) (size : Nat) : Bool :=
  decide (x.op ≤ 6) && decide (x.ty ≤ 7) && decide (x.off % shaBytes x.ty = 0) && decide (x.off + shaBytes x.ty ≤ size)

/-- The integer type of a TYPE code 2 to 5. -/
def binInt (ty : Nat) : ITy := ⟨ty == 2 || ty == 4, if ty ≤ 3 then 32 else 64⟩

/-- The element after a record (R287). Log entry 36 (DEDUCED). -/
def BinRec.apply (x : BinRec) (old : Nat) : Nat :=
  let n := 8 * shaBytes x.ty
  let v := x.val % 2 ^ n
  let fmt := if x.ty = 6 then 2 else if x.ty = 7 then 3 else x.ty
  match x.op with
  | 3 => v
  | 4 => old &&& v
  | 5 => old ||| v
  | 6 => old ^^^ v
  | op => if 2 ≤ x.ty ∧ x.ty ≤ 5 then atomInt op (binInt x.ty) old v else atomFloat op fmt old v

/-- Records are applied to what the lines hold, in append order, each at its storage key: the lines after it, the elements changed,
and the records skipped; or the error that stops the replay. -/
def State.applyRecords (s : State) (c : Cmd) (va size : Nat) : List BinRec → NMap Byte × List Nat × Nat →
    Except EngErr (NMap Byte × List Nat × Nat)
  | [], acc => .ok acc
  | x :: xs, (m, ts, n) =>
    if !x.ok size then s.applyRecords c va size xs (m, ts, n + 1)
    else
      let len := shaBytes x.ty
      match s.engineAt c (va + x.off) Need.both with
      | .error e => .error e
      | .ok k =>
        if s.poisoned ⟨0, k, len, va + x.off⟩ then .error ⟨va + x.off, 0xC, 0, Need.load⟩
        else
          let old := leNat ((List.range len).map (fun i => NMap.read 0 m (k + i)))
          s.applyRecords c va size xs (putBytes m k (leBytes len (x.apply old)), (k / 8) :: ts, n)

/-- The record q of a bin. -/
def State.binRec (s : State) (c : Cmd) (bin q : Nat) : Except EngErr BinRec :=
  (s.engineRead c (bin + 16 + 16 * q) 16 16).map BinRec.ofBytes

/-- Records that a bin holds, of a count read from its header. -/
def Region.held (r : Region) (count : Nat) : Nat := min count (r.bcap / 16 - 1)

/-- Lines of a sub-region that the Sheaf can pin: storage key and elements of 8 bytes of each page that it may read and write. -/
def State.pinned (s : State) (c : Cmd) (va size : Nat) : List (Nat × Nat) :=
  (List.range ((size + va % 65536 + 65535) / 65536)).filterMap (fun i =>
    let lo := max va ((va / 65536 + i) * 65536)
    let hi := min (va + size) ((va / 65536 + i + 1) * 65536)
    match s.engineAt c lo Need.both with
    | .ok k => some (k, (hi - lo) / 8)
    | .error _ => none)

/-- A byte of one of the runs. -/
def inRuns (rs : List (Nat × Nat)) (k : Nat) : Bool := rs.any (fun r => decide (r.1 ≤ k ∧ k < r.1 + 8 * r.2))

/-- The Sheaf of a die locks the bin of sub-region k, pins its lines, and applies the records to them (R287). -/
def State.lockBin (s : State) (c : Cmd) (r : Region) (k : Nat) : Except EngErr Replayed := do
  let bin := r.binAt k
  let size := 2 ^ r.sublog
  let va := r.base + k * size
  let h ← s.engineAt c bin Need.both
  let xs ← eachOk (s.binRec c bin) (List.range (r.held (s.word h 4)))
  let runs := s.pinned c va size
  let (image, touched, skipped) ← s.applyRecords c va size xs (s.mem.filter (fun e => inRuns runs e.1), [], 0)
  .ok ⟨k, h, image, touched, runs, skipped⟩

/-- Elements of a run that a write-back changes: those that a record has changed, and those that were stored to since the lines were
pinned. -/
def Replayed.stirred (x : Replayed) (mem : List Host.Cell) (run : Nat × Nat) : List Nat :=
  let keys := ((mem ++ x.image).filter (fun e => inRuns [run] e.1 && NMap.read 0 mem e.1 != NMap.read 0 x.image e.1)).map
    (fun e => e.1 / 8)
  (x.touched.filter (fun e => inRuns [run] (8 * e)) ++ keys).dedup

/-- A run of elements of 8 bytes is written back (R288). -/
def State.writeRun (s : State) (c : Cmd) (x : Replayed) (run : Nat × Nat) : State :=
  s.engineWrite c ((x.stirred s.mem run).map (fun e => (8 * e, (List.range 8).map (fun i => NMap.read 0 x.image (8 * e + i)))))

/-- The part of the first run that is written back next, as the free values say, and the runs that are left. -/
def Replayed.nextRun (x : Replayed) (pick : Nat → Nat) : (Nat × Nat) × List (Nat × Nat) :=
  match x.todo with
  | [] => ((0, 0), [])
  | (k, n) :: rest =>
    let i := pick 0 % n
    let m := pick 1 % (n - i) + 1
    ((k + 8 * i, m), [(k, i), (k + 8 * (i + m), n - i - m)].filter (fun r => r.2 != 0) ++ rest)

/-- Every line is written back: the bin is reset and open again. -/
def State.resetBin (s : State) (c : Cmd) (x : Replayed) : State :=
  s.engineWrite c [(x.bin, leBytes 4 0 ++ leBytes 4 (addSat (s.word (x.bin + 4) 4) x.skipped 32))]

/-- An earlier command replays the same region (R288). -/
def State.regionBusy (s : State) (c : Cmd) (r : Region) : Bool :=
  s.cmds.any (fun d => decide (d.id < c.id) && match d.job with
    | .sheaf q _ _ _ => q.ctx == r.ctx && q.idx == r.idx
    | _ => false)

/-- What the Sheaves of a command can do next: go on with a sub-region, or begin the next of a die that replays none. -/
def sheafSteps (r : Region) (next : List Nat) (locked : List Replayed) : List (Replayed ⊕ Nat) :=
  locked.map .inl ++ ((next.filter (fun k => decide (k < r.nsub) && !locked.any (fun x => x.sub == k))).map .inr)

/-- The Sheaf of one die begins its next sub-region, or writes back a part of the one that it replays and at its end resets the bin; after
the last of the region the Sheaf arrives. Log entry 57 (DESIGN CHOICE). -/
def execSheafReplay (cmd : Nat) (s : State) : Host.Outcome State Fault Refusal :=
  match s.cmd? cmd with
  | none => .next s.tick
  | some c =>
    match c.job with
    | .sheaf r bar next locked =>
      let steps := sheafSteps r next locked
      let set (s : State) (next : List Nat) (locked : List Replayed) : State :=
        s.mapCmd cmd (fun c => { c with job := .sheaf r bar next locked })
      if c.stage ≠ .running ∨ s.regionBusy c r = true then .next s.tick
      else match steps[s.pick 950 % steps.length]? with
        | none => .next ((s.dropCmd cmd).engineArrive c bar).tick
        | some (.inr k) =>
          match s.lockBin c r k with
          | .error e => .next (s.engineError c e).tick
          | .ok x => .next (set s next (x :: locked)).tick
        | some (.inl x) =>
          let rest := locked.filter (fun y => y.sub != x.sub)
          if x.todo = [] then
            .next (set (s.resetBin c x) (next.map (fun n => if n = x.sub then n + 4 else n)) rest).tick
          else
            let w := x.nextRun (fun i => s.pick (951 + i))
            .next (set (s.writeRun c x w.1) next ({ x with todo := w.2 } :: rest)).tick
    | _ => .next s.tick

end Sys2Proof.Machine
end

