-- ==== Sys2Proof/Machine/Winnow.lean ====
section
/-! DEFINITION. Winnow collectives: the exchange of records, reductions, the update in flight, and how a collective ends (R289 to
R294). -/

namespace Sys2Proof.Machine

/-! ### Elements and chunks (R289, R290) -/

def CollRec.elem (c : CollRec) : Nat := if c.fmt = 1 ∨ c.fmt = 2 then 2 else 4

def CollRec.format (c : CollRec) : Fmt := if c.fmt = 1 then .bf16 else if c.fmt = 2 then .f16 else .f32

def CollRec.chunkBytes (c : CollRec) : Nat := c.count * c.elem

/-- Bytes of SRC on a device. -/
def CollRec.srcBytes (c : CollRec) : Nat :=
  if c.kind = 1 ∨ c.kind = 4 then c.devices.length * c.chunkBytes else c.chunkBytes

/-- Element i of chunk j of a buffer. -/
def CollRec.at (c : CollRec) (bs : List Byte) (j i : Nat) : Nat := fieldOf bs ((j * c.count + i) * c.elem) c.elem

/-- A value of FMT as an f32 code. -/
def CollRec.widen (c : CollRec) (v : Nat) : Nat := (toFloat .f32 .rn false (c.format.value v)).1

/-- A sum of f32 codes by some tree, every node rounded. -/
def treeSum (pick : Nat → Nat) (vs : List Nat) : Nat :=
  treeAdd (fun a b => (addCode .f32 .rn false false false a b).1) pick vs.length vs

/-- ROP over one element of every member. -/
def CollRec.reduce (c : CollRec) (pick : Nat → Nat) (vs : List Nat) : Nat :=
  let v := vs.headD 0
  let t : ITy := ⟨true, 32⟩
  if c.fmt = 3 then
    match c.rop with
    | 0 => vs.sum % 2 ^ 32
    | 1 => t.image ((vs.map t.value).foldl min (t.value v))
    | _ => t.image ((vs.map t.value).foldl max (t.value v))
  else if c.rop = 0 then
    (finish c.format .rn false (sumV .rn [Fmt.f32.value (treeSum pick (vs.map c.widen))])).1
  else
    let op (a b : Nat) : Nat := (minMax c.format false (c.rop == 2) a b).1
    vs.foldl op (op v v)

/-- Chunk j reduced over the members' buffers. -/
def CollRec.reduceChunk (c : CollRec) (pick : Nat → Nat → Nat) (srcs : List (List Byte)) (j : Nat) : List Byte :=
  ((List.range c.count).map (fun i => leBytes c.elem (c.reduce (pick i) (srcs.map (fun bs => c.at bs j i))))).flatten

/-- What a collective of kinds 0 to 3 writes at DST on the member of rank q. -/
def CollRec.results (c : CollRec) (pick : Nat → Nat → Nat) (srcs : List (List Byte)) (q : Nat) : List Byte :=
  match c.kind with
  | 0 => c.reduceChunk pick srcs 0
  | 1 => c.reduceChunk pick srcs q
  | 2 => (srcs.map (fun bs => bs.take c.chunkBytes)).flatten
  | _ => (srcs.getD c.arg []).take c.chunkBytes

/-! ### The optimiser step (R293) -/

/-- An exact quotient. -/
def divV (a b : FVal) : FVal :=
  if a.isNan || b.isNan then invalid (a.isSnan || b.isSnan)
  else
    let n := a.neg? != b.neg?
    match a, b with
    | .inf _, .inf _ => invalid true
    | .inf _, _ => .inf n
    | _, .inf _ => .fin n 0
    | .fin _ x, .fin _ y => if y = 0 then (if x = 0 then invalid true else .inf n) else .fin n (x / y)
    | _, _ => invalid true

/-- The square root of a magnitude: exact where it is rational with few bits, else a rational on the same side of every
number at which the rounding of R293 turns. -/
def rootOf (x : Rat) : Rat :=
  let r : Rat := (sqrtBits (x * 2 ^ 2400).floor.toNat 1270 0 : Nat) / 2 ^ 1200
  if r * r = x then r else r + 1 / 2 ^ 1201

def sqrtV (a : FVal) : FVal :=
  match a with
  | .nan _ sig _ => invalid sig
  | .inf n => if n then invalid true else .inf false
  | .fin n x => if x = 0 then .fin n 0 else if n then invalid true else .fin false (rootOf x)

/-- One rounding to f32. -/
def round32 (v : FVal) : Nat := (finish .f32 .rn false v).1

/-- A product and a sum, exactly. -/
def sum2 (a b : FVal) : FVal := sumV .rn [a, b]

/-- What an element's update forms: w', m', v' as codes, and whether it is bad. -/
structure Update where
  w : Nat
  m : Nat
  v : Nat
  bad : Bool
  deriving DecidableEq, Repr

/-- The update of one element by the rule of the record, from r, w, m and v as f32 codes. -/
def CollRec.update (c : CollRec) (r w m v : Nat) : Update :=
  let val (n : Nat) : FVal := Fmt.f32.value n
  let k (x : W32) : FVal := val x.toNat
  let one : FVal := .fin false 1
  let g := round32 (mulV (k c.gscale) (val r))
  let infinite (n : Nat) : Bool := (val n).isNan || (val n).isInf
  if c.arg = 0 then
    let u := round32 (sum2 (val g) (mulV (k c.wd) (val w)))
    let m' := round32 (sum2 (mulV (k c.mu1) (val m)) (val u))
    let w' := round32 (sum2 (val w) (mulV (k c.lr) (val m')).flip)
    ⟨w', m', 0, infinite g || infinite w'⟩
  else
    let m' := round32 (sum2 (mulV (k c.mu1) (val m)) (mulV (sum2 one (k c.mu1).flip) (val g)))
    let v' := round32 (sum2 (mulV (k c.mu2) (val v)) (mulV (mulV (sum2 one (k c.mu2).flip) (val g)) (val g)))
    let mh := round32 (mulV (val m') (k c.c1))
    let vh := round32 (mulV (val v') (k c.c2))
    let d := round32 (divV (val mh) (sum2 (sqrtV (val vh)) (k c.eps)))
    let w' := round32 (sum2 (val w) (mulV (k c.lr) (sum2 (val d) (mulV (k c.wd) (val w)))).flip)
    ⟨w', m', v', infinite g || infinite w'⟩

/-! ### Access (R289) -/

/-- A run of bytes cut at the pages it crosses. -/
def pageSpans (va n : Nat) : List (Nat × Nat) :=
  (List.range ((va % 65536 + n + 65535) / 65536)).map (fun i =>
    let lo := max va ((va / 65536 + i) * 65536)
    (lo, min (va + n) ((va / 65536 + i + 1) * 65536) - lo))

/-- Bytes read over any number of pages, in elements of a size. -/
def State.readSpan (s : State) (c : Cmd) (va n unit : Nat) : Except EngErr (List Byte) :=
  (eachOk (fun (p : Nat × Nat) => s.engineRead c p.1 p.2 unit) (pageSpans va n)).map List.flatten

/-- Bytes written over any number of pages, or none where one of them fails. -/
def State.writeSpan (s : State) (c : Cmd) (va : Nat) (bs : List Byte) : Except EngErr State :=
  (eachOk (fun (p : Nat × Nat) => (s.engineAt c p.1 Need.store).map (fun k => (k, (bs.drop (p.1 - va)).take p.2)))
    (pageSpans va bs.length)).map (s.engineWrite c)

/-- Runs of bytes written in order, or none where one of them fails. -/
def State.writeSpans (s : State) (c : Cmd) : List (Nat × List Byte) → Except EngErr State
  | [] => .ok s
  | (va, bs) :: rest =>
    match s.writeSpan c va bs with
    | .error e => .error e
    | .ok s' => s'.writeSpans c rest

/-! ### The end on this device (R291, R294) -/

/-- The status word. -/
def CollRec.statusBytes (c : CollRec) (flags : Nat) : List Byte := leBytes 8 (1 + flags + (c.devices.length - 1) * 2 ^ 32)

/-- The status of a collective that a failure of its own ends on this device, written if it can be. Log entry 58 (DEDUCED). -/
def State.collStatus (s : State) (c : Cmd) (r : CollRec) (status : Nat) (e : EngErr) : State :=
  (s.writeSpan c status (r.statusBytes (if e.cause = 6 then 16 else 8))).toOption.getD s

/-- A collective that a failure of its own ends on this device: the status, and then the block of its elected lane is faulted. Log
entry 58 (DEDUCED). -/
def State.collFault (s : State) (c : Cmd) (r : CollRec) (status : Nat) (e : EngErr) : State :=
  (s.collStatus c r status e).engineFault c e

/-- The fault of a command of any engine. -/
def State.commandFault (s : State) (c : Cmd) (e : EngErr) : State :=
  match c.job with
  | .winnow r status _ _ _ _ => s.collFault c r status e
  | _ => s.engineFault c e

/-- A command of any engine stops, without a fault of its own. -/
def State.stopCommand (s : State) (c : Cmd) (e : EngErr) : State :=
  (match c.job with
  | .winnow r status _ _ _ _ => s.collStatus c r status e
  | _ => s).dropCmd c.id

/-- An access of a collective that failed. Log entry 58 (DEDUCED). -/
def State.collError (s : State) (c : Cmd) (e : EngErr) : State :=
  if e.cause ≠ 5 then s.commandFault c e
  else (s.engineMiss c e).getD (s.commandFault c e)

/-- An uncorrectable error in what an engine reads, or its next access is forbidden (R284). -/
def execEngineFault (cmd : Nat) (ecc : Bool) (s : State) : Host.Outcome State Fault Refusal :=
  match s.cmd? cmd with
  | none => .next s.tick
  | some c =>
    if c.stage ≠ .running then .next s.tick
    else if ecc then .next (s.commandFault c ⟨0, 0xC, 0, Need.load⟩).tick
    else match c.nextAccess with
      | none => .next s.tick
      | some (va, n) =>
        match s.engineAt c va n with
        | .ok _ => .next s.tick
        | .error e => .next (if e.cause = 6 then s.commandFault c e else s).tick

/-- Status and arrival (R291). -/
def State.collDone (s : State) (c : Cmd) (r : CollRec) (status bar flags : Nat) : State :=
  match s.writeSpan c status (r.statusBytes flags) with
  | .error e => s.collError c e
  | .ok s1 => (s1.dropCmd c.id).engineArrive c bar

/-- The collective stage of a command: 0 before the exchange, 1 moving data, 2 with the final
flag flit, 3 with all that it writes written but its status. -/
def Job.collStage : Job → Option (Nat × Nat)
  | .winnow x _ _ st _ _ => some (x.cid % 4, st)
  | _ => none

/-- It is the turn of a collective on its engine (R292). -/
def State.collTurn (s : State) (c : Cmd) (engine : Nat) : Bool :=
  let mine := s.cmds.filter (fun d => d.stage == .running && (d.job.collStage.map Prod.fst) == some engine)
  match mine.find? (fun d => (d.job.collStage.map (fun x => decide (0 < x.2))).getD false) with
  | some d => d.id == c.id
  | none => (mine.head?.map Cmd.id) == some c.id

/-- A member's exchanged fields agree with this device's record. -/
def agrees (p : Peer) (c : CollRec) : Bool :=
  p.kind == c.kind && p.fmt == c.fmt && p.rop == c.rop && p.arg == c.arg && p.count == c.count && p.members == c.members

/-- The members exchange their records. Log entry 59 (DESIGN CHOICE). -/
def execCollectiveExchange (cmd : Nat) (peers : List Peer) (s : State) : Host.Outcome State Fault Refusal :=
  match s.cmd? cmd with
  | none => .next s.tick
  | some c =>
    match c.job with
    | .winnow r status bar st flags _ =>
      let others := r.devices.filter (fun p => p != s.pod.index)
      if c.stage ≠ .running ∨ st ≠ 0 ∨ s.collTurn c (r.cid % 4) = false ∨ peers.map Peer.dev ≠ others then .next s.tick
      else
        let job := if peers.all (fun p => agrees p r) then Job.winnow r status bar 1 flags peers
          else Job.winnow r status bar 3 4 peers
        .next (s.mapCmd cmd (fun c => { c with job := job })).tick
    | _ => .next s.tick

/-- Source buffers of the members by rank. -/
def State.sources (s : State) (c : Cmd) (r : CollRec) (peers : List Peer) : Except EngErr (List (List Byte)) :=
  let own := if r.kind = 3 ∧ r.rankOf s.pod.index ≠ r.arg then .ok [] else s.readSpan c r.src r.srcBytes r.elem
  own.map (fun bs => r.devices.map (fun p =>
    if p = s.pod.index then bs else ((peers.find? (fun (x : Peer) => x.dev == p)).map Peer.src).getD []))

/-- The free shape of the tree for element i (R290, R296). Log entry 59 (DESIGN CHOICE). -/
def State.treePick (s : State) (i k : Nat) : Nat := s.pick (100 + i % 800) / 256 ^ k

/-- The owner's chunk: its updates. -/
def State.ownChunk (s : State) (c : Cmd) (r : CollRec) (peers : List Peer) : Except EngErr (List Update) := do
  let q := r.rankOf s.pod.index
  let n := 4 * r.count
  let srcs ← s.sources c r peers
  let w ← s.readSpan c (r.wgt + q * n) n 4
  let m ← s.readSpan c r.mst1 n 4
  let v ← if r.arg = 1 then s.readSpan c r.mst2 n 4 else .ok []
  .ok ((List.range r.count).map (fun i => r.update (treeSum (s.treePick i) (srcs.map (fun bs => r.widen (r.at bs q i))))
    (fieldOf w (4 * i) 4) (fieldOf m (4 * i) 4) (fieldOf v (4 * i) 4)))

/-- The pending area after the all-gather: the members' weights, then m', then v' under rule 1. -/
def CollRec.pending (r : CollRec) (me : Nat) (us : List Update) (peers : List Peer) : List Byte :=
  let n := 4 * r.count
  let own (f : Update → Nat) : List Byte := (us.map (fun u => leBytes 4 (f u))).flatten
  (r.devices.map (fun p => if p = me then own Update.w
    else (((peers.find? (fun (x : Peer) => x.dev == p)).map Peer.chunk).getD [] ++ List.replicate n 0).take n)).flatten ++
    own Update.m ++ (if r.arg = 1 then own Update.v else [])

/-- The flag flit that ends the all-gather arrives, with the OR of every chunk's flag. -/
def execFlagFlit (cmd : Nat) (bad : Bool) (s : State) : Host.Outcome State Fault Refusal :=
  match s.cmd? cmd with
  | none => .next s.tick
  | some c =>
    match c.job with
    | .winnow r status bar st flags peers =>
      if c.stage ≠ .running ∨ r.kind ≠ 4 ∨ st ≠ 1 then .next s.tick
      else match s.ownChunk c r peers with
        | .error e => .next (s.collError c e).tick
        | .ok us =>
          match s.writeSpan c r.pnd (r.pending s.pod.index us peers) with
          | .error e => .next (s.collError c e).tick
          | .ok s1 =>
            let skip := bad || us.any Update.bad || peers.any Peer.bad
            .next (s1.mapCmd cmd (fun c => { c with
              job := .winnow r status bar 2 (flags + 2 * skip.toNat) peers })).tick
    | _ => .next s.tick

/-- The update is committed: pending weights into WGT, and the owner's states. -/
def State.commitUpdate (s : State) (c : Cmd) (r : CollRec) : Except EngErr State := do
  let n := 4 * r.count
  let p := r.devices.length * n
  let ws ← s.readSpan c r.pnd p 4
  let m ← s.readSpan c (r.pnd + p) n 4
  let v ← if r.arg = 1 then s.readSpan c (r.pnd + p + n) n 4 else .ok []
  s.writeSpans c ([(r.wgt, ws), (r.mst1, m)] ++ (if r.arg = 1 then [(r.mst2, v)] else []))

/-- What an aborted collective may have written: a part of its results, or of its pending area. -/
def State.partialWrites (s : State) (c : Cmd) (r : CollRec) (st : Nat) (peers : List Peer) : State :=
  if st ≠ 1 then s
  else
    let image : Except EngErr (Nat × List Byte) :=
      if r.kind = 4 then (s.ownChunk c r peers).map (fun us => (r.pnd, r.pending s.pod.index us peers))
      else (s.sources c r peers).map (fun srcs => (r.dst, r.results s.treePick srcs (r.rankOf s.pod.index)))
    match image with
    | .error _ => s
    | .ok (va, bs) => (s.writeSpan c va (bs.take (s.pick 950 % (bs.length + 1)))).toOption.getD s

/-- A member that has failed or left the pod ends its live collectives with ABORT on this device: nothing is committed from here on,
and what is left to write is the status (R292, R294). -/
def State.abortCollectives (s : State) (who : Nat → Bool) : State :=
  s.cmds.foldl (fun s c =>
    match c.job with
    | .winnow r status bar st _ peers =>
      if c.stage = .running ∧ st ≠ 3 ∧ r.devices.any who = true then
        (s.partialWrites c r st peers).mapCmd c.id (fun c => { c with job := .winnow r status bar 3 8 peers })
      else s
    | _ => s) s

/-- A collective ends on this device: with its results, without them where the records disagree, or by the loss of a member. -/
def execCollectiveEnd (cmd : Nat) (lost : Bool) (s : State) : Host.Outcome State Fault Refusal :=
  match s.cmd? cmd with
  | none => .next s.tick
  | some c =>
    match c.job with
    | .winnow r status bar st flags peers =>
      let out : Except EngErr State :=
        if st = 3 ∨ flags ≠ 0 then .ok s
        else if r.kind = 4 then s.commitUpdate c r
        else match s.sources c r peers with
          | .error e => .error e
          | .ok srcs => s.writeSpan c r.dst (r.results s.treePick srcs (r.rankOf s.pod.index))
      let ended (s : State) (flags : Nat) : State :=
        s.mapCmd cmd (fun c => { c with job := .winnow r status bar 3 flags peers })
      if c.stage ≠ .running then .next s.tick
      else if lost && st != 3 then .next ((ended (s.partialWrites c r st peers) 8).collDone c r status bar 8).tick
      else if st = 3 ∨ st = 2 ∨ (st = 1 ∧ r.kind ≠ 4) then
        match out with
        | .error e => .next (s.collError c e).tick
        | .ok s1 => .next ((ended s1 flags).collDone c r status bar flags).tick
      else .next s.tick
    | _ => .next s.tick

end Sys2Proof.Machine
end

