-- ==== Sys2Proof/Machine/Retire.lean ====
section
/-! DEFINITION. Retirement of blocks, completion bits, and the command links between the Massif and the Cairns (R67, R359 to R361,
R368). -/

namespace Sys2Proof.Machine

/-! ### Permits (R67) -/

/-- A message with its own header is delivered: the sender's permit is spent, and RET comes back to the receiver.
Log entry 81 (DEDUCED). -/
def Link.deliver (l : Link) (m : Msg) : Link :=
  if m.toCairn then
    { l with toPermits := l.toPermits - 1, owedTo := l.owedTo + 1, toSeq := m.seq % 65536,
             fromPermits := l.fromPermits + m.ret, owedFrom := l.owedFrom - m.ret }
  else
    { l with fromPermits := l.fromPermits - 1, owedFrom := l.owedFrom + 1, fromSeq := m.seq % 65536,
             toPermits := l.toPermits + m.ret, owedTo := l.owedTo - m.ret }

/-- Permits that the receiver of a message holds for its own direction. -/
def Link.held (l : Link) (toCairn : Bool) : Nat := if toCairn then l.fromPermits else l.toPermits

/-- The sender of a direction may send. -/
def Link.maySend (l : Link) (toCairn : Bool) : Bool := decide (0 < (if toCairn then l.toPermits else l.fromPermits))

/-- RET of a message would pass the 16 permits of a direction. Log entry 81 (DEDUCED). -/
def Link.badRet (l : Link) (m : Msg) : Bool := decide (16 - l.held m.toCairn < m.ret)

/-- A dropped message: its sender's permit is spent, and its SEQ has been seen (R389). -/
def Link.drop (l : Link) (m : Msg) : Link :=
  if m.toCairn then { l with toPermits := l.toPermits - 1, owedTo := l.owedTo + 1, toSeq := m.seq % 65536 }
  else { l with fromPermits := l.fromPermits - 1, owedFrom := l.owedFrom + 1, fromSeq := m.seq % 65536 }

/-- The receiver of a direction has seen a sequence number: it is the last one, or one of the 32767 before it (R389).
Log entry 81 (DEDUCED). -/
def Link.seen (l : Link) (m : Msg) : Bool :=
  decide (((if m.toCairn then l.toSeq else l.fromSeq) + 65536 - m.seq % 65536) % 65536 < 32768)

/-- The Massif's message that waits longest is this one. -/
def Link.isNext (l : Link) (m : Msg) : Bool := m.toCairn && l.out.head? == some (m.type, m.blk)

/-- The message that waits longest has left, if it is this one: of the Massif, or of the Cairn, where it stands for what is given. -/
def Link.shift (l : Link) (m : Msg) (what : Option CairnMsg) : Link :=
  if l.isNext m then { l with out := l.out.tail }
  else if !m.toCairn && what.isSome && l.back.head?.map Prod.snd == what then { l with back := l.back.tail }
  else l

/-- The retired block of a cluster whose message is the oldest. -/
def State.oldestRetired (s : State) (c : Nat) : Option Block :=
  leastBy Block.order (s.allBlocks.filter (fun b => b.cluster == c && b.stage == .retired))

/-- The place in order of the message of a Cairn that waits longest, a RETIRE or another. -/
def State.oldestFrom (s : State) (c : Nat) : Option Nat :=
  leastBy (fun n => n) (((s.oldestRetired c).map Block.order).toList ++ ((s.cluster c).link.back.head?.map Prod.fst).toList)

/-- The cluster whose message the Massif takes next, where one of a cluster given waits beside those it knows of: rounds of ascending
cluster, one message each (R67). -/
def State.nextServed (s : State) (also : Nat) : Option Nat :=
  let cs := (List.range Config.clusters).filter (fun c =>
    (c == also || (s.oldestFrom c).isSome) && !((s.cluster c).lost && (s.oldestFrom c).isNone) && (s.cluster c).link.maySend false)
  (cs.find? (fun c => decide (s.served < c))).or cs.head?

/-- A message from a Cairn is the one that it sends next: nothing of its own waits, or what waits longest is what the message stands
for. -/
def State.inOrder (s : State) (c : Nat) (what : Option CairnMsg) : Bool :=
  match s.oldestFrom c with
  | none => true
  | some n => what.isSome && (s.cluster c).link.back.head? == what.map (fun w => (n, w))

/-- The Massif takes a message of a cluster now: it is in order, and the cluster's turn has come. -/
def State.hears (s : State) (c : Nat) (what : Option CairnMsg) : Bool := s.inOrder c what && s.nextServed c == some c

/-- A message of a known type on the link of a cluster, and what it does there; `what` is what a Cairn's message stands for. One whose
SEQ has been seen is dropped, so that a message sent again after a take-over acts once (R389). One with a bad RET is dropped and counts
as a link error. -/
def message (cluster : Nat) (m : Msg) (what : Option CairnMsg) (act : State → State) (s : State) : Host.Outcome State Fault Refusal :=
  let l := (s.cluster cluster).link
  if Config.clusters ≤ cluster ∨ (s.cluster cluster).lost = true ∨ l.maySend m.toCairn = false then .next s.tick
  else if l.seen m then .next s.tick
  else if !m.toCairn && !s.hears cluster what then .next s.tick
  else
    let s := if m.toCairn then s else { s with served := cluster }
    if l.badRet m then .next ((s.mapLink cluster (fun l => l.drop m)).linkError cluster).tick
    else .next (act (s.mapLink cluster (fun l => (l.deliver m).shift m what))).tick

/-! ### Retirement (R359, R360) -/

/-- A block is being saved in a launch that has been cancelled: it ends killed (R62, R368). -/
def State.savedForNothing (s : State) (b : Block) : Bool :=
  (b.stage == .stopping || b.stage == .saving) && ((s.launch? b.decl.lid).map (fun l => l.state == .cancelling)).getD false

/-- Every item of R359 holds for a block. Log entry 83 (DEDUCED). -/
def State.retirable (s : State) (b : Block) : Bool :=
  (b.stage == .running || b.stage == .stopping || b.stage == .saving || b.stage == .restoring) && s.resident b &&
    !s.savedForNothing b && !s.replays b.id &&
    b.threads.all (fun t => t.life == .exited && t.written && t.pend.all (fun p => !p.act.isCtrs)) &&
    s.cmds.all (fun c => c.blk != b.id || c.gone) &&
    b.slots.all (fun sl => sl.state != .opened && sl.state != .closing && sl.drains == 0) &&
    s.sections.all (fun x => x.blk != b.id || !x.live)

/-- Bit index of a block in its grid's bitmap (R26). -/
def Block.bit (b : Block) : Nat := b.bx + b.decl.gx * (b.by' + b.decl.gy * b.bz)

/-- A block releases at its retirement what its threads pass on, and its engine work: to the consumers that wait for its bit, to the next
pass, and to ORDERED launches of its queue (R28, R32, R46). -/
def State.handDown (s : State) (b : Block) : State :=
  let p (e : Stale) : Bool := e.knows (.work b.id) || b.threads.any (fun t => e.releasedBy b.id t.tidx s.seq)
  match s.launch? b.decl.lid with
  | none => s
  | some l =>
    let s1 := s.tellAll p (.pass l.lid b.pass) 0
    let s2 := if l.record.bitmap = 0 then s1 else s1.tellAll p (.bit l.ctx (8 * l.record.bitmap.toNat + b.bit)) 0
    (match l.src with
      | .queue q => s2.tellAll p (.queue q) 0
      | _ => s2).forgetBlock b.id

/-- A block retires: everything it holds is free, and its RETIRE is under way. -/
def State.retireBlock (s : State) (b : Block) : State :=
  let s1 := (s.handDown b).removeBlock b.id
  let gone : Block := { b.fresh with threads := [], groups := [], slots := [], stage := .retired, order := s.seq }
  { s1 with seq := s1.seq + 1, blocks := NMap.insert s1.blocks b.id gone }

def execBlockRetire (blk : Nat) (s : State) : Host.Outcome State Fault Refusal :=
  match s.block? blk with
  | none => .next s.tick
  | some b => .next (if s.retirable b then s.retireBlock b else s).tick

/-- The Spur takes RETIRE: the block is counted, its bit is due in the pass that ends the launch, and an end may follow. -/
def State.takeRetire (s : State) (b : Block) : State :=
  let s1 : State := { s with blocks := NMap.remove s.blocks b.id }
  let s2 := s1.mapLaunch b.decl.lid (fun l =>
    { l with done := l.done + 1, bits := if l.bits.contains b.bit then l.bits else l.bits ++ [b.bit] })
  (s2.flushBits b.decl.lid none).decideEnd b.decl.lid

def execRetireMsg (blk : Nat) (s : State) : Host.Outcome State Fault Refusal :=
  match s.block? blk with
  | none => .next s.tick
  | some b =>
    let oldest := (s.oldestRetired b.cluster).map Block.id
    if b.stage ≠ .retired ∨ oldest ≠ some blk ∨ s.oldestFrom b.cluster ≠ some b.order ∨ s.nextServed b.cluster ≠ some b.cluster then
      .next s.tick
    else .next (({ s with served := b.cluster } : State).mapLink b.cluster (fun l => l.send false) |>.takeRetire b).tick

/-- A bit that another device of the pod sends is set in the copy here. -/
def execCompletionBitMessage (lid bit : Nat) (s : State) : Host.Outcome State Fault Refusal :=
  match s.launch? lid with
  | none => .next s.tick
  | some l =>
    if l.pod = false ∨ l.record.blocks ≤ bit then .next s.tick
    else .next ((s.mapLaunch lid (fun l => { l with remote := if l.remote.contains bit then l.remote else l.remote ++ [bit] })).setBit
      lid none bit).tick

/-! ### Messages (R67) -/

/-- The gang record of a block whose DIE gang holds room and has not been acknowledged by a cluster that it uses (R59). -/
def State.unacked (s : State) (cluster blk : Nat) : Option Gang :=
  ((s.block? blk).bind s.gangRecord).filter (fun g => g.die && g.assigned && !g.acks.contains cluster &&
    s.allBlocks.any (fun b => b.decl.lid == g.lid && b.gang == some g.id && b.waits && b.cluster == cluster))

/-- A block of a gang that stands at a cluster has not been sent to it yet. -/
def State.partUnsent (s : State) (cluster : Nat) (g : Gang) : Bool :=
  s.allBlocks.any (fun b => b.decl.lid == g.lid && b.gang == some g.id && b.waits && b.cluster == cluster && s.unsent b)

/-- PLACE carries a block's task record to its Cairn, which may place the block from then on (R56, R67). With the last one of its part of
a DIE gang the Cairn acknowledges the room (R59). -/
def execPlaceMsg (cluster : Nat) (m : Msg) (s : State) : Host.Outcome State Fault Refusal :=
  message cluster m none (fun s' =>
    if !((s.cluster cluster).link.isNext m) then s'
    else match s'.unacked cluster m.blk with
      | some g => if s'.partUnsent cluster g then s' else s'.report cluster (.placed m.blk)
      | none => s') s

/-- The block that a message names stands at the cluster's Cairn. -/
def State.named (s : State) (cluster : Nat) (m : Msg) : Option Block :=
  (s.block? m.blk).bind (fun b => if b.cluster = cluster ∧ b.decl.lid = m.lid then some b else none)

/-- Gangs of which nothing waits are forgotten, and with them what they hold (R60). -/
def State.dropGangs (s : State) : State :=
  { s with gangs := s.gangs.filter (fun g => s.allBlocks.any (fun b => b.decl.lid == g.lid && b.gang == some g.id && b.waits)) }

/-- KILL: the block dies, with its gang instance (R14). One that the Massif has decided finds its block gone (R368).
Log entries 81 (DEDUCED), 104 (DEDUCED). -/
def execKillMsg (cluster : Nat) (m : Msg) (s : State) : Host.Outcome State Fault Refusal :=
  message cluster m none (fun s' =>
    if (s.cluster cluster).link.isNext m then s'
    else match s'.named cluster m with
      | none => s'
      | some b => (((s'.gangOf b).foldl State.kill s').dropGangs).decideEnd b.decl.lid) s

/-- FAULT reports to the Massif what the Cairn has done about a fault (R63). -/
def execFaultMsg (cluster : Nat) (m : Msg) (s : State) : Host.Outcome State Fault Refusal :=
  message cluster m (some (.fault m.blk)) id s

/-- PERMIT returns permits and does nothing else. -/
def execPermitMsg (cluster : Nat) (m : Msg) (s : State) : Host.Outcome State Fault Refusal := message cluster m none id s

/-- PATCH tells the Cairn of a swap, which it acknowledges (R395). -/
def execPatchMsg (cluster : Nat) (m : Msg) (s : State) : Host.Outcome State Fault Refusal :=
  message cluster m none (fun s =>
    if s.fw.state = .broadcast ∧ m.toCairn = true ∧ s.fw.told.contains cluster = false then
      ({ s with fw := { s.fw with told := s.fw.told ++ [cluster] } } : State).report cluster .patched
    else s) s

/-- What an ACK of a Cairn does: it counts for a patch of which the Cairn has been told (R395), or for the DIE gang whose room it holds
(R59). -/
def State.takeAck (s : State) (cluster : Nat) : CairnMsg → State
  | .fault _ => s
  | .placed k =>
    match s.unacked cluster k with
    | some g => { s with gangs := s.gangs.map (fun x => if x.lid = g.lid ∧ x.id = g.id then { x with acks := x.acks ++ [cluster] } else x) }
    | none => s
  | .patched =>
    if s.fw.state = .broadcast ∧ s.fw.told.contains cluster = true ∧ s.fw.acks.contains cluster = false then
      ({ s with fw := { s.fw with acks := s.fw.acks ++ [cluster] } } : State).mapCluster cluster (fun x =>
        { x with patches := x.patches ++ [s.fw.image] })
    else s

/-- ACK of a Cairn: that of the room of a DIE gang where it waits longest, and else that of a patch. -/
def execAckMsg (cluster : Nat) (m : Msg) (s : State) : Host.Outcome State Fault Refusal :=
  let what : CairnMsg := match (s.cluster cluster).link.back.head? with
    | some (_, .placed k) => .placed k
    | _ => .patched
  message cluster m (some what) (fun s => if m.toCairn then s else s.takeAck cluster what) s

/-- A message of a type that R67 does not list, or with a bad RET. One whose SEQ has been seen is dropped without more (R389). -/
def execMessageUnknown (cluster : Nat) (m : Msg) (s : State) : Host.Outcome State Fault Refusal :=
  let l := (s.cluster cluster).link
  if Config.clusters ≤ cluster ∨ (s.cluster cluster).lost = true ∨ l.maySend m.toCairn = false ∨ l.seen m = true then .next s.tick
  else if !m.toCairn && !s.hears cluster none then .next s.tick
  else if !l.badRet m && decide (1 ≤ m.type ∧ m.type ≤ 8) then .next s.tick
  else
    let s0 := if m.toCairn then s else { s with served := cluster }
    let s1 := s0.mapLink cluster (fun l => l.drop m)
    if l.badRet m then .next (s1.linkError cluster).tick
    else .next (s1.mapLink cluster (fun l => { l with dropped := l.dropped + 1 })).tick

/-- A receiver that has had no message to send for 2 µs sends PERMIT; the Massif takes that of a Cairn in its turn. -/
def execPermitTimeout (cluster : Nat) (toCairn : Bool) (s : State) : Host.Outcome State Fault Refusal :=
  let l := (s.cluster cluster).link
  let owed := if toCairn then l.owedFrom else l.owedTo
  let free := if toCairn then l.out.isEmpty else s.hears cluster none
  if Config.clusters ≤ cluster ∨ owed = 0 ∨ l.maySend toCairn = false ∨ free = false then .next s.tick
  else
    let s0 := if toCairn then s else { s with served := cluster }
    .next (s0.mapLink cluster (fun l => l.send toCairn)).tick

end Sys2Proof.Machine
end

