-- ==== Sys2Proof/Machine/Placement.lean ====
section
/-! DEFINITION. Placement: units reach Cairns, rounds start blocks, gangs wait and starve, and blocks are pre-empted to memory and
restored (R28, R54 to R62, R112, R351 to R353). -/

namespace Sys2Proof.Machine

/-! ### Dependences (R26 to R28) -/

/-- A bit of a producer's bitmap is set in the copy here. Log entry 71 (DEDUCED). -/
def State.bitSet (s : State) (ctx : Nat) (map : W64) (i : Nat) : Bool :=
  match s.xlate [] ctx (map.toNat + i / 8) Need.load true (s.pick 900) with
  | .ok x => (s.byte x.key).getLsbD (i % 8)
  | .error _ => false

/-- Every bit of every producer box of a block is set. -/
def State.satisfied (s : State) (l : Launch) (m : Nat) : Bool :=
  l.deps.all (fun d => (d.bits (l.record.coords m)).all (s.bitSet l.ctx d.pbmap))

/-- The blocks of a unit. -/
def LaunchRec.unitMembers (r : LaunchRec) (u : Nat) : List Nat := (List.range r.unitBlocks).map (fun k => u * r.unitBlocks + k)

/-- The first unit dealt to this Spur whose blocks may be placed. R28 speaks of each consumer block; that the blocks of a unit which
is no gang are handed out together, once the dependences of all of them are met, is the model's choice (log entry 112, DESIGN
CHOICE). -/
def State.nextHandoff (s : State) (l : Launch) : Option Nat :=
  ((l.runs.map (fun (f, n) => (List.range n).map (fun k => f + k))).flatten).find? (fun u =>
    (l.record.unitMembers u).all (s.satisfied l))

/-! ### Units to Cairns (R50, R56, R59) -/

/-- The declaration that a launch fixes for its blocks. -/
def Launch.decl (l : Launch) : Decl :=
  let r := l.record
  let (gx, gy, gz) := r.grid
  { lid := l.lid, ctx := l.ctx, prio := r.prio, regs := r.regs, preds := r.preds, tiles := r.tiles, scratch := r.scratch,
    slots := r.slots, width := r.width, nthr := r.threads, codebase := r.codebase, entry := r.entry, psize := r.psize, gx := gx,
    gy := gy, gz := gz, team := (r.teamLevel.map r.blocksIn).getD 0,
    part := ((highest (fun _ e => e.domain == 3) r.levels).map r.blocksIn).getD 1, relaunchable := r.relaunchable, maxrel := r.maxrel,
    persistent := r.persistent, gridScope := (r.levels.getLast?.map LevelEntry.scope).getD 0,
    blkScope := (r.levels[r.blockLevel]?.map LevelEntry.scope).getD 0, grpScope := (r.levels[1]?.map LevelEntry.scope).getD 0,
    lrec := l.lrec }

/-- The m-th block of a launch as it waits at a Cairn. -/
def Launch.block (l : Launch) (m id cluster : Nat) : Block :=
  let r := l.record
  let (x, y, z) := r.coords m
  let team := (r.teamLevel.map r.blocksIn).getD 1
  ({ id := id, decl := l.decl, bx := x, by' := y, bz := z, pass := l.pass, attempt := 0,
     gang := r.gangLevel.map (fun k => m / r.blocksIn k), brank := m % team, teamId := m / team, stage := .pending,
     cluster := cluster, core := 0, sched := 0, placed := 0, ptime := 0, order := id, params := l.params, threads := [],
     groups := [], scratch := [], objects := [], xregs := [], tiles := [], slots := [], fm := [], head := 0, mark := 0,
     lastIssue := none, issued := 0, saveAddr := 0, saveSize := 0 } : Block).fresh

/-- The domain of a launch's gangs is DIE. -/
def LaunchRec.dieGangs (r : LaunchRec) : Bool := ((r.gangLevel.bind (fun k => r.levels[k]?)).map LevelEntry.domain) == some 4

/-- Free cores of a die in a partition. -/
def State.dieRoom (s : State) (n ctx d : Nat) : Nat :=
  (((s.clustersOf n).filter (fun c => c / 16 == d)).map (fun c => s.freeCores c ctx)).sum

/-- A waiting gang instance, new or queued again. -/
def Gang.fresh (id lid size cluster : Nat) (die : Bool) (now : W64) : Gang :=
  { id := id, lid := lid, die := die, size := size, cluster := cluster, rounds := 0, since := now, starved := false,
    starvedAt := 0, acks := [], assigned := false }

/-- Dies in which a partition has clusters. -/
def State.diesOf (s : State) (n : Nat) : List Nat := [0, 1, 2, 3].filter (fun d => (s.clustersOf n).any (fun c => c / 16 == d))

/-- One instance, or one single block, goes to its Cairn, which a PLACE tells of it (R67); a DIE gang waits at the die with the most free
cores, and its Cairns are told once it has room (R59). -/
def State.handInstance (s : State) (l : Launch) (n : Nat) (ms : List Nat) : State :=
  let r := l.record
  let gang := r.gangLevel.isSome
  let die := (mostBy (fun d => (s.dieRoom n l.ctx d : Int)) (s.diesOf n)).getD 0
  let home : Option Nat := if r.dieGangs then (s.clustersOf n).find? (fun c => c / 16 == die) else s.chooseCairn n l.ctx gang
  match home with
  | none => s
  | some c =>
    let s1 := ms.foldl (fun (s : State) m =>
      let s1 : State := { s with seq := s.seq + 1, blocks := NMap.insert s.blocks s.seq (l.block m s.seq c) }
      if r.dieGangs then s1 else s1.tell c 1 s.seq) s
    match r.gangLevel, ms.head? with
    | some k, some m => { s1 with gangs := s1.gangs ++
        [Gang.fresh (m / r.blocksIn k) l.lid ms.length (if r.dieGangs then die else c) r.dieGangs s.ptime] }
    | _, _ => s1

/-- Blocks of a unit as they are handed out together. -/
def LaunchRec.instances (r : LaunchRec) (u : Nat) : List (List Nat) :=
  let ms := r.unitMembers u
  match r.gangLevel with
  | none => ms.map (fun m => [m])
  | some k =>
    let n := r.blocksIn k
    (List.range (r.unitBlocks / n)).map (fun i => (ms.drop (i * n)).take n)

/-- A unit leaves the runs of this Spur. -/
def Launch.takeUnit (l : Launch) (u : Nat) : Launch := { l with runs := cutRun u 1 l.runs }

/-- Launch a is dealt before b: higher priority, then pod order between pod grids, else the order of acceptance (R50). -/
def Launch.before (a b : Launch) : Bool :=
  decide (b.record.prio < a.record.prio) ||
    (a.record.prio == b.record.prio &&
      (if a.pod && b.pod then decide (a.podSeq < b.podSeq) else decide (a.order < b.order)))

/-- The partition where a launch's blocks may be placed now: its context is active there, and it does not halt (R55, R354). -/
def State.placesIn (s : State) (ctx : Nat) : Option Nat :=
  (s.activeIn ctx).bind (fun n => if (s.partition n).halt || (s.partition n).halted then none else some n)

/-- The launch may hand out a unit: its partition has clusters, and has not lost the room that its gangs need (R65). -/
def State.ripe (s : State) (l : Launch) : Option (Nat × Nat) :=
  if l.state ≠ .dealing ∧ l.state ≠ .draining then none
  else match s.placesIn l.ctx, s.nextHandoff l with
    | some n, some u => if (s.clustersOf n).isEmpty || s.shrunk l then none else some (n, u)
    | _, _ => none

def execUnitHandoff (lid : Nat) (s : State) : Host.Outcome State Fault Refusal :=
  match s.launch? lid with
  | none => .next s.tick
  | some l =>
    match s.ripe l with
    | none => .next s.tick
    | some (n, u) =>
      if s.launches.any (fun a => a.before l && s.activeIn a.ctx == some n && (s.ripe a).isSome) then .next s.tick
      else
        let s1 := s.mapLaunch lid (fun l => l.takeUnit u)
        .next ((l.record.instances u).foldl (fun s ms => s.handInstance l n ms) s1).tick

/-! ### Starting and restoring (R57, R112, R353) -/

/-- The scheduler of a core with fewer resident threads. -/
def State.chooseSched (s : State) (c core ctx : Nat) : Nat :=
  let load (k : Nat) : Nat := ((s.allBlocks.filter (fun b => b.cluster == c && b.core == core && b.decl.ctx == ctx &&
    b.sched == k && s.holdsRoom b && !b.waits)).map (fun b => b.decl.nthr)).sum
  if load 1 < load 0 then 1 else 0

/-- A thread enters its handler to be restored; its frame gains RESUME (R353). Log entry 68 (DEDUCED). -/
def Thread.restore (t : Thread) (pc : W32) : Thread :=
  if t.life = .exited then t
  else { t with regs := [], preds := [], life := .live, wait := none, trap := none, sup := true, inTrap := true, pc := pc,
                frame := NMap.put 0 t.frame 1 (NMap.read 0 t.frame 1 ||| 0x200#32), resumed := false }

/-- What the threads of a block observe as it starts anew: the stores before its LAUNCH (R40), the launches before an ORDERED one (R32),
the pass before its own (R46), and the producer blocks in its boxes (R28). -/
def State.startKnowing (s : State) (b : Block) : State :=
  match s.launch? b.decl.lid with
  | none => s.forgetBlock b.id
  | some l =>
    let boxes := (l.deps.map (fun d => (d.bits (l.record.coords b.index)).map (fun i => Knower.bit l.ctx (8 * d.pbmap.toNat + i)))).flatten
    let s1 := s.forgetBlock b.id
    { s1 with stale := s1.stale.map (fun e =>
        if e.knows (.launch l.lid) || (b.pass != 0 && e.knows (.pass l.lid (b.pass - 1))) || boxes.any e.knows then
          (List.range b.decl.nthr).foldl (fun e t => e.tell (.thread b.id t) s.seq) e
        else e) }

/-- A block starts on a core, from ENTRY or from its saved state. Its core keeps no line from before (R28, R40), and its scratchpad, which
is zeroed, holds no poisoned sector and nothing older (R234, R350, R353). Where the handler cannot be reached, the block ends (R335). R114 does not say whether a restored block counts as never
issued: that it does is the model's choice (log entry 113, DESIGN CHOICE). -/
def State.startBlock (s : State) (b : Block) (c core : Nat) : State :=
  let sched := s.chooseSched c core b.decl.ctx
  let s0 := (({ s with seq := s.seq + 1 } : State).dropLines (4 * c + core) (fun _ => true)).forgetScratch b.id
  let s1 := (if b.stage = .saved then s0 else s0.startKnowing b).clean (scratchKey b.id 0) (b.decl.scratch * 4096)
  let put (b : Block) : State := { s1 with blocks := NMap.insert s1.blocks b.id { b with
    cluster := c, core := core, sched := sched, placed := s.seq, ptime := s.ptime, lastIssue := none } }
  if b.stage = .saved then
    match handlerPc (s.ctx b.decl.ctx) b.decl.codebase, b.threads.find? (fun t => t.life != .exited) with
    | none, some t => (put { b with stage := .running }).fatal b (s.entryFor b t.tidx (mkTrap 0x11 0 (NMap.read 0 t.frame 0)) 0)
    | pc, _ => (put { (b.mapThreads (fun t => t.restore (pc.getD 0))) with stage := .restoring, scratch := [] }).restoredTest b.id
  else put { b.fresh with stage := .running }

/-- Blocks start together, and their gang waits no more. -/
def State.startAll (s : State) (c : Nat) (bs : List Block) (cores : List Nat) : State :=
  let s1 := (bs.zip cores).foldl (fun s e => s.startBlock e.1 c e.2) s
  match bs.head?.bind Block.gang, bs.head? with
  | some g, some b => { s1 with gangs := s1.gangs.filter (fun x => !(x.lid == b.decl.lid && x.id == g)) }
  | _, _ => s1

/-! ### Gangs that wait (R58 to R60) -/

/-- 100 µs in ticks of pod time. -/
def gangWait : Nat := 25600000

/-- The gang record of an item, or a new one where its instance has been queued again. -/
def State.ensureGang (s : State) (item : List Block) : State :=
  match item.head? with
  | none => s
  | some b =>
    match b.gang with
    | none => s
    | some g =>
      if (s.gang? b.decl.lid g).isSome then s
      else
        let die := ((s.launch? b.decl.lid).map (fun l => l.record.dieGangs)).getD false
        { s with gangs := s.gangs ++ [Gang.fresh g b.decl.lid item.length (if die then b.cluster / 16 else b.cluster) die
          s.ptime] }

/-- Waiting blocks of a gang. -/
def State.gangBlocks (s : State) (g : Gang) : List Block :=
  s.allBlocks.filter (fun b => b.decl.lid == g.lid && b.gang == some g.id && b.waits)

/-- The priority of a gang's launch. -/
def State.gangPrio (s : State) (g : Gang) : Nat := ((s.launch? g.lid).map (fun l => l.record.prio)).getD 0

/-- A cluster is one of those that a gang waits for: its own, or those of its die, in the partition of its context. -/
def State.concerns (s : State) (g : Gang) (c : Nat) : Bool :=
  (if g.die then g.cluster == c / 16 else g.cluster == c) &&
    match s.partitionOf c with
    | none => false
    | some n => decide ((s.partition n).actx = (s.launch? g.lid).map Launch.ctx)

/-- A gang record that stands in the way of an item on a cluster: starved and waiting, with that cluster among its own, and not below
the item's priority. -/
def State.heldBy (s : State) (c : Nat) (b : Block) : Bool :=
  s.gangs.any (fun g => g.starved && !(b.gang == some g.id && b.decl.lid == g.lid) && !(s.gangBlocks g).isEmpty &&
    s.concerns g c && decide (b.decl.prio ≤ s.gangPrio g))

/-- A replay stands or waits in a context: it is placed alone, once nothing of the context stands, and nothing else is placed with it
(R384). -/
def State.yieldsTo (s : State) (ctx : Nat) (b : Block) : Bool :=
  if s.replays b.id then s.allBlocks.any (fun x => x.id != b.id && x.decl.ctx == ctx && s.holdsRoom x)
  else s.replaying.any (fun r => r.ctx == ctx)

/-- Nothing but room keeps an item from a cluster: all of it waits, its Cairn has been sent it, and nothing holds the room. -/
def State.mayTry (s : State) (c ctx : Nat) (b : Block) (item : List Block) : Bool :=
  !s.heldBy c b && (s.gangOf b).all Block.waits && !item.any s.unsent && !s.yieldsTo ctx b

/-- One item of the walk: placed if it fits and may be tried. -/
def State.tryItem (s : State) (c ctx : Nat) (item : List Block) : State :=
  match item.head? with
  | none => s
  | some b =>
    let s1 := s.ensureGang item
    if s1.inDieGang b || !s1.mayTry c ctx b item then s1
    else match (s1.bays c ctx).placeAll item with
      | some (cores, _) => s1.startAll c item cores
      | none => s1

/-- Clusters of a die for the parts of a DIE gang: each part goes whole to the first cluster with room, taken in block order. R59 says
only that a team has a single cluster: which one is the model's choice (log entry 114, DESIGN CHOICE). -/
def State.assignParts (s : State) (ctx : Nat) (cs : List Nat) : List (List Block) → List (Nat × Bays) →
    Option (List (Block × Nat × Nat))
  | [], _ => some []
  | part :: rest, used =>
    let room (c : Nat) : Bays := (NMap.lookup used c).getD (s.bays c ctx)
    match cs.findSome? (fun c => ((room c).placeAll part).map (fun r => (c, r))) with
    | none => none
    | some (c, (cores, y)) =>
      (s.assignParts ctx cs rest ((c, y) :: used.filter (fun e => e.1 != c))).map (fun more =>
        (part.zip cores).map (fun e => (e.1, c, e.2)) ++ more)

/-- The parts of a DIE gang that each need one cluster: the instances of its highest CLUSTER level, or its blocks (R14, R59). -/
def teamParts : Nat → List Block → List (List Block)
  | 0, _ => []
  | _, [] => []
  | n + 1, b :: bs =>
    let same (x : Block) : Bool := x.index / max 1 b.decl.part == b.index / max 1 b.decl.part
    (b :: bs.filter same) :: teamParts n (bs.filter (fun x => !same x))

/-- The Spur places a DIE gang in a die of the partition that has room for all of it, the one with the most free cores first; its
Cairns are told, and the room is held until they acknowledge. Of dies with equally many the lowest comes first, which R59 leaves
open: the model's choice (log entry 114, DESIGN CHOICE). -/
def State.assignDie (s : State) (n ctx : Nat) (g : Gang) : State :=
  let bs := s.gangBlocks g
  let order := (s.diesOf n).foldl (fun l d => (l.filter (fun e => decide (s.dieRoom n ctx d ≤ s.dieRoom n ctx e))) ++
    d :: l.filter (fun e => decide (s.dieRoom n ctx e < s.dieRoom n ctx d))) []
  let parts := teamParts bs.length bs
  let held (c : Nat) : Bool := (bs.head?.map (s.heldBy c)).getD true
  match order.findSome? (fun d =>
      (s.assignParts ctx ((s.clustersOf n).filter (fun c => c / 16 == d && !held c)) parts []).map (fun r => (d, r))) with
  | none => s
  | some (d, places) =>
    (places.foldl (fun s e => (s.mapBlock e.1.id (fun b => { b with cluster := e.2.1, core := e.2.2 })).tell e.2.1 1 e.1.id) s).mapGang
      g.lid g.id
      (fun g => { g with cluster := d, assigned := true, acks := [] })

/-- Clusters that a placed DIE gang uses. -/
def State.gangClusters (s : State) (g : Gang) : List Nat := ((s.gangBlocks g).map Block.cluster).dedup

/-- A DIE gang in a round: it starts once every Cairn has acknowledged, or is tried again; room in a cluster that the partition no
longer has is given up. Log entry 82 (DESIGN CHOICE). -/
def State.roundDie (s : State) (n ctx : Nat) (g : Gang) : State :=
  if !((s.gangBlocks g).head?.map (fun b => (s.gangOf b).all Block.waits && !s.yieldsTo ctx b)).getD false then s
  else if !g.assigned then s.assignDie n ctx g
  else if !(s.gangClusters g).all (s.clustersOf n).contains then
    (s.mapGang g.lid g.id (fun g => { g with assigned := false, acks := [] })).assignDie n ctx g
  else if (s.gangClusters g).all g.acks.contains then
    let bs := s.gangBlocks g
    let s1 := bs.foldl (fun s b => s.startBlock b b.cluster b.core) s
    { s1 with gangs := s1.gangs.filter (fun x => !(x.lid == g.lid && x.id == g.id)) }
  else s

/-- Arrival order of a gang: that of its first waiting block. -/
def State.gangKey (s : State) (g : Gang) : List Int := walkKey ((s.gangBlocks g).take 1)

/-- The gang is the highest-priority pending gang of its cluster or die. R60 does not say which of several of equal priority is, nor
whether gangs of another context compete: that the order of the walk decides, and that they do, is the model's choice (log entry 119,
DESIGN CHOICE). -/
def State.topGang (s : State) (g : Gang) : Bool :=
  !(s.gangBlocks g).isEmpty && !g.assigned && s.gangs.all (fun h =>
    !(h.die == g.die && h.cluster == g.cluster && (h.lid != g.lid || h.id != g.id) && !(s.gangBlocks h).isEmpty &&
      !h.assigned && decide (s.gangKey h < s.gangKey g)))

/-- A gang that still waits after a round of a Cairn was tried in it. -/
def State.triedIn (s : State) (c : Nat) (g : Gang) : Bool :=
  match s.gangBlocks g with
  | [] => false
  | b :: bs => if g.die then (s.gangOf b).all Block.waits && !s.yieldsTo b.decl.ctx b else s.mayTry c b.decl.ctx b (b :: bs)

/-- Rounds in which a gang has been tried and has failed to fit while it stood highest. Which rounds count for a DIE gang R60 does not say: every round of a
Cairn of its die and partition does, the model's choice (log entry 114, DESIGN CHOICE). -/
def State.countRounds (s : State) (c : Nat) : State :=
  { s with gangs := s.gangs.map (fun g =>
      if s.concerns g c then
        if s.topGang g && !s.triedIn c g then g
        else if s.topGang g then { g with rounds := g.rounds + 1, since := if g.rounds = 0 then s.ptime else g.since }
        else { g with rounds := 0 }
      else g) }

/-- What a round walks: the items of the Cairn and the DIE gangs of its context, together in the order of R57. -/
def State.roundItems (s : State) (c ctx : Nat) : List (List Block) :=
  (((s.gangs.filter Gang.die).map (fun g => (s.gangBlocks g).filter (fun b => b.decl.ctx == ctx))).filter (fun x => !x.isEmpty)).foldl
    (fun l x => insertItem x l) (s.walkItems c ctx)

/-- One item of a round. -/
def State.roundItem (s : State) (n c ctx : Nat) (item : List Block) : State :=
  match (item.head?.bind s.gangRecord).filter Gang.die with
  | some g => s.roundDie n ctx g
  | none => s.tryItem c ctx item

/-- A placement round of a Cairn (R57). -/
def State.placementRound (s : State) (c : Nat) : State :=
  match s.partitionOf c with
  | none => s
  | some n =>
    let p := s.partition n
    match p.actx with
    | none => s
    | some ctx =>
      if p.halt || p.halted || !s.usable c then s
      else
        let s0 := (itemsOf s.blocks.length (s.allBlocks.filter (fun b => b.decl.ctx == ctx && b.waits))).foldl
          State.ensureGang s
        ((s0.roundItems c ctx).foldl (fun s item => s.roundItem n c ctx item) s0).countRounds c

def execPlacementRound (cluster : Nat) (s : State) : Host.Outcome State Fault Refusal := .next (s.placementRound cluster).tick

/-- A round runs every 256 Cairn cycles, whatever else has happened. -/
def execPlacementTimer (cluster : Nat) (s : State) : Host.Outcome State Fault Refusal := .next (s.placementRound cluster).tick

/-- A gang as an event names it: its place in the list of gangs that wait. -/
def State.gangAt (s : State) (i : Nat) : Option Gang := s.gangs[i]?

/-- The ACK of a Cairn that holds room for a DIE gang reaches the Massif, in its turn and for a permit (R59, R67).
Log entries 81 (DEDUCED), 82 (DESIGN CHOICE). -/
def execDieGangAck (gang cluster : Nat) (s : State) : Host.Outcome State Fault Refusal :=
  match s.gangAt gang, (s.cluster cluster).link.back.head? with
  | some g, some (_, .placed k) =>
    if s.unacked cluster k = some g ∧ s.hears cluster (some (.placed k)) = true then
      .next ((({ s with served := cluster } : State).mapLink cluster (fun l => { l.send false with back := l.back.tail })).takeAck
        cluster (.placed k)).tick
    else .next s.tick
  | _, _ => .next s.tick

/-- A gang becomes starved. -/
def execGangStarved (gang : Nat) (s : State) : Host.Outcome State Fault Refusal :=
  match s.gangAt gang with
  | none => .next s.tick
  | some g =>
    if s.topGang g && !g.starved && decide (0 < g.rounds) &&
        (decide (1024 ≤ g.rounds) || decide (g.since.toNat + gangWait ≤ s.ptime.toNat)) then
      .next (s.mapGang g.lid g.id (fun g => { g with starved := true, starvedAt := s.ptime })).tick
    else .next s.tick

/-! ### Pre-emption to memory (R61, R351, R352) -/

/-- The save area of a context. -/
def Context.saveBase (c : Context) : Nat := c.save.toNat
def Context.saveEnd (c : Context) : Nat := c.save.toNat + c.saveSz.toNat

/-- Records in use in a context's save area. -/
def State.saveRecords (s : State) (ctx : Nat) : List (Nat × Nat) :=
  (s.allBlocks.filter (fun b => b.decl.ctx == ctx && b.saveSize != 0)).map (fun b => (b.saveAddr, b.saveSize))

/-- The first place for a record of n bytes: the base, or the end of a record in use. -/
def State.saveSpace (s : State) (ctx n : Nat) : Option Nat :=
  let c := s.ctx ctx
  let rs := s.saveRecords ctx
  let fits (a : Nat) : Bool := decide (c.saveBase ≤ a ∧ a + n ≤ c.saveEnd) && rs.all (fun r => !overlap a n r.1 r.2)
  leastBy (fun a => a) ((c.saveBase :: rs.map (fun r => up64 (r.1 + r.2))).filter fits)

/-- A block and its instance are to be pre-empted: each gets a record, or none does. -/
def State.reserveSave (s : State) : List Block → Option State
  | [] => some s
  | b :: bs =>
    match s.saveSpace b.decl.ctx b.recordSize with
    | none => none
    | some a => (s.mapBlock b.id (fun b => { b with saveAddr := a, saveSize := b.recordSize })).reserveSave bs

/-- A running block has a save record, and its PREEMPT is on the way (R61, R352). -/
def Block.chosen (b : Block) : Bool := b.stage == .running && b.saveSize != 0

/-- Pre-emption of a block that has its record begins, where it may still be pre-empted: its context has a handler (R334), and its launch
has not been cancelled (R368). Its record is free again otherwise. -/
def State.stopBlock (s : State) (b : Block) : State :=
  let ending := ((s.launch? b.decl.lid).map (fun l => l.state == .cancelling)).getD true
  s.mapBlock b.id (fun b =>
    if (s.ctx b.decl.ctx).handler = 0 ∨ ending = true then { b with saveAddr := 0, saveSize := 0 } else { b with stage := .stopping })

/-- Pre-emption of a block starts, with its instance; unchanged where it cannot. A block whose context has no handler is never
pre-empted (R334). -/
def State.preempt (s : State) (b : Block) : State :=
  let members := s.gangOf b
  if members.all (fun x => x.stage == .running && x.saveSize == 0) && !s.replays b.id && (s.ctx b.decl.ctx).handler != 0 then
    ((s.reserveSave members).map (fun s1 => (members.filterMap (fun x => s1.block? x.id)).foldl State.stopBlock s1)).getD s
  else s

/-- PREEMPT of the Massif on a command link: one that the Massif has decided stops the block that was chosen (R61, R351), and does
nothing where the block is not chosen any more. Log entry 81 (DEDUCED). -/
def execPreemptMsg (cluster : Nat) (m : Msg) (s : State) : Host.Outcome State Fault Refusal :=
  message cluster m none (fun s' =>
    match s'.named cluster m with
    | none => s'
    | some b =>
      if !((s.cluster cluster).link.isNext m) then s'.preempt b
      else if b.chosen then s'.stopBlock b
      else s') s

/-- The room of clusters if some blocks were gone. -/
def State.baysWithout (s : State) (c ctx : Nat) (gone : List Nat) : Bays :=
  (s.allBlocks.filter (fun b => b.cluster == c && b.decl.ctx == ctx && s.holdsRoom b && !gone.contains b.id)).foldl
    (fun x b => x.less b.core b.decl) Bays.empty

/-- How many blocks of a gang fit its cluster, or the clusters of its die, without some blocks. Log entry 78 (DEDUCED). -/
def State.gangFits (s : State) (g : Gang) (gone : List Nat) : Nat :=
  let bs := s.gangBlocks g
  match bs.head? with
  | none => 0
  | some b =>
    let ctx := b.decl.ctx
    if !g.die then (s.baysWithout g.cluster ctx gone).fitting bs
    else
      let cs := ((List.range 16).map (fun i => 16 * g.cluster + i)).filter (fun c =>
        s.usable c && (s.partitionOf c).bind (fun n => (s.partition n).actx) == some ctx)
      ((teamParts bs.length bs).foldl (fun (acc : Nat × List (Nat × Bays)) part =>
        let room (c : Nat) : Bays := (NMap.lookup acc.2 c).getD (s.baysWithout c ctx gone)
        match cs.findSome? (fun c => ((room c).placeAll part).map (fun r => (c, r.2))) with
        | none => acc
        | some (c, y) => (acc.1 + part.length, (c, y) :: acc.2.filter (fun e => e.1 != c))) (0, [])).1

/-- Blocks that may be pre-empted for a gang, beside those chosen: running persistent blocks of lower priority in its cluster, or in the
clusters of its die and partition, of a context with a handler (R334), and with room for the save records of the whole set (R352). -/
def State.eligibleFor (s : State) (g : Gang) (chosen : List Nat) : List Block :=
  s.allBlocks.filter (fun b => b.stage == .running && b.decl.persistent && decide (b.decl.prio < s.gangPrio g) &&
    s.concerns g b.cluster && s.resident b &&
    !s.replays b.id && (s.gangOf b).all (fun x => x.stage == .running && x.saveSize == 0) && (s.ctx b.decl.ctx).handler != 0 &&
    !chosen.contains b.id && (s.reserveSave (chosen.filterMap s.block? ++ s.gangOf b)).isSome)

/-- Victims one at a time, until the gang fits. -/
def State.victims (s : State) (g : Gang) : Nat → List Nat → List Nat
  | 0, gone => gone
  | n + 1, gone =>
    if g.size ≤ s.gangFits g gone then gone
    else
      let all (b : Block) : List Nat := (s.gangOf b).map Block.id
      let cs := s.eligibleFor g gone
      match leastBy (fun (b : Block) => (b.decl.prio * 2 ^ 32 + (2 ^ 20 - s.gangFits g (gone ++ all b))) * 2 ^ 64 +
          (2 ^ 60 - b.placed)) cs with
      | none => gone
      | some b => s.victims g n (gone ++ all b)

/-- A gang that has been starved for 100 µs has its victims pre-empted, if that makes it fit: each gets its record, and its Cairn is sent
PREEMPT. R61 does not say what follows while victims of an earlier choice are still stopped or saved: that no more are chosen in that
cluster or die is the model's choice (log entry 119, DESIGN CHOICE). -/
def execGangPreemptTrigger (gang : Nat) (s : State) : Host.Outcome State Fault Refusal :=
  match s.gangAt gang with
  | none => .next s.tick
  | some g =>
    let busy := s.allBlocks.any (fun b => (b.stage == .stopping || b.stage == .saving || b.chosen) &&
      (if g.die then b.cluster / 16 == g.cluster else b.cluster == g.cluster))
    if !g.starved || decide (s.ptime.toNat < g.starvedAt.toNat + gangWait) || busy then .next s.tick
    else
      let out := s.victims g s.blocks.length []
      if s.gangFits g out < g.size then .next s.tick
      else
        let bs := out.filterMap s.block?
        .next (bs.foldl (fun s b => s.tell b.cluster 3 b.id) ((s.reserveSave bs).getD s)).tick

/-- Every waiter of a group leaves the page requests. -/
def State.withdrawGroups (s : State) (b : Block) : State :=
  s.mapCtx b.decl.ctx (fun c => { c with requests := c.requests.map (fun q => { q with
    waiters := q.waiters.filter (fun w => match w with
      | .group k _ => k != b.id
      | _ => true) }) })

/-- Uncommitted sections of a block abort with cause PREEMPT (R330). -/
def State.abortBlock (s : State) (blk : Nat) : State :=
  s.abortAll ((s.sections.filter (fun x => x.blk == blk && x.live)).map Section.name) 9 none

/-- A thread takes PREEMPT once its counters have drained, or at the ERET of its handler (R335, R342). -/
def Thread.takePreempt (t : Thread) : Thread :=
  if t.life ≠ .live then t
  else if t.inside then { t with ppend := true }
  else { t with trap := some (mkTrap 0x11 0 t.pc), wait := none }

/-- Steps 2 and 3 of R351: sections abort, groups are woken, and every thread takes PREEMPT. Where the context has no handler, the first
thread that takes it outside a handler ends the block, and the summary names it and its PC (R334, R336). -/
def State.startSaving (s : State) (b : Block) : State :=
  let s1 := (s.abortBlock b.id).withdrawGroups b
  let taker := if (s.ctx b.decl.ctx).handler = 0 then b.threads.find? (fun t => t.life == .live && !t.inside) else none
  match taker with
  | some t => s1.fatal b (s1.entryFor b t.tidx (mkTrap 0x11 0 t.pc) 0)
  | none => s1.mapBlock b.id (fun b => { (b.mapThreads (fun t => (if ((t.trap.map (fun tr => replayable tr.cause)).getD false)
      then { t with trap := none } else t).takePreempt)) with
    stage := .saving, groups := b.groups.map (fun g => { g with desched := false }) })

/-- Every thread is parked or has exited, and every store of the block is performed. -/
def Block.parked (b : Block) : Bool :=
  b.threads.all (fun t => t.life != .live && t.written && t.pend.all (fun p => !p.act.isCtrs))

/-- The residue stands in memory: the block's resources are free and it waits at its Cairn, at the front. -/
def State.savedAway (s : State) (b : Block) : State :=
  let ending := ((s.launch? b.decl.lid).map (fun l => l.state == .cancelling)).getD false
  let s1 := ({ s with seq := s.seq + 1, free := s.free + b.residueSize } : State).mapBlock b.id (fun b =>
    { (b.mapThreads (fun t => { t.writeTokens with pend := [], cnt := Counts.zero })) with stage := .saved, order := s.seq })
  if ending then (s1.kill { b with stage := .saved }).decideEnd b.decl.lid else s1

/-- The residue is written page by page (R351, step 5); its layout is opaque, and its bytes are free values.
Log entry 68 (DEDUCED). -/
def State.writeResidue (s : State) (b : Block) : State :=
  let refuse (cause detail va : Nat) : State :=
    s.fatal b (s.entryFor b 0 (memTrap cause detail va 0 true) 16)
  let bytes (k n : Nat) : List Byte := (List.range n).map (fun i => BitVec.ofNat 8 (s.pick (k + i)))
  let step (acc : Except (Nat × Nat × Nat) State) (p : Nat × Nat) : Except (Nat × Nat × Nat) State :=
    match acc with
    | .error e => .error e
    | .ok s' =>
      match s'.xlate [] b.decl.ctx p.1 Need.store true (s.pick 901) with
      | .error (c, d) => .error (c, d, p.1)
      | .ok x => .ok (s'.postWrite none .core x.key (bytes (p.1 - b.saveAddr) p.2))
  match (pageSpans b.saveAddr b.residueSize).foldl step (.ok s) with
  | .ok s' => s'.savedAway b
  | .error (5, d, va) =>
    match s.pageRequest b.decl.ctx va 5 (2 + 8 + 16) b.decl.lid [.residue b.id] with
    | some s' => s'
    | none => refuse 5 d va
  | .error (c, d, va) => refuse c d va

/-- The residue of a block waits for the answer to a page request (R351). -/
def State.residueWaits (s : State) (b : Block) : Bool :=
  (s.ctx b.decl.ctx).requests.any (fun q => q.waiters.contains (.residue b.id))

/-- A pre-emption moves on: commands have finished, or every thread is parked and the residue is written. A block that can retire
retires instead (R359). -/
def execResidueWrite (blk : Nat) (s : State) : Host.Outcome State Fault Refusal :=
  match s.block? blk with
  | none => .next s.tick
  | some b =>
    if s.retirable b then .next s.tick
    else if b.stage = .stopping ∧ s.cmds.all (fun c => c.blk != blk || c.gone) = true then .next (s.startSaving b).tick
    else if b.stage = .saving ∧ b.parked = true ∧ s.residueWaits b = false then .next (s.writeResidue b).tick
    else .next s.tick

/-! ### Failure of a cluster (R64) -/

/-- A cluster fails: for an uncorrectable error in its control state (2) or because system software retires it (4); for the other
reasons where their conditions hold. Log entry 104 (DEDUCED). -/
def execClusterFailure (cluster reason : Nat) (s : State) : Host.Outcome State Fault Refusal :=
  let x := s.cluster cluster
  let due := reason == 2 || reason == 4 || (reason == 3 && decide (3 ≤ (x.parTimes.filter (within s.ptime tickS)).length)) ||
    (reason == 5 && decide (3 ≤ (x.link.errors.filter (within s.ptime tickMs)).length))
  .next (if due then s.failCluster cluster reason else s).tick

/-- A Cairn has not answered for 10 µs. -/
def execCairnTimeout (cluster : Nat) (s : State) : Host.Outcome State Fault Refusal := .next (s.failCluster cluster 1).tick

end Sys2Proof.Machine
end

