-- ==== Sys2Proof/Machine/Pod.lean ====
section
/-! DEFINITION. Pod grids and the dealing of units: submission to Ridge, ranges and splits, cancels, final reports, the completion of
a pod grid, and what a device leaving the pod does (R37, R47 to R53, R361 to R363, R372, R402, R403). -/

namespace Sys2Proof.Machine

/-! ### Ridge and its members -/

/-- The active Ridge is on this device. -/
def State.isRidge (s : State) : Bool := s.pod.inPod && s.pod.ridge == some s.pod.index

/-- The refusal of a pod record (R25): a reason, or 0. -/
def State.podReason (s : State) (dev ctx : Nat) (src : Option Source) (record : List Byte) : Nat :=
  let ring := match src with
    | some (.thread _ _) => (s.devq ctx).isSome
    | _ => true
  refusal record (dmapOf record) (dev != s.pod.index || ring) s.pod.inPod

/-- The parameters of a record of this device as Ridge's acceptance copies them (R21): from PARAM, or, where it can be read no more, as
they were when the record was submitted. Log entry 95 (DEDUCED). -/
def State.copyParams (s : State) (r : PodRec) : List Byte :=
  match s.readPieces r.ctx (LaunchRec.ofBytes r.record).paramPieces with
  | .ok ps => ps
  | .error _ => r.params

/-- A record reaches Ridge from a device, with the parameters that go with it: it is checked, numbered and broadcast, or refused. A
record of this device is the oldest of its context that waits and that no earlier launch of its thread holds (R38); where Ridge is
elsewhere, only its refusal comes back this way. -/
def execPodSubmit (dev ctx : Nat) (record : Submission) (s : State) : Host.Outcome State Fault Refusal :=
  if s.pod.ridge = none ∨ s.pod.inPod = false then .next s.tick
  else
    let mine := if dev = s.pod.index then s.takeOutbox (fun r => r.ctx == ctx && s.podTurn r) else none
    if dev = s.pod.index then
      match mine with
      | none => .next s.tick
      | some (r, s1) =>
        let reason := s.podReason dev ctx r.src r.record
        if reason ≠ 0 then .next (s1.podAnswer r 0 reason).tick
        else if s.isRidge then
          let n := s.pod.nextSeq
          .next (({ s with pod := { s.pod with nextSeq := n + 1 } } : State).receivePod
            { r with podSeq := n, dev := dev, params := s.copyParams r }).tick
        else .next s.tick
    else if s.isRidge && s.pod.members.contains dev && s.podReason dev ctx none record.record == 0 then
      let n := s.pod.nextSeq
      .next (({ s with pod := { s.pod with nextSeq := n + 1 } } : State).receivePod
        { id := 0, podSeq := n, ctx := ctx, dev := dev, record := record.record, params := record.params, src := none, pc := 0,
          addr := 0 }).tick
    else .next s.tick

/-- A pod launch whose prologue ran at Ridge takes its result: record, parameters, and passes in 4 bytes more (R43). -/
def Launch.afterPrologue (l : Launch) (record params : List Byte) : Launch :=
  let n := 256 + 48 * l.deps.length
  { l with record := LaunchRec.ofBytes (record.take n), deps := depsOf (record.take n), params := paramsOfBytes params,
           state := .held, passes := leNat (record.drop n) }

/-- A numbered record reaches this Spur. Log entry 95 (DEDUCED). -/
def execPodRecordReceive (podSeq ctx dev : Nat) (record params : List Byte) (s : State) :
    Host.Outcome State Fault Refusal :=
  if s.pod.inPod = false ∨ s.isRidge = true then .next s.tick
  else if podSeq < s.pod.expect then
    match s.launch? (podLid podSeq) with
    | none => .next s.tick
    | some l =>
      if l.state = .prologue ∧ l.podSeq = podSeq ∧ record.length = 260 + 48 * l.deps.length then
        .next (s.mapLaunch l.lid (fun l => l.afterPrologue record params)).tick
      else .next s.tick
  else if s.pod.held.any (fun h => h.podSeq == podSeq) then .next s.acceptPods.tick
  else .next (s.receivePod { id := 0, podSeq := podSeq, ctx := ctx, dev := dev, record := record, params := params, src := none, pc := 0,
                             addr := 0 }).tick

/-- A device outside a pod is brought into one. Bring-up is not described, so the pod index, the other members and the
master's pod time (R47) are free values. Which pod sequence number its Spur awaits is not given either: it keeps its own, the model's
choice (log entry 109, DESIGN CHOICE). Log entry 106 (DESIGN CHOICE). -/
def State.joinPod (s : State) (dev : Nat) : State :=
  let me := s.pick 980 % 256
  let ms := (List.range 256).filter (fun d => d == me || d == dev || (s.pick 981).testBit d)
  { s with
    ptime := if dev = me then s.ptime else BitVec.ofNat 64 (s.pick 982),
    pod := { s.pod with inPod := true, index := me, members := ms, ridge := some dev } }

/-- Units that nobody has been dealt. -/
def Launch.left (l : Launch) : Nat := l.record.units - l.nextUnit + (l.returned.map Prod.snd).sum

/-- The pass has no unit left to deal: the launch is draining. -/
def Launch.drainTest (l : Launch) : Launch :=
  if l.state = .dealing ∧ l.left = 0 then { l with state := .draining } else l

/-- What a Ridge that follows a lost one makes of a pod grid: of the units that this Spur has not seen dealt, the last ones, as many as the
free value says, are undealt, and are dealt again or counted as never started (R363). Log entry 96 (DEDUCED). -/
def State.takeUpGrid (s : State) (l : Launch) : Launch :=
  if !l.pod || !l.ridgeLost || l.completion.isSome then l
  else
    let seen := if l.state = .draining then l.record.units else min l.nextUnit l.record.units
    let n := seen + s.pick 965 % (l.record.units - seen + 1)
    let l1 := { l with wants := [], splits := [] }
    if l.state = .dealing then ({ l1 with nextUnit := n } : Launch).drainTest
    else if l.state = .cancelling then
      let k := (l.record.units - n) * l.record.unitBlocks
      { l1 with nextUnit := l.record.units, never := l.never + k,
                reports := NMap.adjust l.reports s.pod.index (fun r => (r.1, r.2.1, r.2.2 + k)) }
    else l1

/-- A device's Ridge becomes active, and numbers what comes after what the pod has accepted; one that follows a lost Ridge takes up its
grids. A device outside a pod that has a path and no pod grid joins the pod of that Ridge. -/
def execRidgeActivation (dev : Nat) (s : State) : Host.Outcome State Fault Refusal :=
  if s.pod.inPod = false then
    .next (if dev < 256 && !s.pod.links.isEmpty && !s.launches.any Launch.pod then s.joinPod dev else s).tick
  else if s.pod.members.contains dev = false then .next s.tick
  else .next ({ s with launches := if dev = s.pod.index then s.launches.map s.takeUpGrid else s.launches, pod := { s.pod with
    ridge := some dev,
    nextSeq := if dev = s.pod.index then max s.pod.nextSeq (s.pod.expect + s.pod.held.length) else s.pod.nextSeq } } :
      State).tick

/-! ### Ranges (R51) -/

/-- upc of a launch. -/
def LaunchRec.upc (r : LaunchRec) : Nat := max 1 (4 * r.bpc / r.unitBlocks)

/-- A Spur asks for a range: this one, where its unplaced units have fallen below F times upc, or another of the pod. -/
def execRangeRequest (dev lid want : Nat) (s : State) : Host.Outcome State Fault Refusal :=
  match s.launch? lid with
  | none => .next s.tick
  | some l =>
    let n := if s.canHold l then s.freeClusters l.ctx * l.record.upc else 0
    if s.dealsHere l = false ∨ l.state ≠ .dealing ∨ l.wants.any (fun w => w.1 == dev) = true then .next s.tick
    else if dev = s.pod.index then
      if n ≤ (s.unplacedUnits l).length then .next s.tick
      else .next (s.mapLaunch lid (fun l => { l with wants := l.wants ++ [(dev, n)] })).tick
    else if l.pod && s.pod.members.contains dev then
      .next (s.mapLaunch lid (fun l => { l with wants := l.wants ++ [(dev, want)] })).tick
    else .next s.tick

/-- The next n undealt units as runs, returned ones first, and the launch without them. -/
def Launch.deal : Nat → Launch → Nat → List (Nat × Nat) × Launch
  | 0, l, _ => ([], l)
  | fuel + 1, l, n =>
    if n = 0 then ([], l)
    else match l.returned with
      | (f, k) :: rest =>
        let m := min n k
        let r := Launch.deal fuel { l with returned := if m < k then (f + m, k - m) :: rest else rest } (n - m)
        ((f, m) :: r.1, r.2)
      | [] =>
        let m := min n (l.record.units - l.nextUnit)
        (if m = 0 then [] else [(l.nextUnit, m)], { l with nextUnit := l.nextUnit + m })

/-- Runs are dealt to a device. A final report that stands from it is not its last any more: another follows once the new units are
accounted for (R362). -/
def Launch.give (l : Launch) (me dev : Nat) (rs : List (Nat × Nat)) : Launch :=
  let l1 := { l with reports := if rs.isEmpty then l.reports else NMap.remove l.reports dev, dealtTo := NMap.insert l.dealtTo dev ((NMap.lookup l.dealtTo dev).getD [] ++ rs) }
  if dev = me then { l1 with runs := l1.runs ++ rs } else l1

/-- A launch with a request that this device answers is dealt before another (R50). -/
def State.dealtFirst (s : State) (l : Launch) : Bool :=
  s.launches.any (fun a => a.before l && a.state == .dealing && !a.wants.isEmpty && s.dealsHere a)

/-- The oldest request is answered, unless a launch that is dealt first has one (R50). Where Ridge is elsewhere, the range that it deals to
this Spur arrives; an empty one says that every unit of the pass is dealt, and after this Spur's final report it is of the next pass, if
there is one. Log entry 95 (DEDUCED). -/
def execRangeDeal (lid first count : Nat) (s : State) : Host.Outcome State Fault Refusal :=
  match s.launch? lid with
  | none => .next s.tick
  | some l =>
    if s.dealsHere l then
      match l.wants with
      | [] => .next s.tick
      | (dev, w) :: rest =>
        if l.state ≠ .dealing ∨ s.dealtFirst l = true then .next s.tick
        else
          let r := Launch.deal (l.returned.length + 1) { l with wants := rest } (min l.left (max 1 w))
          .next (s.mapLaunch lid (fun _ => (r.2.give s.pod.index dev r.1).drainTest)).tick
    else
      let reported := (NMap.lookup l.reports s.pod.index).isSome
      let l0 := if reported && !l.ending then l.nextPass else l
      if l.deals = false ∨ (reported = true ∧ l.ending = true ∧ count = 0) ∨ l.record.units < first + count then .next s.tick
      else if count = 0 then .next (s.mapLaunch lid (fun _ => { l0 with state := .draining })).tick
      else
        let l1 := l0.give s.pod.index s.pod.index [(first, count)]
        let last := decide (l1.record.units ≤ first + count)
        .next (s.mapLaunch lid (fun _ =>
          { l1 with nextUnit := max l1.nextUnit (first + count), state := if last then .draining else l1.state })).tick

/-! ### Ridge's decision (R362) -/

/-- Reported counts of the pass. -/
def Launch.reported (l : Launch) (f : Nat × Nat × Nat → Nat) : Nat := (l.reports.map (fun r => f r.2)).sum

/-- Blocks of the pass that nobody was dealt, after a cancel. -/
def Launch.sumReports (l : Launch) : Nat :=
  l.reported (fun r => r.1) + l.reported (fun r => r.2.1) + l.reported (fun r => r.2.2)

/-- The launch with the counts of the whole pod. -/
def Launch.totals (l : Launch) : Launch :=
  { l with done := l.reported (fun r => r.1), killed := l.reported (fun r => r.2.1), never := l.reported (fun r => r.2.2) }

/-- Blocks that no report accounts for after the Ridge that dealt them has left: killed where they had been placed, which the free value
says, and never started else (R363). Log entry 96 (DEDUCED). -/
def Launch.makeUp (l : Launch) (pick : Nat) : Launch :=
  let n := l.record.blocks - (l.done + l.killed + l.never)
  let k := pick % (n + 1)
  { l with killed := l.killed + k, never := l.never + (n - k) }

/-- This device's copy of the bitmap holds the bits of so many blocks (R361, R363). -/
def Launch.whole (l : Launch) (done : Nat) : Bool := l.record.bitmap == 0 || decide (done ≤ l.marked.length)

/-- Ridge's decision on a pod grid: the next pass, completion, or neither yet. Every Spur has reported, the counts sum to the blocks of
the pass, and, where the pass ends the launch, this device's bitmap is whole (R362, R363). -/
def State.decidePod (s : State) (lid : Nat) : State :=
  match s.launch? lid with
  | none => s
  | some l =>
    if !l.pod || !s.isRidge || l.completion.isSome then s
    else if l.state = .done then s.finishLaunch l false
    else if s.pod.members.all (fun d => (NMap.lookup l.reports d).isSome) && (l.sumReports == l.record.blocks || l.ridgeLost) then
      if l.state = .draining ∧ l.pass < l.passes ∧ l.faulted = false then s.mapLaunch lid Launch.nextPass
      else if l.whole l.totals.done then s.finishLaunch (l.totals.makeUp (s.pick 963)) false
      else s
    else s

/-! ### Splits (R52) -/

/-- The last k units of runs, and what stays. -/
def splitRuns : List (Nat × Nat) → Nat → List (Nat × Nat) × List (Nat × Nat)
  | [], _ => ([], [])
  | (f, n) :: rest, keep =>
    if n ≤ keep then
      let r := splitRuns rest (keep - n)
      ((f, n) :: r.1, r.2)
    else (if keep = 0 then [] else [(f, keep)], (f + keep, n - keep) :: rest)

/-- The units that this Spur gives to a split, as runs, and the state without them: it keeps the first half of its unplaced units, rounded
up, whether or not a Cairn has been handed them (R52). -/
def State.donate (s : State) (l : Launch) : List (Nat × Nat) × State :=
  let us := s.unplacedUnits l
  let rest := us.drop ((us.length + 1) / 2)
  (rest.map (fun u => (u, 1)), s.withdraw l rest)

/-- Unplaced units of a device as Ridge finds them: for another device a free value, bounded by what it was dealt. Log entry 95
(DEDUCED). -/
def State.unplacedAt (s : State) (l : Launch) (dev : Nat) : Nat :=
  if dev = s.pod.index then (s.unplacedUnits l).length
  else s.pick (200 + dev) % ((((NMap.lookup l.dealtTo dev).getD []).map Prod.snd).sum + 1)

/-- The Spur that Ridge asks to split: the one with the most unplaced units, the lowest of several. -/
def State.donor (s : State) (l : Launch) (dev : Nat) : Option Nat :=
  mostBy (fun d => (s.unplacedAt l d : Int)) (s.pod.members.filter (fun d => d != dev && decide (0 < s.unplacedAt l d)))

/-- A Spur without units that has not sent its final report asks for a split. Ridge, if it is here, asks the Spur with the most unplaced units, which may be this one;
where Ridge is elsewhere, its request to this Spur arrives. -/
def execSplitRequest (dev lid : Nat) (s : State) : Host.Outcome State Fault Refusal :=
  match s.launch? lid with
  | none => .next s.tick
  | some l =>
    if l.pod = false ∨ l.deals = false then .next s.tick
    else if s.dealsHere l then
      if 0 < l.left ∨ s.pod.members.contains dev = false ∨ l.splits.any (fun x => x.1 == dev) = true ∨
          (NMap.lookup l.reports dev).isSome = true ∨
          (dev = s.pod.index ∧ (s.unplacedUnits l).isEmpty = false) then .next s.tick
      else match s.donor l dev with
        | none => .next s.tick
        | some d =>
          if d = s.pod.index then
            let (rs, s1) := s.donate l
            .next (s1.mapLaunch lid (fun l => (l.takeFrom d rs).give d dev rs)).tick
          else .next (s.mapLaunch lid (fun l => { l with splits := l.splits ++ [(dev, d)] })).tick
    else if dev = s.pod.index then .next s.tick
    else
      let (rs, s1) := s.donate l
      .next (s1.mapLaunch lid (fun l => l.takeFrom s.pod.index rs)).tick

/-- A Spur returns a run to Ridge: for the split that Ridge asked it for, which goes to the Spur that wants it, and else because it can no
longer place it (R65), so that it is undealt again. After a cancel the units count as never started (R53). Where Ridge is elsewhere,
the run that it deals to this Spur arrives. -/
def execSplitReturn (dev lid first count : Nat) (s : State) : Host.Outcome State Fault Refusal :=
  match s.launch? lid with
  | none => .next s.tick
  | some l =>
    let run := [(first, count)]
    if l.pod = false ∨ dev = s.pod.index ∨ count = 0 ∨ l.record.units < first + count then .next s.tick
    else if s.dealsHere l then
      if holdsRun first count ((NMap.lookup l.dealtTo dev).getD []) = false then .next s.tick
      else if l.state = .cancelling then
        let n := count * l.record.unitBlocks
        .next ((s.mapLaunch lid (fun l => { l.takeFrom dev run with
          never := l.never + n,
          reports := NMap.adjust l.reports s.pod.index (fun r => (r.1, r.2.1, r.2.2 + n)) })).decidePod lid).tick
      else if l.deals = false then .next s.tick
      else match l.splits.find? (fun x => x.2 == dev) with
        | some x => .next (s.mapLaunch lid (fun l =>
            { (l.takeFrom dev run).give s.pod.index x.1 run with splits := l.splits.filter (fun y => y != x) })).tick
        | none => .next (s.mapLaunch lid (fun l =>
            { l.takeFrom dev run with returned := l.returned ++ run, state := .dealing })).tick
    else if l.deals = false then .next s.tick
    else .next (s.mapLaunch lid (fun l => l.give s.pod.index s.pod.index run)).tick

/-! ### Cancels (R53) -/

/-- A cancel or kill takes effect on a pod grid here. Log entry 77 (DEDUCED). -/
def State.cancelPod (s : State) (lid : Nat) (hard : Bool) : State :=
  match s.launch? lid with
  | none => s
  | some l =>
    if l.pod = false ∨ l.state = .done ∨ (l.state = .cancelling ∧ (l.hard = true ∨ hard = false)) then s
    else (s.cancelLaunch lid hard false).flushBits lid none

/-- A cancel reaches Ridge, which stops dealing and broadcasts it. -/
def execPodCancel (lid : Nat) (hard : Bool) (s : State) : Host.Outcome State Fault Refusal :=
  match s.launch? lid with
  | none => .next s.tick
  | some l => .next (if s.isRidge then s.cancelPod lid (hard || l.record.hardCancel) else s).tick

/-- Ridge's broadcast reaches this Spur. -/
def execCancelBroadcastReceipt (lid : Nat) (hard : Bool) (s : State) : Host.Outcome State Fault Refusal :=
  .next (if s.pod.inPod && !s.isRidge then s.cancelPod lid hard else s).tick

/-! ### Final reports and completion (R362, R363, R372) -/

/-- Blocks of a launch that this device has not accounted for. -/
def State.unaccounted (s : State) (l : Launch) : Bool :=
  s.allBlocks.any (fun b => b.decl.lid == l.lid && b.stage != .prologue) || !l.runs.isEmpty

/-- Every Ridge link has acknowledged the bits that this device sent (R361, R362): at once where it sent none, and else as the free value
says. Log entry 95 (DEDUCED). -/
def State.acked (s : State) (l : Launch) : Bool :=
  l.record.bitmap == 0 || !l.ending || l.done == 0 || decide (s.pod.members.length ≤ 1) || s.pick 961 % 2 == 1

/-- This Spur may send its final report. -/
def State.reportable (s : State) (l : Launch) : Bool :=
  (l.state == .draining || l.state == .cancelling) && !s.unaccounted l && (!l.ending || l.bits.isEmpty) && s.acked l &&
    !l.splits.any (fun x => x.1 == s.pod.index) && (NMap.lookup l.reports s.pod.index).isNone

/-- Cause counts are added, saturating. -/
def addCounts (a b : List (Nat × Nat)) : NMap Nat :=
  b.foldl (fun m e => NMap.insert m e.1 (addSat ((NMap.lookup m e.1).getD 0) e.2 32)) a

/-- A Spur's final report reaches Ridge: this device's own, or another's with its faults, and with whether they faulted the grid there,
as an exhausted relaunch does (R365). -/
def execFinalReport (dev lid done killed never : Nat) (faults : List FaultEntry) (counts : FaultCounts) (s : State) :
    Host.Outcome State Fault Refusal :=
  match s.launch? lid with
  | none => .next s.tick
  | some l =>
    if l.pod = false then .next s.tick
    else if dev = s.pod.index then
      if s.reportable l then
        .next ((s.mapLaunch lid (fun l => { l with
          reports := NMap.insert l.reports dev (l.done, l.killed, l.never) })).decidePod lid).tick
      else .next s.tick
    else if s.isRidge && s.pod.members.contains dev && (NMap.lookup l.reports dev).isNone && !l.splits.any (fun x => x.1 == dev) &&
        (l.state == .draining || l.state == .cancelling) then
      .next ((s.mapLaunch lid (fun l => { l with
        reports := NMap.insert l.reports dev (done, killed, never),
        faults := firstFaults (l.faults ++ faults),
        total := addSat l.total (counts.byCause.map Prod.snd).sum 32, counts := addCounts l.counts counts.byCause,
        faulted := l.faulted || counts.faulted || counts.byCause.any (fun e => e.2 != 0 && e.1 != 0xC && e.1 != 0xD) })).decidePod lid).tick
    else .next s.tick

/-- The launch as Ridge's completion describes it, with the bits that were refused here after this Spur's final report (R365, R367). -/
def Launch.sent (l : Launch) (x : PodDone) : Launch :=
  l.late.foldl Launch.addFault { l with
    state := .done, done := x.done, killed := x.killed, never := x.never, passesDone := x.passes, hard := x.hard,
    cancelled := x.cancelled, faulted := x.faulted || !l.late.isEmpty, podLost := x.podLost, completion := some x.ptime,
    faults := x.faults, total := x.total, counts := x.counts }

/-- Ridge's completion says that the pass ends the launch, so the bits of this Spur's blocks are due (R361, R363). -/
def Launch.told (l : Launch) (x : PodDone) : Launch :=
  { l with faulted := l.faulted || x.faulted || x.podLost, cancelled := l.cancelled || x.cancelled }

/-- The completion of a launch is written here. -/
def State.writeCompletion (s : State) (l : Launch) : State :=
  let r := { s.reportOf l with ptime := l.completion.getD s.ptime }
  ({ s with seq := s.seq + 1, reports := s.reports ++ [r] } : State).advanceReport r.id none

/-- This device submitted the grid. -/
def Launch.submittedHere (l : Launch) : Bool :=
  match l.src with
  | .device _ => false
  | _ => true

/-- Ridge's completion reaches the submitting device, which writes it once its bitmap is whole (R363); elsewhere the launch is done. -/
def execCompletionForward (lid : Nat) (sent : PodDone) (s : State) : Host.Outcome State Fault Refusal :=
  match (s.decidePod lid).launch? lid with
  | none => .next s.tick
  | some l =>
    if l.pod = false ∨ l.forwarded = true then .next s.tick
    else if s.isRidge then
      if l.completion.isNone then .next s.tick
      else
        let s1 := (s.decidePod lid).mapLaunch lid (fun l => { l with forwarded := true })
        .next (if l.submittedHere then s1.writeCompletion l else s1).tick
    else
      let s0 := (s.mapLaunch lid (fun l => l.told sent)).flushBits lid none
      match s0.launch? lid with
      | none => .next s0.tick
      | some l =>
        if s0.unaccounted l || !l.whole sent.done then .next s0.tick
        else
          let l1 : Launch := { l.sent sent with forwarded := true }
          let s1 := s0.mapLaunch lid (fun _ => l1)
          .next (if l.submittedHere then s1.writeCompletion l1 else s1).tick

/-! ### Leaving the pod (R363, R402, R403) -/

/-- A device is lost to a pod grid at Ridge. What it had placed is counted as killed; what it had not, as a free value says, is
dealt again or counted as never started. -/
def State.loseFrom (s : State) (dev : Nat) (l : Launch) : State :=
  if !l.pod || l.completion.isSome || (NMap.lookup l.reports dev).isSome then s
  else
    let runs := (NMap.lookup l.dealtTo dev).getD []
    let n := (runs.map Prod.snd).sum
    let placed := s.pick 960 % (n + 1)
    let r := splitRuns runs placed
    let unplaced := (r.2.map Prod.snd).sum * l.record.unitBlocks
    let again := l.state == .dealing
    s.mapLaunch l.lid (fun l => { l with
      podLost := true, faulted := true, dealtTo := NMap.remove l.dealtTo dev, wants := l.wants.filter (fun w => w.1 != dev),
      splits := l.splits.filter (fun x => x.1 != dev && x.2 != dev),
      returned := if again then l.returned ++ r.2 else l.returned,
      reports := NMap.insert l.reports dev (0, placed * l.record.unitBlocks, if again then 0 else unplaced) })

/-- The Ridge of a pod grid has left: what it had dealt is known to nobody. Log entry 96 (DEDUCED). -/
def Launch.loseRidge (l : Launch) : Launch :=
  if l.pod && l.completion.isNone && l.state != .done then { l with podLost := true, faulted := true, ridgeLost := true } else l

/-- A device that is not Ridge has left, seen from a Spur that is not Ridge either: whether it had sent its final report, only Ridge
knows; where it had not, which the free value says, the grid is faulted and ends with this pass (R46, R363). Log entry 96 (DEDUCED). -/
def State.loseMember (s : State) (l : Launch) : Launch :=
  if l.pod && l.completion.isNone && l.state != .done && s.pick (966 + l.lid) % 2 == 1 then { l with podLost := true, faulted := true } else l

/-- A device leaves the pod: collectives with it end (R292). If it is this one, no grid of the pod can end here any more, its pod time
is its own, and its pod index is 0 (R289, R403). If its Ridge was active, its grids are lost to whichever Ridge follows (R363).
Log entry 96 (DEDUCED). -/
def State.leavePod (s0 : State) (dev : Nat) : State :=
  if !s0.pod.inPod || !s0.pod.members.contains dev then s0
  else if dev = s0.pod.index then
    let s := s0.abortCollectives (fun d => d != dev)
    { s with pod := { s.pod with inPod := false, index := 0, members := [0], ridge := none, held := [] } }
  else
    let s := s0.abortCollectives (fun d => d == dev)
    let s1 := if s.isRidge then s.launches.foldl (fun s l => s.loseFrom dev l) s
      else { s with launches := s.launches.map (if s.pod.ridge = some dev then Launch.loseRidge else s.loseMember) }
    let s2 : State := { s1 with pod := { s1.pod with
      members := s1.pod.members.filter (fun d => d != dev),
      ridge := if s1.pod.ridge = some dev then none else s1.pod.ridge } }
    (s2.launches.map Launch.lid).foldl (fun s lid => (s.flushBits lid none).decidePod lid) s2

/-- Log entry 96 (DEDUCED). -/
def execDeviceLeavesPod (dev : Nat) (s : State) : Host.Outcome State Fault Refusal := .next (s.leavePod dev).tick

end Sys2Proof.Machine
end

