-- ==== Sys2Proof/Machine/Registers.lean ====
section
/-! DEFINITION. The host port's register window: partitions, halting and the shadow swap, contexts, page-request answers, translation
invalidation, observation registers and the start of a replay (R54, R344, R346, R349, R354, R355, R369, R377, R378, R384). -/

namespace Sys2Proof.Machine

/-! ### Partitions (R54) -/

/-- A block stands on a core of its cluster, in active or in shadow storage. Log entry 87 (DEDUCED). -/
def Block.stands (b : Block) : Bool :=
  b.stage == .running || b.stage == .stopping || b.stage == .saving || b.stage == .restoring

/-- A write to a register of partition n was dropped. -/
def State.dropPart (s : State) (n : Nat) : State := s.mapPartition n (fun p => { p with ctl := p.ctl ||| 0x1000#64 })

/-- Clusters that other partitions hold. -/
def State.otherMasks (s : State) (n : Nat) : W64 :=
  (List.range 8).foldl (fun m k => if k = n then m else m ||| (s.partition k).mask) 0

/-- PMASKn. Blocks that wait at a cluster which leaves the partition go to another (R55). -/
def State.writeMask (s : State) (n : Nat) (v : W64) : State :=
  let p := s.partition n
  let leaves := s.allBlocks.any (fun b => b.stands && p.mask.getLsbD b.cluster && !v.getLsbD b.cluster)
  if 8 ≤ n then s
  else if !p.halted || v &&& s.otherMasks n != 0 || leaves then s.dropPart n
  else (s.mapPartition n (fun p => { p with mask := v, ctl := p.ctl &&& ~~~0x1000#64 })).settlePlaces

def execPmaskWrite (n : Nat) (v : W64) (s : State) : Host.Outcome State Fault Refusal := .next (s.writeMask n v).tick

/-- Contexts that a partition binds. -/
def Partition.bound (p : Partition) : List Nat := p.actx.toList ++ p.shctx.toList

/-- A context bound in partition n is no longer bound in its place, while a block of it stands there. Log entry 87 (DEDUCED). -/
def State.strands (s : State) (n : Nat) (old new : Option Nat) : Bool :=
  match old with
  | none => false
  | some c => new != some c && s.allBlocks.any (fun b =>
      b.stands && b.decl.ctx == c && (s.partition n).mask.getLsbD b.cluster)

/-- The write of a PCTLn value is dropped (R54). -/
def State.badCtl (s : State) (n : Nat) (v : W64) : Bool :=
  let p := s.partition n
  let q : Partition := { p with ctl := v }
  let all := ((List.range 8).map (fun k => if k = n then q.bound else (s.partition k).bound)).flatten
  v.extractLsb' 13 51 != 0 || (!p.halted && v.extractLsb' 0 10 != p.ctl.extractLsb' 0 10) || !all.Nodup ||
    s.strands n p.actx q.actx || s.strands n p.shctx q.shctx

/-- The waits of threads of a partition's active context are withdrawn (R194). Until a halt is complete, threads that hold a TRN
result keep theirs. Log entry 85 (DEDUCED). -/
def State.stopThreads (s : State) (n : Nat) (final : Bool) : State :=
  let p := s.partition n
  let mine (b : Block) : Bool := b.stands && p.mask.getLsbD b.cluster && p.actx == some b.decl.ctx
  { s with blocks := s.blocks.map (fun (k, b) =>
      if mine b then (k, b.mapThreads (fun t =>
        let t1 : Thread := if final then t else { t with trnWords := 0 }
        if t.trn.contains true && !final then t1 else t1.unwait))
      else (k, b)) }

/-- PCTLn: bindings, and the start of a halt or of a run. Log entry 84 (DEDUCED). -/
def State.writeCtl (s : State) (n : Nat) (v : W64) : State :=
  let p := s.partition n
  if 8 ≤ n then s
  else if s.badCtl n v then s.dropPart n
  else
    let halted := p.halted && v.getLsbD 10
    let s1 := s.mapPartition n (fun p => { p with ctl := (v &&& 0x7FF#64) ||| (if halted then 0x800#64 else 0) })
    (if v.getLsbD 10 && !p.halt then s1.stopThreads n false else s1).settlePlaces

/-- A write that changes the contexts of a partition. -/
def execPctlBind (n : Nat) (v : W64) (s : State) : Host.Outcome State Fault Refusal := .next (s.writeCtl n v).tick

/-- A write that sets HALT: placement and threads stop (R354, steps 1 to 3). -/
def execPctlHalt (n : Nat) (v : W64) (s : State) : Host.Outcome State Fault Refusal := .next (s.writeCtl n v).tick

/-- A write that clears HALT: the partition runs. -/
def execPctlRun (n : Nat) (v : W64) (s : State) : Host.Outcome State Fault Refusal := .next (s.writeCtl n v).tick

/-! ### Halting and the swap (R276, R354, R355) -/

/-- Blocks of the active context that stand in a partition. -/
def State.activeBlocks (s : State) (n : Nat) : List Block :=
  s.allBlocks.filter (fun b => b.stands && (s.partition n).mask.getLsbD b.cluster && (s.partition n).actx == some b.decl.ctx)

/-- A block has stopped: its counters have drained, its commands are finished, and no thread with a TRN result may issue. -/
def State.stopped (s : State) (b : Block) : Bool :=
  b.threads.all (fun t => t.cnt.none && t.pend.all (fun p => !p.act.isCtrs) &&
    !(t.trn.contains true && s.ready b t)) &&
    s.cmds.all (fun c => c.blk != b.id || c.gone)

/-- Threads of blocks learn of their aborted sections at once, so that Vstatus is written before registers are saved (R330). A trap that
is still to be entered then returns to the abort target. -/
def State.tellAborted (s : State) (bs : List Nat) : State :=
  (s.sections.filter (fun x => bs.contains x.blk && x.state == .aborted)).foldl (fun s x =>
    match s.block? x.blk, s.thread? x.blk x.tidx with
    | some b, some t =>
      if t.trap.isNone then s.deliverAbort b t x
      else (s.deliverSection x).mapThread x.blk x.tidx (fun t => { t with
        pc := x.target, trap := t.trap.map (fun tr => { tr with pc := x.target }) })
    | _, _ => s) s

/-- HALTED is set once every block has stopped; uncommitted sections abort, and waits are withdrawn. Log entry 85 (DEDUCED). -/
def State.completeHalt (s : State) (n : Nat) : State :=
  let p := s.partition n
  if !p.halt || p.halted || s.latch.isSome || !(s.activeBlocks n).all s.stopped then s
  else
    let bs := (s.activeBlocks n).map Block.id
    let s1 := (s.abortAll ((s.sections.filter (fun x => bs.contains x.blk && x.live)).map Section.name) 9 none).tellAborted bs
    (s1.stopThreads n true).mapPartition n (fun p => { p with ctl := p.ctl ||| 0x800#64 })

def execHaltComplete (n : Nat) (s : State) : Host.Outcome State Fault Refusal :=
  .next (if 8 ≤ n then s else s.completeHalt n).tick

/-- The control word with its contexts exchanged. -/
def swapCtl (c : W64) : W64 :=
  (c &&& 0xFFFFFFFFFFFFFC00#64) ||| ((c.extractLsb' 4 4).setWidth 64) ||| ((c.extractLsb' 0 4).setWidth 64 <<< 4) |||
    (((c.extractLsb' 9 1).setWidth 64) <<< 8) ||| (((c.extractLsb' 8 1).setWidth 64) <<< 9)

/-- PSWAPn. A block keeps its state in active or shadow storage alike, so what moves is which context is active.
Log entry 86 (DEDUCED). -/
def execShadowSwap (n : Nat) (v : W64) (s : State) : Host.Outcome State Fault Refusal :=
  let p := s.partition n
  if 8 ≤ n then .next s.tick
  else if v.extractLsb' 2 62 ≠ 0 ∨ p.halted = false ∨ p.busy = true then .next (s.dropPart n).tick
  else if v.getLsbD 0 then .next (s.mapPartition n (fun p => { p with ctl := swapCtl p.ctl, busy := true })).settlePlaces.tick
  else .next s.tick

/-- Log entry 86 (DEDUCED). -/
def execSwapDone (n : Nat) (s : State) : Host.Outcome State Fault Refusal :=
  .next (if 8 ≤ n then s else s.mapPartition n (fun p => { p with busy := false })).tick

/-! ### Answers to page requests (R349) -/

/-- A thread waits on the answer to a request. -/
def PageReq.holds (q : PageReq) (t : Thread) : Bool :=
  match t.trap with
  | none => false
  | some tr => replayable tr.cause && (tr.cause == 6) == q.perm && tr.faddr.toNat / 65536 == q.page

/-- A group waits on a request of its context. Log entry 90 (DEDUCED). -/
def State.stillWaits (s : State) (ctx blk gid : Nat) : Bool :=
  (s.ctx ctx).requests.any (fun q => q.waiters.contains (.group blk gid))

/-- A group is replayed: its faulting threads issue their word again, and it comes back to the schedulers unless another request
holds it. -/
def State.replayGroup (s : State) (ctx : Nat) (q : PageReq) (blk gid : Nat) : State :=
  let s1 := s.mapBlock blk (fun b => b.mapThreads (fun t =>
    if b.gidOf t.tidx = gid ∧ q.holds t = true then { t with trap := none } else t))
  s1.mapGroup blk gid (fun g => { g with desched := s1.stillWaits ctx blk gid })

/-- A waiter goes on after FAIL = 0. Engines and residue writes, which waited for the answer, walk again when they next act. -/
def State.replayWaiter (s : State) (ctx : Nat) (q : PageReq) : Waiter → State
  | .group b g => s.replayGroup ctx q b g
  | .cmd _ => s
  | .queue k => s.mapQueue k (fun x => { x with blocked := false })
  | .bits lid => (s.flushBits lid none).decideEnd lid
  | .report id => s.advanceReport id none
  | .ring k => s.flushRing k none
  | .residue _ => s

/-- The detail that a refused request gives. -/
def State.failDetail (s : State) (ctx : Nat) (q : PageReq) : Nat :=
  if q.perm then 3
  else match s.walk ctx (q.page * 65536) with
    | .error d => d
    | .ok _ => 1

/-- The trap of a refused page. -/
def State.pageTrap (s : State) (ctx : Nat) (q : PageReq) (pc : W32) : Trap :=
  memTrap (if q.perm then 6 else 5) (s.failDetail ctx q) (q.page * 65536) pc (q.acc.testBit 1)

/-- An append of a group that the page holds back, with its thread: the one that needs the page, or the group's first (R286, R349). -/
def State.heldAppend (s : State) (q : PageReq) (b : Block) (gid : Nat) : Option (Thread × Pend) :=
  let all := ((b.threads.filter (fun t => b.gidOf t.tidx == gid)).map (fun t => (t.pend.filter (fun p => match p.act with
    | .append _ _ _ _ _ _ => true
    | _ => false)).map (fun p => (t, p)))).flatten
  (all.find? (fun x => ((s.appendMiss b x.1 x.2.act).map (fun m => m.1 / 65536)) == some q.page)).or all.head?

/-- What the summary says of a block that a refused request faults (R370, R371): it waits with a group, for its threads' words or for an
append, or with a command or its residue. Log entry 90 (DEDUCED). -/
def State.failEntry (s : State) (ctx : Nat) (q : PageReq) : Waiter → Option (Block × FaultEntry)
  | .group blk gid => (s.block? blk).map (fun b => (b,
      match b.threads.find? (fun t => q.holds t && b.gidOf t.tidx == gid), s.heldAppend q b gid with
      | some t, _ => s.entryFor b t.tidx (t.trap.getD (s.pageTrap ctx q 0)) 0
      | none, some x => s.entryFor b x.1.tidx (s.pageTrap ctx q x.2.pc) 0
      | none, none => s.entryFor b 0 (s.pageTrap ctx q 0) 0))
  | .cmd id => ((s.cmd? id).filter (fun c => !c.gone)).bind (fun c =>
      (s.block? c.blk).map (fun b => (b, s.entryFor b c.tidx (s.pageTrap ctx q c.pc) 16)))
  | .residue blk => (s.block? blk).map (fun b => (b, s.entryFor b 0 (s.pageTrap ctx q 0) 16))
  | _ => none

/-- The blocks that a refused request faults, each once (R371). -/
def State.failEntries (s : State) (ctx : Nat) (q : PageReq) : List (Block × FaultEntry) :=
  (q.waiters.filterMap (s.failEntry ctx q)).foldl (fun es e =>
    if es.any (fun x => x.1.id == e.1.id) then es else es ++ [e]) []

/-- A command whose access is refused stops; a collective writes its status first (R291). Its block is faulted with the others of the
request. -/
def State.failCommand (s : State) (ctx : Nat) (q : PageReq) (id : Nat) : State :=
  match s.cmd? id with
  | none => s
  | some c => s.stopCommand c
      ⟨q.page * 65536, if q.perm then 6 else 5, s.failDetail ctx q, ⟨q.acc.testBit 0, q.acc.testBit 1, false⟩⟩

/-- A waiter that is no group, command or residue learns of FAIL = 1. -/
def State.failWaiter (s : State) (ctx : Nat) (q : PageReq) : Waiter → State
  | .group _ _ => s
  | .cmd id => s.failCommand ctx q id
  | .queue k => (s.mapQueue k (fun x => { x with blocked := false })).serveEntry k none (some q.page)
  | .bits lid => (s.flushBits lid (some q.page)).decideEnd lid
  | .report id => s.advanceReport id (some q.page)
  | .ring k => s.flushRing k (some q.page)
  | .residue _ => s

/-- CTXRESUME. The request is answered, its waiters go on or fail, and requests that wait for room in the ring are posted. -/
def State.resume (s : State) (ctx : Nat) (v : W64) : State :=
  if 16 ≤ ctx ∨ v.extractLsb' 33 31 ≠ 0 then s
  else match (s.ctx ctx).requests.find? (fun q => q.posted && q.seq == (v.extractLsb' 0 32).toNat) with
    | none => s
    | some q =>
      let s1 := s.mapCtx ctx (fun c => { c with requests := c.requests.filter (fun x => x != q) })
      let s2 := if v.getLsbD 32 then (q.waiters.foldl (fun s w => s.failWaiter ctx q w) s1).fatalAll (s1.failEntries ctx q)
        else q.waiters.foldl (fun s w => s.replayWaiter ctx q w) s1
      (s2.postRequests ((s2.ctx ctx).requests.length) ctx).settleLaunches

/-- An answer with FAIL = 0. -/
def execResumeReplay (ctx : Nat) (v : W64) (s : State) : Host.Outcome State Fault Refusal := .next (s.resume ctx v).tick

/-- An answer with FAIL = 1. -/
def execResumeFail (ctx : Nat) (v : W64) (s : State) : Host.Outcome State Fault Refusal := .next (s.resume ctx v).tick

/-! ### Translation invalidation (R346) -/

/-- Low VA bit of a SIZE of XINV. -/
def xinvLow (size : Nat) : Nat := if size = 0 then 16 else if size = 1 then 21 else 31

/-- A cached leaf holds a translation of the range. -/
def xinvHits (v : W64) (e : Tlb) : Bool :=
  let size := (v.extractLsb' 8 2).toNat
  let va := (v.extractLsb' 16 41).toNat * 65536
  let lo := xinvLow size
  e.ctx == (v.extractLsb' 0 4).toNat &&
    (size == 3 || overlap (e.page * 2 ^ e.size) (2 ^ e.size) (va / 2 ^ lo * 2 ^ lo) (2 ^ lo))

/-- XINV starts; a write while one runs, or with a nonzero must-be-zero bit, is dropped. -/
def execTranslationInvalidate (v : W64) (s : State) : Host.Outcome State Fault Refusal :=
  if s.xinv.isSome ∨ v.extractLsb' 57 7 ≠ 0 ∨ v.extractLsb' 10 6 ≠ 0 ∨ v.extractLsb' 4 4 ≠ 0 then .next s.tick
  else .next ({ s with xinv := some v } : State).tick

/-- BUSY clears: no cache holds an entry of the range. -/
def execXinvDone (s : State) : Host.Outcome State Fault Refusal :=
  match s.xinv with
  | none => .next s.tick
  | some v => .next ({ s with xinv := none, tlb := s.tlb.filter (fun e => !xinvHits v e) } : State).tick

/-! ### Registers without a row of their own (R344, R369, R378) -/

/-- The partition that binds a context. -/
def State.bindingOf (s : State) (ctx : Nat) : Option Nat :=
  (List.range 8).find? (fun n => (s.partition n).bound.contains ctx)

/-- A register that is written only while its context is bound nowhere. -/
def State.whileUnbound (s : State) (ctx : Nat) (f : Context → Context) : State :=
  match s.bindingOf ctx with
  | none => s.mapCtx ctx f
  | some n => s.dropPart n

/-- CTXPRQ may take a value. -/
def prqOk (v : W64) : Bool :=
  v.extractLsb' 5 59 == 0 || (decide (4 ≤ (v.extractLsb' 0 5).toNat) && decide ((v.extractLsb' 0 5).toNat ≤ 16))

/-- A register of the control block of a context: a write at a time when it may not be written sets ERR, and a malformed value is
dropped. Log entry 88 (DEDUCED). -/
def State.writeContext (s : State) (ctx reg : Nat) (v : W64) : State :=
  match reg with
  | 0x00 => s.whileUnbound ctx (fun c => if v.extractLsb' 5 3 ≠ 0 ∨ v.extractLsb' 1 2 ≠ 0 then c else { c with root := v })
  | 0x08 => s.mapCtx ctx (fun c => { c with handler := v })
  | 0x10 => s.whileUnbound ctx (fun c => if v.extractLsb' 0 12 ≠ 0 then c else { c with save := v })
  | 0x18 => s.whileUnbound ctx (fun c => { c with saveSz := v })
  | 0x20 => s.whileUnbound ctx (fun c => if prqOk v then { c with prq := v } else c)
  | _ => s

/-- FSBASE and FSCTL. -/
def State.writeSummary (s : State) (ctx reg : Nat) (v : W64) : State :=
  match reg with
  | 0 => s.whileUnbound ctx (fun c => if v.extractLsb' 0 12 ≠ 0 then c else { c with fsBase := v })
  | 8 =>
    if v.extractLsb' 37 27 ≠ 0 ∨ 16 < (v.extractLsb' 32 5).toNat then s
    else s.mapCtx ctx (fun c => { c with fsCtl := v.extractLsb' 32 32 ++ c.fsCtl.extractLsb' 0 32 })
  | _ => s

/-- OBSCTL and TRRING. -/
def State.writeObs (s : State) (ctx reg : Nat) (v : W64) : State :=
  match reg with
  | 0x00 => if v.extractLsb' 7 57 ≠ 0 ∨ v.extractLsb' 0 2 ≠ 0 then s else s.mapCtx ctx (fun c => { c with obsCtl := v })
  | 0x08 =>
    let log := (v.extractLsb' 0 5).toNat
    if v.getLsbD 5 || log < 4 || 20 < log || (s.ctx ctx).obsCtl.extractLsb' 2 4 != 0 then s
    else s.mapCtx ctx (fun c => { c with trRing := v })
  | _ => s

/-- A write of the window at an offset whose register has no row of its own; read-only registers and holes keep what they hold.
Log entry 88 (DEDUCED). -/
def State.writeRegister (s : State) (off : Nat) (v : W64) : State :=
  if 0x30000 ≤ off ∧ off < 0x30400 then s.writeContext ((off - 0x30000) / 64) (off % 64) v
  else if 0x30800 ≤ off ∧ off < 0x30900 then s.writeSummary ((off - 0x30800) / 16) (off % 16) v
  else if 0x40000 ≤ off ∧ off < 0x40400 then s.writeObs ((off - 0x40000) / 64) (off % 64) v
  else s

def execRegisterWrite (off : Nat) (v : W64) (s : State) : Host.Outcome State Fault Refusal := .next (s.writeRegister off v).tick

/-! ### Counters, samples and error counts (R377, R401, R405) -/

/-- HCTL of a scheduler. Log entry 84 (DEDUCED). -/
def State.writeHctl (s : State) (cluster sched : Nat) (v : W64) : State :=
  if Config.clusters ≤ cluster ∨ 8 ≤ sched ∨ v.extractLsb' 2 62 ≠ 0 then s
  else s.mapSched (8 * cluster + sched) (fun r =>
    { r with freeze := v.getLsbD 1, counts := if v.getLsbD 0 then [] else r.counts })

/-- HCTL with CLR: every counter of the block becomes 0. -/
def execCounterClear (cluster sched : Nat) (v : W64) (s : State) : Host.Outcome State Fault Refusal :=
  .next (s.writeHctl cluster sched v).tick

/-- HCTL: FREEZE stops the counters of the block, or lets them count. -/
def execCounterFreeze (cluster sched : Nat) (v : W64) (s : State) : Host.Outcome State Fault Refusal :=
  .next (s.writeHctl cluster sched v).tick

/-- A read of SMPA: the three sample registers name one thread of the last bundle. -/
def execSampleLatch (cluster sched : Nat) (s : State) : Host.Outcome State Fault Refusal :=
  .next (if Config.clusters ≤ cluster ∨ 8 ≤ sched then s
    else s.mapSched (8 * cluster + sched) (fun r => { r with smpA := r.lastA, smpB := r.lastB, smpC := r.lastC })).tick

/-- A read of HPERR clears its counts. Log entry 89 (DESIGN CHOICE). -/
def execHperrRead (s : State) : Host.Outcome State Fault Refusal := .next ({ s with hpErr := 0 } : State).tick

/-- A read of HLTHc clears its counts; LOST and SPARE stay. Log entry 89 (DESIGN CHOICE). -/
def execHealthRead (cluster : Nat) (s : State) : Host.Outcome State Fault Refusal :=
  .next (if Config.clusters ≤ cluster then s
    else s.mapCluster cluster (fun x => { x with parUnr := 0, eccCor := 0, parRep := 0 })).tick

/-- TRHEAD. -/
def execTraceHeadWrite (ctx : Nat) (v : W64) (s : State) : Host.Outcome State Fault Refusal :=
  .next (if 16 ≤ ctx ∨ v.extractLsb' 32 32 ≠ 0 then s
    else s.mapCtx ctx (fun c => { c with trHead := v.toNat })).tick

/-! ### The start of a replay (R384) -/

/-- A trace record from its 64 bytes (R379). -/
def traceOfBytes (bs : List Byte) : TraceRec :=
  { lid := fieldOf bs 0 4, bx := fieldOf bs 4 4, by' := fieldOf bs 8 2, bz := fieldOf bs 10 2, gid := fieldOf bs 12 2,
    type := fieldOf bs 14 1, pc := BitVec.ofNat 32 (fieldOf bs 0x14 4), ptime := BitVec.ofNat 64 (fieldOf bs 0x18 8),
    maskA := BitVec.ofNat 64 (fieldOf bs 0x20 8), maskB := BitVec.ofNat 64 (fieldOf bs 0x28 8),
    obj := BitVec.ofNat 32 (fieldOf bs 0x30 4), phase := BitVec.ofNat 16 (fieldOf bs 0x34 2) }

/-- Bytes read in a context, within pages. -/
def State.readMany (s : State) (ctx va n : Nat) : Option (List Byte) := (s.readPieces ctx (pageSpans va n)).toOption

/-- The descriptor keeps its table. Log entry 66 (DEDUCED). -/
def replayOk (d : List Byte) : Bool :=
  decide (fieldOf d 0 8 % 64 = 0) && decide (1 ≤ fieldOf d 0x1C 4) && decide (fieldOf d 0x1C 4 ≤ 2 ^ 24) &&
    decide (fieldOf d 0x20 8 % 64 = 0) && decide (fieldOf d 0x28 8 % 64 = 0) && zeroAt d 0x30 16

/-- What a replay needs, where nothing refuses it: the launch as recorded, and the records. -/
def State.replayPlan (s : State) (ctx : Nat) (d : List Byte) : Option (Launch × List TraceRec) :=
  match replayOk d, s.readMany ctx (fieldOf d 0 8) 256 with
  | true, some bs =>
    let r := LaunchRec.ofBytes bs
    let dmap := (r.depAddrs.map (fun a => s.readMany ctx a.toNat 48))
    let gx := r.grid
    if dmap.any (fun x => x.isNone) || refusal bs (dmap.filterMap id) true s.pod.inPod != 0 ||
        r.teamLevel.isSome || r.dieGangs || decide (gx.1 ≤ fieldOf d 0x14 4) || decide (gx.2.1 ≤ fieldOf d 0x18 2) ||
        decide (gx.2.2 ≤ fieldOf d 0x1A 2) then none
    else match s.readMany ctx (fieldOf d 8 8) r.psize, s.readMany ctx (fieldOf d 0x20 8) (64 * fieldOf d 0x1C 4) with
      | some ps, some rs =>
        some (Launch.make (fieldOf d 0x10 4) ctx s.seq (.queue 0) r (BitVec.ofNat 64 (fieldOf d 0 8)) [] (paramsOfBytes ps) 0
            s.pod.index,
          (List.range (fieldOf d 0x1C 4)).map (fun i => traceOfBytes ((rs.drop (64 * i)).take 64)))
      | _, _ => none
  | _, _ => none

/-- The block that a descriptor names. -/
def Launch.replayBlock (l : Launch) (d : List Byte) (id cluster : Nat) : Block :=
  { l.block 0 id cluster with bx := fieldOf d 0x14 4, by' := fieldOf d 0x18 2, bz := fieldOf d 0x1A 2, gang := none }

/-- RPLDOOR: the block waits to be placed alone in the partition of its context, or the status is REFUSED. Log entry 66 (DEDUCED). -/
def State.startReplay (s : State) (ctx : Nat) (v : W64) : State :=
  let refuse (stat : Nat) : State :=
    (s.writeVirt ctx stat (leBytes 4 4 ++ List.replicate 124 0)).toOption.getD s
  if 16 ≤ ctx ∨ v.extractLsb' 0 6 ≠ 0 ∨ s.replaying.any (fun r => r.ctx == ctx) = true then s
  else match s.readMany ctx v.toNat 64 with
    | none => s
    | some d =>
      match s.replayPlan ctx d, (s.activeIn ctx).bind (fun n => (s.clustersOf n).head?) with
      | some (l, records), some c =>
        { s with
          seq := s.seq + 1, replaying := s.replaying ++ [⟨ctx, s.seq, records, fieldOf d 0x28 8⟩],
          blocks := NMap.insert s.blocks s.seq (l.replayBlock d s.seq c) }
      | _, _ => refuse (fieldOf d 0x28 8)

/-- Log entry 66 (DEDUCED). -/
def execReplayStart (ctx : Nat) (v : W64) (s : State) : Host.Outcome State Fault Refusal := .next (s.startReplay ctx v).tick

end Sys2Proof.Machine
end

