-- ==== Sys2Proof/Machine/Sha.lean ====
section
/-! DEFINITION. SHA-384, which measures firmware images and patches (R390 to R392), and SHA-256, on which LMS rests (R390). Their
constants are those of the hash standard (log entry 41). -/

namespace Sys2Proof.Machine

/-! Round constants: the first 64 bits of the fractional parts of the cube roots of the first 80 primes. -/

def shaKeys0 : List W64 :=
  [0x428A2F98D728AE22#64, 0x7137449123EF65CD#64, 0xB5C0FBCFEC4D3B2F#64, 0xE9B5DBA58189DBBC#64,
   0x3956C25BF348B538#64, 0x59F111F1B605D019#64, 0x923F82A4AF194F9B#64, 0xAB1C5ED5DA6D8118#64]

def shaKeys1 : List W64 :=
  [0xD807AA98A3030242#64, 0x12835B0145706FBE#64, 0x243185BE4EE4B28C#64, 0x550C7DC3D5FFB4E2#64,
   0x72BE5D74F27B896F#64, 0x80DEB1FE3B1696B1#64, 0x9BDC06A725C71235#64, 0xC19BF174CF692694#64]

def shaKeys2 : List W64 :=
  [0xE49B69C19EF14AD2#64, 0xEFBE4786384F25E3#64, 0x0FC19DC68B8CD5B5#64, 0x240CA1CC77AC9C65#64,
   0x2DE92C6F592B0275#64, 0x4A7484AA6EA6E483#64, 0x5CB0A9DCBD41FBD4#64, 0x76F988DA831153B5#64]

def shaKeys3 : List W64 :=
  [0x983E5152EE66DFAB#64, 0xA831C66D2DB43210#64, 0xB00327C898FB213F#64, 0xBF597FC7BEEF0EE4#64,
   0xC6E00BF33DA88FC2#64, 0xD5A79147930AA725#64, 0x06CA6351E003826F#64, 0x142929670A0E6E70#64]

def shaKeys4 : List W64 :=
  [0x27B70A8546D22FFC#64, 0x2E1B21385C26C926#64, 0x4D2C6DFC5AC42AED#64, 0x53380D139D95B3DF#64,
   0x650A73548BAF63DE#64, 0x766A0ABB3C77B2A8#64, 0x81C2C92E47EDAEE6#64, 0x92722C851482353B#64]

def shaKeys5 : List W64 :=
  [0xA2BFE8A14CF10364#64, 0xA81A664BBC423001#64, 0xC24B8B70D0F89791#64, 0xC76C51A30654BE30#64,
   0xD192E819D6EF5218#64, 0xD69906245565A910#64, 0xF40E35855771202A#64, 0x106AA07032BBD1B8#64]

def shaKeys6 : List W64 :=
  [0x19A4C116B8D2D0C8#64, 0x1E376C085141AB53#64, 0x2748774CDF8EEB99#64, 0x34B0BCB5E19B48A8#64,
   0x391C0CB3C5C95A63#64, 0x4ED8AA4AE3418ACB#64, 0x5B9CCA4F7763E373#64, 0x682E6FF3D6B2B8A3#64]

def shaKeys7 : List W64 :=
  [0x748F82EE5DEFB2FC#64, 0x78A5636F43172F60#64, 0x84C87814A1F0AB72#64, 0x8CC702081A6439EC#64,
   0x90BEFFFA23631E28#64, 0xA4506CEBDE82BDE9#64, 0xBEF9A3F7B2C67915#64, 0xC67178F2E372532B#64]

def shaKeys8 : List W64 :=
  [0xCA273ECEEA26619C#64, 0xD186B8C721C0C207#64, 0xEADA7DD6CDE0EB1E#64, 0xF57D4F7FEE6ED178#64,
   0x06F067AA72176FBA#64, 0x0A637DC5A2C898A6#64, 0x113F9804BEF90DAE#64, 0x1B710B35131C471B#64]

def shaKeys9 : List W64 :=
  [0x28DB77F523047D84#64, 0x32CAAB7B40C72493#64, 0x3C9EBE0A15C9BEBC#64, 0x431D67C49C100D4C#64,
   0x4CC5D4BECB3E42B6#64, 0x597F299CFC657E2A#64, 0x5FCB6FAB3AD6FAEC#64, 0x6C44198C4A475817#64]

/-- The round constants. Log entry 41 (PRESUMED). -/
def shaKeys : List W64 :=
  shaKeys0 ++ shaKeys1 ++ shaKeys2 ++ shaKeys3 ++ shaKeys4 ++ shaKeys5 ++ shaKeys6 ++ shaKeys7 ++ shaKeys8 ++ shaKeys9

/-- The initial hash value. Log entry 41 (PRESUMED). -/
def shaStart : List W64 :=
  [0xCBBB9D5DC1059ED8#64, 0x629A292A367CD507#64, 0x9159015A3070DD17#64, 0x152FECD8F70E5939#64,
   0x67332667FFC00B31#64, 0x8EB44A8768581511#64, 0xDB0C2E0D64F98FA7#64, 0x47B5481DBEFA4FA4#64]

/-- The initial hash value of SHA-256. Log entry 41 (PRESUMED). -/
def sha256Start : List W32 :=
  [0x6A09E667#32, 0xBB67AE85#32, 0x3C6EF372#32, 0xA54FF53A#32, 0x510E527F#32, 0x9B05688C#32, 0x1F83D9AB#32, 0x5BE0CD19#32]

/-- The logical functions of either family: two sums of three rotations, and two of two rotations and a shift. -/
def shaCh {w : Nat} (x y z : BitVec w) : BitVec w := (x &&& y) ^^^ (~~~x &&& z)
def shaMaj {w : Nat} (x y z : BitVec w) : BitVec w := (x &&& y) ^^^ (x &&& z) ^^^ (y &&& z)
def shaSum {w : Nat} (n : Nat × Nat × Nat) (x : BitVec w) : BitVec w := x.rotateRight n.1 ^^^ x.rotateRight n.2.1 ^^^ x.rotateRight n.2.2
def shaSig {w : Nat} (n : Nat × Nat × Nat) (x : BitVec w) : BitVec w := x.rotateRight n.1 ^^^ x.rotateRight n.2.1 ^^^ (x >>> n.2.2)

/-- What tells one family from the other: bytes of a word, the rotations of its four functions, rounds. -/
structure ShaKind where
  bytes : Nat
  sum0 : Nat × Nat × Nat
  sum1 : Nat × Nat × Nat
  sig0 : Nat × Nat × Nat
  sig1 : Nat × Nat × Nat
  rounds : Nat

def sha512Kind : ShaKind :=
  { bytes := 8, sum0 := (28, 34, 39), sum1 := (14, 18, 41), sig0 := (1, 8, 7), sig1 := (19, 61, 6), rounds := 80 }

def sha256Kind : ShaKind :=
  { bytes := 4, sum0 := (2, 13, 22), sum1 := (6, 11, 25), sig0 := (7, 18, 3), sig1 := (17, 19, 10), rounds := 64 }

/-- A big-endian value. -/
def beNat (bs : List Byte) : Nat := bs.foldl (fun n b => n * 256 + b.toNat) 0

/-- The low n bytes of a value, most significant first. -/
def beBytes (n v : Nat) : List Byte := (leBytes n v).reverse

/-- The message with its padding: a 1 bit, zeros, and its length in bits as two words. -/
def shaPad (k : ShaKind) (m : List Byte) : List Byte :=
  let block := 16 * k.bytes
  m ++ (0x80#8 :: List.replicate ((2 * block - 2 * k.bytes - 1 - m.length % block) % block) 0#8) ++ beBytes (2 * k.bytes) (8 * m.length)

/-- The next words of the message schedule, newest first. -/
def shaExpand {w : Nat} (k : ShaKind) : Nat → List (BitVec w) → List (BitVec w)
  | 0, ws => ws
  | n + 1, ws =>
    shaExpand k n ((shaSig k.sig1 (ws.getD 1 0) + ws.getD 6 0 + shaSig k.sig0 (ws.getD 14 0) + ws.getD 15 0) :: ws)

/-- One round on the eight working variables. -/
def shaRound {w : Nat} (k : ShaKind) (v : List (BitVec w)) (kw : BitVec w × BitVec w) : List (BitVec w) :=
  let x (i : Nat) : BitVec w := v.getD i 0
  let t1 := x 7 + shaSum k.sum1 (x 4) + shaCh (x 4) (x 5) (x 6) + kw.1 + kw.2
  let t2 := shaSum k.sum0 (x 0) + shaMaj (x 0) (x 1) (x 2)
  [t1 + t2, x 0, x 1, x 2, x 3 + t1, x 4, x 5, x 6]

/-- One block of 16 words. -/
def shaBlock {w : Nat} (k : ShaKind) (keys h : List (BitVec w)) (block : List Byte) : List (BitVec w) :=
  let first := (List.range 16).map (fun i => BitVec.ofNat w (beNat ((block.drop (k.bytes * i)).take k.bytes)))
  let ws := (shaExpand k (k.rounds - 16) first.reverse).reverse
  List.zipWith (· + ·) h ((keys.zip ws).foldl (shaRound k) h)

/-- The blocks of a padded message. -/
def shaBlocks {w : Nat} (k : ShaKind) (keys : List (BitVec w)) : Nat → List (BitVec w) → List Byte → List (BitVec w)
  | 0, h, _ => h
  | n + 1, h, m => shaBlocks k keys n (shaBlock k keys h (m.take (16 * k.bytes))) (m.drop (16 * k.bytes))

/-- The SHA-384 digest, most significant byte first. -/
def sha384 (m : List Byte) : BitVec 384 :=
  let p := shaPad sha512Kind m
  BitVec.ofNat 384 (beNat (((shaBlocks sha512Kind shaKeys (p.length / 128) shaStart p).take 6).flatMap (fun x => beBytes 8 x.toNat)))

/-- The 32 bytes of the SHA-256 digest. Its round constants are the first 32 bits of the first 64 of the others. -/
def sha256 (m : List Byte) : List Byte :=
  let p := shaPad sha256Kind m
  let keys : List W32 := (shaKeys.take 64).map (fun x => x.extractLsb' 32 32)
  (shaBlocks sha256Kind keys (p.length / 64) sha256Start p).flatMap (fun x => beBytes 4 x.toNat)

/-- The 48 bytes of a digest or a measurement register. -/
def digestBytes (d : BitVec 384) : List Byte := beBytes 48 d.toNat

/-- The extension of a measurement register (R392). -/
def extend (m : BitVec 384) (d : List Byte) : BitVec 384 := sha384 (digestBytes m ++ d)

end Sys2Proof.Machine
end

