-- ==== Sys2Proof/Machine/Signatures.lean ====
section
/-! DEFINITION. The signatures of R390: ECDSA on the curve P-384, and LMS with the parameters LMS_SHA256_M32_H20 and
LMOTS_SHA256_N32_W8. R390 names the standards and no constant of them: log entry 128 (PRESUMED). -/

namespace Sys2Proof.Machine

/-! ### Arithmetic modulo a prime -/

/-- b to the power e modulo m, for an exponent of at most n bits. -/
def powMod (m : Nat) : Nat → Nat → Nat → Nat
  | 0, _, _ => 1 % m
  | n + 1, b, e => (if e % 2 = 1 then b else 1) * powMod m n (b * b % m) (e / 2) % m

/-- The inverse modulo a prime of 384 bits. -/
def invMod (m x : Nat) : Nat := powMod m 384 (x % m) (m - 2)

/-! ### P-384 -/

/-- The prime of the field, the order of the base point, the curve's b, and the base point. -/
def p384Prime : Nat := 2 ^ 384 - 2 ^ 128 - 2 ^ 96 + 2 ^ 32 - 1
def p384Order : Nat := 0xFFFFFFFFFFFFFFFFFFFFFFFFFFFFFFFFFFFFFFFFFFFFFFFFC7634D81F4372DDF581A0DB248B0A77AECEC196ACCC52973
def p384B : Nat := 0xB3312FA7E23EE7E4988E056BE3F82D19181D9C6EFE8141120314088F5013875AC656398D8A2ED19D2A85C8EDD3EC2AEF
def p384Base : Nat × Nat :=
  (0xAA87CA22BE8B05378EB1C71EF320AD746E1D3B628BA79B9859F741E082542A385502F25DBF55296C3A545E3872760AB7,
   0x3617DE4A96262C6F5D9E98BF9292DC29F8F41DBD289A147CE9DA3113B5F0B8C00A60B1CE1D7E819D7A431D7C90EA0E5F)

/-- A point lies on the curve y² = x³ - 3x + b. -/
def onCurve (p : Nat × Nat) : Bool :=
  decide (p.1 < p384Prime) && decide (p.2 < p384Prime) &&
    p.2 * p.2 % p384Prime == (p.1 * p.1 * p.1 + (p384Prime - 3) * p.1 + p384B) % p384Prime

/-- The sum of two points; `none` is the point at infinity. -/
def pointAdd : Option (Nat × Nat) → Option (Nat × Nat) → Option (Nat × Nat)
  | none, q => q
  | p, none => p
  | some (x1, y1), some (x2, y2) =>
    let m := p384Prime
    if x1 = x2 ∧ (y1 + y2) % m = 0 then none
    else
      let slope := if x1 = x2 then (3 * x1 * x1 + (m - 3)) * invMod m (2 * y1) % m else (y2 + m - y1) * invMod m (x2 + m - x1) % m
      let x := (slope * slope + 2 * m - x1 - x2) % m
      some (x, (slope * (x1 + m - x) + m - y1) % m)

/-- A multiple of a point, by a number of at most n bits. -/
def pointMul : Nat → Nat → Option (Nat × Nat) → Option (Nat × Nat)
  | 0, _, _ => none
  | n + 1, k, p =>
    let r := pointMul n (k / 2) (pointAdd p p)
    if k % 2 = 1 then pointAdd p r else r

/-- The signature r, s of a digest holds under a public key. -/
@[irreducible] def ecdsaVerify (key : Nat × Nat) (d : BitVec 384) (r s : Nat) : Bool :=
  let n := p384Order
  let w := invMod n s
  let sum := pointAdd (pointMul 384 (d.toNat * w % n) (some p384Base)) (pointMul 384 (r * w % n) (some key))
  onCurve key && decide (0 < r) && decide (r < n) && decide (0 < s) && decide (s < n) &&
    match sum with
    | some p => p.1 % n == r
    | none => false

/-- A number of a private key or of a signature, from 1 to the order less 1. -/
def scalarOf (v : Nat) : Nat := 1 + v % (p384Order - 1)

/-- The signature of a digest under a private key, with the number that it draws. -/
@[irreducible] def ecdsaSign (key nonce : Nat) (d : BitVec 384) : Nat × Nat :=
  let n := p384Order
  let r := ((pointMul 384 nonce (some p384Base)).map Prod.fst).getD 0 % n
  (r, invMod n nonce * (d.toNat + r * key) % n)

/-! ### LMS -/

/-- Typecodes of LMS_SHA256_M32_H20 and LMOTS_SHA256_N32_W8, as the standard encodes them. -/
def lmsType : List Byte := beBytes 4 8
def lmotsType : List Byte := beBytes 4 4

/-- Height of the tree, and chains of a leaf. -/
def lmsHeight : Nat := 20
def lmotsChains : Nat := 34

/-- A chain of hashes from step j, n steps long. -/
def lmotsChain (id : List Byte) (q i : Nat) : Nat → Nat → List Byte → List Byte
  | _, 0, x => x
  | j, n + 1, x => lmotsChain id q i (j + 1) n (sha256 (id ++ beBytes 4 q ++ beBytes 2 i ++ beBytes 1 j ++ x))

/-- The digits of a message that the chains sign: the 32 bytes of its hash, and their checksum. -/
def lmotsDigits (id : List Byte) (q : Nat) (c m : List Byte) : List Nat :=
  let h := (sha256 (id ++ beBytes 4 q ++ [0x81#8, 0x81#8] ++ c ++ m)).map BitVec.toNat
  let sum := (h.map (fun d => 255 - d)).sum
  h ++ [sum / 256 % 256, sum % 256]

/-- The public key of a leaf, from the ends of its chains. -/
def lmotsKey (id : List Byte) (q : Nat) (ends : List (List Byte)) : List Byte :=
  sha256 (id ++ beBytes 4 q ++ [0x80#8, 0x80#8] ++ ends.flatten)

/-- A leaf of the tree, and a node from its children. -/
def lmsLeaf (id : List Byte) (q : Nat) (key : List Byte) : List Byte :=
  sha256 (id ++ beBytes 4 (2 ^ lmsHeight + q) ++ [0x82#8, 0x82#8] ++ key)
def lmsNode (id : List Byte) (r : Nat) (left right : List Byte) : List Byte :=
  sha256 (id ++ beBytes 4 r ++ [0x83#8, 0x83#8] ++ left ++ right)

/-- The root that a node and the siblings on its path lead to. -/
def lmsClimb (id : List Byte) : Nat → List Byte → List (List Byte) → List Byte
  | _, x, [] => x
  | r, x, y :: ys => lmsClimb id (r / 2) (if r % 2 = 1 then lmsNode id (r / 2) y x else lmsNode id (r / 2) x y) ys

/-- The k-th element of 32 bytes. -/
def element (bs : List Byte) (k : Nat) : List Byte := (bs.drop (32 * k)).take 32

/-- A signature of a message holds under a public key of 56 bytes: leaf number, leaf signature (type, random value, chains), type, path. -/
@[irreducible] def lmsVerify (key m sig : List Byte) : Bool :=
  let id := (key.drop 8).take 16
  let q := beNat (sig.take 4)
  let digits := lmotsDigits id q ((sig.drop 8).take 32) m
  let ends := digits.zipIdx.map (fun e => lmotsChain id q e.2 e.1 (255 - e.1) (element (sig.drop 40) e.2))
  let path := (List.range lmsHeight).map (element (sig.drop 1132))
  decide (sig.length = 1772) && key.take 4 == lmsType && (key.drop 4).take 4 == lmotsType && (sig.drop 4).take 4 == lmotsType &&
    (sig.drop 1128).take 4 == lmsType && decide (q < 2 ^ lmsHeight) &&
    lmsClimb id (2 ^ lmsHeight + q) (lmsLeaf id q (lmotsKey id q ends)) path == key.drop 24

/-- The private elements of a key, by leaf and chain. -/
abbrev LmsKey := Nat → Nat → List Byte

/-- A node of a key's tree at a height. -/
def lmsTree (id : List Byte) (key : LmsKey) : Nat → Nat → List Byte
  | 0, r =>
    let q := r - 2 ^ lmsHeight
    lmsLeaf id q (lmotsKey id q ((List.range lmotsChains).map (fun i => lmotsChain id q i 0 255 (key q i))))
  | h + 1, r => lmsNode id r (lmsTree id key h (2 * r)) (lmsTree id key h (2 * r + 1))

/-- The 56 bytes of the public key. -/
@[irreducible] def lmsPublic (id : List Byte) (key : LmsKey) : List Byte := lmsType ++ lmotsType ++ id ++ lmsTree id key lmsHeight 1

/-- The signature of a message with a leaf. -/
@[irreducible] def lmsSign (id : List Byte) (key : LmsKey) (q : Nat) (c m : List Byte) : List Byte :=
  let sibling (h : Nat) : Nat := let r := (2 ^ lmsHeight + q) / 2 ^ h; if r % 2 = 0 then r + 1 else r - 1
  beBytes 4 q ++ lmotsType ++ c ++
    (lmotsDigits id q c m).zipIdx.flatMap (fun e => lmotsChain id q e.2 0 e.1 (key q e.2)) ++ lmsType ++
    (List.range lmsHeight).flatMap (fun h => lmsTree id key h (sibling h))

end Sys2Proof.Machine
end

