-- ==== Sys2Proof/Machine/Firmware.lean ====
section
/-! DEFINITION. The Massif: boot, take-over by the standby core, hot patches, MINVER, attestation (R388 to R397); Ridge links, the
clock step and the power-off of the module (R402 to R404). -/

namespace Sys2Proof.Machine

def State.mapFw (s : State) (f : Firmware → Firmware) : State := { s with fw := f s.fw }

/-- A measurement register. -/
def Firmware.measure (f : Firmware) (k : Nat) : BitVec 384 := NMap.read 0 f.measures k

/-- A measurement register is extended (R392). -/
def Firmware.extend (f : Firmware) (k : Nat) (d : List Byte) : Firmware :=
  { f with measures := NMap.put 0 f.measures k (Machine.extend (f.measure k) d) }

/-! ### Registers (R391, R394) -/

/-- FWSTAT. -/
def Firmware.stat (f : Firmware) : W64 :=
  BitVec.ofNat 64 (f.state.code + 256 * (f.result % 256) + 65536 * f.noStandby.toNat + 2 ^ 32 * f.pver.toNat)

/-- FWMINVER. -/
def Firmware.minVerRead (f : Firmware) : W64 := BitVec.ofNat 64 (f.minVer.toNat + 2 ^ 32 * f.minErr.toNat)

/-! ### Signature blocks (R390) -/

/-- Bytes of a signature block. -/
def signatureBytes : Nat := 1868

/-- An object's bytes before its signature block, and the block. -/
def signedParts (o : List Byte) : List Byte × List Byte := o.splitAt (o.length - signatureBytes)

/-- Both signatures of an object verify under the vendor's keys: r then s, and the LMS signature. -/
def verifies (o : List Byte) : Bool :=
  let p := signedParts o
  decide (signatureBytes ≤ o.length) &&
    ecdsaVerify (Config.vendorX, Config.vendorY) (sha384 p.1) (beNat (p.2.take 48)) (beNat ((p.2.drop 48).take 48)) &&
    lmsVerify ((List.range 56).map Config.vendorLms) p.1 (p.2.drop 96)

/-- The digest of an image or a patch that a measurement register is extended with (R392, R395), over its bytes before the signature
block. Log entry 91 (DEDUCED). -/
def imageDigest (o : List Byte) : List Byte := digestBytes (sha384 (signedParts o).1)

/-- A firmware image is accepted: both signatures verify, and its VERSION is not below MINVER (R390, R391). -/
def Firmware.accepts (f : Firmware) (image : List Byte) : Bool :=
  verifies image && decide (f.minVer.toNat ≤ (Config.imageVersion image).toNat)

/-! ### Boot (R392) -/

/-- The Massif verifies the Cairn image and measures it, or no cluster is loaded with one. Log entry 91 (DEDUCED). -/
def Firmware.loadCairns (f : Firmware) : Firmware :=
  if f.accepts Config.cairnImage then f.extend 1 (imageDigest Config.cairnImage) else { f with cairnRefused := true }

/-- Boot ROM and the Massif's start, on a firmware state that holds the one-time store. Log entry 91 (DEDUCED). -/
def Firmware.boot (f : Firmware) : Firmware :=
  let f0 : Firmware := { Firmware.reset with minVer := f.minVer, reports := f.reports, booted := true }
  if f.accepts Config.massifImage = false then { f0 with state := .bootRefused }
  else
    let f1 := ({ f0 with version := Config.imageVersion Config.massifImage }.extend 0 (imageDigest Config.massifImage)).loadCairns
    (f1.extend 3 (leBytes 4 f.minVer.toNat)).extend 3 Config.fuseState

/-- A Massif core starts from the image (R392). Log entry 127 (DESIGN CHOICE). -/
def State.startMassif (s : State) (core : Nat) : State :=
  { s with seq := s.seq + 1, blocks := NMap.insert s.blocks s.seq (massifThread s.seq core) }

/-- A Massif core's own thread is no more. -/
def State.stopMassif (s : State) (core : Nat) : State :=
  { s with blocks := s.blocks.filter (fun e => !(e.2.mode == .firmware && e.2.core == core)) }

/-- Reset. The one-time store is kept, and so is what the memories hold; the model's own fields go on. -/
def execResetEvent (s : State) : Host.Outcome State Fault Refusal :=
  let s1 : State := { State.reset with
    free := s.free, agenda := s.agenda, seq := s.seq, mem := s.mem, poison := s.poison, fw := s.fw.boot }
  .next (if s1.fw.state = .bootRefused then s1 else (s1.startMassif 0).startMassif 1).tick

/-! ### MINVER (R391) -/

def execMinverWrite (v : W64) (s : State) : Host.Outcome State Fault Refusal :=
  .next (s.mapFw (fun f =>
    if v.extractLsb' 32 32 = 0 ∧ f.minVer.toNat < v.toNat ∧ v.toNat ≤ f.version.toNat then
      ({ f with minVer := v.extractLsb' 0 32, minErr := false }).extend 3 (leBytes 4 v.toNat)
    else { f with minErr := true })).tick

/-! ### The journal and take-over (R388, R389) -/

/-- What the journal holds. Every change is appended before it is acted upon outside the Massif, so the journal, tail included, is at
all times a view of the state that the active core holds. Log entry 92 (DEDUCED). -/
def State.journal (s : State) : Journal :=
  { launches := s.launches,
    requests := s.contexts.map (fun e => (e.1, e.2.requests)),
    links := s.clusters.map (fun e =>
      let l := e.2.link
      (e.1, (l.toSeq, l.toPermits, l.owedTo), (l.fromSeq, l.fromPermits, l.owedFrom))),
    patch := s.fw }

/-- The firmware-held state as a core has it that has replayed a journal. -/
def State.replay (s : State) (j : Journal) : State :=
  { s with
    launches := j.launches, fw := j.patch,
    contexts := List.zipWith (fun e q => (e.1, { e.2 with requests := q.2 })) s.contexts j.requests,
    clusters := List.zipWith (fun e q => (e.1, { e.2 with link := { e.2.link with
      toSeq := q.2.1.1, toPermits := q.2.1.2.1, owedTo := q.2.1.2.2,
      fromSeq := q.2.2.1, fromPermits := q.2.2.2.1, owedFrom := q.2.2.2.2 } })) s.clusters j.links }

/-- A prologue that was running starts again from the launch as it was accepted. -/
def State.restartPrologue (s : State) (b : Block) : State :=
  (s.removeBlock b.id).mapLaunch b.decl.lid (fun l => { l with record := l.record0, params := l.params0 })

/-- The gates open: each call that stood at one enters the function that the table now names (R395). -/
def Firmware.openGates (f : Firmware) : Firmware :=
  { f with entered := f.calls.map (fun k => (k, NMap.lookup f.table k)), calls := [], active := [], gated := [] }

/-- A patch ends with a result, and its gates open. -/
def Firmware.endPatch (f : Firmware) (result : Nat) : Firmware := { f.openGates with state := .idle, result := result, image := [] }

/-- A patch that has not reached SWAPPING is refused. -/
def Firmware.dropPatch (f : Firmware) : Firmware :=
  if f.state = .verify ∨ f.state = .gating ∨ f.state = .quiescing then f.endPatch 7 else f

/-- The standby becomes the active core, from the journal. The messages that it sends again change nothing: those that their receivers
took carry a SEQ already seen (`Link.seen`), and the others still wait in `Link.out` or on the link. Log entry 92 (DEDUCED). -/
def State.takeOver (s : State) : State :=
  let s0 := (s.replay s.journal).stopMassif s.fw.activeCore
  let s1 := (s0.allBlocks.filter (fun b => b.mode == .prologue)).foldl State.restartPrologue s0
  s1.mapFw (fun f => { f.dropPatch with activeCore := 1 - f.activeCore, noStandby := true, down := false })

/-- The active core fails: the standby takes over, or the Massif is down until a core passes its self-test.
Log entry 92 (DEDUCED). -/
def State.coreFails (s : State) : State :=
  if s.fw.noStandby then (s.stopMassif s.fw.activeCore).mapFw (fun f => { f with down := true }) else s.takeOver

def execHeartbeatMissed (s : State) : Host.Outcome State Fault Refusal := .next s.coreFails.tick

def execActiveCoreError (s : State) : Host.Outcome State Fault Refusal := .next s.coreFails.tick

/-- A failed core passes its self-test: it is the standby, or takes over at once. -/
def execSelfTestPass (s : State) : Host.Outcome State Fault Refusal :=
  let other := 1 - s.fw.activeCore
  let s1 := (s.stopMassif other).startMassif other
  .next (if s.fw.down then s1.takeOver else s1.mapFw (fun f => { f with noStandby := false })).tick

/-! ### Hot patches (R393 to R395) -/

/-- Bytes of a physical structure that a firmware doorbell names, in the first memory tier (log entry 42). -/
def State.atDoor (s : State) (v : W64) (n : Nat) : List Byte := s.bytes (physKey 0 v.toNat) n

/-- Entries of a patch image. -/
def patchEntries (i : List Byte) : List (List Byte) := (List.range (fieldOf i 8 2)).map (fun k => (i.drop (64 + 32 * k)).take 32)

def patchFuncs (i : List Byte) : List Nat := (patchEntries i).map (fun e => fieldOf e 0 2)

/-- Every field keeps R393. -/
def patchOk (i : List Byte) : Bool :=
  let n := fieldOf i 8 2
  let code := fieldOf i 0x10 4
  decide (1 ≤ n) && decide (n ≤ 256) && zeroAt i 0x0A 2 && decide (1 ≤ fieldOf i 0x0C 4) && decide (fieldOf i 0x0C 4 ≤ 1000000) &&
    decide (code % 4 = 0) && decide (code ≤ 2 ^ 20) && zeroAt i 0x14 44 &&
    (patchEntries i).all (fun e => decide (fieldOf e 0 2 ≤ 1023) && decide (fieldOf e 2 1 ≤ 1) && zeroAt e 3 1 &&
      (fieldOf e 2 1 == 0 || fieldOf e 4 4 == 0) && zeroAt e 8 24)

/-- FWDOOR: the image is copied, or the write is dropped as busy. -/
def execPatchStart (v : W64) (s : State) : Host.Outcome State Fault Refusal :=
  if s.fw.state ≠ .idle then .next (s.mapFw (fun f => { f with result := 8 })).tick
  else if v.extractLsb' 0 6 ≠ 0 then .next s.tick
  else
    let head := s.atDoor v 64
    let n := 64 + 32 * min 256 (fieldOf head 8 2) + min (2 ^ 20) (fieldOf head 0x10 4) + signatureBytes
    .next (s.mapFw (fun f => { f with state := .verify, image := s.atDoor v n })).tick

/-- The result that refuses a patch, or 0. -/
def Firmware.patchReason (f : Firmware) : Nat :=
  if verifies f.image = false then 2
  else if fieldOf f.image 0 4 ≠ f.version.toNat then 3
  else if fieldOf f.image 4 4 ≤ f.pver.toNat then 4
  else if patchOk f.image = false then 5
  else 0

/-- VERIFY: the patch is refused, or calls to its functions are held at their gates. Log entry 103 (DESIGN CHOICE). -/
def execPatchVerify (s : State) : Host.Outcome State Fault Refusal :=
  .next (if s.fw.down = true ∨ s.fw.state ≠ .verify then s
    else if s.fw.patchReason = 0 then s.mapFw (fun f => { f with state := .gating, gated := patchFuncs f.image, since := s.ptime })
    else s.mapFw (fun f => f.endPatch f.patchReason)).tick

/-- TIMEOUT has elapsed since quiescing began; 1 µs is 256,000 ticks of pod time (R47). -/
def State.patchLate (s : State) : Bool := decide (s.fw.since.toNat + 256000 * fieldOf s.fw.image 0x0C 4 ≤ s.ptime.toNat)

/-- Entries of KIND 0 take the place of those in the table. -/
def Firmware.swapTable (f : Firmware) : NMap (Nat × Nat) :=
  ((patchEntries f.image).filter (fun e => fieldOf e 2 1 == 0)).foldl
    (fun t e => NMap.insert t (fieldOf e 0 2) (fieldOf e 4 4, fieldOf f.image 4 4)) f.table

/-- SWAPPING, as one step: the table, M2, and BROADCAST after it. -/
def Firmware.swap (f : Firmware) : Firmware :=
  ({ f with table := f.swapTable, oldM2 := f.measure 2, state := .broadcast, told := [], acks := [] } : Firmware).extend 2
    (imageDigest f.image)

/-- A call to a gated function may come, and stands at its gate: a free value says whether, and to which (log entry 2).
Log entry 93 (DESIGN CHOICE). -/
def State.holdCall (s : State) : State :=
  match s.fw.gated[s.pick 969 % (s.fw.gated.length + 1)]? with
  | some k => s.mapFw (fun f => { f with calls := f.calls ++ [k] })
  | none => s

/-- The active counts of the gated functions as the firmware has them now: free values (log entry 2), and, once their gates are closed,
never above what they were. Log entry 93 (DESIGN CHOICE). -/
def State.countActive (s : State) : State :=
  let count (old m : NMap Nat) (e : Nat × Nat) : NMap Nat :=
    let n := s.pick (970 + e.2)
    NMap.put 0 m e.1 (if s.fw.state = .gating then n else n % (NMap.read 0 old e.1 + 1))
  s.mapFw (fun f => { f with active := f.gated.zipIdx.foldl (count f.active) [] })

/-- PATCH is on its way to every live Cairn (R395). -/
def State.tellPatch (s : State) : State :=
  ((List.range Config.clusters).filter s.usable).foldl (fun s c => s.tell c 6 0) s

/-- GATING goes on to QUIESCING; once every listed count is 0 the table is swapped and M2 extended, and PATCH goes out.
Log entry 93 (DESIGN CHOICE). -/
def execPatchSwap (s : State) : Host.Outcome State Fault Refusal :=
  if s.fw.down = true ∨ (s.fw.state ≠ .gating ∧ s.fw.state ≠ .quiescing) ∨ s.patchLate = true then .next s.tick
  else
    let s1 := s.countActive.holdCall
    .next (if s1.fw.active.isEmpty then
        (s1.mapFw Firmware.swap).tellPatch
      else s1.mapFw (fun f => { f with state := .quiescing })).tick

/-- Quiescing has lasted longer than TIMEOUT: the gates open and the table is as it was. -/
def execPatchTimeout (s : State) : Host.Outcome State Fault Refusal :=
  .next (if s.fw.down = false ∧ (s.fw.state = .gating ∨ s.fw.state = .quiescing) ∧ s.patchLate = true then
      s.mapFw (fun f => f.endPatch 6)
    else s).tick

/-- Clusters whose Cairn must acknowledge a patch. -/
def State.liveClusters (s : State) : List Nat := (List.range Config.clusters).filter s.usable

/-- Every live Cairn has acknowledged: the gates open, and PVER is the patch's. -/
def execPatchComplete (s : State) : Host.Outcome State Fault Refusal :=
  .next (if s.fw.down = false ∧ s.fw.state = .broadcast ∧ s.liveClusters.all (fun c => s.fw.acks.contains c) = true then
      s.mapFw (fun f => { f.endPatch 1 with
        pver := BitVec.ofNat 32 (fieldOf f.image 4 4), applied := f.applied ++ [f.image], told := [], acks := [] })
    else s).tick

/-! ### Attestation and the certificate (R396, R397) -/

/-- M2 and PVER as a report reads them: during a broadcast both as before the swap, or both as after it. -/
def State.reportPatch (s : State) : BitVec 384 × W32 :=
  if s.fw.state ≠ .broadcast then (s.fw.measure 2, s.fw.pver)
  else if s.pick 970 % 2 = 0 then (s.fw.oldM2, s.fw.pver)
  else (s.fw.measure 2, BitVec.ofNat 32 (fieldOf s.fw.image 4 4))

/-- A report without its signature block. -/
def State.attestBody (s : State) (nonce : List Byte) : List Byte :=
  let f := s.fw
  let p := s.reportPatch
  nonce ++ (List.range 16).map Config.deviceId ++ leBytes 4 f.version.toNat ++ leBytes 4 p.2.toNat ++
    leBytes 4 f.minVer.toNat ++ leBytes 4 f.reports ++ digestBytes (f.measure 0) ++ digestBytes (f.measure 1) ++
    digestBytes p.1 ++ digestBytes (f.measure 3) ++ leBytes 8 s.ptime.toNat

/-- The device's own key pair (R397): the private ECDSA key, the identifier of the LMS key, and its private elements. -/
def deviceEcdsa : Nat := scalarOf Config.ecdsaPrivate
def deviceLmsId : List Byte := (List.range 16).map Config.lmsIdentifier
def deviceLms : LmsKey := fun q i => (List.range 32).map (Config.lmsPrivate q i)

/-- The signature block over a report, under the device's own keys (R390, R397). -/
def signatureBlock (leaf : Nat) (body : List Byte) : List Byte :=
  let rs := ecdsaSign deviceEcdsa (scalarOf (Config.ecdsaNonce leaf (sha384 body))) (sha384 body)
  beBytes 48 rs.1 ++ beBytes 48 rs.2 ++ lmsSign deviceLmsId deviceLms leaf ((List.range 32).map (Config.lmsRandom leaf)) body

/-- ATTDOOR: a report stands in the buffer, and ATTSTAT says DONE; after the last leaf it says EXHAUSTED. -/
def execAttestRequest (v : W64) (s : State) : Host.Outcome State Fault Refusal :=
  if v.extractLsb' 0 6 ≠ 0 then .next s.tick
  else if 2 ^ 20 ≤ s.fw.reports then .next (s.mapFw (fun f => { f with attStat := 2 })).tick
  else
    let body := s.attestBody (s.atDoor v 32)
    let report := body ++ signatureBlock s.fw.reports body ++ List.replicate 44 0
    .next ((s.write none (physKey 0 v.toNat) report).mapFw (fun f =>
      { f with reports := f.reports + 1, attStat := 1 })).tick

/-- The device certificate (R397). -/
def certificate : List Byte :=
  let key := (pointMul 384 deviceEcdsa (some p384Base)).getD (0, 0)
  (List.range 16).map Config.deviceId ++ 4 :: (beBytes 48 key.1 ++ beBytes 48 key.2) ++ List.replicate 3 0 ++
    lmsPublic deviceLmsId deviceLms ++ leBytes 4 1 ++ List.replicate 2052 0 ++
    (List.range signatureBytes).map Config.certificateSignature

/-- CERTDOOR: the certificate is copied, and CERTSTAT says DONE. -/
def execCertificateRequest (v : W64) (s : State) : Host.Outcome State Fault Refusal :=
  if v.extractLsb' 0 6 ≠ 0 then .next s.tick
  else .next ((s.write none (physKey 0 v.toNat) certificate).mapFw (fun f =>
    { f with certStat := 1 })).tick

/-! ### Ridge links (R402) -/

/-- When retries of a port failed, within the last 1 ms. -/
def State.portErrors (s : State) (port : Nat) : List W64 :=
  ((NMap.lookup s.pod.retries port).getD []).filter (within s.ptime tickMs)

/-- A flit fails its CRC and is sent again; where it was one sent again already, a retry has failed. The eighth
failed retry within 1 ms condemns the port. Log entry 94 (DEDUCED). -/
def execFlitCrcError (port : Flit) (s : State) : Host.Outcome State Fault Refusal :=
  let k := port.port
  if s.pod.links.contains k = false ∨ port.again = false then .next s.tick
  else
    let errors := s.ptime :: s.portErrors k
    .next ({ s with pod := { s.pod with
      retries := NMap.insert s.pod.retries k errors,
      failing := if 8 ≤ errors.length ∧ s.pod.failing.contains k = false then s.pod.failing ++ [k] else s.pod.failing } } :
        State).tick

/-- A condemned port goes down; with the last port the device leaves the pod. -/
def execLinkDown (port : Nat) (s : State) : Host.Outcome State Fault Refusal :=
  if s.pod.failing.contains port = false then .next s.tick
  else
    let s1 : State := { s with pod := { s.pod with
      links := s.pod.links.filter (fun p => p != port), failing := s.pod.failing.filter (fun p => p != port),
      retries := NMap.remove s.pod.retries port } }
    .next (if s1.pod.links.isEmpty then s1.leavePod s1.pod.index else s1).tick

/-! ### Clock step and power (R404) -/

/-- THERM after the hottest die has been measured. -/
def thermAfter (old : W64) (temp : Nat) : W64 :=
  let step := (old.extractLsb' 0 3).toNat
  let next := if 95 < temp then min 7 (step + 1) else if temp < 90 then step - 1 else step
  BitVec.ofNat 64 (next + 256 * min 255 temp + 65536 * (decide (95 < temp)).toNat)

/-- The hottest die is measured, and the clock steps down above 95 degrees and up below 90. Log entry 94 (DEDUCED). -/
def execThermalStep (temp : Nat) (s : State) : Host.Outcome State Fault Refusal :=
  .next (if 110 ≤ temp then { s with therm := thermAfter s.therm temp, off := true }
    else { s with therm := thermAfter s.therm temp }).tick

/-- At 110 degrees the module powers off. -/
def execThermalShutdown (s : State) : Host.Outcome State Fault Refusal := .next ({ s with off := true } : State).tick

end Sys2Proof.Machine
end

