-- ==== Sys2Proof/Machine/System.lean ====
section
/-! DEFINITION. System registers, ISYNC and DBGM (R118, R143, R320, R336 to R343, R378, R383). -/

namespace Sys2Proof.Machine

/-- The predecessor mask of a thread's section (R320). -/
def State.fxGraph (s : State) (b t : Nat) : W64 :=
  match s.sectionOf b t with
  | some x => x.preds.foldl (fun m k => m ||| (1#64 <<< k)) 0
  | none => 0

/-- What SREAD delivers (R339). %tcause is the CAUSE word of the last frame (R337). -/
def State.sysValue (s : State) (e : Env) (n : Nat) : List W32 :=
  let wide (v : W64) : List W32 := [v.extractLsb' 0 32, v.extractLsb' 32 32]
  if n = 0 then [e.th.fst]
  else if n ≤ 4 then [e.th.xreg (n - 1)]
  else if n = 8 then wide s.ptime
  else if n = 9 then wide (s.fxGraph e.blk.id e.th.tidx)
  else if n = 0x10 then [NMap.read 0 e.th.frame 1]
  else if n = 0x11 then [gstate e.th (e.blk.group? e.gid)]
  else if n = 0x12 then wide (s.ctx e.blk.decl.ctx).root
  else [NMap.read 0 e.th.frame (n - 0x100)]

def execSread (w : Word) (s : State) : Host.Outcome State Fault Refusal :=
  runAlu (.sread w) w (fun s e => .ok { regs := some (s.sysValue e (immF w 0 12)) }) s

/-- An index register takes this value (R118). -/
def ixOk (v : W32) : Bool := v.extractLsb' 17 7 == 0 && decide ((v.extractLsb' 8 9).toNat ≤ 256)

/-- A value that SWRITE refuses (R118, R143, R340). -/
def sysRefused (n : Nat) (v : W32) : Bool :=
  (n == 0 && v.extractLsb' 5 27 != 0) || (decide (1 ≤ n ∧ n ≤ 4) && !ixOk v) || (n == 0x11 && v.extractLsb' 1 31 != 0)

/-- The step bit of a thread's group is set or cleared. A group that is stepped withdraws the arrivals of its lanes that wait for others
(R194). -/
def State.stepGroup (s : State) (e : Env) (on : Bool) : State :=
  let s1 := s.mapGroup e.blk.id e.gid (fun g => { g with step := on })
  if on then s1.mapBlock e.blk.id (fun b => b.mapThreads (fun t => match t.wait with
    | some (.join _ _) => if b.gidOf t.tidx = e.gid then t.unwait else t
    | some (.meet _ _ _ _) => if b.gidOf t.tidx = e.gid then t.unwait else t
    | _ => t))
  else s1

/-- SWRITE in a thread whose value passed. -/
def State.sysWriteTo (s : State) (e : Env) (n : Nat) (v : W32) : State :=
  if n = 0 then s.mapThread e.blk.id e.th.tidx (fun t => { t with fst := v })
  else if n ≤ 4 then s.mapThread e.blk.id e.th.tidx (fun t => { t with ix := NMap.put 0 t.ix (n - 1) v })
  else if n = 0x11 then s.stepGroup e (v.getLsbD 0)
  else s.mapThread e.blk.id e.th.tidx (fun t => { t with frame := NMap.put 0 t.frame (n - 0x100) v })

def execSwrite (w : Word) (s : State) : Host.Outcome State Fault Refusal :=
  runWord (planOf (.swrite w) w) (fun _ e s =>
    let n := immF w 0 12
    let v := e.word w.a 0
    if sysRefused n v then .trap s (mkTrap 1 10 e.th.pc) 0
    else .done (s.sysWriteTo e n v) (e.th.pc + 1)) (fun _ _ s => s) s

/-- Cores in the executing thread's instance of a scope (R93, R343): 2 core, 3 cluster, 4 die, 5 device. -/
def inScope (scope me core : Nat) : Bool :=
  if scope = 2 then me == core
  else if scope = 3 then me / 4 == core / 4
  else if scope = 4 then me / 64 == core / 64
  else true

/-- ISYNC drops instruction-cache lines. The scope's codes are those of R93. -/
def execIsync (w : Word) (s : State) : Host.Outcome State Fault Refusal :=
  runWord (planOf (.isync w) w) (fun _ e s =>
    let me := e.blk.coreId
    .done { s with icache := s.icache.filter (fun c => !inScope (modF w 0 3) me c.1) } (e.th.pc + 1)) (fun _ _ s => s) s

/-! ### DBGM (R383) -/

/-- A debugger is attached to the thread's context. Log entry 64 (DEDUCED). -/
def State.debugging (s : State) (e : Env) : Bool := (s.ctx e.blk.decl.ctx).obsCtl.getLsbD 6

def execDbgmBrk (w : Word) (s : State) : Host.Outcome State Fault Refusal :=
  runWord (planOf (.dbgmBrk w) w) (fun _ e s =>
    if s.debugging e then .trap s { mkTrap 0x0E 0 (e.th.pc + 1) with detail := w.imm } 0
    else .done s (e.th.pc + 1)) (fun _ _ s => s) s

def execDbgmStepon (w : Word) (s : State) : Host.Outcome State Fault Refusal :=
  runWord (planOf (.dbgmStepon w) w) (fun _ e s =>
    .done (if s.debugging e then s.stepGroup e true else s) (e.th.pc + 1))
    (fun _ _ s => s) s

/-- STEP is not raised after a DBGM.stepoff (R382). -/
def execDbgmStepoff (w : Word) (s : State) : Host.Outcome State Fault Refusal :=
  runWord { planOf (.dbgmStepoff w) w with noStep := true } (fun _ e s =>
    .done (if s.debugging e then s.stepGroup e false else s) (e.th.pc + 1))
    (fun _ _ s => s) s

end Sys2Proof.Machine
end

