-- ==== Sys2Proof/Machine/Dispatch.lean ====
section
/-! DEFINITION. The meaning of every row of spec/opcode_table.json, one arm for each constructor of Instr. -/

namespace Sys2Proof.Machine

def exec (i : Instr) (s : State) : Host.Outcome State Fault Refusal :=
  match i with
  | .nop w => Sys2Proof.Machine.execNop w s
  | .bra w => Sys2Proof.Machine.execBra w s
  | .brx w => Sys2Proof.Machine.execBrx w s
  | .call w => Sys2Proof.Machine.execCall w s
  | .callx w => Sys2Proof.Machine.execCallx w s
  | .ret w => Sys2Proof.Machine.execRet w s
  | .exit w => Sys2Proof.Machine.execExit w s
  | .join w => Sys2Proof.Machine.execJoin w s
  | .jmset w => Sys2Proof.Machine.execJmset w s
  | .jmget w => Sys2Proof.Machine.execJmget w s
  | .yield w => Sys2Proof.Machine.execYield w s
  | .waitc w => Sys2Proof.Machine.execWaitc w s
  | .waitt w => Sys2Proof.Machine.execWaitt w s
  | .bpt w => Sys2Proof.Machine.execBpt w s
  | .trap w => Sys2Proof.Machine.execTrap w s
  | .eret w => Sys2Proof.Machine.execEret w s
  | .iadd w => Sys2Proof.Machine.execIadd w s
  | .isub w => Sys2Proof.Machine.execIsub w s
  | .imul w => Sys2Proof.Machine.execImul w s
  | .imulh w => Sys2Proof.Machine.execImulh w s
  | .imad w => Sys2Proof.Machine.execImad w s
  | .imadw w => Sys2Proof.Machine.execImadw w s
  | .imin w => Sys2Proof.Machine.execImin w s
  | .imax w => Sys2Proof.Machine.execImax w s
  | .iabs w => Sys2Proof.Machine.execIabs w s
  | .iaddc w => Sys2Proof.Machine.execIaddc w s
  | .lea w => Sys2Proof.Machine.execLea w s
  | .idot4 w => Sys2Proof.Machine.execIdot4 w s
  | .isad w => Sys2Proof.Machine.execIsad w s
  | .idiv w => Sys2Proof.Machine.execIdiv w s
  | .irem w => Sys2Proof.Machine.execIrem w s
  | .lut3 w => Sys2Proof.Machine.execLut3 w s
  | .shl w => Sys2Proof.Machine.execShl w s
  | .shr w => Sys2Proof.Machine.execShr w s
  | .sar w => Sys2Proof.Machine.execSar w s
  | .rotl w => Sys2Proof.Machine.execRotl w s
  | .funnel w => Sys2Proof.Machine.execFunnel w s
  | .bprm w => Sys2Proof.Machine.execBprm w s
  | .bfx w => Sys2Proof.Machine.execBfx w s
  | .bfi w => Sys2Proof.Machine.execBfi w s
  | .popc w => Sys2Proof.Machine.execPopc w s
  | .clz w => Sys2Proof.Machine.execClz w s
  | .brev w => Sys2Proof.Machine.execBrev w s
  | .ffs w => Sys2Proof.Machine.execFfs w s
  | .mov w => Sys2Proof.Machine.execMov w s
  | .movw w => Sys2Proof.Machine.execMovw w s
  | .sel w => Sys2Proof.Machine.execSel w s
  | .icmp w => Sys2Proof.Machine.execIcmp w s
  | .fcmp w => Sys2Proof.Machine.execFcmp w s
  | .hcmp2 w => Sys2Proof.Machine.execHcmp2 w s
  | .dcmp w => Sys2Proof.Machine.execDcmp w s
  | .plop w => Sys2Proof.Machine.execPlop w s
  | .p2v w => Sys2Proof.Machine.execP2v w s
  | .v2p w => Sys2Proof.Machine.execV2p w s
  | .fclass w => Sys2Proof.Machine.execFclass w s
  | .tqset w => Sys2Proof.Machine.execTqset w s
  | .tqget w => Sys2Proof.Machine.execTqget w s
  | .fadd w => Sys2Proof.Machine.execFadd w s
  | .fmul w => Sys2Proof.Machine.execFmul w s
  | .ffma w => Sys2Proof.Machine.execFfma w s
  | .fmin w => Sys2Proof.Machine.execFmin w s
  | .fmax w => Sys2Proof.Machine.execFmax w s
  | .frnd w => Sys2Proof.Machine.execFrnd w s
  | .fscale w => Sys2Proof.Machine.execFscale w s
  | .fgetexp w => Sys2Proof.Machine.execFgetexp w s
  | .fset w => Sys2Proof.Machine.execFset w s
  | .fcpysgn w => Sys2Proof.Machine.execFcpysgn w s
  | .hadd2 w => Sys2Proof.Machine.execHadd2 w s
  | .hmul2 w => Sys2Proof.Machine.execHmul2 w s
  | .hfma2 w => Sys2Proof.Machine.execHfma2 w s
  | .hmin2 w => Sys2Proof.Machine.execHmin2 w s
  | .hmax2 w => Sys2Proof.Machine.execHmax2 w s
  | .hdot2 w => Sys2Proof.Machine.execHdot2 w s
  | .dadd w => Sys2Proof.Machine.execDadd w s
  | .dmul w => Sys2Proof.Machine.execDmul w s
  | .dfma w => Sys2Proof.Machine.execDfma w s
  | .dmin w => Sys2Proof.Machine.execDmin w s
  | .dmax w => Sys2Proof.Machine.execDmax w s
  | .cvt w => Sys2Proof.Machine.execCvt w s
  | .cvtsc w => Sys2Proof.Machine.execCvtsc w s
  | .packn w => Sys2Proof.Machine.execPackn w s
  | .unpkn w => Sys2Proof.Machine.execUnpkn w s
  | .fmset w => Sys2Proof.Machine.execFmset w s
  | .fmget w => Sys2Proof.Machine.execFmget w s
  | .rsqs w => Sys2Proof.Machine.execRsqs w s
  | .rcps w => Sys2Proof.Machine.execRcps w s
  | .sinr w => Sys2Proof.Machine.execSinr w s
  | .cosr w => Sys2Proof.Machine.execCosr w s
  | .ex2 w => Sys2Proof.Machine.execEx2 w s
  | .lg2 w => Sys2Proof.Machine.execLg2 w s
  | .tnh w => Sys2Proof.Machine.execTnh w s
  | .sigm w => Sys2Proof.Machine.execSigm w s
  | .shfl w => Sys2Proof.Machine.execShfl w s
  | .xbf w => Sys2Proof.Machine.execXbf w s
  | .vote w => Sys2Proof.Machine.execVote w s
  | .redg w => Sys2Proof.Machine.execRedg w s
  | .scang w => Sys2Proof.Machine.execScang w s
  | .matchLanes w => Sys2Proof.Machine.execMatchLanes w s
  | .elect w => Sys2Proof.Machine.execElect w s
  | .topk w => Sys2Proof.Machine.execTopk w s
  | .ld w => Sys2Proof.Machine.execLd w s
  | .st w => Sys2Proof.Machine.execSt w s
  | .lds w => Sys2Proof.Machine.execLds w s
  | .sts w => Sys2Proof.Machine.execSts w s
  | .ldp w => Sys2Proof.Machine.execLdp w s
  | .stw2 w => Sys2Proof.Machine.execStw2 w s
  | .ldxp w => Sys2Proof.Machine.execLdxp w s
  | .prf w => Sys2Proof.Machine.execPrf w s
  | .cctlIvl w => Sys2Proof.Machine.execCctlIvl w s
  | .cctlIva w => Sys2Proof.Machine.execCctlIva w s
  | .cctlWbm w => Sys2Proof.Machine.execCctlWbm w s
  | .cctlWim w => Sys2Proof.Machine.execCctlWim w s
  | .ldsx w => Sys2Proof.Machine.execLdsx w s
  | .stsx w => Sys2Proof.Machine.execStsx w s
  | .tlk w => Sys2Proof.Machine.execTlk w s
  | .ttag w => Sys2Proof.Machine.execTtag w s
  | .tstat w => Sys2Proof.Machine.execTstat w s
  | .tinv w => Sys2Proof.Machine.execTinv w s
  | .hgl w => Sys2Proof.Machine.execHgl w s
  | .hga w => Sys2Proof.Machine.execHga w s
  | .hgw w => Sys2Proof.Machine.execHgw w s
  | .atom w => Sys2Proof.Machine.execAtom w s
  | .atomc w => Sys2Proof.Machine.execAtomc w s
  | .atomf w => Sys2Proof.Machine.execAtomf w s
  | .red w => Sys2Proof.Machine.execRed w s
  | .redf w => Sys2Proof.Machine.execRedf w s
  | .atoms w => Sys2Proof.Machine.execAtoms w s
  | .atomw w => Sys2Proof.Machine.execAtomw w s
  | .sha w => Sys2Proof.Machine.execSha w s
  | .binit w => Sys2Proof.Machine.execBinit w s
  | .arrv w => Sys2Proof.Machine.execArrv w s
  | .pwait w => Sys2Proof.Machine.execPwait w s
  | .ptest w => Sys2Proof.Machine.execPtest w s
  | .fence w => Sys2Proof.Machine.execFence w s
  | .xfence w => Sys2Proof.Machine.execXfence w s
  | .acq w => Sys2Proof.Machine.execAcq w s
  | .rel w => Sys2Proof.Machine.execRel w s
  | .rbind w => Sys2Proof.Machine.execRbind w s
  | .bexp w => Sys2Proof.Machine.execBexp w s
  | .ctr w => Sys2Proof.Machine.execCtr w s
  | .ctrs w => Sys2Proof.Machine.execCtrs w s
  | .ctrsp w => Sys2Proof.Machine.execCtrsp w s
  | .cwd w => Sys2Proof.Machine.execCwd w s
  | .aalloc w => Sys2Proof.Machine.execAalloc w s
  | .afree w => Sys2Proof.Machine.execAfree w s
  | .azero w => Sys2Proof.Machine.execAzero w s
  | .ald w => Sys2Proof.Machine.execAld w s
  | .ast w => Sys2Proof.Machine.execAst w s
  | .adrn w => Sys2Proof.Machine.execAdrn w s
  | .astat w => Sys2Proof.Machine.execAstat w s
  | .cpy w => Sys2Proof.Machine.execCpy w s
  | .cpym w => Sys2Proof.Machine.execCpym w s
  | .shf w => Sys2Proof.Machine.execShf w s
  | .wnw w => Sys2Proof.Machine.execWnw w s
  | .gln w => Sys2Proof.Machine.execGln w s
  | .launch w => Sys2Proof.Machine.execLaunch w s
  | .lctlCancel w => Sys2Proof.Machine.execLctlCancel w s
  | .lctlKill w => Sys2Proof.Machine.execLctlKill w s
  | .lctlQuery w => Sys2Proof.Machine.execLctlQuery w s
  | .lpset w => Sys2Proof.Machine.execLpset w s
  | .lendLaunch w => Sys2Proof.Machine.execLendLaunch w s
  | .lendCancel w => Sys2Proof.Machine.execLendCancel w s
  | .lendRepeat w => Sys2Proof.Machine.execLendRepeat w s
  | .fxb w => Sys2Proof.Machine.execFxb w s
  | .fxe w => Sys2Proof.Machine.execFxe w s
  | .fxa w => Sys2Proof.Machine.execFxa w s
  | .fxs w => Sys2Proof.Machine.execFxs w s
  | .sread w => Sys2Proof.Machine.execSread w s
  | .swrite w => Sys2Proof.Machine.execSwrite w s
  | .isync w => Sys2Proof.Machine.execIsync w s
  | .dbgmBrk w => Sys2Proof.Machine.execDbgmBrk w s
  | .dbgmStepon w => Sys2Proof.Machine.execDbgmStepon w s
  | .dbgmStepoff w => Sys2Proof.Machine.execDbgmStepoff w s
  | .pairedWord p => Sys2Proof.Machine.execPairedWord p s
  | .issueCycle core sched => Sys2Proof.Machine.execIssueCycle core sched s
  | .yieldExpiry blk tidx => Sys2Proof.Machine.execYieldExpiry blk tidx s
  | .resultWrite blk tidx => Sys2Proof.Machine.execResultWrite blk tidx s
  | .loadReturn blk tidx op => Sys2Proof.Machine.execLoadReturn blk tidx op s
  | .storePerformed blk tidx op => Sys2Proof.Machine.execStorePerformed blk tidx op s
  | .commandAccept cmd => Sys2Proof.Machine.execCommandAccept cmd s
  | .tileOpRetire blk tidx op => Sys2Proof.Machine.execTileOpRetire blk tidx op s
  | .timeWaitExpiry blk tidx => Sys2Proof.Machine.execTimeWaitExpiry blk tidx s
  | .translationWalk ctx page acc => Sys2Proof.Machine.execTranslationWalk ctx page acc s
  | .trapEntry blk tidx => Sys2Proof.Machine.execTrapEntry blk tidx s
  | .copyLanding cmd target first count => Sys2Proof.Machine.execCopyLanding cmd target first count s
  | .timedCommandStart cmd => Sys2Proof.Machine.execTimedCommandStart cmd s
  | .engineFault cmd ecc => Sys2Proof.Machine.execEngineFault cmd ecc s
  | .gleanerWalk cmd => Sys2Proof.Machine.execGleanerWalk cmd s
  | .sheafReplay cmd => Sys2Proof.Machine.execSheafReplay cmd s
  | .collectiveExchange cmd peers => Sys2Proof.Machine.execCollectiveExchange cmd peers s
  | .flagFlit cmd bad => Sys2Proof.Machine.execFlagFlit cmd bad s
  | .collectiveEnd cmd lost => Sys2Proof.Machine.execCollectiveEnd cmd lost s
  | .drainExecute cmd => Sys2Proof.Machine.execDrainExecute cmd s
  | .enginePassGrant cluster => Sys2Proof.Machine.execEnginePassGrant cluster s
  | .classAgeing cluster entry => Sys2Proof.Machine.execClassAgeing cluster entry s
  | .ctrsBarrierArrival blk tidx op => Sys2Proof.Machine.execCtrsBarrierArrival blk tidx op s
  | .instanceClose blk slot => Sys2Proof.Machine.execInstanceClose blk slot s
  | .sectionCommit cluster slot => Sys2Proof.Machine.execSectionCommit cluster slot s
  | .abortDelivery blk tidx => Sys2Proof.Machine.execAbortDelivery blk tidx s
  | .remotePatienceExpired blk tidx => Sys2Proof.Machine.execRemotePatienceExpired blk tidx s
  | .blockRetire blk => Sys2Proof.Machine.execBlockRetire blk s
  | .retireMsg blk => Sys2Proof.Machine.execRetireMsg blk s
  | .completionBitMessage lid bit => Sys2Proof.Machine.execCompletionBitMessage lid bit s
  | .finalReport dev lid done killed never faults counts => Sys2Proof.Machine.execFinalReport dev lid done killed never faults counts s
  | .completionForward lid sent => Sys2Proof.Machine.execCompletionForward lid sent s
  | .frontEndRound => Sys2Proof.Machine.execFrontEndRound s
  | .submitLaunch q => Sys2Proof.Machine.execSubmitLaunch q s
  | .submitCancel q => Sys2Proof.Machine.execSubmitCancel q s
  | .submitKill q => Sys2Proof.Machine.execSubmitKill q s
  | .entryReserved q => Sys2Proof.Machine.execEntryReserved q s
  | .prologueStart lid => Sys2Proof.Machine.execPrologueStart lid s
  | .prologueBudgetExpired lid => Sys2Proof.Machine.execPrologueBudgetExpired lid s
  | .startTimeReached lid => Sys2Proof.Machine.execStartTimeReached lid s
  | .launchRelease lid => Sys2Proof.Machine.execLaunchRelease lid s
  | .podSubmit dev ctx record => Sys2Proof.Machine.execPodSubmit dev ctx record s
  | .podRecordReceive podSeq ctx dev record params => Sys2Proof.Machine.execPodRecordReceive podSeq ctx dev record params s
  | .rangeRequest dev lid want => Sys2Proof.Machine.execRangeRequest dev lid want s
  | .rangeDeal lid first count => Sys2Proof.Machine.execRangeDeal lid first count s
  | .splitRequest dev lid => Sys2Proof.Machine.execSplitRequest dev lid s
  | .splitReturn dev lid first count => Sys2Proof.Machine.execSplitReturn dev lid first count s
  | .podCancel lid hard => Sys2Proof.Machine.execPodCancel lid hard s
  | .unitHandoff lid => Sys2Proof.Machine.execUnitHandoff lid s
  | .placementRound cluster => Sys2Proof.Machine.execPlacementRound cluster s
  | .placementTimer cluster => Sys2Proof.Machine.execPlacementTimer cluster s
  | .dieGangAck gang cluster => Sys2Proof.Machine.execDieGangAck gang cluster s
  | .gangStarved gang => Sys2Proof.Machine.execGangStarved gang s
  | .gangPreemptTrigger gang => Sys2Proof.Machine.execGangPreemptTrigger gang s
  | .residueWrite blk => Sys2Proof.Machine.execResidueWrite blk s
  | .clusterFailure cluster reason => Sys2Proof.Machine.execClusterFailure cluster reason s
  | .cairnTimeout cluster => Sys2Proof.Machine.execCairnTimeout cluster s
  | .placeMsg cluster m => Sys2Proof.Machine.execPlaceMsg cluster m s
  | .killMsg cluster m => Sys2Proof.Machine.execKillMsg cluster m s
  | .preemptMsg cluster m => Sys2Proof.Machine.execPreemptMsg cluster m s
  | .faultMsg cluster m => Sys2Proof.Machine.execFaultMsg cluster m s
  | .patchMsg cluster m => Sys2Proof.Machine.execPatchMsg cluster m s
  | .permitMsg cluster m => Sys2Proof.Machine.execPermitMsg cluster m s
  | .ackMsg cluster m => Sys2Proof.Machine.execAckMsg cluster m s
  | .messageUnknown cluster m => Sys2Proof.Machine.execMessageUnknown cluster m s
  | .permitTimeout cluster toCairn => Sys2Proof.Machine.execPermitTimeout cluster toCairn s
  | .submissionDoorbell q v => Sys2Proof.Machine.execSubmissionDoorbell q v s
  | .completionDoorbell q v => Sys2Proof.Machine.execCompletionDoorbell q v s
  | .qtbaseWrite v => Sys2Proof.Machine.execQtbaseWrite v s
  | .pmaskWrite n v => Sys2Proof.Machine.execPmaskWrite n v s
  | .pctlBind n v => Sys2Proof.Machine.execPctlBind n v s
  | .pctlHalt n v => Sys2Proof.Machine.execPctlHalt n v s
  | .pctlRun n v => Sys2Proof.Machine.execPctlRun n v s
  | .haltComplete n => Sys2Proof.Machine.execHaltComplete n s
  | .shadowSwap n v => Sys2Proof.Machine.execShadowSwap n v s
  | .swapDone n => Sys2Proof.Machine.execSwapDone n s
  | .resumeReplay ctx v => Sys2Proof.Machine.execResumeReplay ctx v s
  | .resumeFail ctx v => Sys2Proof.Machine.execResumeFail ctx v s
  | .translationInvalidate v => Sys2Proof.Machine.execTranslationInvalidate v s
  | .xinvDone => Sys2Proof.Machine.execXinvDone s
  | .registerWrite off v => Sys2Proof.Machine.execRegisterWrite off v s
  | .counterClear cluster sched v => Sys2Proof.Machine.execCounterClear cluster sched v s
  | .counterFreeze cluster sched v => Sys2Proof.Machine.execCounterFreeze cluster sched v s
  | .sampleLatch cluster sched => Sys2Proof.Machine.execSampleLatch cluster sched s
  | .hperrRead => Sys2Proof.Machine.execHperrRead s
  | .healthRead cluster => Sys2Proof.Machine.execHealthRead cluster s
  | .traceHeadWrite ctx v => Sys2Proof.Machine.execTraceHeadWrite ctx v s
  | .replayStart ctx v => Sys2Proof.Machine.execReplayStart ctx v s
  | .peerWrite addr bytes => Sys2Proof.Machine.execPeerWrite addr bytes s
  | .portReadError blk tidx op => Sys2Proof.Machine.execPortReadError blk tidx op s
  | .portReadTimeout blk tidx op => Sys2Proof.Machine.execPortReadTimeout blk tidx op s
  | .peerWriteRefused blk tidx op => Sys2Proof.Machine.execPeerWriteRefused blk tidx op s
  | .flitCrcError port => Sys2Proof.Machine.execFlitCrcError port s
  | .linkDown port => Sys2Proof.Machine.execLinkDown port s
  | .deviceLeavesPod dev => Sys2Proof.Machine.execDeviceLeavesPod dev s
  | .heartbeatMissed => Sys2Proof.Machine.execHeartbeatMissed s
  | .selfTestPass => Sys2Proof.Machine.execSelfTestPass s
  | .resetEvent => Sys2Proof.Machine.execResetEvent s
  | .minverWrite v => Sys2Proof.Machine.execMinverWrite v s
  | .patchStart v => Sys2Proof.Machine.execPatchStart v s
  | .patchVerify => Sys2Proof.Machine.execPatchVerify s
  | .patchSwap => Sys2Proof.Machine.execPatchSwap s
  | .patchTimeout => Sys2Proof.Machine.execPatchTimeout s
  | .patchComplete => Sys2Proof.Machine.execPatchComplete s
  | .attestRequest v => Sys2Proof.Machine.execAttestRequest v s
  | .certificateRequest v => Sys2Proof.Machine.execCertificateRequest v s
  | .thermalStep temp => Sys2Proof.Machine.execThermalStep temp s
  | .thermalShutdown => Sys2Proof.Machine.execThermalShutdown s
  | .cancelBroadcastReceipt lid hard => Sys2Proof.Machine.execCancelBroadcastReceipt lid hard s
  | .activeCoreError => Sys2Proof.Machine.execActiveCoreError s
  | .ridgeActivation dev => Sys2Proof.Machine.execRidgeActivation dev s

end Sys2Proof.Machine
end

