-- ==== Sys2Proof/Machine/Internal.lean ====
section
/-! DEFINITION. Which event of the part itself happens next when no word is latched and nothing is given from outside (log
entry 3). -/

namespace Sys2Proof.Machine

/-- Events of a counted operation. -/
def pendEvents (b t : Nat) (p : Pend) : List Instr :=
  match p.act, p.ctr with
  | .ctrs _ _ _ _ _ _ _, _ => [.ctrsBarrierArrival b t p.op, .tileOpRetire b t p.op]
  | _, .ld => [.loadReturn b t p.op]
  | _, .st => [.storePerformed b t p.op]
  | _, _ => [.tileOpRetire b t p.op]

/-- Events of a thread's wait. -/
def waitEvents (b t : Nat) : Wait → List Instr
  | .time _ _ => [.timeWaitExpiry b t]
  | .fxRemote _ _ _ => [.remotePatienceExpired b t]
  | _ => []

/-- Events that a thread may give rise to. -/
def threadEvents (b : Nat) (t : Thread) : List Instr :=
  t.pend.flatMap (pendEvents b t.tidx) ++ (t.wait.map (waitEvents b t.tidx)).getD [] ++
    (if t.trap.isSome then [.trapEntry b t.tidx] else []) ++
    (if t.yieldBundles != 0 || t.yieldCc != 0 then [.yieldExpiry b t.tidx] else []) ++
    (if t.tokens.any (fun k => k.val.isSome) then [.resultWrite b t.tidx] else []) ++ [.abortDelivery b t.tidx]

/-- Events of a block as a whole. -/
def stageEvents (b : Block) : List Instr :=
  match b.stage with
  | .pending => [.placementRound b.cluster, .placementTimer b.cluster]
  | .saved => [.placementRound b.cluster, .placementTimer b.cluster]
  | .retired => [.retireMsg b.id]
  | .stopping => [.issueCycle b.coreId b.sched, .residueWrite b.id, .blockRetire b.id]
  | .saving => [.issueCycle b.coreId b.sched, .residueWrite b.id, .blockRetire b.id]
  | .prologue => [.issueCycle b.coreId b.sched, .prologueBudgetExpired b.decl.lid]
  | _ => [.issueCycle b.coreId b.sched, .blockRetire b.id]

def blockEvents (b : Block) : List Instr :=
  stageEvents b ++ b.threads.flatMap (threadEvents b.id) ++
    (b.slots.zipIdx.filter (fun e => e.1.state == .closing)).map (fun e => .instanceClose b.id e.2)

/-- The landings that a target may see next: some of the bytes of its next piece, as a free value says. -/
def targetEvents (s : State) (cmd k : Nat) (t : Target) : List Instr :=
  t.todo.map (fun r => .copyLanding cmd k r.1 (1 + s.pick (1 + k) % max 1 r.2))

/-- Events of an engine command. The records of other members of a collective come from outside. -/
def cmdEvents (s : State) (c : Cmd) : List Instr :=
  match c.stage, c.job with
  | .queued, _ => [.commandAccept c.id]
  | .held, _ => [.timedCommandStart c.id]
  | .running, .copy _ _ _ _ _ _ ts => .engineFault c.id false :: ts.zipIdx.flatMap (fun e => targetEvents s c.id e.2 e.1)
  | .running, .drain _ _ _ _ _ _ _ _ _ => [.drainExecute c.id]
  | .running, .sheaf _ _ _ _ => [.sheafReplay c.id]
  | .running, .winnow _ _ _ _ _ _ => [.collectiveExchange c.id [], .flagFlit c.id false, .collectiveEnd c.id false]
  | .running, .gleaner _ _ _ _ _ _ _ _ => [.gleanerWalk c.id]

/-- Events of a launch while its units are dealt and placed. Where Ridge is elsewhere, its answers come from outside. -/
def dealEvents (s : State) (l : Launch) : List Instr :=
  .rangeRequest s.pod.index l.lid 0 :: (if s.dealsHere l then
    [.rangeDeal l.lid 0 0] ++ (if l.pod then [.splitRequest s.pod.index l.lid] else []) else []) ++ [.unitHandoff l.lid]

/-- What Ridge's own completion carries: nothing from another device. -/
def emptyDone : PodDone :=
  { done := 0, killed := 0, never := 0, passes := 0, hard := false, cancelled := false, faulted := false, podLost := false,
    ptime := 0, faults := [], total := 0, counts := [] }

/-- Events of a pod grid as it ends on this device. -/
def podEvents (s : State) (l : Launch) : List Instr :=
  if l.pod then
    .finalReport s.pod.index l.lid 0 0 0 [] ⟨[], false⟩ ::
      (if s.isRidge then [.completionForward l.lid emptyDone] else [])
  else []

/-- Events of a launch. -/
def launchEvents (s : State) (l : Launch) : List Instr :=
  (match l.state with
    | .prologue => [.prologueStart l.lid]
    | .held => [.startTimeReached l.lid, .launchRelease l.lid]
    | .dealing => dealEvents s l
    | .draining => dealEvents s l
    | _ => []) ++ podEvents s l

def gangEvents (g : Gang) (i : Nat) : List Instr :=
  [.gangStarved i, .gangPreemptTrigger i] ++
    (if g.die then (List.range 16).map (fun k => .dieGangAck i (16 * g.cluster + k)) else [])

/-- The Massif's message that waits longest on a link, once a permit is held (R67). -/
def Link.next (l : Link) (c : Nat) (lidOf : Nat → Nat) : List Instr :=
  match l.out with
  | [] => []
  | (type, blk) :: _ =>
    let m : Msg := { toCairn := true, type := type, ret := l.owedFrom, seq := (l.toSeq + 1) % 65536, lid := lidOf blk, blk := blk }
    if type = 1 then [.placeMsg c m] else if type = 2 then [.killMsg c m] else if type = 6 then [.patchMsg c m] else [.preemptMsg c m]

/-- The Cairn's message that waits longest on a link, but for a RETIRE (R67). -/
def Link.nextBack (l : Link) (c : Nat) (lidOf : Nat → Nat) : List Instr :=
  let m (type blk : Nat) : Msg :=
    { toCairn := false, type := type, ret := l.owedTo, seq := (l.fromSeq + 1) % 65536, lid := lidOf blk, blk := blk }
  match l.back with
  | [] => []
  | (_, .fault k) :: _ => [.faultMsg c (m 5 k)]
  | (_, .placed k) :: _ => [.ackMsg c (m 8 k)]
  | (_, .patched) :: _ => [.ackMsg c (m 8 0)]

def clusterEvents (s : State) (c : Nat) (x : Cluster) : List Instr :=
  let lidOf (b : Nat) : Nat := ((s.block? b).map (fun b => b.decl.lid)).getD 0
  x.link.next c lidOf ++ x.link.nextBack c lidOf ++
  (if x.passes.isEmpty then [] else .enginePassGrant c :: (List.range x.passes.length).map (fun k => .classAgeing c k)) ++
    [.permitTimeout c true, .permitTimeout c false]

/-- Events of the Massif and of registers. -/
def hubEvents (s : State) : List Instr :=
  [.frontEndRound] ++ (if s.xinv.isSome then [.xinvDone] else []) ++
    (s.partitions.flatMap (fun e => [.haltComplete e.1, .swapDone e.1])) ++
    (match s.fw.state with
      | .verify => [.patchVerify]
      | .gating => [.patchSwap, .patchTimeout]
      | .quiescing => [.patchSwap, .patchTimeout]
      | .broadcast => [.patchComplete]
      | _ => []) ++
    s.pod.failing.map .linkDown ++ s.pod.outbox.map (fun r => .podSubmit s.pod.index r.ctx ⟨[], []⟩)

/-- Events of the part that may happen now, boot first; one that is not enabled changes nothing but the place in the stream of free
values. Log entry 3 (DESIGN CHOICE). -/
def State.ownEvents (s : State) : List Instr :=
  if !s.fw.booted then [.resetEvent]
  else hubEvents s ++ s.blocks.flatMap (fun e => blockEvents e.2) ++ s.cmds.flatMap (cmdEvents s) ++
    s.sections.map (fun x => .sectionCommit x.cluster x.slot) ++ s.launches.flatMap (launchEvents s) ++
    s.gangs.zipIdx.flatMap (fun e => gangEvents e.1 e.2) ++ s.clusters.flatMap (fun e => clusterEvents s e.1 e.2)

/-- The event that the free value chooses. -/
def State.ownEvent (s : State) : Instr :=
  let es := s.ownEvents
  es.getD (s.pick 0 % es.length) .frontEndRound

end Sys2Proof.Machine
end

