-- ==== Sys2Proof/Machine/Step.lean ====
section
/-! DEFINITION. One step of the machine: the latched bundle's word, else the oldest event given from outside, else an event
of the part itself. -/

namespace Sys2Proof.Machine

/-- One step. Log entries 3 (DESIGN CHOICE), 101 (DESIGN CHOICE). -/
def step (s : State) : Host.Outcome State Fault Refusal :=
  if s.off then .fault .poweredOff
  else if s.fw.state = .bootRefused then .fault .bootRefused
  else match s.latch with
    | some u =>
      match s.fetch u with
      | .runs i s' => exec i s'
      | .ends s' => .next s'
    | none =>
      match s.agenda with
      | i :: rest => exec i { s with agenda := rest }
      | [] => exec s.ownEvent s

/-- The state with an instruction stored where step fetches its next instruction: in place where a bundle is
latched and can fetch, else in a lone block that is made to issue it. Log entry 4 (DESIGN CHOICE). -/
def State.withFetchWord (s : State) (nbits w : Nat) : State :=
  let x : W96 := BitVec.ofNat 96 (w % 2 ^ nbits)
  let bs := bytesOfWord x
  match s.placeWord bs with
  | some s' => s'
  | none =>
    let op := opcodeOf x
    let s1 := s.withLone (if op = 0xD8 ∨ op = 0xD9 then .prologue else .running)
    (s1.placeWord bs).getD s1

end Sys2Proof.Machine
end

