-- ==== Sys2Proof/Machine/Issues.lean ====
section
/-! DEFINITION. Terms in which statements speak: when a lane's word runs to its own effect, and what a word leaves as it was. -/

namespace Sys2Proof.Machine

/-- A lane of a bundle passes checks 1 to 4 of R109 for a word, apart from its guard: its thread is there, the word is legal in
its block, and its registers exist and are not awaited. -/
def laneReady (s : State) (i : Instr) (w : Word) (b : Block) (t : Thread) : Prop :=
  b.thread? t.tidx = some t ∧ ((formIn i).sup = true → t.sup = true) ∧ w.grd.pred.toNat < b.decl.preds ∧
    (sectionForbids (opNum i) && ((s.sectionOf b.id t.tidx).map Section.live).getD false) = false ∧
    t.awaits (formIn i) w = false ∧ t.rangesOk b.decl (formIn i) w = true

/-- No STEP follows the word in this lane (R382). -/
def unstepped (b : Block) (t : Thread) : Prop := b.stepping.contains (b.gidOf t.tidx) = false ∧ t.stepDue = false

/-- One lane issues a word with a true guard, and nothing keeps it from the word's effect. -/
def issues (s : State) (i : Instr) (w : Word) (b : Block) (t : Thread) : Prop :=
  s.latch = some ⟨b.id, [t.tidx], t.pc⟩ ∧ s.block? b.id = some b ∧ illegalDetail b i (formIn i).team = 0 ∧
    t.guard w.grd = true ∧ laneReady s i w b t ∧ unstepped b t

/-! ### How a lane leaves its word -/

/-- One lane has completed its word: its thread is `f` of what it was and stands at `pc`; the rest is as in the state given. -/
def wentOn (s : State) (b : Block) (t : Thread) (w : Word) (f : Thread → Thread) (pc : W32) : State :=
  (s.mapThread b.id t.tidx (fun x => (f x).passed pc w.hnt.yld)).endWord

/-- A thread that has issued a counted operation, which may read or write a tile of the table (R125, R216). -/
def Thread.issued (x : Thread) (op : Nat) (c : Ctr) (pc : W32) (a : Act) (slot : Option Nat := none) : Thread :=
  { x with cnt := x.cnt.add c, pend := x.pend ++ [⟨op, c, pc, a, slot⟩] }

/-- One lane has issued a counted operation and gone on to the next word (R125). -/
def counted (s : State) (b : Block) (t : Thread) (w : Word) (c : Ctr) (a : Act) (slot : Option Nat := none) : State :=
  wentOn { s with seq := s.seq + 1 } b t w (fun x => x.issued s.seq c t.pc a slot) (t.pc + 1)

/-- One lane waits at its word (R233). -/
def waits (s : State) (b : Block) (t : Thread) (k : Wait) : State := (s.hold b.id t.tidx k).endWord

/-- One lane has taken a trap at its word. -/
def trapped (s : State) (b : Block) (t : Thread) (w : Word) (tr : Trap) (acc : Nat := 0) : State :=
  ((s.yieldAt b.id t.tidx w tr).takeTrap b.id t.tidx tr acc).endWord

/-! ### Bundles and frames -/

/-- A bundle issues a word: each lane has its thread and nothing keeps it from the word's effect where its guard is true. -/
def bundleIssues (s : State) (i : Instr) (w : Word) (b : Block) (u : Bundle) : Prop :=
  s.latch = some u ∧ u.blk = b.id ∧ s.block? b.id = some b ∧ illegalDetail b i (formIn i).team = 0 ∧ u.lanes.Nodup ∧
    ∀ k ∈ u.lanes, ∃ t, b.thread? k = some t ∧ t.tidx = k ∧ laneReady s i w b t ∧ unstepped b t

/-- Outside the blocks, the bundle and the place in the stream of free values, two states are one. -/
def sameBut (s t : State) : Prop := { t with blocks := s.blocks, latch := s.latch, free := s.free } = s

/-- The same but for what a word lets threads observe of earlier writes (R302, R303): who knows of which, and lines of load caches. -/
def sameButSeen (s t : State) : Prop := sameBut s { t with stale := s.stale, lcache := s.lcache }

/-- Two states differ at most in some threads of one block, besides the bundle and the stream of free values. -/
def sameButThreads (s t : State) (blk : Nat) (who : List Nat) : Prop :=
  sameBut s t ∧ (∀ c, c ≠ blk → t.block? c = s.block? c) ∧
    (∀ b, s.block? blk = some b → ∃ ts, t.block? blk = some { b with threads := ts }) ∧
    ∀ k, k ∉ who → t.thread? blk k = s.thread? blk k

/-- The same but for what threads observe. -/
def sameButThreadsSeen (s t : State) (blk : Nat) (who : List Nat) : Prop :=
  sameButThreads s { t with stale := s.stale, lcache := s.lcache } blk who

end Sys2Proof.Machine
end

