-- ==== Sys2Proof/Machine/Meets.lean ====
section
/-! DEFINITION. The words at which lanes meet, and the contraction words, as tables that statements range over; when a bundle
arrives at such a word. -/

namespace Sys2Proof.Machine

/-- The cross-lane words (R198 to R205). -/
def crossOf (i : Instr) : Option (Word × Meet) :=
  match i with
  | .shfl w => some (w, .shfl)
  | .xbf w => some (w, .xbf)
  | .vote w => some (w, .vote)
  | .redg w => some (w, .redg)
  | .scang w => some (w, .scang)
  | .matchLanes w => some (w, .matchLanes)
  | .elect w => some (w, .elect)
  | .topk w => some (w, .topk)
  | _ => none

/-- The drain and engine words (R270, R275). -/
def engineOf (i : Instr) : Option (Word × Meet) :=
  match i with
  | .adrn w => some (w, .adrn)
  | .cpy w => some (w, .cpy)
  | .cpym w => some (w, .cpym)
  | .shf w => some (w, .shf)
  | .wnw w => some (w, .wnw)
  | .gln w => some (w, .gln)
  | _ => none

/-- The contraction words with their form (R251). -/
def ctrOf (i : Instr) : Option (Word × Nat) :=
  match i with
  | .ctr w => some (w, 0)
  | .ctrs w => some (w, 1)
  | .ctrsp w => some (w, 2)
  | _ => none

/-- A bundle of one group arrives whole at a meeting word: nothing keeps any of its lanes from arriving, and no other lane of the
group waits. -/
def bundleArrives (s : State) (i : Instr) (w : Word) (b : Block) (u : Bundle) (g : Nat) : Prop :=
  s.latch = some u ∧ u.blk = b.id ∧ s.block? b.id = some b ∧ illegalDetail b i (formIn i).team = 0 ∧ u.lanes ≠ [] ∧ u.lanes.Nodup ∧
    (b.threads.map Thread.tidx).Nodup ∧ s.replays b.id = false ∧ (s.ctx b.decl.ctx).traces 2 = false ∧
    (∀ k ∈ u.lanes, ∃ t, b.thread? k = some t ∧ b.gidOf k = g ∧ t.pc = u.pc ∧ t.written = true ∧ t.cnt.cp < 63 ∧
      w.grd.pred.toNat < b.decl.preds ∧ (sectionForbids (opNum i) && ((s.sectionOf b.id k).map Section.live).getD false) = false ∧
      (t.guard w.grd = true → t.awaits (formIn i) w = false ∧ t.rangesOk b.decl (formIn i) w = true) ∧ unstepped b t) ∧
    ∀ t ∈ b.threads, b.gidOf t.tidx = g → t.tidx ∉ u.lanes → t.wait = none

end Sys2Proof.Machine
end

