-- ==== Sys2Proof/Machine/Plain.lean ====
section
/-! DEFINITION. The words that only compute: which function of its operands each of them gives a lane, as a table that statements
range over. -/

namespace Sys2Proof.Machine

/-- Words whose result follows from the operands of the lane alone (chapters 07 to 09, R190). -/
def pureOf (i : Instr) : Option (Word × (Env → Res)) :=
  match i with
  | .iadd w => some (w, (arith (fun _ a b => a + b) w))
  | .isub w => some (w, (arith (fun _ a b => a - b) w))
  | .imul w => some (w, (arith (fun _ a b => a * b) w))
  | .imulh w => some (w, (arith mulHigh w))
  | .imin w => some (w, (arith (fun _ a b => min a b) w))
  | .imax w => some (w, (arith (fun _ a b => max a b) w))
  | .iabs w => some (w, (arith (fun _ a _ => |a|) w))
  | .idiv w => some (w, (arith quotient w))
  | .irem w => some (w, (arith remainder w))
  | .imad w => some (w, (imadRes w))
  | .imadw w => some (w, (imadwRes w))
  | .idot4 w => some (w, (idot4Res w))
  | .isad w => some (w, (isadRes w))
  | .iaddc w => some (w, (iaddcRes w))
  | .lea w => some (w, (leaRes w))
  | .shl w => some (w, (shiftRes shlN w))
  | .shr w => some (w, (shiftRes shrN w))
  | .sar w => some (w, (shiftRes sarN w))
  | .rotl w => some (w, (shiftRes rotlN w))
  | .popc w => some (w, (unaryRes popN true w))
  | .clz w => some (w, (unaryRes clzN true w))
  | .brev w => some (w, (unaryRes brevN false w))
  | .ffs w => some (w, (unaryRes ffsN true w))
  | .mov w => some (w, (unaryRes (fun _ a => a) false w))
  | .movw w => some (w, (movwRes w))
  | .sel w => some (w, (selRes w))
  | .lut3 w => some (w, (lut3Res w))
  | .funnel w => some (w, (funnelRes w))
  | .bfi w => some (w, (bfiRes w))
  | .bfx w => some (w, (bfxRes w))
  | .icmp w => some (w, (icmpRes w))
  | .fcmp w => some (w, (fcmpRes w))
  | .dcmp w => some (w, (dcmpRes w))
  | .hcmp2 w => some (w, (hcmp2Res w))
  | .fclass w => some (w, (fclassRes w))
  | .plop w => some (w, (plopRes w))
  | .p2v w => some (w, (p2vRes w))
  | .v2p w => some (w, (v2pRes w))
  | .tqget w => some (w, (tqgetRes w))
  | .fadd w => some (w, (faddRes .f32 1 w))
  | .fmul w => some (w, (fmulRes .f32 1 w))
  | .ffma w => some (w, (ffmaRes .f32 1 w))
  | .fmin w => some (w, (fminRes .f32 1 false w))
  | .fmax w => some (w, (fminRes .f32 1 true w))
  | .dadd w => some (w, (faddRes .f64 2 w))
  | .dmul w => some (w, (fmulRes .f64 2 w))
  | .dfma w => some (w, (ffmaRes .f64 2 w))
  | .dmin w => some (w, (fminRes .f64 2 false w))
  | .dmax w => some (w, (fminRes .f64 2 true w))
  | .frnd w => some (w, (frndRes w))
  | .fscale w => some (w, (fscaleRes w))
  | .fgetexp w => some (w, (fgetexpRes w))
  | .fset w => some (w, (fsetRes w))
  | .fcpysgn w => some (w, (fcpysgnRes w))
  | .hadd2 w => some (w, (hadd2Res w))
  | .hmul2 w => some (w, (hmul2Res w))
  | .hfma2 w => some (w, (hfma2Res w))
  | .hmin2 w => some (w, (hminRes false w))
  | .hmax2 w => some (w, (hminRes true w))
  | .hdot2 w => some (w, (hdot2Res w))
  | .fmget w => some (w, (fmgetRes w))
  | .jmget w => some (w, (fun e => { regs := some (words64 (e.blk.joinMask e.gid (modF w 0 3))) }))
  | _ => none

/-- Words whose result follows from the operands and the machine, or which refuse some operands with a trap. -/
def aluOf (i : Instr) : Option (Word × (State → Env → Except (Nat × Nat) Res)) :=
  match i with
  | .bprm w => some (w, (fun _ e => bprmRes w e))
  | .cvt w => some (w, (fun _ e => cvtRes w e))
  | .packn w => some (w, (fun _ e => packnRes w e))
  | .unpkn w => some (w, (fun _ e => unpknRes w e))
  | .cvtsc w => some (w, (fun _ e => cvtscRes w e))
  | .rsqs w => some (w, (fun s e => .ok (sfunRes .rsqs w s e)))
  | .rcps w => some (w, (fun s e => .ok (sfunRes .rcps w s e)))
  | .sinr w => some (w, (fun s e => .ok (sfunRes .sinr w s e)))
  | .cosr w => some (w, (fun s e => .ok (sfunRes .cosr w s e)))
  | .ex2 w => some (w, (fun s e => .ok (sfunRes .ex2 w s e)))
  | .lg2 w => some (w, (fun s e => .ok (sfunRes .lg2 w s e)))
  | .tnh w => some (w, (fun s e => .ok (sfunRes .tnh w s e)))
  | .sigm w => some (w, (fun s e => .ok (sfunRes .sigm w s e)))
  | .fxs w => some (w, (fun s e => .ok { regs := some [(s.sectionOf e.blk.id e.th.tidx).elim e.th.fxLast s.fxImage] }))
  | .sread w => some (w, (fun s e => .ok { regs := some (s.sysValue e (immF w 0 12)) }))
  | _ => none

/-- The nine operations of R152 and R154 on exact integers at a width. -/
def mouldOf (i : Instr) : Option (Word × (Nat → Int → Int → Int)) :=
  match i with
  | .iadd w => some (w, fun _ a b => a + b)
  | .isub w => some (w, fun _ a b => a - b)
  | .imul w => some (w, fun _ a b => a * b)
  | .imulh w => some (w, fun n a b => a * b / 2 ^ n)
  | .imin w => some (w, fun _ a b => min a b)
  | .imax w => some (w, fun _ a b => max a b)
  | .iabs w => some (w, fun _ a _ => |a|)
  | _ => none

/-- Words whose entries state no exception to R90: a thread whose guard is false only moves on. -/
def guardedOf (i : Instr) : Option Word :=
  match i with
  | .nop w => some w
  | .jmset w => some w
  | .waitc w => some w
  | .waitt w => some w
  | .bpt w => some w
  | .trap w => some w
  | .tqset w => some w
  | .fmset w => some w
  | .fxb w => some w
  | .fxe w => some w
  | .fxa w => some w
  | .swrite w => some w
  | .isync w => some w
  | .dbgmBrk w => some w
  | .dbgmStepon w => some w
  | .dbgmStepoff w => some w
  | .ld w => some w
  | .st w => some w
  | .lds w => some w
  | .sts w => some w
  | .ldp w => some w
  | .stw2 w => some w
  | .ldxp w => some w
  | .prf w => some w
  | .cctlIvl w => some w
  | .cctlIva w => some w
  | .cctlWbm w => some w
  | .cctlWim w => some w
  | .ldsx w => some w
  | .stsx w => some w
  | .tlk w => some w
  | .ttag w => some w
  | .tstat w => some w
  | .tinv w => some w
  | .hgl w => some w
  | .hga w => some w
  | .hgw w => some w
  | .atom w => some w
  | .atomc w => some w
  | .atomf w => some w
  | .red w => some w
  | .redf w => some w
  | .atoms w => some w
  | .atomw w => some w
  | .sha w => some w
  | .rbind w => some w
  | .binit w => some w
  | .bexp w => some w
  | .pwait w => some w
  | .ptest w => some w
  | .fence w => some w
  | .xfence w => some w
  | .acq w => some w
  | .rel w => some w
  | .cwd w => some w
  | .aalloc w => some w
  | .afree w => some w
  | .azero w => some w
  | .ald w => some w
  | .ast w => some w
  | .astat w => some w
  | .launch w => some w
  | .lctlCancel w => some w
  | .lctlKill w => some w
  | .lctlQuery w => some w
  | .lpset w => some w
  | .lendLaunch w => some w
  | .lendCancel w => some w
  | .lendRepeat w => some w
  | i => ((pureOf i).map Prod.fst).or ((aluOf i).map Prod.fst)

/-- Further such words, which examine something of their block once they have issued: branches, EXIT, ERET, JOIN and ARRV. -/
def steeringOf (i : Instr) : Option Word :=
  match i with
  | .bra w => some w
  | .brx w => some w
  | .call w => some w
  | .callx w => some w
  | .ret w => some w
  | .exit w => some w
  | .eret w => some w
  | .join w => some w
  | .arrv w => some w
  | _ => none

/-- One lane issues a word with a false guard, and nothing that R90 leaves standing keeps it from moving on. -/
def issuesIdle (s : State) (i : Instr) (w : Word) (b : Block) (t : Thread) : Prop :=
  s.latch = some ⟨b.id, [t.tidx], t.pc⟩ ∧ s.block? b.id = some b ∧ illegalDetail b i (formIn i).team = 0 ∧
    t.guard w.grd = false ∧ b.thread? t.tidx = some t ∧ ((formIn i).sup = true → t.sup = true) ∧
    w.grd.pred.toNat < b.decl.preds ∧
    (sectionForbids (opNum i) && ((s.sectionOf b.id t.tidx).map Section.live).getD false) = false ∧ unstepped b t

/-- Registers of a result field. -/
def width (u : Use) : Nat :=
  match u with
  | .dst n _ => n
  | .dstPlain n => n
  | _ => 0

/-- The operands that such a word takes: BPRM selectors with a meaning (R161), formats that are valid (R135, R178). -/
def aluFits (i : Instr) (e : Env) : Prop :=
  let valid (w : Word) (k : Nat) : Prop := (cfmtOf e.blk (immF w 16 3) (immF w k 5)).isSome = true
  match i with
  | .bprm w => ∀ k < 4, (if modB w 0 then (e.word w.c 0).toNat % 2 ^ 20 else immF w 0 20) / 32 ^ k % 32 < 24
  | .cvt w => valid w 0 ∧ valid w 8
  | .cvtsc w => valid w 0
  | .packn w => valid w 0
  | .unpkn w => valid w 0
  | _ => True

end Sys2Proof.Machine
end

