-- ==== Sys2Proof/Safety.lean ====
section
/-! DEFINITION. What counts as a safe run: memory and register storage keep their canonical form, and a machine that has not
lost its power or its firmware answers every step. -/

namespace Sys2Proof.Machine

/-- The machine can step: it is powered and its firmware booted (R392, R404). -/
def State.alive (s : State) : Bool := !s.off && s.fw.state != .bootRefused

/-- A step that answers a state. -/
def Answers (s : State) : Prop := ∃ t, step s = .next t

end Sys2Proof.Machine
end

