-- ==== Sys2Proof/Certificates/Slice0/Obligations.lean ====
section
/-! DEFINITION. Statements for the provers: what the machine does, rule by rule. -/

open Sys2Proof Sys2Proof.Machine

/-- R88 to R108: the encoder and the decoder agree on every well-formed instruction with every operand it admits. -/
def Obligations.EveryWordRoundTrips : Prop :=
  ∀ i : Instr, i.hasWord = true → i.wf = true → ∃ x, encode i = some x ∧ decode x = .ok i

/-- R88, R107, R108: no bit of an accepted word is dropped. -/
def Obligations.DecodedWordsEncodeBack : Prop :=
  ∀ (x : W96) (i : Instr), decode x = .ok i → i.hasWord = true ∧ i.wf = true ∧ encode i = some x

/-- R333, R392, R404: traps are next states, so a machine with power and firmware always steps on. -/
def Obligations.EveryInstructionAnswers : Prop :=
  (∀ (i : Instr) (s : State), ∃ t, exec i s = .next t) ∧ ∀ s : State, Answers s ↔ s.alive = true

/-- R89, R108, R110 (the latched bundle is the model's own, log entry 3). -/
def Obligations.StepRunsTheFetchedWord : Prop :=
  ∀ (s s' : State) (u : Bundle) (b : Block) (sup : Bool) (bs : List Byte),
    s.alive = true → s.latch = some u → s.block? u.blk = some b → u.lanes ≠ [] →
    (∀ k ∈ u.lanes, ((b.thread? k).map Thread.sup).getD false = sup) →
    s.fetchBytes b.coreId b.decl.ctx (b.fetchVa u.pc) sup = .ok (bs, s') →
    { s' with icache := s.icache, tlb := s.tlb } = s ∧
    (∀ i, decodeAt b.mode (wordOfBytes bs) = .ok i → step s = exec i s') ∧
    (∀ d, decodeAt b.mode (wordOfBytes bs) = .error d →
      step s = .next (s'.takeTraps u.blk (u.lanes.map (fun k => (k, mkTrap 1 d u.pc, 0)))).endWord)

/-- R89, R343, R345: where the bytes of a word come from. The Massif's own thread and its memory are the model's choice (log entry 127,
DESIGN CHOICE). -/
def Obligations.FetchTakesTheBytesAtThePc : Prop :=
  (∀ (s : State) (b : Block) (pc : W32) (sup : Bool) (leaf : W64) (lo : Nat),
    let va := (b.decl.codebase + BitVec.ofNat 64 (12 * pc.toNat)).toNat % 2 ^ 57
    let ctx := b.decl.ctx
    s.tlb = [] → s.ilines b.coreId = [] → ctx < 16 → (∀ k < 3, s.walk ctx (va + 4 * k) = .ok (leaf, lo)) →
    leafAllows leaf Need.fetch sup = true → va % 2 ^ lo + 12 ≤ 2 ^ lo → va % 4 = 0 →
    ∃ s', s.fetchBytes b.coreId ctx (b.fetchVa pc) sup = .ok (s.bytes (leafKey leaf lo va) 12, s')) ∧
  ∀ (s : State) (id core : Nat) (pc : W32) (sup : Bool), let b := massifThread id core
    s.fetchBytes b.coreId b.decl.ctx (b.fetchVa pc) sup =
      .ok ((List.range 12).map (fun i => Config.massifImage.getD (12 * pc.toNat + i) 0), s)

/-- The model's scheduler (log entry 3), and the two ends of the machine (R392, R404). -/
def Obligations.StepsWithoutABundle : Prop :=
  (∀ (s : State) (i : Instr) (rest : List Instr), s.alive = true → s.latch = none → s.agenda = i :: rest →
    step s = exec i { s with agenda := rest }) ∧
  (∀ s : State, s.alive = true → s.latch = none → s.agenda = [] → step s = exec s.ownEvent s) ∧
  (step State.reset = exec .resetEvent State.reset) ∧
  (∀ s : State, s.off = true → step s = .fault .poweredOff) ∧
  ∀ s : State, s.off = false → s.fw.state = .bootRefused → step s = .fault .bootRefused

/-- R110, R122, R126: what the plain words do in one step, with their frame over threads, blocks and the machine. -/
def Obligations.PlainWordsCompute : Prop :=
  ∀ (i : Instr) (w : Word) (g : Env → Res) (s : State) (b : Block) (u : Bundle), pureOf i = some (w, g) → bundleIssues s i w b u →
    ∃ s', exec i s = .next s' ∧
      (∀ k ∈ u.lanes, ∀ t, b.thread? k = some t → s'.thread? b.id k =
        some ((if t.guard w.grd then t.apply w (g ⟨b, t⟩) else t).passed (t.pc + 1) w.hnt.yld)) ∧
      sameButThreads s s' b.id u.lanes ∧ ∀ a, s'.byte a = s.byte a

/-- R135, R161: when these words complete and when they trap. A special function's value is free within its bound (log entry 8). -/
def Obligations.ConvertersAndReadsCompute : Prop :=
  ∀ (i : Instr) (w : Word) (g : State → Env → Except (Nat × Nat) Res) (s : State) (b : Block) (t : Thread),
    aluOf i = some (w, g) → issues s i w b t →
    (aluFits i ⟨b, t⟩ → ∃ r, g s ⟨b, t⟩ = .ok r ∧
      exec i s = .next (wentOn s b t w (fun x => x.apply w r) (t.pc + 1))) ∧
    (¬ aluFits i ⟨b, t⟩ → ∃ c d, g s ⟨b, t⟩ = .error (c, d) ∧ exec i s = .next (trapped s b t w (mkTrap c d t.pc)))

/-- R90, R97, R126, R151: the frame of the plain words. -/
def Obligations.PlainWordsFrame : Prop :=
  ∀ (i : Instr) (w : Word) (g : Env → Res) (s : State) (b : Block) (u : Bundle), pureOf i = some (w, g) → bundleIssues s i w b u →
    ∃ s', exec i s = .next s' ∧ sameButThreads s s' b.id u.lanes ∧ (∀ a, s'.byte a = s.byte a) ∧
      ∀ k ∈ u.lanes, ∀ t, b.thread? k = some t → ∃ x, s'.thread? b.id k = some x ∧ x.pc = t.pc + 1 ∧
        (∀ r, (t.guard w.grd = true → ∀ n, t.named w.d = some n → r < n ∨ n + width (formIn i).d ≤ r) → x.reg r = t.reg r) ∧
        (∀ p, (t.guard w.grd = true → p ∉ (g ⟨b, t⟩).preds.map Prod.fst) → x.pred p = t.pred p) ∧
        x.ix = t.ix ∧ x.cnt = t.cnt ∧ x.frame = t.frame ∧ x.sup = t.sup ∧ x.inTrap = t.inTrap ∧ x.ppend = t.ppend ∧
        x.life = t.life ∧ x.trap = t.trap ∧ x.fxLast = t.fxLast ∧ x.fst &&& t.fst = t.fst ∧
        (∃ ns : List Nat, (∀ r ∈ ns, t.guard w.grd = true ∧ ∃ n, t.named w.d = some n ∧ n ≤ r ∧ r < n + width (formIn i).d) ∧
          x.pend = t.pend.map (fun p => { p with act := ns.foldl (fun a r => a.dropReg r) p.act })) ∧ x.tokens = t.tokens ∧
        (t.guard w.grd = false → x = t.passed (t.pc + 1) w.hnt.yld)

/-- R90: a false guard; R110: no fault of its own; R106, R187, R189, R193. -/
def Obligations.FalseGuardChangesNothing : Prop :=
  (∀ (i : Instr) (w : Word) (s : State) (b : Block) (t : Thread), guardedOf i = some w → issuesIdle s i w b t →
    exec i s = .next (wentOn s b t w id (t.pc + 1))) ∧
  (∀ (p : Pair) (s : State) (b : Block) (t : Thread), issuesIdle s (.pairedWord p) (halfWord p p.h0) b t →
    exec (.pairedWord p) s = .next (wentOn s b t (halfWord p p.h0) id (t.pc + 1))) ∧
  (∀ (w : Word) (s : State) (b : Block) (t : Thread), issuesIdle s (.yield w) w b t →
    exec (.yield w) s = .next (wentOn s b t { w with hnt := { w.hnt with yld := true } } id (t.pc + 1))) ∧
  ∀ (i : Instr) (w : Word) (s : State) (b : Block) (t : Thread), steeringOf i = some w → issuesIdle s i w b t →
    s.replays b.id = false → b.stage ≠ .restoring → (∀ x ∈ b.threads, x.wait = none ∧ x.tokens = []) →
    exec i s = .next (wentOn s b t w id (t.pc + 1))

/-- R153, with the operations of R152; the operands are read as R96, R99 and R100 say (`Env.word`, `Env.dword`). -/
def Obligations.TwoSourceArithmetic : Prop :=
  ∀ (i : Instr) (w : Word) (op : Nat → Int → Int → Int) (s : State) (b : Block) (t : Thread), mouldOf i = some (w, op) →
    issues s i w b t →
    let e : Env := ⟨b, t⟩
    let code := modF w 0 3
    let n := if code % 4 = 3 then 64 else 32
    let lo : Int := if code < 4 then -2 ^ (n - 1) else 0
    let hi : Int := if code < 4 then 2 ^ (n - 1) - 1 else 2 ^ n - 1
    let int (o : Opd) : Int := if n = 64 then (if code < 4 then (e.dword .signed o w.imm).toInt else (e.dword .unsigned o w.imm).toNat)
      else (if code < 4 then (e.word o w.imm).toInt else (e.word o w.imm).toNat)
    let x := op n (int w.a) (int w.b)
    let y := if modB w 3 then max lo (min hi x) else x
    ∃ s' x', exec i s = .next s' ∧ s'.thread? b.id t.tidx = some x' ∧ x'.pc = t.pc + 1 ∧
      (n = 32 → x'.b1 = (BitVec.ofInt 32 y).setWidth 64) ∧ (n = 64 → x'.b1 = BitVec.ofInt 64 y) ∧
      ∀ d, t.named w.d = some d → w.hnt.trn = false →
        (n = 32 → x'.reg d = BitVec.ofInt 32 y) ∧ (n = 64 → x'.reg (d + 1) ++ x'.reg d = BitVec.ofInt 64 y)

/-- R154 on 32-bit and 64-bit types, from the bypass slot that every result enters (R122). -/
def Obligations.DivisionTruncates : Prop :=
  ∀ (w : Word) (s : State) (b : Block) (t : Thread) (rem : Bool),
    let i : Instr := if rem then .irem w else .idiv w
    issues s i w b t →
    let e : Env := ⟨b, t⟩
    let code := modF w 0 3
    ∃ s' x, exec i s = .next s' ∧ s'.thread? b.id t.tidx = some x ∧ x.pc = t.pc + 1 ∧ x.trap = t.trap ∧ x.fst = t.fst ∧
      (code = 2 → let p := e.word w.a w.imm; let q := e.word w.b w.imm
        x.b1 = (if q = 0 then (if rem then p else BitVec.allOnes 32) else if rem then p.srem q else p.sdiv q).setWidth 64) ∧
      (code = 6 → let p := e.word w.a w.imm; let q := e.word w.b w.imm
        x.b1 = (if q = 0 then (if rem then p else BitVec.allOnes 32) else if rem then p.umod q else p.udiv q).setWidth 64) ∧
      (code = 3 → let p := e.dword .signed w.a w.imm; let q := e.dword .signed w.b w.imm
        x.b1 = if q = 0 then (if rem then p else BitVec.allOnes 64) else if rem then p.srem q else p.sdiv q) ∧
      (code = 7 → let p := e.dword .unsigned w.a w.imm; let q := e.dword .unsigned w.b w.imm
        x.b1 = if q = 0 then (if rem then p else BitVec.allOnes 64) else if rem then p.umod q else p.udiv q)

/-- R156 and R157. -/
def Obligations.CarriesAndAddresses : Prop :=
  (∀ (w : Word) (s : State) (b : Block) (t : Thread) (d : Nat), issues s (.iaddc w) w b t → t.named w.d = some d →
    w.hnt.trn = false →
    let e : Env := ⟨b, t⟩
    let cin := if (t.pred (immF w 0 7) != immB w 7) then 1 else 0
    let q := if modB w 0 then ~~~(e.word w.b 0) else e.word w.b 0
    let sum := (e.word w.a 0).toNat + q.toNat + cin
    ∃ s' x, exec (.iaddc w) s = .next s' ∧ s'.thread? b.id t.tidx = some x ∧ x.reg d = BitVec.ofNat 32 sum ∧
      x.pred (immF w 8 7) = (immF w 8 7 == 0 || decide (2 ^ 32 ≤ sum))) ∧
  (∀ (w : Word) (s : State) (b : Block) (t : Thread) (d : Nat), issues s (.lea w) w b t → t.named w.d = some d →
    w.hnt.trn = false →
    let e : Env := ⟨b, t⟩
    let off : W64 := if modB w 3 then (e.word w.b w.imm).signExtend 64 else (e.word w.b w.imm).setWidth 64
    ∃ s' x, exec (.lea w) s = .next s' ∧ s'.thread? b.id t.tidx = some x ∧
      x.reg (d + 1) ++ x.reg d = e.dword .unsigned w.a w.imm + off * BitVec.ofNat 64 (2 ^ modF w 0 3))

/-- R158 to R160 on 32-bit operands. -/
def Obligations.ShiftsAndFields : Prop :=
  ∀ (i : Instr) (w : Word) (s : State) (b : Block) (t : Thread), issues s i w b t → modB w 8 = false →
    let e : Env := ⟨b, t⟩
    let a := e.word w.a w.imm
    let c := (e.word w.b w.imm).toNat
    let gives (v : W32) : Prop := ∃ s' x, exec i s = .next s' ∧ s'.thread? b.id t.tidx = some x ∧ x.b1 = v.setWidth 64
    (i = .shl w → gives (a <<< c)) ∧
    (i = .shr w → gives (a >>> c)) ∧
    (i = .sar w → gives (a.sshiftRight c)) ∧
    (i = .rotl w → gives (a.rotateLeft (c % 32))) ∧
    (i = .mov w → gives a) ∧
    (i = .sel w → gives (if (t.pred (modF w 0 7) != modB w 7) then a else e.word w.b w.imm)) ∧
    (i = .funnel w → modB w 1 = true → 32 ≤ (e.word w.c 0).toNat →
      gives (if modB w 0 then e.word w.a 0 else e.word w.b 0)) ∧
    (i = .bfx w → modF w 0 3 % 4 = 2 → (c / 256 % 256 = 0 ∨ 32 ≤ c % 256) → gives 0)

/-- R151, R162, R163. -/
def Obligations.ComparisonsSetPredicates : Prop :=
  (∀ (w : Word) (s : State) (b : Block) (t : Thread) (d : BitVec 8), issues s (.icmp w) w b t → w.d = .reg d →
    (modF w 0 3 = 2 ∨ modF w 0 3 = 6) →
    let e : Env := ⟨b, t⟩
    let int (o : Opd) : Int := if modF w 0 3 = 2 then (e.word o w.imm).toInt else (e.word o w.imm).toNat
    let x := int w.a
    let y := int w.b
    let r := match modF w 3 3 with
      | 0 => decide (x = y)
      | 1 => decide (x ≠ y)
      | 2 => decide (x < y)
      | 3 => decide (x ≤ y)
      | 4 => decide (y < x)
      | _ => decide (y ≤ x)
    let old := t.pred d.toNat
    let v := match modF w 8 2 with
      | 0 => r
      | 1 => old && r
      | 2 => old || r
      | _ => old != r
    ∃ s' z, exec (.icmp w) s = .next s' ∧ s'.thread? b.id t.tidx = some z ∧ z.pred d.toNat = (d == 0 || v) ∧ z.fst = t.fst ∧
      z.b1 = t.b1 ∧ z.regs = t.regs) ∧
  (∀ (w : Word) (s : State) (b : Block) (t : Thread) (d : BitVec 8), issues s (.fcmp w) w b t → w.d = .reg d → d ≠ 0 →
    modF w 8 2 = 0 →
    let e : Env := ⟨b, t⟩
    let p := Fmt.f32.value (e.word w.a w.imm).toNat
    let q := Fmt.f32.value (e.word w.b w.imm).toNat
    (p.isNan || q.isNan) = true →
    ∃ s' z, exec (.fcmp w) s = .next s' ∧ s'.thread? b.id t.tidx = some z ∧
      z.pred d.toNat = decide (modF w 3 3 = 1 ∨ modF w 3 3 = 7) ∧
      z.fst = t.fst ||| (if p.isSnan = true ∨ q.isSnan = true ∨ (2 ≤ modF w 3 3 ∧ modF w 3 3 ≤ 5) then 1#32 else 0#32))

/-- R97, R122, R123. -/
def Obligations.BypassSlotsShift : Prop :=
  ∀ (i : Instr) (w : Word) (g : Env → Res) (s : State) (b : Block) (t : Thread), pureOf i = some (w, g) → issues s i w b t →
    ∃ s' x, exec i s = .next s' ∧ s'.thread? b.id t.tidx = some x ∧
      (∀ v vs, (g ⟨b, t⟩).regs = some (v :: vs) → x.b3 = t.b2 ∧ x.b2 = t.b1 ∧ x.b1 = vs.headD 0 ++ v) ∧
      ((g ⟨b, t⟩).regs = none → x.b1 = t.b1 ∧ x.b2 = t.b2 ∧ x.b3 = t.b3) ∧
      (w.d = .special 0 ∨ w.hnt.trn = true → x.regs = t.regs)

/-- R142, R171, R172 and the table of R184, without FTZ, from the bypass slot and FST. -/
def Obligations.FloatSpecialResults : Prop :=
  ∀ (i : Instr) (w : Word) (s : State) (b : Block) (t : Thread), issues s i w b t → modB w 7 = false →
    let e : Env := ⟨b, t⟩
    let ca := e.word w.a w.imm
    let cb := e.word w.b w.imm
    let a := Fmt.f32.value ca.toNat
    let c := Fmt.f32.value cb.toNat
    let gives (v : W32) (fl : W32) : Prop :=
      ∃ s' x, exec i s = .next s' ∧ s'.thread? b.id t.tidx = some x ∧ x.b1 = v.setWidth 64 ∧ x.fst = t.fst ||| fl
    let nan : W32 := 0x7FC00000#32
    (i = .fadd w ∨ i = .fmul w → (a.isNan || c.isNan) = true →
      gives nan (if (a.isSnan || c.isSnan) = true then 1 else 0)) ∧
    (i = .fadd w → a.isInf = true → c.isInf = true → (a.neg? != modB w 6) ≠ (c.neg? != modB w 5) → gives nan 1) ∧
    (i = .fmul w → a.isInf = true → c.isZero = true → gives nan 1) ∧
    (i = .fmin w ∨ i = .fmax w → a.isNan = true → c.isNan = false → gives cb (if a.isSnan = true then 1 else 0)) ∧
    (i = .rsqs w → (ca = 0 → gives 0x7F800000#32 2) ∧ (ca = 0x80000000#32 → gives 0xFF800000#32 2) ∧
      (ca = 0x7F800000#32 → gives 0 0) ∧ (ca = 0xFF800000#32 → gives nan 1)) ∧
    (i = .rcps w → (ca = 0 → gives 0x7F800000#32 2) ∧ (ca = 0x80000000#32 → gives 0xFF800000#32 2) ∧
      (ca = 0x7F800000#32 → gives 0 0) ∧ (ca = 0xFF800000#32 → gives 0x80000000#32 0)) ∧
    (i = .sinr w → (ca = 0 → gives 0 0) ∧ (ca = 0x80000000#32 → gives 0x80000000#32 0) ∧ (a.isInf = true → gives nan 1)) ∧
    (i = .cosr w → (a.isZero = true → gives 0x3F800000#32 0) ∧ (a.isInf = true → gives nan 1)) ∧
    (i = .ex2 w → (a.isZero = true → gives 0x3F800000#32 0) ∧ (ca = 0x7F800000#32 → gives ca 0) ∧
      (ca = 0xFF800000#32 → gives 0 0)) ∧
    (i = .lg2 w → (a.isZero = true → gives 0xFF800000#32 2) ∧ (ca = 0x7F800000#32 → gives ca 0) ∧
      (ca = 0xFF800000#32 → gives nan 1)) ∧
    (i = .tnh w → (a.isZero = true → gives ca 0) ∧ (ca = 0x7F800000#32 → gives 0x3F800000#32 0) ∧
      (ca = 0xFF800000#32 → gives 0xBF800000#32 0)) ∧
    (i = .sigm w → (a.isZero = true → gives 0x3F000000#32 0) ∧ (ca = 0x7F800000#32 → gives 0x3F800000#32 0) ∧
      (ca = 0xFF800000#32 → gives 0 0))

/-- R125, R207, R211: LD and ST of one lane that is in no section. -/
def Obligations.GlobalLoadsAndStoresIssue : Prop :=
  ∀ (w : Word) (s : State) (b : Block) (t : Thread),
    let e : Env := ⟨b, t⟩
    let addr := e.address w
    let n := elemBytes w
    let k := elemCount w
    s.sectionOf b.id t.tidx = none →
    (issues s (.ld w) w b t → t.cnt.ld < 63 → ∀ x, s.reach e addr (n * k) Need.load 0 = .ok x →
      exec (.ld w) s = .next (counted (s.touch e addr x) b t w .ld (.load (.phys x.key) (vaOf addr) n k (decide (modF w 0 3 < 4))
        (modF w 6 2 == 1 || x.cp != 0) (modF w 6 2 == 2) (t.dests w.d (k * elemRegs n))))) ∧
    (issues s (.st w) w b t → t.cnt.st < 63 → ∀ x, s.reach e addr (n * k) Need.store 0 = .ok x →
      exec (.st w) s = .next (counted (s.touch e addr x) b t w .st
        (.store [(.phys x.key, dataBytes n k (e.words (dataPos w) w.b 0 (k * elemRegs n)))]))) ∧
    (issues s (.ld w) w b t → t.cnt.ld < 63 → ∀ tr, s.reach e addr (n * k) Need.load 0 = .error tr →
      exec (.ld w) s = .next (trapped s b t w tr Need.load.acc)) ∧
    (issues s (.st w) w b t → t.cnt.st < 63 → ∀ tr, s.reach e addr (n * k) Need.store 0 = .error tr →
      exec (.st w) s = .next (trapped s b t w tr Need.store.acc)) ∧
    (issues s (.ld w) w b t → 63 ≤ t.cnt.ld → exec (.ld w) s = .next (waits s b t (.full .ld))) ∧
    (issues s (.st w) w b t → 63 ≤ t.cnt.st → exec (.st w) s = .next (waits s b t (.full .st)))

/-- R207, from the check that every global access of a thread makes first; the order of its two details is log entry 25 (DEDUCED). -/
def Obligations.MisalignedAddressesTrap : Prop :=
  ∀ (s : State) (e : Env) (addr : W64) (size : Nat) (n : Need) (k : Nat),
    (2 ^ 57 ≤ addr.toNat → ∃ tr, s.reach e addr size n k = .error tr ∧ tr.cause = 4 ∧ tr.detail = 2 ∧ tr.faddr = addr ∧
      tr.pc = e.th.pc) ∧
    (addr.toNat < 2 ^ 57 → ¬ size ∣ addr.toNat → ∃ tr, s.reach e addr size n k = .error tr ∧ tr.cause = 4 ∧ tr.detail = 1 ∧
      tr.faddr = addr ∧ tr.pc = e.th.pc) ∧
    (addr.toNat < 2 ^ 57 → size ∣ addr.toNat → ∀ tr, s.reach e addr size n k = .error tr → tr.cause = 5 ∨ tr.cause = 6) ∧
    (size ∣ 128 → ∀ x, s.reach e addr size n k = .ok x → addr.toNat % 65536 + size ≤ 65536) ∧
    ∀ w : Word, accessBytes w ≤ 64 ∧ accessBytes w ∣ 128

/-- R321 to R329: tracked accesses of one lane. -/
def Obligations.SectionAccessesAreTracked : Prop :=
  ∀ (w : Word) (s : State) (b : Block) (t : Thread) (sec : Section) (write : Bool) (x : Xlat),
    let e : Env := ⟨b, t⟩
    let i : Instr := if write then .st w else .ld w
    let n := elemBytes w
    let k := elemCount w
    let s2 := s.touch e (e.address w) x
    let s0 := s.cacheLeaf (coreCaches b.coreId) b.decl.ctx (vaOf (e.address w)) x
    let va := vaOf (e.address w)
    let span : Span := ⟨0, x.key, n * k, va⟩
    issues s i w b t → t.cnt.ld < 63 → t.cnt.st < 63 → s.sectionOf b.id t.tidx = some sec →
    s.reach e (e.address w) (n * k) (if write then Need.store else Need.load) 0 = .ok x →
    let load (nc : Bool) : Act := .load (.phys x.key) va n k (decide (modF w 0 3 < 4)) nc (modF w 6 2 == 2) (t.dests w.d (k * elemRegs n))
    (sec.state = .committed → exec i s = .next (if write then
        counted s2 b t w .st (.store [(.phys x.key, dataBytes n k (e.words (dataPos w) w.b 0 (k * elemRegs n)))])
      else counted s2 b t w .ld (load (modF w 6 2 == 1 || x.cp != 0)))) ∧
    (sec.state ≠ .committed → sec.live = false →
      exec i s = .next (if write then wentOn s2 b t w id (t.pc + 1) else counted s2 b t w .ld (load true))) ∧
    (sec.live = true → t.ahead b.id span = true → exec i s = .next s0.endWord) ∧
    (sec.live = true → t.ahead b.id span = false →
    (∀ s1, s0.track sec x.tier x.key (n * k) write = .runs s1 → write = false → s1.poisoned span = true →
      exec i s = .next (trapped s1 b t w (memTrap 0xC 0 va t.pc false))) ∧
    (∀ s1, s0.track sec x.tier x.key (n * k) write = .runs s1 → (write = true ∨ s1.poisoned span = false) →
      exec i s = .next (if write then
          counted (s1.addVersion sec x.key (dataBytes n k (e.words (dataPos w) w.b 0 (k * elemRegs n)))) b t w .st .done
        else counted s1 b t w .ld (.deliver (t.dests w.d (k * elemRegs n)) (elements n k (decide (modF w 0 3 < 4))
          ((List.range (n * k)).map (fun i => s1.trackedByte sec.cluster (x.key + i)))) [] 0)) ∧ s1.mem = s.mem) ∧
    (∀ c o, s0.track sec x.tier x.key (n * k) write = .aborts c o →
      exec i s = .next (s0.abortSection sec.cluster sec.slot c o).endWord) ∧
    (∀ v s1, s0.track sec x.tier x.key (n * k) write = .waits v s1 → exec i s = .next (waits s1 b t v)) ∧
    (2 ≤ x.tier → exec i s = .next (s0.abortSection sec.cluster sec.slot 7 none).endWord))

/-- R211, R212, R217: local accesses of one lane. -/
def Obligations.LocalAccessesIssue : Prop :=
  ∀ (w : Word) (s : State) (b : Block) (t : Thread), t.cnt.ld < 63 → t.cnt.st < 63 →
    let e : Env := ⟨b, t⟩
    let n := elemBytes w
    let k := elemCount w
    let size := n * k
    let sx := decide (modF w 0 3 < 4)
    let dst := t.dests w.d (k * elemRegs n)
    let data (o : Opd) := dataBytes n k (e.words (dataPos w) o 0 (k * elemRegs n))
    let off := e.offset w
    let fits : Prop := 0 ≤ off ∧ off + size ≤ b.decl.scratch * 4096
    let inside : Prop := fits ∧ off % size = 0
    (issues s (.lds w) w b t → inside →
      exec (.lds w) s = .next (counted s b t w .ld (.load (.scratch b.id off.toNat) off.toNat n k sx true false dst))) ∧
    (issues s (.sts w) w b t → inside →
      exec (.sts w) s = .next (counted s b t w .st (.store [(.scratch b.id off.toNat, data w.b)]))) ∧
    (issues s (.lds w) w b t → (off < 0 ∨ (b.decl.scratch * 4096 : Nat) < off + size) →
      exec (.lds w) s = .next (trapped s b t w (scratchTrap 7 0 off t.pc false))) ∧
    (issues s (.sts w) w b t → (off < 0 ∨ (b.decl.scratch * 4096 : Nat) < off + size) →
      exec (.sts w) s = .next (trapped s b t w (scratchTrap 7 0 off t.pc true))) ∧
    (issues s (.lds w) w b t → fits → off % size ≠ 0 → exec (.lds w) s = .next (trapped s b t w (scratchTrap 4 1 off t.pc false))) ∧
    (issues s (.sts w) w b t → fits → off % size ≠ 0 → exec (.sts w) s = .next (trapped s b t w (scratchTrap 4 1 off t.pc true))) ∧
    (issues s (.ldp w) w b t → let o := (e.word w.a 0 + w.imm).toNat
      (o % size = 0 → exec (.ldp w) s = .next (counted s b t w .ld (.load (.param o) 0 n k sx true false dst))) ∧
      (o % size ≠ 0 → exec (.ldp w) s = .next (trapped s b t w (scratchTrap 4 1 o t.pc false)))) ∧
    (∀ write : Bool, let i : Instr := if write then .stsx w else .ldsx w
      issues s i w b t →
      let j := (e.word w.a 0).toNat
      let o := (e.word w.b w.imm).toNat
      let at' := tileBase (b.tile j) + o
      (b.decl.tiles ≤ j → exec i s = .next (trapped s b t w { mkTrap 8 0 t.pc with write := write })) ∧
      (j < b.decl.tiles → tileState (b.tile j) ≠ 2 → exec i s = .next (waits s b t (.tile j false))) ∧
      (j < b.decl.tiles → tileState (b.tile j) = 2 → tileSize (b.tile j) < o + size →
        exec i s = .next (trapped s b t w (scratchTrap 7 0 at' t.pc write))) ∧
      (j < b.decl.tiles → tileState (b.tile j) = 2 → o + size ≤ tileSize (b.tile j) → o % size ≠ 0 →
        exec i s = .next (trapped s b t w (scratchTrap 4 1 at' t.pc write))) ∧
      (j < b.decl.tiles → tileState (b.tile j) = 2 → o + size ≤ tileSize (b.tile j) → o % size = 0 →
        exec i s = .next (if write then counted s b t w .st (.store [(.scratch b.id at', data w.c)]) (some j)
          else counted s b t w .ld (.load (.scratch b.id at') at' n k sx true false dst) (some j))))

/-- R214 to R216: tile-table words of one lane. -/
def Obligations.TileTableWordsIssue : Prop :=
  ∀ (w : Word) (s : State) (b : Block) (t : Thread), t.cnt.tl < 63 →
    let e : Env := ⟨b, t⟩
    let j := (e.word w.a w.imm).toNat
    let idle : Prop := tileState (b.tile j) = 0 ∨ tileState (b.tile j) = 2
    (issues s (.tlk w) w b t → ∃ hit : Option Nat,
      exec (.tlk w) s = .next (counted s b t w .tl (.deliver (t.dests w.d 1) [hit.elim 0xFFFFFFFF#32 (BitVec.ofNat 32)]
        [((t.named w.b).getD 0, hit.isSome)] 0)) ∧
      (∀ k, hit = some k → k < b.decl.tiles ∧ tileState (b.tile k) ≠ 0 ∧ tileTag (b.tile k) = e.dword .unsigned w.a 0) ∧
      ∀ j < b.decl.tiles, (∀ k, hit = some k → j < k) → tileState (b.tile j) = 0 ∨ tileTag (b.tile j) ≠ e.dword .unsigned w.a 0) ∧
    (issues s (.tstat w) w b t → j < b.decl.tiles →
      exec (.tstat w) s = .next (counted s b t w .tl (.deliver (t.dests w.d 4) (natWords 4 (b.tile j).toNat) [] 0))) ∧
    (issues s (.tinv w) w b t → j < b.decl.tiles → idle → exec (.tinv w) s = .next (counted
      (s.mapBlock b.id (fun x => x.setTile j (withTileState (x.tile j) 0))) b t w .tl (.tile j))) ∧
    (issues s (.ttag w) w b t → j < b.decl.tiles →
      let v : BitVec 128 := BitVec.ofNat 128 (wordsNat (e.tuple w.b 4))
      (ttagFault b v = none → idle →
        exec (.ttag w) s = .next (counted (s.mapBlock b.id (fun x => x.setTile j v)) b t w .tl (.tile j))) ∧
      (ttagFault b v = none → ¬ idle → exec (.ttag w) s = .next (waits s b t (.tile j true))) ∧
      (∀ c d off, ttagFault b v = some (c, d, off) → exec (.ttag w) s = .next (trapped s b t w (scratchTrap c d off t.pc false)))) ∧
    (issues s (.ttag w) w b t → b.decl.tiles ≤ j → exec (.ttag w) s = .next (trapped s b t w (mkTrap 8 0 t.pc))) ∧
    (issues s (.tstat w) w b t → b.decl.tiles ≤ j → exec (.tstat w) s = .next (trapped s b t w (mkTrap 8 0 t.pc))) ∧
    (issues s (.tinv w) w b t → b.decl.tiles ≤ j → exec (.tinv w) s = .next (trapped s b t w (mkTrap 8 0 t.pc))) ∧
    (issues s (.tinv w) w b t → j < b.decl.tiles → ¬ idle → exec (.tinv w) s = .next (waits s b t (.tile j true)))

/-- R219, R221 to R223, of one lane. -/
def Obligations.WideAndCacheWordsIssue : Prop :=
  ∀ (w : Word) (s : State) (b : Block) (t : Thread), t.cnt.ld < 63 → t.cnt.st < 63 →
    let e : Env := ⟨b, t⟩
    let a := e.dword .unsigned w.a 0
    let addr := e.address w
    (issues s (.stw2 w) w b t →
      let size := if modB w 0 then 4 else 2
      let n := 2 ^ modF w 3 3
      let data := leBytes (n * size) (wordsNat (e.tuple w.b (max 1 (n * size / 4))))
      let rows := (List.range n).map (fun j => e.dword .unsigned w.c 0 + BitVec.ofNat 64 (immF w 10 22 * j))
      ∀ x ys, (∀ r ∈ rows, misaligned r size = none) → s.reach e a (n * size) Need.store 0 = .ok x →
        (s.touch e a x).reachAll e size Need.store 1 rows = .ok ys →
        exec (.stw2 w) s = .next (counted (s.touch e a x) b t w .st (.store ((.phys x.key, data) ::
          ys.zipIdx.map (fun (y, j) => (.phys y.key, (data.drop (size * j)).take size)))))) ∧
    (issues s (.ldxp w) w b t →
      let size := 2 ^ modF w 0 2
      let n := 8 * 2 ^ modF w 2 2
      let p := (e.dword .unsigned w.b 0).toNat
      (∀ xs, p < binom 64 n →
        let addrs := (List.range n).map (fun i => a + BitVec.ofNat 64 (size * i))
        s.reachAll e size Need.load 0 addrs = .ok xs →
        exec (.ldxp w) s = .next (counted s b t w .ld (.expand (List.zipWith Xlat.place xs addrs) size (immF w 0 7)
          (positions n p) (t.dests w.d (16 * size)) (immF w 8 7)))) ∧
      (binom 64 n ≤ p → exec (.ldxp w) s = .next (trapped s b t w (mkTrap 1 10 t.pc)))) ∧
    (issues s (.prf w) w b t →
      (∀ tr, s.reach e addr 1 Need.load 0 = .error tr → exec (.prf w) s = .next (wentOn s b t w id (t.pc + 1))) ∧
      (∀ x, s.reach e addr 1 Need.load 0 = .ok x → exec (.prf w) s = .next (wentOn
        (if modF w 0 2 = 0 ∧ x.cp = 0 then (s.touch e addr x).fillLine b.coreId b.decl.ctx (vaOf addr) x.key else s.touch e addr x)
        b t w id (t.pc + 1)))) ∧
    (issues s (.cctlIvl w) w b t → ∀ x, s.reach e addr 1 Need.load 0 = .ok x →
      exec (.cctlIvl w) s = .next (wentOn ((s.touch e addr x).dropLine b.coreId x.key) b t w id (t.pc + 1))) ∧
    (issues s (.cctlIva w) w b t → exec (.cctlIva w) s = .next (wentOn (s.setLines b.coreId []) b t w id (t.pc + 1))) ∧
    (issues s (.cctlWbm w) w b t → ∀ x, s.reach e addr 1 Need.both 0 = .ok x →
      exec (.cctlWbm w) s = .next (wentOn ((s.touch e addr x).writeBack (fun l => l == x.key / 128)) b t w id (t.pc + 1))) ∧
    (issues s (.cctlWim w) w b t → ∀ x, s.reach e addr 1 Need.both 0 = .ok x →
      exec (.cctlWim w) s = .next (wentOn ((s.touch e addr x).dropMsc (fun l => l == x.key / 128)) b t w id (t.pc + 1))) ∧
    (issues s (.cctlIvl w) w b t → ∀ tr, s.reach e addr 1 Need.load 0 = .error tr →
      exec (.cctlIvl w) s = .next (trapped s b t w tr Need.load.acc))

/-- R240: issue of the atomics of one lane. -/
def Obligations.AtomicsIssue : Prop :=
  ∀ (w : Word) (s : State) (b : Block) (t : Thread), t.cnt.ld < 63 → t.cnt.st < 63 →
    let e : Env := ⟨b, t⟩
    let ty := modF w 0 3
    let op := modF w 3 3
    let n := tyRegs ty
    let fn := if ty = 1 then 2 else 1
    let plain := e.dword .unsigned w.a 0
    let issue (i : Instr) (c : Ctr) (kind : AtomKind) (addr : W64) (vb vc : Nat) (dst : List (Option Nat)) : Prop :=
      issues s i w b t →
      (∀ x, s.reach e addr kind.size Need.both 0 = .ok x →
        exec i s = .next (counted (s.touch e addr x) b t w c
          (.atom (.phys x.key) (vaOf addr) kind (BitVec.ofNat 128 vb) (BitVec.ofNat 128 vc) (atomSc w) (x.leaf.getLsbD 8) dst))) ∧
      (∀ tr, s.reach e addr kind.size Need.both 0 = .error tr → exec i s = .next (trapped s b t w tr Need.both.acc))
    issue (.atom w) .ld (.int op ty) (e.address w) (atomB w e) 0 (t.dests w.d n) ∧
    issue (.atomc w) .ld (.cas ty) plain (atomB w e) (atomC w e) (t.dests w.d n) ∧
    issue (.atomf w) .ld (.flt op ty) (e.address w) (e.code fn w.b 0) 0 (t.dests w.d fn) ∧
    issue (.red w) .st (.int op ty) (e.address w) (atomB w e) 0 [] ∧
    issue (.redf w) .st (.flt op ty) (e.address w) (e.code fn w.b 0) 0 [] ∧
    issue (.atomw w) .ld (.wide (op == 1)) plain (wordsNat (e.tuple w.b 4)) (wordsNat (e.tuple w.c 4)) (t.dests w.d 4) ∧
    (issues s (.atoms w) w b t →
      let off : Int := if op = 7 then (e.word w.a 0).toNat else e.offset w
      let size := (atomsKind w).size
      (0 ≤ off → off + size ≤ b.decl.scratch * 4096 → off % size = 0 →
        exec (.atoms w) s = .next (counted s b t w .ld (.atom (.scratch b.id off.toNat) off.toNat (atomsKind w)
          (BitVec.ofNat 128 (if modB w 7 then (e.word w.b 0).toNat else atomB w e))
          (BitVec.ofNat 128 (if op = 7 then atomC w e else 0)) (if modB w 6 then 2 else 0) false
          (t.dests w.d (if modB w 7 then 1 else n))))) ∧
      ((off < 0 ∨ (b.decl.scratch * 4096 : Nat) < off + size) →
        exec (.atoms w) s = .next (trapped s b t w (scratchTrap 7 0 off t.pc true))))

/-- R227 to R232, of one lane: issue of the hashed-grid words. Which fault is reported first is log entry 32 (DEDUCED), and detail 5 of
HGA log entry 15 (DEDUCED). -/
def Obligations.HashGridWordsIssue : Prop :=
  ∀ (w : Word) (s : State) (b : Block) (t : Thread) (r : Region), t.cnt.ld < 63 → t.cnt.st < 63 →
    let e : Env := ⟨b, t⟩
    let xs := e.tuple w.a r.ndims
    (∀ i ∈ [Instr.hgl w, .hga w, .hgw w], issues s i w b t → s.grid e w = none →
      exec i s = .next (trapped s b t w (mkTrap 1 10 t.pc))) ∧
    (s.region? b.decl.ctx (e.word w.b 0).toNat = some r → r.cls = 1 →
    (issues s (.hgl w) w b t →
      let mask := immF w 0 16
      let ls := r.selected mask
      let n := featureCount ls
      let fmts := (ls.map (fun l => List.replicate l.feats l.fmt)).flatten
      let asks (ps : List Rat) := ls.map (fun l => (l.featBytes, (List.range l.feats).map
        (featureAddrs (r.base + l.poff) l.featBytes l (ps.map (axisOf (immF w 16 2) l.nres)))))
      let act (rows : List (List Term)) (nan : Bool) : Act := .features rows fmts nan (t.dests w.d n) (immF w 18 7) (clamps xs)
      ((e.spans w.a r.ndims = false ∨ e.spans w.d n = false) → exec (.hgl w) s = .next (trapped s b t w (mkTrap 3 0 t.pc))) ∧
      (e.spans w.a r.ndims = true → e.spans w.d n = true → maskOk mask r = false →
        exec (.hgl w) s = .next (trapped s b t w (mkTrap 1 10 t.pc))) ∧
      (maskOk mask r = true → e.spans w.a r.ndims = true → e.spans w.d n = true →
        (clampCoord xs = none → exec (.hgl w) s = .next (counted s b t w .ld (act (fmts.map (fun _ => [])) true))) ∧
        (∀ ps, clampCoord xs = some ps →
          (∀ ts, s.reachLevels e Need.load (asks ps) = .ok ts → exec (.hgl w) s =
            .next (counted ((asks ps).foldl (fun s' l => s'.touchTerms e l.1 Need.load l.2) s) b t w .ld (act ts false))) ∧
          (∀ tr, s.reachLevels e Need.load (asks ps) = .error tr → exec (.hgl w) s = .next (trapped s b t w tr Need.load.acc))))) ∧
    (issues s (.hga w) w b t →
      let mask := immF w 10 16
      let ls := r.selected mask
      let n := featureCount ls
      let asks (ps : List Rat) := ls.map (fun l => (4, (List.range l.feats).map (fun f =>
        (featureAddrs (r.gtab + l.goff) 4 l (ps.map (axisOf (immF w 26 2) l.nres)) f).filter (fun a => decide (a.1 ≠ 0)))))
      (w.c.isSpecial = true → 2 < n → exec (.hga w) s = .next (trapped s b t w (mkTrap 1 5 t.pc))) ∧
      ((w.c.isSpecial = false ∨ n ≤ 2) →
        ((e.spans w.a r.ndims = false ∨ e.spans w.c n = false) → exec (.hga w) s = .next (trapped s b t w (mkTrap 3 0 t.pc))) ∧
        (e.spans w.a r.ndims = true → e.spans w.c n = true →
          (maskOk mask r = false → exec (.hga w) s = .next (trapped s b t w (mkTrap 1 10 t.pc))) ∧
          (maskOk mask r = true → clampCoord xs = none → exec (.hga w) s = .next (counted s b t w .st (.gradients []))) ∧
          (∀ ps ts, maskOk mask r = true → clampCoord xs = some ps → s.reachGrads e (asks ps) = .ok ts →
            exec (.hga w) s = .next (counted s b t w .st (.gradients ((List.zipWith (fun (row : List (Rat × Grad)) c =>
              row.map (fun x => { x.2 with value := Sys2Proof.Machine.gradient x.1 c })) ts (e.words .unsigned w.c 0 n)).flatten)))) ∧
          (∀ ps tr, maskOk mask r = true → clampCoord xs = some ps → s.reachGrads e (asks ps) = .error tr →
            exec (.hga w) s = .next (trapped s b t w { tr with write := true } Need.both.acc))))) ∧
    (issues s (.hgw w) w b t →
      let first := immF w 8 8
      let count := immF w 16 5 + 1
      (e.spans w.a r.ndims = false → exec (.hgw w) s = .next (trapped s b t w (mkTrap 3 0 t.pc))) ∧
      (e.spans w.a r.ndims = true → 2 ^ r.ndims < first + count → exec (.hgw w) s = .next (trapped s b t w (mkTrap 1 10 t.pc))) ∧
      (∀ l, first + count ≤ 2 ^ r.ndims → r.levels[immF w 0 4]? = some l → e.spans w.a r.ndims = true →
        exec (.hgw w) s = .next (counted s b t w .ld
          (.deliver (t.dests w.d (2 * count)) (hgwWords l (immF w 4 2) first count xs) [] 0)))))

/-- R225, R226, R286, of one lane. Log entries 34 (DEDUCED) for RBIND, and 35 (DEDUCED) for the bin that SHA checks as it issues. -/
def Obligations.RegionWordsComplete : Prop :=
  ∀ (w : Word) (s : State) (b : Block) (t : Thread), t.cnt.st < 63 →
    let e : Env := ⟨b, t⟩
    (issues s (.rbind w) w b t →
      let idx := (e.word w.b w.imm).toNat
      ∀ x levels s1, s.reach e (e.dword .unsigned w.a 0) 64 Need.load 0 = .ok x →
        let d := s.bytes x.key 64
        let r := Region.ofBytes b.decl.ctx idx d levels
        let st := rbindStatus s b.decl.ctx idx d levels
        s.readLevels e d = .ok levels → s.zeroBins e r (if st = 0 ∧ r.cls = 2 then r.nsub else 0) = .ok s1 →
        let s2 := (s1.credit s.lastWrite (some b.coreId) [(.thread b.id t.tidx, s.seq)]).rebind b.decl.ctx idx st r
        exec (.rbind w) s = .next (wentOn s2 b t w (fun x => x.result w.d false [BitVec.ofNat 32 st]) (t.pc + 1)) ∧
        (st = 0 → s2.region? b.decl.ctx idx = some r) ∧
        (st = 1 → s2.region? b.decl.ctx idx = none) ∧
        (2 ≤ st → { s2 with stale := s.stale } = s) ∧
        ∀ j c, (c ≠ b.decl.ctx ∨ j ≠ idx) → s2.region? c j = s.region? c j) ∧
    (issues s (.sha w) w b t →
      let addr := e.address w
      let n := shaBytes (modF w 0 3)
      (∀ d, misaligned addr n = some d → exec (.sha w) s = .next (trapped s b t w
        { cause := 4, detail := d, faddr := addr, pc := t.pc, write := true })) ∧
      (misaligned addr n = none → s.binRegion b.decl.ctx addr.toNat = none →
        exec (.sha w) s = .next (trapped s b t w (mkTrap 1 10 t.pc))) ∧
      (∀ r x, misaligned addr n = none → s.binRegion b.decl.ctx addr.toNat = some r →
        let k := (addr.toNat - r.base) / 2 ^ r.sublog
        s.reach e (BitVec.ofNat 64 (r.binAt k)) 16 Need.both 0 = .ok x →
        exec (.sha w) s = .next (counted s b t w .st (.append b.decl.ctx r.idx k (r.binAt k) r.bcap (binRecord
          ((addr.toNat - r.base) % 2 ^ r.sublog) (modF w 3 3) (modF w 0 3)
            (wordsNat (e.words (if modF w 0 3 = 1 then .double else .unsigned) w.b 0 (n / 4))))))) ∧
      (∀ r tr, misaligned addr n = none → s.binRegion b.decl.ctx addr.toNat = some r →
        s.reach e (BitVec.ofNat 64 (r.binAt ((addr.toNat - r.base) / 2 ^ r.sublog))) 16 Need.both 0 = .error tr → tr.cause ≠ 6 →
        exec (.sha w) s = .next (trapped s b t w tr Need.both.acc)))

/-- R235, R237, of one lane whose block traces no arrivals and has no EXITDROP object at the offset. That events which nothing holds back
are applied in their own step, and that PWAIT stands behind those which something does, is log entry 37 (DEDUCED). -/
def Obligations.BarrierWordsComplete : Prop :=
  ∀ (w : Word) (s : State) (b : Block) (t : Thread),
    let e : Env := ⟨b, t⟩
    let off := (e.word w.a w.imm).toNat
    let v := (e.word w.b w.imm).toNat
    let o := b.obj off
    let quiet : Prop := b.quietBank t = true
    let calm : Prop := b.xregs = [] ∧ (s.ctx b.decl.ctx).traces 3 = false ∧ s.replays b.id = false ∧ t.written = true
    (∀ i ∈ [Instr.binit w, .arrv w, .bexp w, .pwait w, .ptest w], issues s i w b t → t.cnt.st < 63 →
      (i = .binit w ∨ i = .pwait w ∨ quiet) → ∀ c d, b.objFault off = some (c, d) → exec i s = .next (trapped s b t w
        { cause := c, detail := BitVec.ofNat 32 d, faddr := BitVec.ofNat 64 off, pc := t.pc })) ∧
    (off % 16 = 0 → off + 16 ≤ b.decl.scratch * 4096 →
      (issues s (.binit w) w b t → t.cnt.st < 63 →
        ((modB w 0 = true ∨ (1 ≤ v ∧ v ≤ 65535)) → exec (.binit w) s = .next (counted s b t w .st (.binit off v (modB w 0)))) ∧
        (modB w 0 = false → (v = 0 ∨ 65535 < v) → exec (.binit w) s = .next (trapped s b t w (mkTrap 0x15 0 t.pc)))) ∧
      (issues s (.arrv w) w b t → quiet → calm → o.init = true →
        let n := if modB w 0 then 1 else v
        let bytes := if modB w 0 then v else 0
        1 ≤ n → o.arrd + n ≤ o.expa → o.expb + bytes < 2 ^ 32 → (o.arrd + n ≠ o.expa ∨ o.land ≠ o.expb + bytes) →
        ∃ s' b' x, exec (.arrv w) s = .next s' ∧ s'.block? b.id = some b' ∧ s'.thread? b.id t.tidx = some x ∧
          b'.obj off = { o with arrd := o.arrd + n, expb := o.expb + bytes } ∧ x.pc = t.pc + 1 ∧ x.b2 = t.b1 ∧ x.regs = t.regs ∧
          x.tokens.map (fun k => (k.dst, k.val)) =
            t.tokens.map (fun k => (k.dst, k.val)) ++ [(t.named w.d, some (o.phase.setWidth 32))]) ∧
      (issues s (.bexp w) w b t → quiet → o.init = true → o.expb + v < 2 ^ 32 →
        (o.arrd ≠ o.expa ∨ o.land ≠ o.expb + v) →
        exec (.bexp w) s = .next (wentOn (s.mapBlock b.id (fun x => x.setObj off { o with expb := o.expb + v })) b t w id (t.pc + 1))) ∧
      (issues s (.pwait w) w b t →
        let tok : BitVec 16 := (e.word w.b w.imm).setWidth 16
        let stamp := match t.wait with
          | some (.phase _ _ _ n _) => n
          | _ => s.seq
        let checked := match t.wait with
          | some (.phase _ _ _ _ c) => c
          | _ => false
        let waiting (c : Bool) : Prop := exec (.pwait w) s =
          .next (waits { s with seq := s.seq + 1 } b t (.phase off tok w.hnt.yld stamp c))
        (b.objBefore off stamp = true → waiting checked) ∧
        (b.objBefore off stamp = false → (o.init = true ∨ checked = true) →
          (o.phase ≠ tok → exec (.pwait w) s = .next (wentOn (s.passPhase b.coreId b.id t.tidx off tok.toNat) b t w id (t.pc + 1))) ∧
          (o.phase = tok → waiting true)) ∧
        (b.objBefore off stamp = false → o.init = false → checked = false →
          exec (.pwait w) s = .next (trapped s b t w (mkTrap 0x15 0 t.pc)))) ∧
      (issues s (.ptest w) w b t → quiet → o.init = true →
        let tok : BitVec 16 := (e.word w.b w.imm).setWidth 16
        exec (.ptest w) s = .next (wentOn (if o.phase ≠ tok then s.passPhase b.coreId b.id t.tidx off tok.toNat else s) b t w
          (fun x => x.setPred ((t.named w.d).getD 0) (o.phase != tok)) (t.pc + 1))) ∧
      (∀ i ∈ [Instr.bexp w, .ptest w], issues s i w b t → quiet → o.init = false →
        exec i s = .next (trapped s b t w (mkTrap 0x15 0 t.pc))))

/-- R235 and R239: the completion test; that a block being restored makes none is log entry 69 (DEDUCED). -/
def Obligations.PhasesComplete : Prop :=
  ∀ (s : State) (b : Block) (off : Nat),
    let o := b.obj off
    let met : Prop := b.stage ≠ .restoring ∧ o.init = true ∧ o.ovf = false ∧ o.arrd = o.expa ∧ o.land = o.expb
    let drops := ((b.xregs.find? (fun x => x.off == off)).map XReg.drops).getD 0
    s.block? b.id = some b →
    (¬ met → s.phaseTest b.id off = s) ∧
    (met → (b.threads.map Thread.tidx).Nodup → (s.ctx b.decl.ctx).traces 4 = false → b.stepping = [] →
      (∀ t ∈ b.threads, t.stepDue = false) →
      ∃ b', (s.phaseTest b.id off).block? b.id = some b' ∧
        b'.obj off = { o with phase := o.phase + 1, arrd := 0, expb := 0, land := 0, expa := o.expa - drops } ∧
        (∀ x ∈ b'.xregs, x.off = off → x.arrived = [] ∧ x.drops = 0) ∧
        (∀ i, tileState (b.tile i) = 1 → tileBarv (b.tile i) = true → tileBar (b.tile i) = off → s.slotBusy b.id i = false →
          b'.tile i = withTileState (b.tile i) 2) ∧
        (∀ t ∈ b.threads, (s.phaseTest b.id off).thread? b.id t.tidx =
          some (match b.waitsWith t off with
            | some (tok, yld) => if tok = o.phase + 1 then t else t.passed (t.pc + 1) yld
            | none => t)) ∧
        sameButSeen s (s.phaseTest b.id off) ∧ ∀ c, c ≠ b.id → (s.phaseTest b.id off).block? c = s.block? c)

/-- R245, R246, R305, of one lane. Log entries 39 (DEDUCED) and 33 (DEDUCED). -/
def Obligations.FencesComplete : Prop :=
  ∀ (w : Word) (s : State) (b : Block) (t : Thread),
    let e : Env := ⟨b, t⟩
    let core := b.coreId
    let idx := (e.word w.a w.imm).toNat
    let open' (s' : State) : Prop := ∀ l ∈ s'.lines core, s'.inRegion l.2 = true
    (issues s (.fence w) w b t →
      let kind := modF w 3 2
      let scope := modF w 0 3
      (t.fenced kind = true → ∃ s1, exec (.fence w) s = .next (wentOn s1 b t w id (t.pc + 1)) ∧
        (kind ≠ 2 → 2 < scope → open' s1) ∧ s1.mem = (if kind ≠ 1 ∧ 6 ≤ scope then s.writeBack (fun _ => true) else s).mem ∧
        s1.msc = (if kind ≠ 1 ∧ 6 ≤ scope then s.writeBack (fun _ => true) else s).msc ∧ s1.blocks = s.blocks ∧
        s1.regions = s.regions ∧ s1.sections = (if kind ≠ 1 ∧ 6 ≤ scope then s.writeBack (fun _ => true) else s).sections) ∧
      (t.fenced kind = false → exec (.fence w) s = .next (waits s b t (if kind = 1 then .loaded else .performed)))) ∧
    (issues s (.xfence w) w b t → exec (.xfence w) s = .next (wentOn
      ((if modF w 3 3 = 0 then s.dropLines core (fun l => l.ctx == b.decl.ctx) else s).unveil (pathOf (modF w 0 3))
        (pathOf (modF w 3 3)) (modF w 6 3) b.cluster b.id t.tidx) b t w id (t.pc + 1))) ∧
    (∀ i ∈ [Instr.acq w, .rel w], issues s i w b t → s.region? b.decl.ctx idx = none →
      exec i s = .next (trapped s b t w (mkTrap 1 10 t.pc))) ∧
    (∀ r x seq, s.region? b.decl.ctx idx = some r → s.seqOf e r = .ok (x, seq) →
      let v := e.dword .unsigned w.b w.imm
      let home := s.scBefore r.home
      let behind := b.seqHeld t x.key (e.seqStamp s)
      (∀ i ∈ [Instr.acq w, .rel w], issues s i w b t → (t.performed = false ∨ behind = true) →
        exec i s = .next (waits { s with seq := s.seq + 1 } b t (.behind x.key (e.seqStamp s)))) ∧
      (t.performed = true → behind = false →
        (issues s (.acq w) w b t → (modB w 0 = false ∨ v.toNat ≤ seq.toNat) →
          exec (.acq w) s = .next (wentOn ((home.acquireLines core r).orderSc e r.home s.seq) b t w
            (fun x => x.result w.d false [seq.extractLsb' 0 32, seq.extractLsb' 32 32]) (t.pc + 1))) ∧
        (issues s (.acq w) w b t → modB w 0 = true → seq.toNat < v.toNat →
          exec (.acq w) s = .next (waits s b t (.acq idx v))) ∧
        (issues s (.rel w) w b t →
          let new := if modB w 0 then v else e.seqBefore x.key seq + v
          ∃ s1, exec (.rel w) s = .next (wentOn s1 b t w id (t.pc + 1)) ∧ (2 < r.home → open' s1) ∧ s1.blocks = s.blocks ∧
            s1.mem = (home.coreWrite core x.key (leBytes 8 new.toNat)).mem))) ∧
    (∀ r tr, s.region? b.decl.ctx idx = some r → s.seqOf e r = .error tr → ∀ i ∈ [Instr.acq w, .rel w], issues s i w b t →
      exec i s = .next (if t.performed then trapped s b t w tr Need.both.acc else waits s b t .performed))

/-- R128, R129, R186 to R195, of one lane outside a replay whose group holds no waiting lane. -/
def Obligations.ControlWordsComplete : Prop :=
  ∀ (w : Word) (s : State) (b : Block) (t : Thread),
    let e : Env := ⟨b, t⟩
    let g := b.gidOf t.tidx
    let goes (i : Instr) (f : Thread → Thread) (pc : W32) : Prop :=
      issues s i w b t → s.replays b.id = false → exec i s = .next (wentOn s b t w f pc)
    let link (x : Thread) : Thread := x.result w.d w.hnt.trn [t.pc + 1]
    (issues s (.nop w) w b t → exec (.nop w) s = .next (wentOn s b t w id (t.pc + 1))) ∧
    (issues s (.yield w) w b t → exec (.yield w) s =
      .next (wentOn s b t { w with hnt := { w.hnt with yld := true } } id (t.pc + 1))) ∧
    goes (.bra w) id (t.pc + w.imm) ∧ goes (.brx w) id (e.word w.a 0 + w.imm) ∧ goes (.ret w) id (e.word w.a w.imm) ∧
    goes (.call w) link (t.pc + w.imm) ∧ goes (.callx w) link (e.word w.a w.imm) ∧
    (issues s (.waitc w) w b t →
      let c := t.cnt
      let fits : Prop := c.ld ≤ immF w 0 6 ∧ c.st ≤ immF w 8 6 ∧ c.cp ≤ immF w 16 6 ∧ c.tl ≤ immF w 24 6
      (fits → exec (.waitc w) s = .next (wentOn s b t w id (t.pc + 1))) ∧
      (¬ fits → exec (.waitc w) s = .next (waits s b t (.counters (immF w 0 6) (immF w 8 6) (immF w 16 6) (immF w 24 6))))) ∧
    (issues s (.waitt w) w b t →
      let v := e.dword .unsigned w.a w.imm
      (v.toNat ≤ s.ptime.toNat → exec (.waitt w) s = .next (wentOn s b t w id (t.pc + 1))) ∧
      (s.ptime.toNat < v.toNat → exec (.waitt w) s = .next (waits s b t (.time v w.hnt.yld)))) ∧
    (issues s (.jmset w) w b t → (∀ x ∈ b.threads, x.wait = none) →
      let k := modF w 0 3
      let op := modF w 3 2
      let v : W64 := if modB w 5 then 1#64 <<< (t.tidx % b.decl.width) else e.dword .unsigned w.a w.imm
      let old := b.joinMask g k
      let new := if op = 0 then v else if op = 1 then old ||| v else if op = 2 then old &&& ~~~v else old &&& v
      exec (.jmset w) s = .next (wentOn (s.mapGroup b.id g (fun x => { x with jm := NMap.put 0 x.jm k (b.clip g new) }))
        b t w id (t.pc + 1))) ∧
    (issues s (.tqset w) w b t →
      let k := (t.named w.d).getD 0
      exec (.tqset w) s = .next (wentOn (s.mapGroup b.id g (fun x => x.setTile k
        (combine (modF w 8 2) (x.tile k) (e.predOf w.a != modB w 7)))) b t w id (t.pc + 1))) ∧
    (issues s (.fmset w) w b t → exec (.fmset w) s = .next (wentOn (s.mapBlock b.id (fun x =>
      { x with fm := NMap.put 0 x.fm ((t.named w.d).getD 0) (e.word w.a w.imm) })) b t w id (t.pc + 1)))

/-- R193 on lanes of one group of a block that is no replay and traces no reconvergence. -/
def Obligations.JoinsRelease : Prop :=
  ∀ (w : Word) (s : State) (b : Block) (t : Thread),
    let k := modF w 0 3
    let g := b.gidOf t.tidx
    let lane (x : Thread) := x.tidx % b.decl.width
    let mask := b.joinMask g k
    let others := b.threads.filter (fun x => b.gidOf x.tidx == g && x.tidx != t.tidx)
    issues s (.join w) w b t → s.replays b.id = false → (s.ctx b.decl.ctx).traces 2 = false →
    (b.threads.map Thread.tidx).Nodup → (∀ x ∈ b.threads, x.stepDue = false) →
    (∀ x ∈ others, x.wait = none ∨ x.joins k = true) →
    (mask.getLsbD (lane t) = false → (∀ x ∈ others, x.wait = none) → exec (.join w) s = .next (wentOn s b t w id (t.pc + 1))) ∧
    (mask.getLsbD (lane t) = true → t.written = true →
      let met : Prop := ∀ n, n < 64 → mask.getLsbD n = true → n = lane t ∨ ∃ x ∈ others, x.joins k = true ∧ x.written = true ∧ lane x = n
      (¬ met → exec (.join w) s = .next (waits s b t (.join k w.hnt.yld))) ∧
      (met → ∃ s', exec (.join w) s = .next s' ∧ s'.thread? b.id t.tidx = some (t.passed (t.pc + 1) w.hnt.yld) ∧
        (∀ x ∈ others, s'.thread? b.id x.tidx = some (if x.joins k = true ∧ x.written = true then
          x.passed (x.pc + 1) (x.wait == some (.join k true)) else x)) ∧
        sameButSeen s s' ∧ ∀ c, c ≠ b.id → s'.block? c = s.block? c)) ∧
    (mask.getLsbD (lane t) = true → t.written = false → (∀ x ∈ others, x.wait = none) →
      exec (.join w) s = .next (waits s b t (.join k w.hnt.yld)))

/-- R189, of one lane outside a replay. That the exit is an event in the one order of the block's object events is log entry 38
(DEDUCED), not the rule. -/
def Obligations.ThreadsExit : Prop :=
  ∀ (w : Word) (s : State) (b : Block) (t : Thread), issues s (.exit w) w b t → s.replays b.id = false →
    b.xregs = [] → b.slots = [] → b.decl.team = 0 → (∀ x ∈ b.threads, x.wait = none ∧ x.tokens = []) →
    (∀ x ∈ s.sections, ¬ (x.blk = b.id ∧ x.tidx = t.tidx)) → (b.threads.map Thread.tidx).Nodup →
    let g := b.gidOf t.tidx
    ∃ s' x, exec (.exit w) s = .next s' ∧ s'.thread? b.id t.tidx = some x ∧ x.life = .exited ∧ x.wait = none ∧ x.regs = t.regs ∧
      x.pend.map (fun p => (p.op, p.ctr)) = t.pend.map (fun p => (p.op, p.ctr)) ∧ (b.quietBank t = true → x.tokens = []) ∧
      (∀ k, k ≠ t.tidx → s'.thread? b.id k = s.thread? b.id k) ∧ sameBut { s with seq := s.seq + 1 } s' ∧
      (∀ c, c ≠ b.id → s'.block? c = s.block? c) ∧
      ∃ b', s'.block? b.id = some b' ∧ (∀ h, h ≠ g → b'.group? h = b.group? h) ∧
        ∀ k, b'.joinMask g k = b.joinMask g k &&& ~~~(1#64 <<< (t.tidx % b.decl.width))

/-- R335, R336, R342: taking an exception. -/
def Obligations.TrapsEnterTheHandler : Prop :=
  (∀ (w : Word) (s : State) (b : Block) (t : Thread),
    (issues s (.trap w) w b t → exec (.trap w) s = .next (trapped s b t w { cause := 0x10, detail := w.imm, faddr := 0, pc := t.pc + 1 })) ∧
    (issues s (.bpt w) w b t → exec (.bpt w) s = .next (trapped s b t w { cause := 0x0E, detail := w.imm, faddr := 0, pc := t.pc }))) ∧
  ∀ (s : State) (b : Block) (t : Thread) (tr : Trap), s.block? b.id = some b → b.thread? t.tidx = some t →
    handled tr.cause = true → b.stage ≠ .prologue → (s.ctx b.decl.ctx).handler ≠ 0 → t.inside = false →
    let s' := s.takeTrap b.id t.tidx tr
    ∀ pc, (s.ctx b.decl.ctx).handler.toNat = b.decl.codebase.toNat + 12 * pc → pc < 2 ^ 32 →
      sameButThreads s s' b.id [t.tidx] ∧
      (t.cnt ≠ Counts.zero → s'.thread? b.id t.tidx = some { t with trap := some tr, wait := none }) ∧
      (t.cnt = Counts.zero → t.tokens = [] → ∃ x, s'.thread? b.id t.tidx = some x ∧
        x.pc = BitVec.ofNat 32 pc ∧ x.sup = true ∧ x.inTrap = true ∧ x.trap = none ∧ x.wait = none ∧
        x.regs = t.regs ∧ x.preds = t.preds ∧ x.fst = t.fst ∧ x.ix = t.ix ∧ x.b1 = t.b1 ∧ x.b2 = t.b2 ∧ x.b3 = t.b3 ∧ x.cnt = t.cnt ∧
        let word (i : Nat) : W32 := NMap.read 0 x.frame i
        word 0 = tr.pc ∧ (word 1).toNat % 256 = tr.cause ∧ word 2 = tr.detail ∧ word 4 ++ word 3 = tr.faddr ∧ word 5 = t.fst ∧
        (∀ k < 4, word (6 + k) = t.xreg k) ∧ word 11 ++ word 10 = t.b1 ∧ word 13 ++ word 12 = t.b2 ∧ word 15 ++ word 14 = t.b3 ∧
        word 16 = gstate t (b.group? (b.gidOf t.tidx)))

/-- R342: returning from an exception, in a block that is not being restored. -/
def Obligations.ReturnsFromTheHandler : Prop :=
  ∀ (w : Word) (s : State) (b : Block) (t : Thread),
    (issues s (.eret w) w b t → b.stage ≠ .restoring →
      let word (i : Nat) : W32 := NMap.read 0 t.frame i
      (t.inTrap = true → t.ppend = false → t.lastPreempt false = false →
        ∃ s' x, exec (.eret w) s = .next s' ∧ s'.thread? b.id t.tidx = some x ∧ sameButThreads s s' b.id [t.tidx] ∧
          x.pc = word 0 ∧ x.fst = word 5 ∧ (∀ k < 4, x.xreg k = word (6 + k)) ∧ x.b1 = word 11 ++ word 10 ∧ x.b2 = word 13 ++ word 12 ∧
          x.b3 = word 15 ++ word 14 ∧ x.sup = false ∧ x.inTrap = false ∧ x.regs = t.regs ∧ x.preds = t.preds ∧ x.cnt = t.cnt ∧
          x.frame = t.frame ∧ x.resumed = (t.resumed || t.lastPreempt true)) ∧
      (t.inTrap = true → t.ppend = false → t.lastPreempt false = true →
        ∃ s', exec (.eret w) s = .next s' ∧ s'.thread? b.id t.tidx = some { t with life := .parked, wait := none } ∧
          sameButThreads s s' b.id [t.tidx]) ∧
      (t.inTrap = true → t.ppend = true → t.cnt = Counts.zero → t.tokens = [] → ∀ pc, pc < 2 ^ 32 →
        (s.ctx b.decl.ctx).handler.toNat = b.decl.codebase.toNat + 12 * pc →
        ∃ s' x, exec (.eret w) s = .next s' ∧ s'.thread? b.id t.tidx = some x ∧ x.pc = BitVec.ofNat 32 pc ∧ x.ppend = false ∧
          x.inTrap = true ∧ x.sup = t.sup ∧ NMap.read 0 x.frame 0 = word 0 ∧ (NMap.read 0 x.frame 1).toNat % 256 = 0x11 ∧
          (∀ k, 5 ≤ k → k ≤ 15 → NMap.read 0 x.frame k = word k) ∧ sameButThreads s s' b.id [t.tidx])) ∧
    (s.latch = some ⟨b.id, [t.tidx], t.pc⟩ → s.block? b.id = some b → b.thread? t.tidx = some t →
      illegalDetail b (.eret w) false = 0 → t.sup = false → b.stage = .running → b.gang = none → s.replays b.id = false →
        exec (.eret w) s = .next (trapped s b t w (mkTrap 2 0 t.pc)))

/-- R194, R339, R340, R343, R383, of one lane. -/
def Obligations.SystemWordsComplete : Prop :=
  ∀ (w : Word) (s : State) (b : Block) (t : Thread),
    let e : Env := ⟨b, t⟩
    let next := t.pc + 1
    let g := b.gidOf t.tidx
    let debug := (s.ctx b.decl.ctx).obsCtl.getLsbD 6
    (issues s (.swrite w) w b t →
      let n := immF w 0 12
      let v := e.word w.a 0
      let refused : Prop := (n = 0 ∧ 32 ≤ v.toNat) ∨ (1 ≤ n ∧ n ≤ 4 ∧ ixOk v = false) ∨ (n = 0x11 ∧ 2 ≤ v.toNat)
      (refused → exec (.swrite w) s = .next (trapped s b t w (mkTrap 1 10 t.pc))) ∧
      (¬ refused →
        (n = 0 → exec (.swrite w) s = .next (wentOn s b t w (fun x => { x with fst := v }) next)) ∧
        (1 ≤ n → n ≤ 4 → exec (.swrite w) s = .next (wentOn s b t w (fun x => { x with ix := NMap.put 0 x.ix (n - 1) v }) next)) ∧
        (n = 0x11 → exec (.swrite w) s = .next (wentOn (s.stepGroup e (v.getLsbD 0)) b t w id next)) ∧
        (0x100 ≤ n → exec (.swrite w) s = .next (wentOn s b t w
          (fun x => { x with frame := NMap.put 0 x.frame (n - 0x100) v }) next)))) ∧
    (issues s (.isync w) w b t → ∃ s', exec (.isync w) s = .next (wentOn s' b t w id next) ∧ { s' with icache := s.icache } = s ∧
      ∀ c, s'.ilines c = if inScope (modF w 0 3) b.coreId c then [] else s.ilines c) ∧
    (issues s (.dbgmBrk w) w b t →
      (debug = false → exec (.dbgmBrk w) s = .next (wentOn s b t w id next)) ∧
      (debug = true → exec (.dbgmBrk w) s = .next (trapped s b t w { cause := 0x0E, detail := w.imm, faddr := 0, pc := next }))) ∧
    (issues s (.dbgmStepon w) w b t → exec (.dbgmStepon w) s = .next (wentOn
      (if debug then s.stepGroup e true else s) b t w id next)) ∧
    (issues s (.dbgmStepoff w) w b t → exec (.dbgmStepoff w) s = .next (wentOn
      (if debug then s.stepGroup e false else s) b t w id next)) ∧
    (s.block? b.id = some b → ∀ on : Bool,
      let s' := s.stepGroup e on
      sameBut s s' ∧ (∀ c, c ≠ b.id → s'.block? c = s.block? c) ∧
      ∃ b', s'.block? b.id = some b' ∧ (∀ h, h ≠ g → b'.group? h = b.group? h) ∧
        b'.group? g = (b.group? g).map (fun x => { x with step := on }) ∧
        ∀ k x, b.thread? k = some x → b'.thread? k = some (
          let meets := match x.wait with
            | some (.join _ _) => true
            | some (.meet _ _ _ _) => true
            | _ => false
          if on && b.gidOf k == g && meets then { x with wait := none } else x))

/-- R104, R106, of one lane. -/
def Obligations.PairedHalvesReadFirst : Prop :=
  ∀ (p : Pair) (s : State) (b : Block) (t : Thread),
    let i : Instr := .pairedWord p
    let w := halfWord p p.h0
    let w1 := halfWord p p.h1
    let e : Env := ⟨b, t⟩
    let f0 := halfForm p.h0
    let f1 := halfForm p.h1
    let r (h : Half) := halfResult h.sub.toNat h.m (e.word (halfOpd h.a) 0) (e.word (halfOpd h.b) 0) (t.reg h.d.toNat)
    issues s i w b t →
    ((t.awaits f0 w = true ∨ t.awaits f1 w1 = true) → exec i s = .next (waits s b t (.token (t.awaited f0 w ++ t.awaited f1 w1)))) ∧
    (t.awaits f0 w = false → t.awaits f1 w1 = false →
      ((t.rangesOk b.decl f0 w = false ∨ t.rangesOk b.decl f1 w1 = false) → exec i s = .next (trapped s b t w (mkTrap 3 0 t.pc))) ∧
      (t.rangesOk b.decl f0 w = true → t.rangesOk b.decl f1 w1 = true → ∃ s' x, exec i s = .next s' ∧
        s'.thread? b.id t.tidx = some x ∧ sameButThreads s s' b.id [t.tidx] ∧ x.pc = t.pc + 1 ∧
        x.b1 = (r p.h1).1.setWidth 64 ∧ x.b2 = (r p.h0).1.setWidth 64 ∧ x.b3 = t.b1 ∧ x.fst = t.fst ||| (r p.h0).2 ||| (r p.h1).2 ∧
        x.reg p.h1.d.toNat = (r p.h1).1 ∧ (p.h0.d ≠ p.h1.d → x.reg p.h0.d.toNat = (r p.h0).1) ∧
        (∀ n, n ≠ p.h0.d.toNat → n ≠ p.h1.d.toNat → x.reg n = t.reg n) ∧ x.preds = t.preds))

/-- R197 to R205, with the results of `crossRes`. -/
def Obligations.CrossLaneWordsRelease : Prop :=
  ∀ (i : Instr) (w : Word) (m : Meet) (s : State) (b : Block) (u : Bundle) (g : Nat), crossOf i = some (w, m) →
    bundleArrives s i w b u g →
    let here := b.threads.filter (fun t => u.lanes.contains t.tidx)
    let member (t : Thread) : Member := ⟨⟨b, t⟩, b.clip g ((Env.mk b t).namedSet w (t.guard w.grd)), t.guard w.grd⟩
    ((∀ t ∈ here, ∀ n, (member t).named.getLsbD n = true → ∃ x ∈ here, x.tidx % b.decl.width = n) →
      ∃ s', exec i s = .next s' ∧ sameButThreadsSeen s s' b.id u.lanes ∧ ∀ t ∈ here, s'.thread? b.id t.tidx =
        some ((if t.guard w.grd then t.apply w (crossRes m w (here.map member) (member t)) else t).passed (t.pc + 1) w.hnt.yld)) ∧
    ((∀ t ∈ here, ∃ n, (member t).named.getLsbD n = true ∧ ∀ x ∈ here, x.tidx % b.decl.width ≠ n) →
      ∃ s', exec i s = .next s' ∧ sameButThreads s s' b.id u.lanes ∧ ∀ t ∈ here, s'.thread? b.id t.tidx =
        some { t with wait := some (.meet m w (member t).named (t.guard w.grd)) })

/-- R270 and R275, with the checks of `engineIssue`, of one lane in a running block. -/
def Obligations.EngineWordsIssue : Prop :=
  ∀ (i : Instr) (w : Word) (m : Meet) (s : State) (b : Block) (t : Thread), engineOf i = some (w, m) →
    bundleArrives s i w b ⟨b.id, [t.tidx], t.pc⟩ (b.gidOf t.tidx) → b.thread? t.tidx = some t → b.stage = .running →
    let guard := t.guard w.grd
    let named := (Env.mk b t).namedSet w guard
    let s1 := (s.hold b.id t.tidx (.meet m w named guard)).meetKnow b [t.tidx]
    let s2 := s.meetKnow b [t.tidx]
    let b1 := b.mapThread t.tidx (fun x => { x with wait := some (.meet m w named guard) })
    let e : Env := ⟨b1, { t with wait := some (.meet m w named guard) }⟩
    b.clip (b.gidOf t.tidx) named &&& ~~~(1#64 <<< (t.tidx % b.decl.width)) = 0 →
    (guard = false → exec i s = .next (wentOn s2 b t w id (t.pc + 1))) ∧
    (guard = true →
      (engineIssue m w e s1 = .ok none → exec i s = .next (wentOn s2 b t w id (t.pc + 1))) ∧
      (∀ y, engineIssue m w e s1 = .ok (some y) → ∃ s' x, exec i s = .next s' ∧ s'.thread? b.id t.tidx = some x ∧ x.pc = t.pc + 1 ∧
        x.wait = none ∧ x.cnt = t.cnt.add .cp ∧ x.regs = t.regs ∧
        ∃ c, s'.cmds = s.cmds ++ [c] ∧ c.job = y.2.1 ∧ c.start = y.2.2 ∧ c.stage = .queued ∧ c.blk = b.id ∧ c.tidx = t.tidx ∧
          c.lanes = [t.tidx] ∧ c.cluster = b.cluster ∧ c.ctx = b.decl.ctx) ∧
      (∀ tr, engineIssue m w e s1 = .error tr → replayable tr.cause = false → failOp tr.cause = false → handled tr.cause = false →
        b.gang = none → exec i s = .next (s1.takeTrap b.id t.tidx tr).endWord))

/-- R250 to R254, R262, R272, of one lane. That a lane whose bit is clear passes before its handle is looked at and that ILLEGAL comes
before the faults of R262 (log entry 47), the full reservation table (log entry 49) and the moment of the check of the format register
(log entry 51) are DEDUCED. -/
def Obligations.ContractionArrivalsAreRecorded : Prop :=
  ∀ (i : Instr) (w : Word) (kind : Nat) (s : State) (b : Block) (t : Thread), ctrOf i = some (w, kind) → issues s i w b t →
    t.cnt.tl < 63 →
    let e : Env := ⟨b, t⟩
    let jm := b.joinMask (b.gidOf t.tidx) (immF w 20 3)
    let bit := jm.getLsbD (t.tidx % b.decl.width)
    let p := paramsOf w kind
    let con := e.tile (immF w 23 4)
    let ends (s' : State) : Prop := exec i s = .next (s'.settle b.id).endWord
    let pass (s' : State) : Prop := ends (s'.mapThread b.id t.tidx (fun x => x.passed (t.pc + 1) w.hnt.yld))
    let waits (s' : State) (k : Wait) : Prop := ends (({ s' with seq := s'.seq + 1 } : State).hold b.id t.tidx k)
    let traps (tr : Trap) : Prop := ends (s.takeTrap b.id t.tidx tr)
    let bad := if kind = 1 then ctrsFault e w else none
    (modF w 4 2 = 0 → bit = false → pass s) ∧
    ((modF w 4 2 ≠ 0 ∨ bit = true) →
      (∀ d, s.resolve e ((e.tuple w.a 1).getD 0 0) = .error d → traps (mkTrap 9 d t.pc)) ∧
      (∀ ob k sl, s.resolve e ((e.tuple w.a 1).getD 0 0) = .ok (ob, k, sl) →
        let si := sl.indexOf b t.tidx
        let s1 := if sl.inst.isNone then s.openInst ob k sl p jm else s
        let stamp := e.slotStamp s ob.id k
        (suits p sl = false → traps (mkTrap 1 10 t.pc)) ∧
        (suits p sl = true → ∀ x, (s1.slot? ob.id k).bind Slot.inst = some x →
          let mayArrive := x.expected.contains si && !x.arrived.contains si
          (mayArrive = true → x.params ≠ p → traps (mkTrap 1 10 t.pc)) ∧
          (mayArrive = false ∨ x.params = p → ∀ tr, bad = some tr → traps tr) ∧
          (bad = none → sl.inst = none → s.heldAhead ob.id k stamp false = true → mayArrive = false ∨ x.params = p →
            waits s (.closure ob.id k stamp)) ∧
          (bad = none → (sl.inst = none → s.heldAhead ob.id k stamp false = false) → mayArrive = false →
            waits s1 (.closure ob.id k stamp)) ∧
          (bad = none → (sl.inst = none → s.heldAhead ob.id k stamp false = false) → mayArrive = true →
            (x.params = p → p.fmt = 9 → pnfOf (NMap.read 0 b.fm p.low) = none → traps (mkTrap 0x14 0 t.pc)) ∧
            (x.params = p → (p.fmt = 9 → (pnfOf (NMap.read 0 b.fm p.low)).isSome = true) →
              (con = false → pass (s1.recordArrival e w kind ob k si true false)) ∧
              (con = true → s1.postPass ob k p.fmt = none → waits s (.table ob.id k stamp)) ∧
              (∀ s2, con = true → s1.postPass ob k p.fmt = some s2 → pass (s2.recordArrival e w kind ob k si true true)))))))

/-- R248 to R271, of one lane. That ALD and AST act on the cells at issue is log entry 50, and AST's flag of a signalling NaN log
entry 24 (both DEDUCED). -/
def Obligations.AccumulatorWordsComplete : Prop :=
  ∀ (w : Word) (s : State) (b : Block) (t : Thread), t.cnt.tl < 63 →
    let e : Env := ⟨b, t⟩
    let h := e.word w.a 0
    let form := modF w 0 2
    let moves (i : Instr) : Prop := i ∈ [Instr.cwd w, .afree w, .azero w, .ald w, .ast w, .astat w]
    (issues s (.aalloc w) w b t →
      ((∀ sl ∈ b.slots, sl.state ≠ .free) → exec (.aalloc w) s = .next (wentOn s b t w
        (fun x => x.result w.d false [0xFFFFFFFF#32]) (t.pc + 1))) ∧
      (∀ k sl, b.slots[k]? = some sl → sl.state = .free → (∀ j y, j < k → b.slots[j]? = some y → y.state ≠ .free) →
        exec (.aalloc w) s = .next (wentOn (s.mapSlot b.id k (fun y => {
            y with
            state := .idle, fmt := modF w 0 2, own := ownOf (modF w 2 2), group := b.gidOf t.tidx, cells := [], status := 0 }))
          b t w (fun x => x.result w.d false [handleOf sl.gen b.brank k]) (t.pc + 1)))) ∧
    (∀ i, moves i → issues s i w b t → ∀ d, s.resolve e h = .error d → exec i s = .next (trapped s b t w (mkTrap 9 d t.pc))) ∧
    (∀ ob k sl, s.resolve e h = .ok (ob, k, sl) →
      let si := sl.indexOf b t.tidx
      let self := sl.expects si
      let stamp := e.slotStamp s ob.id k
      let locked := s.interlock ob.id k stamp sl
      let later (s : State) : State := { s with seq := s.seq + 1 }
      let (c0, n) := rowCells w (e.word w.b w.imm)
      (issues s (.cwd w) w b t → exec (.cwd w) s = .next (wentOn (s.mapSlot ob.id k (fun y =>
        if y.state = .opened ∧ y.expects si = true then y.leave si
        else if y.withdrawn.contains si then y else { y with withdrawn := y.withdrawn ++ [si] })) b t w id (t.pc + 1))) ∧
      (∀ i ∈ [Instr.afree w, .azero w, .ald w, .ast w], issues s i w b t →
        (i = .azero w → e.tile (immF w 0 4) = true) → (i = .ald w ∨ i = .ast w → formSuits form sl.fmt = true) →
        (self = true → exec i s = .next (trapped s b t w (mkTrap 0xA 0 t.pc))) ∧
        (self = false → locked = true → exec i s = .next (waits (later s) b t (.acc ob.id k stamp (decide (i = .afree w)))))) ∧
      (self = false → locked = false →
        (issues s (.afree w) w b t → exec (.afree w) s = .next (wentOn (s.mapSlot ob.id k (fun y =>
          { y with state := .free, gen := y.gen + 1, withdrawn := [] })) b t w id (t.pc + 1))) ∧
        (issues s (.azero w) w b t → e.tile (immF w 0 4) = true → exec (.azero w) s = .next (counted
          (s.mapSlot ob.id k (fun y => { y with cells := [], status := 0 })) b t w .tl .done)) ∧
        (issues s (.ald w) w b t → formSuits form sl.fmt = true →
          let rs := (List.range n).map (fun i => loadCell form sl.fmt (sl.cell (c0 + i)))
          exec (.ald w) s = .next (counted s b t w .tl (.deliver (t.dests w.d (rowRegs w)) (rs.map Prod.fst).flatten []
            (rs.foldl (fun f r => f ||| r.2) 0)))) ∧
        (issues s (.ast w) w b t → formSuits form sl.fmt = true →
          let (c0, n) := rowCells w (e.word w.b 0)
          let per := if form = 1 then 2 else 1
          let rs := (List.range n).map (fun i => storeCell form sl.fmt (((e.tuple w.c (rowRegs w)).drop (per * i)).take per))
          exec (.ast w) s = .next (counted (s.mapSlot ob.id k (fun y => { y with
            cells := rs.zipIdx.foldl (fun m (r, i) => NMap.put 0 m (c0 + i) r.1) y.cells })) b t w .tl
            (.deliver [] [] [] (rs.foldl (fun f r => f ||| r.2) 0))))) ∧
      (issues s (.azero w) w b t → e.tile (immF w 0 4) = false → exec (.azero w) s = .next (counted s b t w .tl .done)) ∧
      (issues s (.astat w) w b t → s.statusWait ob.id k stamp sl = false → exec (.astat w) s = .next (counted
        (s.mapSlot ob.id k (fun y => if modB w 0 then { y with status := 0 } else y)) b t w .tl
        (.deliver (t.dests w.d 1) [sl.image] [] 0))) ∧
      (issues s (.astat w) w b t → s.statusWait ob.id k stamp sl = true →
        exec (.astat w) s = .next (waits (later s) b t (.drains ob.id k stamp))))

/-- R39 to R46, of one lane. That LPSET's REG_RANGE comes before ILLEGAL (log entry 18), that LAUNCH waits for stores alone and behind an
earlier lane (log entry 75) and the reasons (log entry 71) are DEDUCED. -/
def Obligations.LaunchWordsComplete : Prop :=
  ∀ (w : Word) (s : State) (b : Block) (t : Thread),
    let e : Env := ⟨b, t⟩
    let addr := e.dword .unsigned w.a 0
    let lid := (e.word w.a 0).toNat
    let put (v : Nat) (x : Thread) : Thread := x.result w.d false [BitVec.ofNat 32 v]
    let mine (a : LaunchAns) : Bool := a.blk == b.id && a.tidx == t.tidx && a.pc == t.pc
    (issues s (.launch w) w b t →
      (∀ a, s.answers.find? mine = some a →
        let s1 : State := { s with answers := s.answers.filter (fun x => !mine x) }
        (a.reason = 0 → exec (.launch w) s = .next (wentOn s1 b t w (put a.lid) (t.pc + 1))) ∧
        (a.reason ≠ 0 → exec (.launch w) s = .next (trapped s1 b t w (mkTrap 0x16 a.reason t.pc)))) ∧
      (s.answers.find? mine = none → s.submitted e = true → exec (.launch w) s = .next (waits s b t .launch)) ∧
      (s.answers.find? mine = none → s.submitted e = false →
        (∀ d, misaligned addr 64 = some d → exec (.launch w) s = .next (trapped s b t w
          { cause := 4, detail := d, faddr := addr, pc := t.pc })) ∧
        (misaligned addr 64 = none → ∀ bs, s.readLaunch e addr = .ok bs →
          let r := LaunchRec.ofBytes bs
          let reason := refusal bs (if bs.length ≤ 256 then [] else dmapOf bs) (s.devq b.decl.ctx).isSome s.pod.inPod
          (s.forPod r = false → reason ≠ 0 → exec (.launch w) s = .next (trapped s b t w (mkTrap 0x16 reason t.pc))) ∧
          (∀ ps, (reason = 0 ∧ s.readParams e r = .ok ps) ∨ (reason ≠ 0 ∧ s.forPod r = true ∧ ps = []) →
            ((t.written = false ∨ e.laneAhead = true) → exec (.launch w) s = .next (waits s b t .written)) ∧
            (t.written = true → e.laneAhead = false →
              ∃ s', exec (.launch w) s = .next s' ∧ s'.thread? b.id t.tidx = some { t with wait := some .launch } ∧
                (s.forPod r = false → ∃ q, s'.requests = s.requests ++ [q] ∧ q.blk = b.id ∧ q.tidx = t.tidx ∧ q.pc = t.pc ∧
                  q.ctx = b.decl.ctx ∧ q.addr = addr ∧ q.record = r) ∧
                (s.forPod r = true → ∃ q, s'.pod.outbox = s.pod.outbox ++ [q] ∧ q.src = some (.thread b.id t.tidx) ∧ q.pc = t.pc ∧
                  q.ctx = b.decl.ctx ∧ q.addr = addr ∧ q.record = bs ∧ q.params = ps)))))) ∧
    (issues s (.lctlQuery w) w b t → exec (.lctlQuery w) s = .next (wentOn s b t w (put (s.query b.decl.ctx lid)) (t.pc + 1))) ∧
    (∀ hard : Bool, let i : Instr := if hard then .lctlKill w else .lctlCancel w
      issues s i w b t →
      let r := s.cancelBy b.decl.ctx lid hard
      exec i s = .next ((r.2.mapThread b.id t.tidx (put r.1)).completeLane b.id t.tidx (t.pc + 1) w.hnt.yld false).endWord ∧
      (r.1 ≠ 0 → exec i s = .next (wentOn s b t w (put r.1) (t.pc + 1))) ∧
      ((∀ l ∈ s.launches, ¬ (l.lid = lid ∧ l.ctx = b.decl.ctx)) → r.1 = 1)) ∧
    (issues s (.lpset w) w b t → ∀ l, s.launch? b.decl.lid = some l →
      let op := modF w 0 3
      let a := e.word w.a w.imm
      let v := e.word w.b w.imm
      ((e.inArray w.a = false ∨ e.inArray w.b = false) → exec (.lpset w) s = .next (trapped s b t w (mkTrap 3 0 t.pc))) ∧
      (e.inArray w.a = true → e.inArray w.b = true →
        (e.inPrologue w.a = false ∨ e.inPrologue w.b = false ∨ lpsetOk op a.toNat l.record = false) →
        exec (.lpset w) s = .next (trapped s b t w (mkTrap 1 10 t.pc))) ∧
      (e.inArray w.a = true → e.inArray w.b = true → e.inPrologue w.a = true → e.inPrologue w.b = true →
        lpsetOk op a.toNat l.record = true →
        ∃ s', exec (.lpset w) s = .next (wentOn s' b t w id (t.pc + 1)) ∧ s'.launch? b.decl.lid = some (l.lpset op a v) ∧
          ∀ n, n ≠ b.decl.lid → s'.launch? n = s.launch? n)) ∧
    (∀ k : Nat, let i : Instr := if k = 0 then .lendCancel w else if k = 1 then .lendLaunch w else .lendRepeat w
      let passes := if k = 0 then 0 else if k = 1 then 1 else (e.word w.a w.imm).toNat
      issues s i w b t → ∀ l, s.launch? b.decl.lid = some l →
      ∃ s', exec i s = .next s' ∧ s' = (s.endPrologue b.id b.decl.lid passes).endWord ∧
        (passes ≠ 0 → l.record.gridReason l.deps = 0 → s'.block? b.id = none ∧
          s'.launch? b.decl.lid = some { l with state := .held, passes := passes }))

/-- R316 to R318 and R332, of one lane. That an FXB waits behind another although slots are free is log entry 43, and that FXA passes
after the commit is log entry 44 (both DEDUCED). -/
def Obligations.SectionWordsComplete : Prop :=
  ∀ (w : Word) (s : State) (b : Block) (t : Thread),
    let e : Env := ⟨b, t⟩
    let free := s.fxFree b.cluster
    (issues s (.fxb w) w b t → s.sectionOf b.id t.tidx = none →
      let ahead := s.fxAhead b.cluster (match t.wait with | some (.fxSlot n) => n | _ => s.seq)
      (∀ k, free.head? = some k → ahead = 0 → exec (.fxb w) s = .next (wentOn (s.openSection e w k) b t w id (t.pc + 1)) ∧
          ∃ x, (s.openSection e w k).section? b.cluster k = some x ∧ x.blk = b.id ∧ x.tidx = t.tidx ∧ x.state = .opened ∧
            x.target = t.pc + w.imm ∧ x.vstatus = t.named w.d ∧ x.reads = [] ∧ x.writes = []) ∧
      (free = [] ∨ ahead ≠ 0 → ∃ n, exec (.fxb w) s = .next (waits { s with seq := s.seq + 1 } b t (.fxSlot n)))) ∧
    (issues s (.fxe w) w b t →
      (s.sectionOf b.id t.tidx = none → exec (.fxe w) s = .next (trapped s b t w (mkTrap 1 10 t.pc))) ∧
      (∀ x, s.sectionOf b.id t.tidx = some x →
        (x.state = .committed → exec (.fxe w) s = .next (wentOn (s.deliverSection x) b t w id (t.pc + 1))) ∧
        (x.state = .opened → exec (.fxe w) s = .next (waits (({ s with seq := s.seq + 1 } : State).mapSection x.cluster x.slot
          (fun y => { y with state := .ended, ended := s.seq, waitsOn := [] })) b t .fxCommit)) ∧
        (x.state = .ended → exec (.fxe w) s = .next (waits s b t .fxCommit)))) ∧
    (issues s (.fxa w) w b t →
      (s.sectionOf b.id t.tidx = none → exec (.fxa w) s = .next (wentOn s b t w id (t.pc + 1))) ∧
      (∀ x, s.sectionOf b.id t.tidx = some x → x.state = .committed → exec (.fxa w) s = .next (wentOn s b t w id (t.pc + 1))) ∧
      (∀ x, s.sectionOf b.id t.tidx = some x → x.live = true → s.section? x.cluster x.slot = some x →
        ∃ s' y, exec (.fxa w) s = .next s' ∧ s'.section? x.cluster x.slot = some y ∧ y.state = .aborted ∧ y.cause = 1 ∧
          y.target = x.target ∧ y.blk = x.blk ∧ y.tidx = x.tidx ∧ s'.mem = s.mem))

/-- R125, R126, R242, of a thread without arrivals to settle, in a block whose threads wait for nothing. That one step performs all
elements of a vector access is log entry 26 (DESIGN CHOICE), and that an atomic too raises ECC_UNCORR log entry 30 (DEDUCED). -/
def Obligations.OperationsArePerformed : Prop :=
  ∀ (s : State) (b : Block) (t : Thread) (p : Pend),
    let ev : Instr := match p.ctr with
      | .st => .storePerformed b.id t.tidx p.op
      | .tl => .tileOpRetire b.id t.tidx p.op
      | _ => .loadReturn b.id t.tidx p.op
    s.block? b.id = some b → b.thread? t.tidx = some t → t.pend.find? (fun q => q.op == p.op) = some p → p.ctr ≠ .cp →
    b.held t p = false → p.act.isCtrs = false → s.appendWaits b t p.act = false →
    (∀ x, (p.act.reads b.id).find? s.poisoned = some x →
      exec ev s = .next (s.takeTrap b.id t.tidx (memTrap 0xC 0 x.va p.pc false)).tick) ∧
    ((p.act.reads b.id).find? s.poisoned = none → s.appendMiss b t p.act = none →
      let s0 := ((s.sawAll b t p).performAct b t p).carry s b t p
      (s0.leftOf b.id t.tidx p.op = none → exec ev s = .next ((s0.finishOp b.id t.tidx p.op).settled b.id t.tidx).tick) ∧
      (∀ a, s0.leftOf b.id t.tidx p.op = some a → exec ev s = .next (s0.setAct b.id t.tidx p.op a).tick) ∧
      ((∀ x ∈ b.threads, x.wait = none ∧ x.tokens = []) → (b.threads.map Thread.tidx).Nodup →
        let s1 := s0.finishOp b.id t.tidx p.op
        (∀ k bs, p.act = .store [(.phys k, bs)] → exec ev s = .next s1.tick ∧
          (∀ a, s1.byte a = if k ≤ a ∧ a < k + bs.length then bs.getD (a - k) 0 else s.byte a) ∧
          ∃ x, s1.thread? b.id t.tidx = some x ∧ x.cnt = t.cnt.sub p.ctr ∧ x.pend = t.pend.filter (fun q => q.op != p.op) ∧
            x.regs = t.regs) ∧
        (∀ k va kind v c mrg dst, p.act = .atom (.phys k) va kind v c 0 mrg dst → (∀ f, kind ≠ .flt 0 f) →
          let old := s.word k kind.size
          exec ev s = .next s1.tick ∧
          (∀ a, s1.byte a = if k ≤ a ∧ a < k + kind.size then
            (leBytes kind.size (kind.apply old v.toNat c.toNat)).getD (a - k) 0 else s.byte a) ∧
          ∃ x, s1.thread? b.id t.tidx = some x ∧ x.cnt = t.cnt.sub p.ctr ∧
            ∀ r, dst = [some r] → kind.size = 4 → x.reg r = BitVec.ofNat 32 old) ∧
        (∀ o va n k sx nc ev' dst, p.act = .load (.scratch b.id o) va n k sx nc ev' dst → exec ev s = .next s1.tick ∧
          s1.mem = s.mem ∧ ∃ x, s1.thread? b.id t.tidx = some x ∧ x.cnt = t.cnt.sub p.ctr ∧
            ∀ r, dst = [some r] → n = 4 → k = 1 → x.reg r = BitVec.ofNat 32 (leNat (b.sbytes o 4)))))

/-- R312 to R314, R401, of a thread without arrivals to settle in a block whose threads wait for nothing. -/
def Obligations.PortEventsComplete : Prop :=
  (∀ (s : State) (b : Block) (t : Thread) (p : Pend) (late : Bool) (src : Loc) (va n k : Nat) (sx nc ev : Bool)
      (dst : List (Option Nat)),
    s.block? b.id = some b → b.thread? t.tidx = some t → t.pend.find? (fun q => q.op == p.op) = some p → b.held t p = false →
    p.act = .load src va n k sx nc ev dst → src.remote = true →
    (∀ x ∈ b.threads, x.wait = none ∧ x.tokens = []) → (b.threads.map Thread.tidx).Nodup →
    let lo := if late then 48 else 32
    let field (v : W64) : Nat := (v.extractLsb' lo 16).toNat
    ∃ s' x, exec (if late then .portReadTimeout b.id t.tidx p.op else .portReadError b.id t.tidx p.op) s = .next s' ∧
      s'.thread? b.id t.tidx = some x ∧ x.cnt = t.cnt.sub p.ctr ∧ x.pc = t.pc ∧ x.trap = t.trap ∧
      (∀ r, some r ∈ dst → x.reg r = 0xFFFFFFFF#32) ∧ (∀ r, some r ∉ dst → x.reg r = t.reg r) ∧ s'.mem = s.mem ∧
      field s'.hpErr = min 65535 (field s.hpErr + 1) ∧
      ∀ i, (i < lo ∨ lo + 16 ≤ i) → s'.hpErr.getLsbD i = s.hpErr.getLsbD i) ∧
  (∀ (s : State) (b : Block) (t : Thread) (p : Pend) (k : Nat) (bs : List Byte),
    s.block? b.id = some b → b.thread? t.tidx = some t → t.pend.find? (fun q => q.op == p.op) = some p → b.held t p = false →
    p.act = .store [(.phys k, bs)] → (Loc.phys k).remote = true →
    (∀ x ∈ b.threads, x.wait = none ∧ x.tokens = []) → (b.threads.map Thread.tidx).Nodup →
    ∃ s' x, exec (.peerWriteRefused b.id t.tidx p.op) s = .next s' ∧ s'.thread? b.id t.tidx = some x ∧
      x = { t with cnt := t.cnt.sub p.ctr, pend := t.pend.filter (fun q => q.op != p.op) } ∧ s'.mem = s.mem ∧
      (s'.hpErr.extractLsb' 0 32).toNat = min (2 ^ 32 - 1) ((s.hpErr.extractLsb' 0 32).toNat + 1)) ∧
  ∀ (s : State) (a : Nat) (bs : List Byte), (remoteKey a = true → s.msc = [] ∧ s.portAtoms a bs.length = []) →
    ∃ s', exec (.peerWrite a bs) s = .next s' ∧
    ∀ k, s'.byte k = if a ≤ k ∧ k < a + bs.length then bs.getD (k - a) 0 else s.byte k

/-- R114 to R116, R195, R237, R335, R346: the events of issue. That pod time runs on between steps and a date sets it is log entry 99
(DESIGN CHOICE); that prologues run on a core numbered 256 is log entry 76 (DEDUCED), and that firmware runs on one numbered 257 log
entry 127 (DESIGN CHOICE). -/
def Obligations.IssueAndWaitsComplete : Prop :=
  (∀ (s : State) (core sched : Nat), s.latch = none → sched < 2 → core < 258 → s.replaying = [] →
    exec (.issueCycle core sched) s = .next (s.cycle core sched).tick ∧
    ∀ u, (s.cycle core sched).latch = some u → u.lanes.length ≤ 64 ∧
      ∃ b ∈ s.blocks.map Prod.snd, b.id = u.blk ∧ ∀ k ∈ u.lanes, ∃ t ∈ b.threads, t.tidx = k ∧ t.pc = u.pc) ∧
  (∀ (s : State) (b : Block) (t : Thread), s.block? b.id = some b → b.thread? t.tidx = some t →
    (∃ s' x, exec (.yieldExpiry b.id t.tidx) s = .next s' ∧ s'.thread? b.id t.tidx = some x ∧ sameButThreads s s' b.id [t.tidx] ∧
      (t.yieldBundles = 0 ∨ t.yieldCc = 0 → x = { t with yieldBundles := 0, yieldCc := 0 })) ∧
    (∃ s' x, exec (.resultWrite b.id t.tidx) s = .next s' ∧ s'.thread? b.id t.tidx = some x ∧ sameButThreads s s' b.id [t.tidx] ∧
      x.tokens.map Token.op = (t.tokens.filter (fun k => k.val.isNone)).map Token.op ∧
      ∀ k v r, t.tokens = [k] → k.val = some v → k.dst = some r → x.reg r = v) ∧
    (∀ v y, t.wait = some (.time v y) → s.canIssue b t = true → unstepped b t →
      ∃ s', exec (.timeWaitExpiry b.id t.tidx) s = .next s' ∧ s'.thread? b.id t.tidx = some (t.passed (t.pc + 1) y) ∧
        v.toNat ≤ s'.ptime.toNat ∧ s.ptime.toNat ≤ s'.ptime.toNat ∧ s'.mem = s.mem) ∧
    (∀ tr, t.trap = some tr → handled tr.cause = true → t.cnt = Counts.zero → t.inTrap = false → s.sectionOf b.id t.tidx = none →
      exec (.trapEntry b.id t.tidx) s = .next (s.enterHandler b t tr).tick)) ∧
  ∀ (s : State) (ctx page acc : Nat) (leaf : W64) (lo : Nat), s.walk ctx (page * 65536) = .ok (leaf, lo) → acc / 4 % 2 = 0 →
    s.xinv = none → ∃ s', exec (.translationWalk ctx page acc) s = .next s' ∧ s'.mem = s.mem ∧ s'.blocks = s.blocks ∧
      ∃ core, (∀ k ∈ coreCaches core, ⟨k, ctx, page * 65536 / 2 ^ lo, leaf, lo⟩ ∈ s'.tlb) ∧
        ∀ x ∈ s'.tlb, x ∈ s.tlb ∨ ∃ k ∈ coreCaches core, x = ⟨k, ctx, page * 65536 / 2 ^ lo, leaf, lo⟩

/-- R275, R281, R282, R287, R295. The pieces of a copy (log entry 31), the progress of a Sheaf (log entry 57) and the moment to which a
timed start sets pod time (log entry 99) are DESIGN CHOICES. -/
def Obligations.EngineCommandsProceed : Prop :=
  ∀ (s : State) (c : Cmd), s.cmd? c.id = some c →
    (s.acceptable c = true → c.job.over = false → ∃ s' d, exec (.commandAccept c.id) s = .next s' ∧ s'.cmd? c.id = some d ∧
      d.job = c.job ∧ d.lanes = [] ∧
      (d.stage = if (c.start.map (fun t => decide (s.ptime.toNat < t.toNat))).getD false then .held else .running) ∧ s'.mem = s.mem ∧
      (c.gone = false → ∀ k x, s.thread? c.blk k = some x → c.lanes = [k] →
        s'.thread? c.blk k = some { x with cnt := x.cnt.sub .cp })) ∧
    (∀ v, c.stage = .held → c.start = some v → ∃ s' d, exec (.timedCommandStart c.id) s = .next s' ∧ s'.cmd? c.id = some d ∧
      d = { c with stage := .running } ∧ v.toNat ≤ s'.ptime.toNat ∧ s'.mem = s.mem) ∧
    (∀ dir r org dst evict fill t first count, c.job = .copy dir r org dst evict fill [t] → c.stage = .running →
      holdsRun first count t.todo = true → s.slotPending t c.id = false →
      let is := (List.range count).map (fun k => first + k)
      (∀ e, s.movePiece c dir r org dst fill t is = .error e →
        exec (.copyLanding c.id 0 first count) s = .next (s.engineError c e).tick) ∧
      (∀ s1 ds, s.movePiece c dir r org dst fill t is = .ok (s1, ds) →
        let t' : Target := { t with todo := cutRun first count t.todo }
        let s2 := s1.mapCmd c.id (fun x => { x with job := .copy dir r org dst evict fill [t'], read := [] })
        let land (s' : State) : State := ((s'.countLanding t.blk t.bar (fun e => decide (s.lastWrite < e.id) &&
          e.knows (.cmd c.id))).landOn t.blk t.bar (count * r.elem)).tick
        (t'.todo ≠ [] → exec (.copyLanding c.id 0 first count) s = .next (land s2)) ∧
        (t'.todo = [] → dir ≠ 1 → exec (.copyLanding c.id 0 first count) s = .next (land (s2.dropCmd c.id))))) ∧
    (∀ table list n k0 tlen r next b lb page, c.id < s.seq → c.job = .gleaner table list n k0 tlen false r next → c.stage = .running →
      s.block? c.blk = some b → s.engineRead c (list + 4 * next) 4 4 = .ok lb → s.tableEntry c table tlen (leNat lb) = .ok page →
      ∃ s', exec (.gleanerWalk c.id) s = .next s' ∧ s'.mem = s.mem ∧ s'.blocks = s.blocks ∧
        (c.pageCopy b s.seq (k0 + next) page r) ∈ s'.cmds) ∧
    (∀ r bar next locked, c.job = .sheaf r bar next locked → c.stage = .running → s.regionBusy c r = false →
      let steps := sheafSteps r next locked
      let set (s : State) (next : List Nat) (locked : List Replayed) : State :=
        s.mapCmd c.id (fun x => { x with job := .sheaf r bar next locked })
      (steps = [] → exec (.sheafReplay c.id) s = .next ((s.dropCmd c.id).engineArrive c bar).tick) ∧
      (∀ k x, steps = [.inr k] → s.lockBin c r k = .ok x → exec (.sheafReplay c.id) s = .next (set s next (x :: locked)).tick) ∧
      (∀ k e, steps = [.inr k] → s.lockBin c r k = .error e → exec (.sheafReplay c.id) s = .next (s.engineError c e).tick) ∧
      (∀ x, steps = [.inl x] →
        let rest := locked.filter (fun y => y.sub != x.sub)
        (x.todo = [] → exec (.sheafReplay c.id) s =
          .next (set (s.resetBin c x) (next.map (fun n => if n = x.sub then n + 4 else n)) rest).tick) ∧
        (x.todo ≠ [] → ∃ run left, exec (.sheafReplay c.id) s =
          .next (set (s.writeRun c x run) next ({ x with todo := left } :: rest)).tick))) ∧
    (c.stage = .running → exec (.engineFault c.id true) s = .next (s.commandFault c ⟨0, 0xC, 0, Need.load⟩).tick ∧
      ∀ va n e, c.nextAccess = some (va, n) → s.engineAt c va n = .error e → e.cause = 6 →
        exec (.engineFault c.id false) s = .next (s.commandFault c e).tick)

/-- R289 to R294, on a running command. What a collective does piece by piece is log entry 58, and its order against others log entry 59. -/
def Obligations.CollectivesProceed : Prop :=
  ∀ (s : State) (c : Cmd) (r : CollRec) (status bar st flags : Nat) (peers : List Peer), s.cmd? c.id = some c →
    c.job = .winnow r status bar st flags peers → c.stage = .running →
    let next (s : State) (st flags : Nat) (ps : List Peer) : State :=
      s.mapCmd c.id (fun x => { x with job := .winnow r status bar st flags ps })
    (∀ ps, st = 0 → s.collTurn c (r.cid % 4) = true → ps.map Peer.dev = r.devices.filter (fun p => p != s.pod.index) →
      ((∀ p ∈ ps, p.kind = r.kind ∧ p.fmt = r.fmt ∧ p.rop = r.rop ∧ p.arg = r.arg ∧ p.count = r.count ∧ p.members = r.members) →
        exec (.collectiveExchange c.id ps) s = .next (next s 1 flags ps).tick) ∧
      ((∃ p ∈ ps, p.count ≠ r.count) → exec (.collectiveExchange c.id ps) s = .next (next s 3 4 ps).tick)) ∧
    (∀ bad us s1, r.kind = 4 → st = 1 → s.ownChunk c r peers = .ok us →
      s.writeSpan c r.pnd (r.pending s.pod.index us peers) = .ok s1 →
      let skip := bad || us.any Update.bad || peers.any Peer.bad
      exec (.flagFlit c.id bad) s = .next (next s1 2 (flags + if skip then 2 else 0) peers).tick) ∧
    (∀ srcs s1, r.kind ≠ 4 → st = 1 → flags = 0 → s.sources c r peers = .ok srcs →
      s.writeSpan c r.dst (r.results s.treePick srcs (r.rankOf s.pod.index)) = .ok s1 →
      exec (.collectiveEnd c.id false) s = .next ((next s1 3 0 peers).collDone c r status bar 0).tick) ∧
    (∀ s1, r.kind = 4 → st = 2 → flags = 0 → s.commitUpdate c r = .ok s1 →
      exec (.collectiveEnd c.id false) s = .next ((next s1 3 0 peers).collDone c r status bar 0).tick) ∧
    (st = 3 → ∀ lost, exec (.collectiveEnd c.id lost) s = .next ((next s 3 flags peers).collDone c r status bar flags).tick) ∧
    (st ≠ 3 → exec (.collectiveEnd c.id true) s = .next ((next (s.partialWrites c r st peers) 3 8 peers).collDone c r status bar 8).tick) ∧
    (∀ s1, s.writeSpan c status (leBytes 8 (1 + flags + (r.devices.length - 1) * 2 ^ 32)) = .ok s1 →
      s.collDone c r status bar flags = (s1.dropCmd c.id).engineArrive c bar)

/-- R255, R263, R270, R272: the events of the granary. The moment at which the operands of a CTRS are read is log entry 48 (DEDUCED), and
that a drain writes all its cells in one step log entry 56 (DESIGN CHOICE). -/
def Obligations.GranaryEventsComplete : Prop :=
  (∀ (s : State) (k : Nat) (p : Pass), p ∈ (s.cluster k).passes →
    (∀ q ∈ (s.cluster k).passes, q ≠ p → q.cls < p.cls ∨ (q.cls = p.cls ∧ p.age < q.age)) →
    ∃ s', exec (.enginePassGrant k) s = .next s' ∧ (s'.cluster k).passes = (s.cluster k).passes.filter (fun q => q != p) ∧
      s'.mem = s.mem ∧ s'.blocks = s.blocks) ∧
  (∀ (s : State) (k i : Nat) (p : Pass), (s.cluster k).passes[i]? = some p →
    ∃ s', exec (.classAgeing k i) s = .next s' ∧ (s'.cluster k).passes[i]? = some { p with cls := min 3 (p.cls + 1) } ∧
      (∀ j, j ≠ i → (s'.cluster k).passes[j]? = (s.cluster k).passes[j]?) ∧ s'.blocks = s.blocks) ∧
  (∀ (s : State) (b : Block) (k : Nat) (sl : Slot) (x : Inst), s.block? b.id = some b → b.slots[k]? = some sl → sl.inst = some x →
    s.closable b k sl x = true →
    ∃ s' y, exec (.instanceClose b.id k) s = .next s' ∧ s'.slot? b.id k = some y ∧ y.state = .idle ∧ y.inst = none ∧
      (∀ i j, i < x.params.rows → j < x.params.cols → x.params.cols ≤ 32 →
        y.cell (32 * i + j) = (x.closeCell sl.fmt i j (sl.cell (32 * i + j))).1) ∧
      (∀ n, (∀ i j, i < x.params.rows → j < x.params.cols → n ≠ 32 * i + j) → y.cell n = sl.cell n) ∧
      (∀ j, j ≠ k → s'.slot? b.id j = s.slot? b.id j) ∧ s'.mem = s.mem) ∧
  (∀ (s : State) (c : Cmd) (sl : Slot) (sb k addr stride : Nat) (alpha : W32) (op rows cols bar : Nat), s.cmd? c.id = some c →
    c.job = .drain sb k addr stride alpha op rows cols bar → c.stage = .running → s.slot? sb k = some sl →
    s.drainTurn c sb k = true →
    let cells := ((List.range rows).map (fun i => (List.range cols).map (fun j => (i, j)))).flatten
    ∀ xs, eachOk (s.drainAt c addr stride op) cells = .ok xs →
      let r := State.drainCells c sl op alpha xs s 0
      exec (.drainExecute c.id) s = .next (((((r.1.cleanAll (xs.map (fun x => (x.2, 4)))).mapSlot sb k (fun y => { y with
        status := y.status ||| r.2.setWidth 8, drains := y.drains - 1 })).dropCmd c.id).engineArrive c bar).tick)) ∧
  (∀ (s : State) (b b2 b3 : Block) (t : Thread) (p : Pend) (sb sl aOff bOff bar inst : Nat), s.block? b.id = some b →
    b.thread? t.tidx = some t → t.pend.find? (fun q => q.op == p.op) = some p → p.act = .ctrs sb sl true aOff bOff bar inst →
    t.ctrsReady p = true →
    let n := 4 * vecRegs ((((s.slot? sb sl).bind Slot.inst).map (fun i => i.params.fmt)).getD 0)
    (∀ o ∈ [aOff, bOff], s.poisoned ⟨2 + b.id, o, n, o⟩ = false) →
    let s1 := (s.fillContrib b t sb sl aOff bOff inst).mapThread b.id t.tidx (fun x => { x with
      pend := x.pend.filter (fun q => q.op != p.op) })
    s1.block? b.id = some b2 → b2.arrive (some t.tidx) bar 1 0 = some b3 →
    exec (.ctrsBarrierArrival b.id t.tidx p.op) s =
      .next (((s1.mapBlock b.id (fun _ => b3)).phaseTest b.id bar).settled b.id t.tidx).tick)

/-- R325, R329, R330. -/
def Obligations.SectionEventsComplete : Prop :=
  (∀ (s : State) (x : Section), s.fxTurn x.cluster = some x →
    ∃ s', exec (.sectionCommit x.cluster x.slot) s = .next s' ∧
      (∀ a v, NMap.lookup (s.fxBytes x.cluster x.slot) a = some v → s'.byte a = v) ∧
      (∀ a, NMap.lookup (s.fxBytes x.cluster x.slot) a = none → s'.byte a = s.byte a) ∧
      (∀ v ∈ s'.versions, ¬ (v.cluster = x.cluster ∧ v.slot = x.slot)) ∧ s'.blocks = s.blocks ∧
      ∀ y ∈ s'.sections, (y.cluster = x.cluster ∧ y.slot = x.slot → y.state = .committed) ∧
        (y.cluster = x.cluster → y.slot ≠ x.slot → x.slot ∉ y.preds)) ∧
  (∀ (s : State) (b : Block) (t : Thread) (x : Section), s.block? b.id = some b → b.thread? t.tidx = some t →
    s.sectionOf b.id t.tidx = some x → x.state = .aborted → t.wait = none → s.canIssue b t = true →
    (t.stepDue = false ∨ t.inTrap = true) →
    ∃ s' y, exec (.abortDelivery b.id t.tidx) s = .next s' ∧ s'.thread? b.id t.tidx = some y ∧ y.pc = x.target ∧
      y.fxLast = s.fxImage x ∧ (∀ r, x.vstatus = some r → y.reg r = s.fxImage x) ∧ (∀ r, x.vstatus ≠ some r → y.reg r = t.reg r) ∧
      (∀ z ∈ s'.sections, ¬ (z.cluster = x.cluster ∧ z.slot = x.slot)) ∧ s'.mem = s.mem) ∧
  (∀ (s : State) (b : Block) (t : Thread) (x : Section) (k n : Nat) (write : Bool), s.block? b.id = some b →
    b.thread? t.tidx = some t → s.sectionOf b.id t.tidx = some x → t.wait = some (.fxRemote k n write) →
    exec (.remotePatienceExpired b.id t.tidx) s = .next (s.abortSection x.cluster x.slot 6 none).tick)

/-- R67 and R359 to R363, with the fields of the completion record of R364. That the Massif takes the oldest message of a Cairn first is
log entry 81 (DEDUCED). -/
def Obligations.RetirementAndCompletion : Prop :=
  (∀ (s : State) (b : Block), s.block? b.id = some b → s.retirable b = true →
    ∃ s' y, exec (.blockRetire b.id) s = .next s' ∧ s'.block? b.id = some y ∧ y.stage = .retired ∧ y.threads = [] ∧ y.slots = [] ∧
      y.decl = b.decl ∧ y.bx = b.bx ∧ s'.mem = s.mem ∧ s'.launches = s.launches) ∧
  (∀ (s : State) (b : Block) (l : Launch), s.block? b.id = some b → b.stage = .retired →
    (s.oldestRetired b.cluster).map Block.id = some b.id → s.oldestFrom b.cluster = some b.order →
    s.nextServed b.cluster = some b.cluster →
    s.launch? b.decl.lid = some l → l.ending = false → l.accounted = false → l.record.blocks ≠ l.done + 1 + l.killed + l.never →
    l.state ≠ .done →
    ∃ s', exec (.retireMsg b.id) s = .next s' ∧ s'.block? b.id = none ∧ s'.launch? b.decl.lid = some { l with
      done := l.done + 1, bits := if l.bits.contains b.bit then l.bits else l.bits ++ [b.bit] } ∧
      (s'.cluster b.cluster).link.fromPermits = (s.cluster b.cluster).link.fromPermits - 1 ∧ s'.served = b.cluster ∧ s'.mem = s.mem) ∧
  (∀ (s : State) (l : Launch) (i : Nat) (x : Xlat), s.launch? l.lid = some l → l.pod = true → i < l.record.blocks →
    l.record.bitmap ≠ 0 →
    (s.ctx l.ctx).requests = [] → s.xlate [] l.ctx (l.record.bitmap.toNat + i / 8) Need.store true (s.pick 901) = .ok x →
    ∃ s', exec (.completionBitMessage l.lid i) s = .next s' ∧
      (s'.byte x.key = BitVec.ofNat 8 (s.word x.key 1 ||| 2 ^ (i % 8))) ∧ ∀ a, a ≠ x.key → s'.byte a = s.byte a) ∧
  (∀ (s : State) (l : Launch) (n1 n2 n3 : Nat) (fs : List FaultEntry) (cs : FaultCounts), s.launch? l.lid = some l → l.pod = true →
    s.reportable l = true → s.isRidge = false →
    ∃ s', exec (.finalReport s.pod.index l.lid n1 n2 n3 fs cs) s = .next s' ∧ ∃ y, s'.launch? l.lid = some y ∧
      NMap.lookup y.reports s.pod.index = some (l.done, l.killed, l.never)) ∧
  (∀ (s : State) (l : Launch) (x : PodDone) (d : Nat), s.launch? l.lid = some l → l.pod = true → l.forwarded = false →
    s.isRidge = false →
    let s0 := (s.mapLaunch l.lid (fun y => y.told x)).flushBits l.lid none
    ∀ l0, s0.launch? l.lid = some l0 →
    (s0.unaccounted l0 = true ∨ l0.whole x.done = false → exec (.completionForward l.lid x) s = .next s0.tick) ∧
    (s0.unaccounted l0 = false → l0.whole x.done = true → l0.src = .device d →
      ∃ s' y, exec (.completionForward l.lid x) s = .next s' ∧ s'.launch? l.lid = some y ∧ y.state = .done ∧ y.forwarded = true ∧
        y.completion = some x.ptime ∧ y.done = x.done ∧ y.killed = x.killed ∧ y.never = x.never ∧
        y.faulted = (x.faulted || !l0.late.isEmpty) ∧ s'.mem = s0.mem)) ∧
  (∀ r : Report, r.record = leBytes 4 r.lid ++ leBytes 1 r.status ++ leBytes 1 (r.cflags + (if r.sum.isSome then 4 else 0) +
    (if r.total ≠ 0 ∧ r.sum = none then 8 else 0)) ++ leBytes 2 (min r.passes 65535) ++ leBytes 4 r.done ++ leBytes 4 r.killed ++
    leBytes 4 r.never ++ leBytes 4 (r.sum.getD 0xFFFFFFFF) ++ leBytes 8 r.ptime.toNat)

/-- R30 to R35. When the device leaves a disabled queue alone is log entry 72, and that the front end stands still while the Massif is
down log entry 92 (both DEDUCED). -/
def Obligations.FrontEndServes : Prop :=
  (∀ (s : State) (v : W64), exec (.qtbaseWrite v) s = .next (if v.extractLsb' 1 13 = 0 then { s with qtbase := v } else s).tick) ∧
  (∀ s : State, exec .frontEndRound s = .next (if s.fw.down then s else s.settleLaunches.round).tick) ∧
  (∀ (s : State) (q : Nat) (v : W64), let d := s.descBytes q
    s.qtbase.getLsbD 0 = true → q < 256 → descOk d = true → descEnable d = true → descHalted d = false → s.devq (descCtx d) = none →
    ∀ s1, s.readDesc q = some s1 →
    (descSqSize d ≤ v.toNat → v.toNat < 65536 → exec (.submissionDoorbell q v) s = .next (s1.haltQueue q).tick) ∧
    (v.toNat < descSqSize d → v.toNat < 65536 → (s1.queue q).pending = [] →
      let x := s1.queue q
      let n := descSqSize x.desc
      ¬ ((v.toNat + n - x.sqhead % n) % n < (x.tail + n - x.sqhead % n) % n) →
      exec (.submissionDoorbell q v) s = .next (s1.mapQueue q (fun x => { x with tail := v.toNat })).tick) ∧
    (v.toNat < descCqSize d → v.toNat < 65536 → (s1.queue q).pending = [] →
      let x := s1.queue q
      let n := descCqSize x.desc
      ¬ ((x.cqtail + n - x.head % n) % n < (v.toNat + n - x.head % n) % n) →
      exec (.completionDoorbell q v) s = .next (s1.mapQueue q (fun x => { x with head := v.toNat })).tick)) ∧
  (∀ (s : State) (q : Nat) (bs : List Byte), let x := s.queue q
    let ctx := descCtx x.desc
    let addr := fieldOf bs 0 8
    (descEnable (s.descBytes q) = false ∨ s.qtbase.getLsbD 0 = false → ∀ i ∈ [Instr.submitLaunch q, .submitCancel q, .submitKill q, .entryReserved q],
      exec i s = .next s.tick) ∧
    (descEnable (s.descBytes q) = true → s.qtbase.getLsbD 0 = true → s.fw.down = false → x.live = true → x.blocked = false → x.podWait = false → x.sqhead ≠ x.tail →
    s.queueRead q ctx [(descSq x.desc + 16 * x.sqhead, 16)] none = .got bs →
    (fieldOf bs 8 4 % 4 = 3 → exec (.entryReserved q) s = .next ((s.descError q 1).advanceQueue q).tick) ∧
    (fieldOf bs 8 4 = 1 → fieldOf bs 12 4 = 0 → addr < 2 ^ 32 →
      exec (.submitCancel q) s = .next ((s.cancelBy ctx addr false).2.advanceQueue q).tick) ∧
    (fieldOf bs 8 4 = 2 → fieldOf bs 12 4 = 0 → addr < 2 ^ 32 →
      exec (.submitKill q) s = .next ((s.cancelBy ctx addr true).2.advanceQueue q).tick) ∧
    (fieldOf bs 8 4 = 0 → fieldOf bs 12 4 = 0 →
      (addr % 64 = 0 → exec (.submitLaunch q) s = .next (s.takeRecord q ctx addr none).tick) ∧
      (addr % 64 ≠ 0 → exec (.submitLaunch q) s = .next ((s.refuseEntry q ctx 2).advanceQueue q).tick))))

/-- R42, R43, R47 to R50, R53. Which earlier launches hold one is log entry 70, and what comes with a pod record log entry 95 (both
DEDUCED); that a date sets pod time is log entry 99 (DESIGN CHOICE). -/
def Obligations.LaunchesReachDealing : Prop :=
  (∀ (s : State) (l : Launch), s.launch? l.lid = some l → l.state = .prologue → s.prologueOf l.lid = none → s.dealsHere l = true →
    ∃ s' b t, exec (.prologueStart l.lid) s = .next s' ∧ s'.block? s.seq = some b ∧ b.stage = .prologue ∧ b.decl.lid = l.lid ∧
      b.decl.regs = 64 ∧ b.decl.preds = 16 ∧ b.params = l.params ∧ b.threads = [t] ∧ t.pc = l.record.proentry ∧ t.regs = [] ∧
      s'.launches = s.launches ∧ s'.mem = s.mem) ∧
  (∀ (s : State) (lid : Nat) (b : Block), s.prologueOf lid = some b →
    (2 ^ 24 ≤ b.issued → exec (.prologueBudgetExpired lid) s =
      .next ((s.takeTrap b.id 0 (mkTrap 1 1 (((b.thread? 0).map Thread.pc).getD 0))).decideEnd lid).tick) ∧
    (b.issued < 2 ^ 24 → exec (.prologueBudgetExpired lid) s = .next s.tick)) ∧
  (∀ (s : State) (l : Launch), s.launch? l.lid = some l → l.state = .held → l.record.timed = true →
    s.ptime.toNat < l.record.start.toNat →
    exec (.startTimeReached l.lid) s = .next { s.tick with ptime := l.record.start }) ∧
  (∀ (s : State) (l : Launch), s.launch? l.lid = some l → l.state = .held →
    let due := (l.record.timed = false ∨ l.record.start.toNat ≤ s.ptime.toNat) ∧ (∃ n, s.activeIn l.ctx = some n) ∧
      ∀ a ∈ s.launches, (a.state = .held ∨ a.state = .prologue) → a.ctx = l.ctx → l.record.prio ≤ a.record.prio → a.earlier l = false
    (due → ∃ s', exec (.launchRelease l.lid) s = .next s' ∧ s'.launch? l.lid = some { l with state := .dealing } ∧
      (∀ k, k ≠ l.lid → s'.launch? k = s.launch? k) ∧ s'.blocks = s.blocks ∧ s'.mem = s.mem) ∧
    (¬ due → exec (.launchRelease l.lid) s = .next s.tick)) ∧
  (∀ (s : State) (dev ctx : Nat) (x : Submission) (r : PodRec) (s1 : State), s.pod.inPod = true → s.pod.ridge = some s.pod.index →
    let n := s.pod.nextSeq
    let s2 : State := { s with pod := { s.pod with nextSeq := n + 1 } }
    (dev ≠ s.pod.index → dev ∈ s.pod.members → s.podReason dev ctx none x.record = 0 →
      exec (.podSubmit dev ctx x) s = .next (s2.receivePod {
        id := 0, podSeq := n, ctx := ctx, dev := dev, record := x.record, params := x.params, src := none, pc := 0, addr := 0 }).tick) ∧
    (dev = s.pod.index → s.takeOutbox (fun r => r.ctx == ctx && s.podTurn r) = some (r, s1) →
      (s.podReason dev ctx r.src r.record = 0 →
        exec (.podSubmit dev ctx x) s = .next (s2.receivePod { r with podSeq := n, dev := dev, params := s.copyParams r }).tick) ∧
      (s.podReason dev ctx r.src r.record ≠ 0 →
        exec (.podSubmit dev ctx x) s = .next (s1.podAnswer r 0 (s.podReason dev ctx r.src r.record)).tick))) ∧
  (∀ (s : State) (n ctx dev : Nat) (bs ps : List Byte), s.pod.inPod = true → s.pod.ridge ≠ some s.pod.index →
    let h : PodRec := { id := 0, podSeq := n, ctx := ctx, dev := dev, record := bs, params := ps, src := none, pc := 0, addr := 0 }
    (s.pod.expect < n → (∀ x ∈ s.pod.held, x.podSeq ≠ n ∧ x.podSeq ≠ s.pod.expect) →
      exec (.podRecordReceive n ctx dev bs ps) s = .next { s.tick with pod := { s.pod with held := s.pod.held ++ [h] } }) ∧
    (n = s.pod.expect → s.pod.held = [] → dev ≠ s.pod.index →
      ∃ s' l, exec (.podRecordReceive n ctx dev bs ps) s = .next s' ∧ s'.pod.expect = n + 1 ∧ s'.pod.held = [] ∧
        s'.launch? (podLid n) = some l ∧ l.pod = (LaunchRec.ofBytes bs).pod ∧ l.podSeq = n ∧ l.ctx = ctx ∧
        l.record = LaunchRec.ofBytes bs ∧ l.params = paramsOfBytes ps ∧
        l.state = (if (LaunchRec.ofBytes bs).prologue then .prologue else .held)) ∧
    (∀ l, n < s.pod.expect → s.launch? (podLid n) = some l → l.state = .prologue → l.podSeq = n → l.lid = podLid n →
      bs.length = 260 + 48 * l.deps.length →
      ∃ s' y, exec (.podRecordReceive n ctx dev bs ps) s = .next s' ∧ s'.launch? l.lid = some y ∧ y.state = .held ∧
        y.params = paramsOfBytes ps ∧ y.passes = leNat (bs.drop (256 + 48 * l.deps.length)))) ∧
  (∀ (s : State) (l : Launch) (hard : Bool), s.launch? l.lid = some l → l.pod = true → l.state ≠ .done → l.state ≠ .cancelling →
    (s.isRidge = true → exec (.podCancel l.lid hard) s =
      .next ((s.cancelLaunch l.lid (hard || l.record.hardCancel) false).flushBits l.lid none).tick) ∧
    (s.pod.inPod = true → s.isRidge = false → exec (.cancelBroadcastReceipt l.lid hard) s =
      .next ((s.cancelLaunch l.lid hard false).flushBits l.lid none).tick))

/-- R50 to R52, R56. What the events mean where Ridge is elsewhere, and which device Ridge asks to split, is log entry 95 (DEDUCED). -/
def Obligations.RangesAndSplitsMoveUnits : Prop :=
  ∀ (s : State) (l : Launch), s.launch? l.lid = some l →
    (l.state = .dealing → s.dealsHere l = true → (∀ w ∈ l.wants, w.1 ≠ s.pod.index) →
      s.canHold l = true → (s.unplacedUnits l).length < s.freeClusters l.ctx * l.record.upc → ∀ want,
      ∃ s', exec (.rangeRequest s.pod.index l.lid want) s = .next s' ∧
        s'.launch? l.lid = some { l with wants := l.wants ++ [(s.pod.index, s.freeClusters l.ctx * l.record.upc)] }) ∧
    (∀ dev w rest first count, l.state = .dealing → s.dealsHere l = true → l.wants = (dev, w) :: rest → l.returned = [] →
      l.nextUnit < l.record.units → (∀ a ∈ s.launches, a.before l = true → a.state = .dealing → s.dealsHere a = true → a.wants = []) →
      let n := min (l.record.units - l.nextUnit) (max 1 w)
      ∃ s' y, exec (.rangeDeal l.lid first count) s = .next s' ∧ s'.launch? l.lid = some y ∧ y.nextUnit = l.nextUnit + n ∧
        y.wants = rest ∧ y.runs = (if dev = s.pod.index then l.runs ++ [(l.nextUnit, n)] else l.runs) ∧
        NMap.lookup y.dealtTo dev = some ((NMap.lookup l.dealtTo dev).getD [] ++ [(l.nextUnit, n)]) ∧
        y.state = (if l.nextUnit + n = l.record.units then .draining else .dealing)) ∧
    (∀ first count, l.state = .dealing → s.dealsHere l = false → NMap.lookup l.reports s.pod.index = none → 0 < count →
      first + count ≤ l.record.units →
      ∃ s' y, exec (.rangeDeal l.lid first count) s = .next s' ∧ s'.launch? l.lid = some y ∧ y.runs = l.runs ++ [(first, count)] ∧
        y.state = (if first + count = l.record.units then .draining else .dealing)) ∧
    (∀ dev, l.pod = true → dev ≠ s.pod.index → (l.state = .dealing ∨ l.state = .draining) →
      let us := s.unplacedUnits l
      let gone := us.drop ((us.length + 1) / 2)
      let left (s' : State) (y : Launch) : Prop := y.runs = gone.foldl (fun rs u => cutRun u 1 rs) l.runs ∧
        ∀ k b, s'.block? k = some b → b.decl.lid = l.lid → b.index / l.record.unitBlocks ∉ gone
      (s.dealsHere l = false → ∃ s' y, exec (.splitRequest dev l.lid) s = .next s' ∧ s'.launch? l.lid = some y ∧ left s' y) ∧
      (s.dealsHere l = true → l.left = 0 → dev ∈ s.pod.members → NMap.lookup l.reports dev = none → (∀ x ∈ l.splits, x.1 ≠ dev) → ∀ d, s.donor l dev = some d →
        ∃ s' y, exec (.splitRequest dev l.lid) s = .next s' ∧ s'.launch? l.lid = some y ∧
          (d = s.pod.index → left s' y ∧
            NMap.lookup y.dealtTo dev = some ((NMap.lookup l.dealtTo dev).getD [] ++ gone.map (fun u => (u, 1)))) ∧
          (d ≠ s.pod.index → y = { l with splits := l.splits ++ [(dev, d)] }))) ∧
    (∀ dev first count, l.pod = true → dev ≠ s.pod.index → 0 < count → first + count ≤ l.record.units →
      (l.state = .dealing ∨ l.state = .draining) → s.dealsHere l = false → NMap.lookup l.reports s.pod.index = none →
      ∃ s' y, exec (.splitReturn dev l.lid first count) s = .next s' ∧ s'.launch? l.lid = some y ∧
        y.runs = l.runs ++ [(first, count)]) ∧
    (∀ n u, s.ripe l = some (n, u) →
      (∀ a ∈ s.launches, a.before l = true → s.activeIn a.ctx = some n → s.ripe a = none) →
      ∃ s', exec (.unitHandoff l.lid) s = .next s' ∧ s'.launch? l.lid = some { l with runs := cutRun u 1 l.runs } ∧
        (∀ k, k < s.seq → s'.block? k = s.block? k) ∧ s'.mem = s.mem)

/-- R57, R59 to R61, R67, R351. When an acknowledgement is heard is log entry 81, and that a residue's bytes are free is log entry 68 (both
DEDUCED); that no victims are chosen while earlier ones stop is log entry 119 (DESIGN CHOICE). -/
def Obligations.PlacementAndPreemption : Prop :=
  (∀ (s : State) (b : Block) (c n ctx k : Nat), s.partitionOf c = some n → (s.partition n).actx = some ctx →
    (s.partition n).halt = false → (s.partition n).halted = false → s.usable c = true → s.gangs = [] → s.replaying = [] →
    s.allBlocks.filter (fun x => x.decl.ctx == ctx && x.waits) = [b] → b.cluster = c → b.gang = none → b.stage = .pending →
    s.unsent b = false → (s.bays c ctx).core b.decl = some k →
    ∃ s' y, exec (.placementRound c) s = .next s' ∧ exec (.placementTimer c) s = .next s' ∧ s'.block? b.id = some y ∧
      y.stage = .running ∧ y.cluster = c ∧ y.core = k ∧ y.ptime = s.ptime ∧ y.decl = b.decl ∧
      y.threads = (List.range b.decl.nthr).map (fun i => Thread.start i b.decl.entry) ∧ s'.mem = s.mem ∧
      s'.launches = s.launches) ∧
  (∀ (s : State) (i c n k : Nat) (g : Gang), s.gangs[i]? = some g → (s.cluster c).link.back.head? = some (n, .placed k) →
    s.unacked c k = some g → s.hears c (some (.placed k)) = true →
    ∃ s', exec (.dieGangAck i c) s = .next s' ∧ s'.gangs[i]? = some { g with acks := g.acks ++ [c] } ∧
      (s'.cluster c).link.fromPermits = (s.cluster c).link.fromPermits - 1 ∧ s'.served = c ∧ s'.blocks = s.blocks) ∧
  (∀ (s : State) (i : Nat) (g : Gang), s.gangs[i]? = some g → s.topGang g = true → g.starved = false →
    (1024 ≤ g.rounds ∨ (0 < g.rounds ∧ g.since.toNat + 25600000 ≤ s.ptime.toNat)) →
    ∃ s', exec (.gangStarved i) s = .next s' ∧ s'.gangs[i]? = some { g with starved := true, starvedAt := s.ptime } ∧
      s'.blocks = s.blocks) ∧
  (∀ (s : State) (i a : Nat) (g : Gang) (b : Block), s.gangs[i]? = some g → g.starved = true →
    g.starvedAt.toNat + 25600000 ≤ s.ptime.toNat →
    (∀ x ∈ s.allBlocks, x.stage ≠ .stopping ∧ x.stage ≠ .saving ∧ x.chosen = false) →
    s.victims g s.blocks.length [] = [b.id] → g.size ≤ s.gangFits g [b.id] → s.block? b.id = some b → b.cluster < 64 →
    s.saveSpace b.decl.ctx b.recordSize = some a →
    ∃ s', exec (.gangPreemptTrigger i) s = .next s' ∧
      s'.block? b.id = some { b with saveAddr := a, saveSize := b.recordSize } ∧
      (s'.cluster b.cluster).link.out = (s.cluster b.cluster).link.out ++ [(3, b.id)] ∧ s'.mem = s.mem) ∧
  (∀ (s : State) (b : Block), s.block? b.id = some b → b.stage = .stopping → s.retirable b = false → (∀ c ∈ s.cmds, c.blk = b.id → c.gone = true) →
    (∀ x ∈ s.sections, x.blk ≠ b.id) → (s.ctx b.decl.ctx).handler ≠ 0 →
    ∃ s' y, exec (.residueWrite b.id) s = .next s' ∧ s'.block? b.id = some y ∧ y.stage = .saving ∧
      y.threads = b.threads.map (fun t => (if ((t.trap.map (fun tr => replayable tr.cause)).getD false)
        then { t with trap := none } else t).takePreempt) ∧ s'.mem = s.mem) ∧
  (∀ (s : State) (b : Block) (x : Xlat), s.block? b.id = some b → b.stage = .saving → b.parked = true → s.retirable b = false →
    pageSpans b.saveAddr b.residueSize = [(b.saveAddr, b.residueSize)] →
    s.residueWaits b = false → s.xlate [] b.decl.ctx b.saveAddr Need.store true (s.pick 901) = .ok x →
    (∀ l, s.launch? b.decl.lid = some l → l.state ≠ .cancelling) →
    ∃ s' y, exec (.residueWrite b.id) s = .next s' ∧ s'.block? b.id = some y ∧ y.stage = .saved ∧ y.decl = b.decl ∧
      y.attempt = b.attempt ∧ (∀ a, (a < x.key ∨ x.key + b.residueSize ≤ a) → s'.byte a = s.byte a) ∧ s'.launches = s.launches)

/-- R64, R65, R67, R363, R389, R395, R402. Where the work of a lost cluster goes is log entry 80, how messages wait and are heard log entry
81, what a take-over does log entry 92, how flit errors count log entry 94, and what a loss of a device or of Ridge means for pod grids log
entry 96 (all DEDUCED); the own threads of the Massif are log entry 127 (DESIGN CHOICE). -/
def Obligations.LinksAndClustersFail : Prop :=
  (∀ (s : State) (c : Nat) (m : Msg), c < 64 → (s.cluster c).lost = false → (s.cluster c).link.maySend m.toCairn = true →
    let l := (s.cluster c).link
    let base : State := if m.toCairn then s else { s with served := c }
    let took (what : Option CairnMsg) : State := base.mapLink c (fun l => (l.deliver m).shift m what)
    let turn (what : Option CairnMsg) : Prop := m.toCairn = true ∨ s.hears c what = true
    (l.seen m = true → ∀ i ∈ [Instr.placeMsg c m, .killMsg c m, .preemptMsg c m, .permitMsg c m, .faultMsg c m, .patchMsg c m, .ackMsg c m,
      .messageUnknown c m], exec i s = .next s.tick) ∧
    (l.seen m = false → ¬ turn none → exec (.permitMsg c m) s = .next s.tick) ∧
    (l.seen m = false → m.ret ≤ 16 - l.held m.toCairn →
      (turn (some (.fault m.blk)) → exec (.faultMsg c m) s = .next (took (some (.fault m.blk))).tick) ∧
      (turn none → exec (.permitMsg c m) s = .next (took none).tick ∧
        (l.isNext m = false ∨ (took none).unacked c m.blk = none → exec (.placeMsg c m) s = .next (took none).tick) ∧
        (∀ g, l.isNext m = true → (took none).unacked c m.blk = some g → (took none).partUnsent c g = false →
          exec (.placeMsg c m) s = .next ((took none).report c (.placed m.blk)).tick) ∧
        (∀ b, s.block? m.blk = some b → b.cluster = c → b.decl.lid = m.lid →
          (l.isNext m = false →
            exec (.killMsg c m) s = .next (((((took none).gangOf b).foldl State.kill (took none)).dropGangs).decideEnd b.decl.lid).tick ∧
            exec (.preemptMsg c m) s = .next ((took none).preempt b).tick) ∧
          (l.isNext m = true → exec (.killMsg c m) s = .next (took none).tick ∧
            (b.chosen = true → exec (.preemptMsg c m) s = .next ((took none).stopBlock b).tick) ∧
            (b.chosen = false → exec (.preemptMsg c m) s = .next (took none).tick))) ∧
        (s.fw.state = .broadcast → m.toCairn = true → c ∉ s.fw.told →
          exec (.patchMsg c m) s = .next (((took none).mapFw (fun f => { f with told := f.told ++ [c] })).report c .patched).tick) ∧
        ((m.type = 0 ∨ 8 < m.type) → ∃ s', exec (.messageUnknown c m) s = .next s' ∧
          (s'.cluster c).link.dropped = l.dropped + 1 ∧ s'.blocks = s.blocks ∧
          (m.toCairn = true → (s'.cluster c).link.toPermits = l.toPermits - 1) ∧
          (m.toCairn = false → (s'.cluster c).link.fromPermits = l.fromPermits - 1))) ∧
      (∀ n, s.fw.state = .broadcast → m.toCairn = false → c ∈ s.fw.told → c ∉ s.fw.acks → l.back.head? = some (n, .patched) →
        s.hears c (some .patched) = true →
        exec (.ackMsg c m) s = .next (((took (some .patched)).mapFw (fun f => { f with acks := f.acks ++ [c] })).mapCluster c (fun x =>
          { x with patches := x.patches ++ [s.fw.image] })).tick)) ∧
    (l.seen m = false → 16 - l.held m.toCairn < m.ret → turn none →
      exec (.placeMsg c m) s = .next ((base.mapLink c (fun l => l.drop m)).linkError c).tick)) ∧
  (∀ (s : State) (c : Nat), c < 64 → 0 < (s.cluster c).link.toPermits → 0 < (s.cluster c).link.owedFrom → (s.cluster c).link.out = [] →
    ∃ s', exec (.permitTimeout c true) s = .next s' ∧ (s'.cluster c).link.owedFrom = 0 ∧
      (s'.cluster c).link.fromPermits = min 16 ((s.cluster c).link.fromPermits + (s.cluster c).link.owedFrom) ∧
      (s'.cluster c).link.toPermits = (s.cluster c).link.toPermits - 1) ∧
  (∀ (s : State) (c : Nat), c < 64 → 0 < (s.cluster c).link.fromPermits → 0 < (s.cluster c).link.owedTo → s.hears c none = true →
    ∃ s', exec (.permitTimeout c false) s = .next s' ∧ (s'.cluster c).link.owedTo = 0 ∧ s'.served = c ∧
      (s'.cluster c).link.toPermits = min 16 ((s.cluster c).link.toPermits + (s.cluster c).link.owedTo) ∧
      (s'.cluster c).link.fromPermits = (s.cluster c).link.fromPermits - 1) ∧
  (∀ (s : State) (c r : Nat), c < 64 → (s.cluster c).lost = false → (r = 2 ∨ r = 4) →
    exec (.clusterFailure c r) s = .next (s.failCluster c r).tick ∧ exec (.cairnTimeout c) s = .next (s.failCluster c 1).tick ∧
    (NMap.lookup s.spares (c / 16) = none → ((s.remap c).cluster c).spare = true ∧ ((s.remap c).cluster c).lost = false ∧
      NMap.lookup (s.remap c).spares (c / 16) = some c) ∧
    (∀ d, NMap.lookup s.spares (c / 16) = some d → ((s.remap c).cluster c).lost = true ∧ (s.remap c).spares = s.spares) ∧
    (s.fw.state ≠ .broadcast → s.failCluster c r =
      let s2 := ((itemsOf s.blocks.length (s.standingIn c)).foldl (fun s x => s.loseInstance r x) s).remap c
      (if s2.usable c then s2.replace c else s2.faultOutgrown).settlePlaces.settleLaunches)) ∧
  (∀ (s : State) (p : Nat), p ∈ s.pod.links →
    let errors := s.ptime :: s.portErrors p
    exec (.flitCrcError ⟨p, false⟩) s = .next s.tick ∧
    exec (.flitCrcError ⟨p, true⟩) s = .next { s.tick with pod := { s.pod with
      retries := NMap.insert s.pod.retries p errors,
      failing := if 8 ≤ errors.length ∧ p ∉ s.pod.failing then s.pod.failing ++ [p] else s.pod.failing } } ∧
    (p ∉ s.pod.failing → exec (.linkDown p) s = .next s.tick) ∧
    (p ∈ s.pod.failing → s.cmds = [] → ∃ s', exec (.linkDown p) s = .next s' ∧ p ∉ s'.pod.links ∧
      (∀ q, q ≠ p → (q ∈ s'.pod.links ↔ q ∈ s.pod.links)) ∧
      (s.pod.inPod = true → s.pod.index ∈ s.pod.members → s'.pod.inPod = !s'.pod.links.isEmpty) ∧ s'.blocks = s.blocks)) ∧
  (∀ (s : State) (d : Nat), s.pod.inPod = true → d ∈ s.pod.members → s.cmds = [] →
    (d = s.pod.index → exec (.deviceLeavesPod d) s = .next { s.tick with pod := { s.pod with
      inPod := false, index := 0, members := [0], ridge := none, held := [] } }) ∧
    (d ≠ s.pod.index → s.isRidge = false →
      let s1 : State := { s with
        launches := s.launches.map (if s.pod.ridge = some d then Launch.loseRidge else s.loseMember), pod := { s.pod with
        members := s.pod.members.filter (fun x => x != d), ridge := if s.pod.ridge = some d then none else s.pod.ridge } }
      exec (.deviceLeavesPod d) s = .next ((s1.launches.map Launch.lid).foldl (fun s lid => (s.flushBits lid none).decidePod lid) s1).tick) ∧
    exec (.ridgeActivation d) s = .next { s.tick with
      launches := if d = s.pod.index then s.launches.map s.takeUpGrid else s.launches, pod := { s.pod with
      ridge := some d, nextSeq := if d = s.pod.index then max s.pod.nextSeq (s.pod.expect + s.pod.held.length)
        else s.pod.nextSeq } } ∧
    ∀ l, s.launch? l.lid = some l → l.pod = true → l.completion = none → NMap.lookup l.reports d = none →
      ∃ y, (s.loseFrom d l).launch? l.lid = some y ∧ y.podLost = true ∧ y.faulted = true ∧ NMap.lookup y.dealtTo d = none) ∧
  (∀ s : State,
    let other := 1 - s.fw.activeCore
    let failed := s.stopMassif s.fw.activeCore
    let tested := (s.stopMassif other).startMassif other
    (s.fw.noStandby = true → exec .heartbeatMissed s = .next (failed.mapFw (fun f => { f with down := true })).tick ∧
      exec .activeCoreError s = .next (failed.mapFw (fun f => { f with down := true })).tick) ∧
    (s.fw.noStandby = false → (∀ b ∈ s.allBlocks, b.mode ≠ .prologue) →
      let s' := (failed.mapFw (fun f => { f.dropPatch with activeCore := 1 - f.activeCore, noStandby := true, down := false })).tick
      exec .heartbeatMissed s = .next s' ∧ exec .activeCoreError s = .next s') ∧
    (s.fw.down = false → exec .selfTestPass s = .next (tested.mapFw (fun f => { f with noStandby := false })).tick) ∧
    (s.fw.down = true → exec .selfTestPass s = .next tested.takeOver.tick) ∧
    ((s.fw.state = .verify ∨ s.fw.state = .gating ∨ s.fw.state = .quiescing) →
      s.fw.dropPatch.state = .idle ∧ s.fw.dropPatch.result = 7 ∧ s.fw.dropPatch.table = s.fw.table))

/-- R54, R344, R346, R349, R354, R355, R369, R377, R378, R384, R401, R405. What a replay refuses and where it waits is log entry 66, that
several rows perform one register write log entry 84, when PSWAP is dropped log entry 86, what counts as resident log entry 87, and which
malformed writes are dropped log entry 88 (all DEDUCED). -/
def Obligations.RegisterWritesTakeEffect : Prop :=
  (∀ (s : State) (n : Nat) (v : W64), n < 8 → let p := s.partition n
    let good := p.halted = true ∧ v &&& s.otherMasks n = 0 ∧
      ∀ b ∈ s.allBlocks, b.stands = true → p.mask.getLsbD b.cluster = true → v.getLsbD b.cluster = true
    ∃ s', exec (.pmaskWrite n v) s = .next s' ∧ (∀ k, k ≠ n → s'.partition k = s.partition k) ∧ s'.mem = s.mem ∧
      (good → (s'.partition n).mask = v ∧ (s'.partition n).ctl.getLsbD 12 = false) ∧
      (¬ good → (s'.partition n).mask = p.mask ∧ (s'.partition n).ctl.getLsbD 12 = true ∧ s'.blocks = s.blocks)) ∧
  (∀ (s : State) (n : Nat) (v : W64), n < 8 → let p := s.partition n
    ∃ s', exec (.pctlBind n v) s = .next s' ∧ exec (.pctlHalt n v) s = .next s' ∧ exec (.pctlRun n v) s = .next s' ∧
      (∀ k, k ≠ n → s'.partition k = s.partition k) ∧ (s'.partition n).mask = p.mask ∧
      (s.badCtl n v = false → (s'.partition n).ctl.extractLsb' 0 11 = v.extractLsb' 0 11 ∧ (s'.partition n).ctl.getLsbD 12 = false ∧
        (s'.partition n).halted = (p.halted && v.getLsbD 10)) ∧
      (s.badCtl n v = true → (s'.partition n).ctl = p.ctl ||| 0x1000 ∧ s'.blocks = s.blocks)) ∧
  (∀ (s : State) (n : Nat), n < 8 → (s.partition n).halt = true → (s.partition n).halted = false → s.latch = none →
    (∀ b ∈ s.activeBlocks n, s.stopped b = true) → (s.activeBlocks n = [] ∨ s.sections = []) →
    ∃ s', exec (.haltComplete n) s = .next s' ∧ (s'.partition n).halted = true ∧ s'.mem = s.mem) ∧
  (∀ (s : State) (n : Nat), n < 8 → (s.partition n).halted = true → (s.partition n).busy = false →
    ∃ s', exec (.shadowSwap n 1) s = .next s' ∧ (s'.partition n).actx = (s.partition n).shctx ∧
      (s'.partition n).shctx = (s.partition n).actx ∧ (s'.partition n).halted = true ∧ (s'.partition n).busy = true ∧
      (s'.partition n).mask = (s.partition n).mask ∧ s'.mem = s.mem) ∧
  (∀ (s : State) (n : Nat), n < 8 → ∃ s', exec (.swapDone n) s = .next s' ∧ (s'.partition n).busy = false ∧
    (s'.partition n).ctl = (s.partition n).ctl) ∧
  (∀ (s : State) (ctx blk gid : Nat) (q : PageReq) (v : W64), ctx < 16 → v.extractLsb' 33 31 = 0 → (s.ctx ctx).requests = [q] →
    q.posted = true → q.seq = (v.extractLsb' 0 32).toNat → q.waiters = [.group blk gid] →
    let s1 := s.mapCtx ctx (fun c => { c with requests := [] })
    (v.getLsbD 32 = false → exec (.resumeReplay ctx v) s = .next (s1.replayGroup ctx q blk gid).settleLaunches.tick ∧
      ∀ b t, s.block? blk = some b → t ∈ b.threads → b.gidOf t.tidx = gid → q.holds t = true →
        ∃ y, (s1.replayGroup ctx q blk gid).block? blk = some y ∧ { t with trap := none } ∈ y.threads ∧
          ∀ g ∈ y.groups, g.gid = gid → g.desched = false) ∧
    let s2 := s1.fatalAll (s1.failEntries ctx q)
    (v.getLsbD 32 = true →
      exec (.resumeFail ctx v) s = .next ((s2.postRequests (s2.ctx ctx).requests.length ctx).settleLaunches).tick ∧
      ∀ b, s.block? blk = some b → ∃ e, s1.failEntries ctx q = [(b, e)])) ∧
  (∀ (s : State) (v : W64), s.xinv = none → v.extractLsb' 57 7 = 0 → v.extractLsb' 10 6 = 0 → v.extractLsb' 4 4 = 0 →
    exec (.translationInvalidate v) s = .next { s.tick with xinv := some v }) ∧
  (∀ (s : State) (v : W64), s.xinv = some v → ∃ s', exec .xinvDone s = .next s' ∧ s'.xinv = none ∧
    ∀ e, e ∈ s'.tlb ↔ e ∈ s.tlb ∧ xinvHits v e = false) ∧
  (∀ (s : State) (n : Nat) (v : W64), n < 16 →
    (∃ s', exec (.registerWrite (0x30008 + 64 * n) v) s = .next s' ∧ s'.ctx n = { s.ctx n with handler := v }) ∧
    (v.extractLsb' 5 3 = 0 → v.extractLsb' 1 2 = 0 → s.bindingOf n = none →
      ∃ s', exec (.registerWrite (0x30000 + 64 * n) v) s = .next s' ∧ s'.ctx n = { s.ctx n with root := v }) ∧
    (∀ k, s.bindingOf n = some k →
      ∃ s', exec (.registerWrite (0x30000 + 64 * n) v) s = .next s' ∧ s'.ctx n = s.ctx n ∧
        (s'.partition k).ctl = (s.partition k).ctl ||| 0x1000) ∧
    (v.extractLsb' 7 57 = 0 → v.extractLsb' 0 2 = 0 →
      ∃ s', exec (.registerWrite (0x40000 + 64 * n) v) s = .next s' ∧ s'.ctx n = { s.ctx n with obsCtl := v }) ∧
    (v.extractLsb' 32 32 = 0 → ∃ s', exec (.traceHeadWrite n v) s = .next s' ∧ s'.ctx n = { s.ctx n with trHead := v.toNat })) ∧
  (∀ (s : State) (c k : Nat) (v : W64), c < 64 → k < 8 → let r := s.sched (8 * c + k)
    (v.extractLsb' 2 62 = 0 → ∃ s', exec (.counterClear c k v) s = .next s' ∧ exec (.counterFreeze c k v) s = .next s' ∧
      s'.sched (8 * c + k) = { r with freeze := v.getLsbD 1, counts := if v.getLsbD 0 then [] else r.counts }) ∧
    (∃ s', exec (.sampleLatch c k) s = .next s' ∧ s'.sched (8 * c + k) = { r with smpA := r.lastA, smpB := r.lastB, smpC := r.lastC }) ∧
    (∃ s', exec (.healthRead c) s = .next s' ∧ s'.cluster c = { s.cluster c with parUnr := 0, eccCor := 0, parRep := 0 })) ∧
  (∀ s : State, exec .hperrRead s = .next { s.tick with hpErr := 0 }) ∧
  (∀ (s : State) (ctx c : Nat) (v : W64) (d : List Byte) (l : Launch) (rs : List TraceRec), ctx < 16 → v.extractLsb' 0 6 = 0 →
    (∀ r ∈ s.replaying, r.ctx ≠ ctx) → s.readMany ctx v.toNat 64 = some d → s.replayPlan ctx d = some (l, rs) →
    (s.activeIn ctx).bind (fun n => (s.clustersOf n).head?) = some c →
    ∃ s' y, exec (.replayStart ctx v) s = .next s' ∧ s'.block? s.seq = some y ∧ y.stage = .pending ∧ y.cluster = c ∧ y.gang = none ∧
      y.bx = fieldOf d 0x14 4 ∧ y.by' = fieldOf d 0x18 2 ∧ y.bz = fieldOf d 0x1A 2 ∧
      s'.replaying = s.replaying ++ [⟨ctx, s.seq, rs, fieldOf d 0x28 8⟩] ∧ s'.mem = s.mem)

/-- R391, R392, R394 to R397, R404. The tier of firmware addresses is log entry 42, reserved bits log entry 88, what a digest covers and
what reset leaves log entry 91, and the steps of the thermal control log entry 94 (all DEDUCED); when calls to gated functions come and
end is log entry 93, and the Massif's own threads are log entry 127 (DESIGN CHOICES). -/
def Obligations.FirmwareProceeds : Prop :=
  (∀ s : State, ∃ s', exec .resetEvent s = .next s' ∧ s'.mem = s.mem ∧ (∀ b ∈ s'.allBlocks, b.mode = .firmware) ∧ s'.launches = [] ∧ s'.ptime = 0 ∧
    s'.fw.minVer = s.fw.minVer ∧ s'.fw.reports = s.fw.reports ∧ s'.fw.pver = 0 ∧ s'.partitions = [] ∧ s'.contexts = [] ∧
    ((verifies Config.massifImage = false ∨ (Config.imageVersion Config.massifImage).toNat < s.fw.minVer.toNat) →
      s'.fw.state = .bootRefused ∧ s'.blocks = []) ∧
    (verifies Config.massifImage = true → s.fw.minVer.toNat ≤ (Config.imageVersion Config.massifImage).toNat →
      s'.fw.state = .idle ∧ s'.allBlocks = [massifThread s.seq 0, massifThread (s.seq + 1) 1] ∧ s'.fw.version = Config.imageVersion Config.massifImage ∧
      s'.fw.measure 0 = Machine.extend 0 (imageDigest Config.massifImage) ∧ s'.fw.cairnRefused = !s.fw.accepts Config.cairnImage ∧
      (s.fw.accepts Config.cairnImage = true → s'.fw.measure 1 = Machine.extend 0 (imageDigest Config.cairnImage)) ∧
      ∀ k, 4 ≤ k → s'.fw.measure k = 0)) ∧
  (∀ (s : State) (v : W64),
    (v.extractLsb' 32 32 = 0 → s.fw.minVer.toNat < v.toNat → v.toNat ≤ s.fw.version.toNat →
      ∃ s', exec (.minverWrite v) s = .next s' ∧ s'.fw.minVer = v.extractLsb' 0 32 ∧ s'.fw.minErr = false ∧
        s'.fw.measure 3 = Machine.extend (s.fw.measure 3) (leBytes 4 v.toNat)) ∧
    (¬ (v.extractLsb' 32 32 = 0 ∧ s.fw.minVer.toNat < v.toNat ∧ v.toNat ≤ s.fw.version.toNat) →
      exec (.minverWrite v) s = .next (s.mapFw (fun f => { f with minErr := true })).tick)) ∧
  (∀ (s : State) (v : W64),
    (s.fw.state ≠ .idle → exec (.patchStart v) s = .next (s.mapFw (fun f => { f with result := 8 })).tick) ∧
    (s.fw.state = .idle → v.extractLsb' 0 6 ≠ 0 → exec (.patchStart v) s = .next s.tick) ∧
    (s.fw.state = .idle → v.extractLsb' 0 6 = 0 → ∃ s', exec (.patchStart v) s = .next s' ∧ s'.fw.state = .verify ∧
      s'.fw.table = s.fw.table ∧
      s'.fw.image.take 64 = s.atDoor v 64)) ∧
  (∀ s : State, s.fw.down = false →
    (s.fw.state = .verify → s.fw.patchReason = 0 →
      exec .patchVerify s = .next (s.mapFw (fun f => { f with
        state := .gating, gated := patchFuncs s.fw.image, since := s.ptime })).tick) ∧
    (s.fw.state = .verify → s.fw.patchReason ≠ 0 → exec .patchVerify s =
      .next (s.mapFw (fun f => f.endPatch s.fw.patchReason)).tick) ∧
    ((s.fw.state = .gating ∨ s.fw.state = .quiescing) → s.patchLate = false →
      ∃ s', exec .patchSwap s = .next s' ∧
        (s.countActive.fw.active = [] → s'.fw.state = .broadcast ∧ (∀ c, c < 64 → s.usable c = true → (6, 0) ∈ (s'.cluster c).link.out) ∧ s'.fw.table = s.fw.swapTable ∧ s'.fw.oldM2 = s.fw.measure 2 ∧
          s'.fw.measure 2 = Machine.extend (s.fw.measure 2) (imageDigest s.fw.image)) ∧
        (s.countActive.fw.active ≠ [] → s'.fw.state = .quiescing ∧ s'.fw.table = s.fw.table)) ∧
    ((s.fw.state = .gating ∨ s.fw.state = .quiescing) → s.patchLate = true → exec .patchTimeout s =
      .next (s.mapFw (fun f => f.endPatch 6)).tick) ∧
    (∀ (f : Firmware) (n : Nat), let g := f.endPatch n
      g.state = .idle ∧ g.result = n ∧ g.image = [] ∧ g.gated = [] ∧ g.calls = [] ∧ g.table = f.table ∧
      g.entered = f.calls.map (fun k => (k, NMap.lookup f.table k))) ∧
    (s.fw.state = .broadcast → (∀ c, c < 64 → s.usable c = true → c ∈ s.fw.acks) →
      ∃ s', exec .patchComplete s = .next s' ∧ s'.fw.state = .idle ∧ s'.fw.result = 1 ∧
        s'.fw.pver = BitVec.ofNat 32 (fieldOf s.fw.image 4 4) ∧ s'.fw.table = s.fw.table ∧
        s'.fw.applied = s.fw.applied ++ [s.fw.image] ∧ s'.fw.entered = s.fw.calls.map (fun k => (k, NMap.lookup s.fw.table k)))) ∧
  (∀ f : Firmware, (verifies f.image = false → f.patchReason = 2) ∧
    (verifies f.image = true → fieldOf f.image 0 4 ≠ f.version.toNat → f.patchReason = 3) ∧
    (verifies f.image = true → fieldOf f.image 0 4 = f.version.toNat → fieldOf f.image 4 4 ≤ f.pver.toNat →
      f.patchReason = 4) ∧
    (verifies f.image = true → fieldOf f.image 0 4 = f.version.toNat → f.pver.toNat < fieldOf f.image 4 4 →
      f.patchReason = if patchOk f.image then 0 else 5)) ∧
  (∀ (s : State) (v : W64), v.extractLsb' 0 6 = 0 →
    (s.fw.reports < 2 ^ 20 → ∃ s', exec (.attestRequest v) s = .next s' ∧ s'.fw.reports = s.fw.reports + 1 ∧ s'.fw.attStat = 1 ∧
      s' = { (s.write none (physKey 0 v.toNat) (s.attestBody (s.atDoor v 32) ++
        signatureBlock s.fw.reports (s.attestBody (s.atDoor v 32)) ++ List.replicate 44 0)).tick with fw := s'.fw }) ∧
    (2 ^ 20 ≤ s.fw.reports → exec (.attestRequest v) s = .next (s.mapFw (fun f => { f with attStat := 2 })).tick) ∧
    (∃ s', exec (.certificateRequest v) s = .next s' ∧ s'.fw.certStat = 1 ∧
      s' = { (s.write none (physKey 0 v.toNat) certificate).tick with fw := s'.fw })) ∧
  (∀ (s : State) (t : Nat), ∃ s', exec (.thermalStep t) s = .next s' ∧ s'.off = (s.off || decide (110 ≤ t)) ∧
    let step := (s.therm.extractLsb' 0 3).toNat
    (95 < t → (s'.therm.extractLsb' 0 3).toNat = min 7 (step + 1) ∧ s'.therm.getLsbD 16 = true) ∧
    (t < 90 → (s'.therm.extractLsb' 0 3).toNat = step - 1 ∧ s'.therm.getLsbD 16 = false) ∧
    (90 ≤ t → t ≤ 95 → (s'.therm.extractLsb' 0 3).toNat = step ∧ s'.therm.getLsbD 16 = false)) ∧
  (∀ s : State, exec .thermalShutdown s = .next { s.tick with off := true })

/-- Words of chapters 00, 02, 05, 08, 10 and 21. -/
def Obligations.SpecWordsDecode : Prop :=
  let g (neg : Bool) (p : BitVec 7) : Guard := { neg := neg, pred := p }
  let h : Hints := { resv := 0, rc := false, rb := false, ra := false, yld := false, trn := false }
  decodeTableWord 96 0x000000174027D05414040342 = some (.ffma
    { grd := g false 3, hnt := { h with ra := true }, d := .reg 20, a := .reg 21, b := .idx 1 (-3), mod := 0x100, imm := 23 }) ∧
  decodeTableWord 96 0x000000000000000000008506 = some (.exit
    { grd := g true 5, hnt := h, d := .reg 0, a := .reg 0, b := .reg 0, mod := 0, imm := 0 }) ∧
  decodeTableWord 96 0x0000006488B0000404000030 = some (.icmp
    { grd := g false 0, hnt := h, d := .reg 4, a := .reg 1, b := .imm 0, mod := 0x222, imm := 100 }) ∧
  decodeTableWord 96 0x0078383520050242000202F0 = some (.pairedWord
    { grd := g false 2, hnt := { h with yld := true },
      h0 := { sub := 0, d := 8, a := 9, b := 10, m := 0 }, h1 := { sub := 0x12, d := 13, a := 14, b := 15, m := 0 } }) ∧
  decodeTableWord 96 0x0000000000000008040000D5 = some (.launch
    { grd := g false 0, hnt := h, d := .reg 4, a := .reg 2, b := .reg 0, mod := 0, imm := 0 }) ∧
  decodeTableWord 96 0x0000000400513C00000000D8 = some (.lpset
    { grd := g false 0, hnt := h, d := .reg 0, a := .imm 0, b := .special 0x13, mod := 1, imm := 4 }) ∧
  decodeTableWord 96 0xFFFFFFFB0000000000000001 = some (.bra
    { grd := g false 0, hnt := h, d := .reg 0, a := .reg 0, b := .reg 0, mod := 0, imm := 0xFFFFFFFB }) ∧
  decodeTableWord 96 0x0000010000000000280000E8 = some (.sread
    { grd := g false 0, hnt := h, d := .reg 40, a := .reg 0, b := .reg 0, mod := 0, imm := 0x100 })

/-- R30, R37, R47, R54, R344, R369, R377, R378, R392, R401, R404, R405; memory by log entry 1. -/
def Obligations.ResetHasTheStatedValues : Prop :=
  let s := State.reset
  s.qtbase = 0 ∧ s.accepted = 1 ∧ s.ptime = 0 ∧ s.hpErr = 0 ∧ s.therm = 0 ∧ s.launches = [] ∧ s.blocks = [] ∧
  (∀ n, (s.partition n).mask = 0 ∧ (s.partition n).halted = true ∧ (s.partition n).halt = true ∧ (s.partition n).actx = none ∧
    (s.partition n).shctx = none ∧ (s.partition n).busy = false ∧ (s.partition n).ctl.getLsbD 12 = false) ∧
  (∀ n, (s.ctx n).root = 0 ∧ (s.ctx n).handler = 0 ∧ (s.ctx n).save = 0 ∧ (s.ctx n).saveSz = 0 ∧ (s.ctx n).prq = 0 ∧
    (s.ctx n).fsBase = 0 ∧ (s.ctx n).fsCtl = 0 ∧ (s.ctx n).obsCtl = 0 ∧ (s.ctx n).trRing = 0) ∧
  (∀ n, (s.cluster n).lost = false ∧ (s.cluster n).spare = false ∧ (s.cluster n).parUnr = 0 ∧ (s.cluster n).eccCor = 0 ∧
    (s.cluster n).parRep = 0 ∧ (s.cluster n).link.toPermits = 16 ∧ (s.cluster n).link.fromPermits = 16) ∧
  (∀ n, (s.sched n).counts = [] ∧ (s.sched n).freeze = false ∧ (s.sched n).smpA = BitVec.allOnes 64 ∧
    (s.sched n).smpB = BitVec.allOnes 64 ∧ (s.sched n).smpC = 0xFFFF#64) ∧
  (∀ k, s.fw.measure k = 0) ∧ s.fw.pver = 0 ∧ s.fw.result = 0 ∧ s.fw.minErr = false ∧
  Memory.wf s.mem ∧ ∀ a, s.byte a = 0

/-- The canonical form of memory (log entry 1) is an invariant of the machine. -/
def Obligations.MemoryStaysCanonical : Prop := ∀ s s' : State, Memory.wf s.mem → step s = .next s' → Memory.wf s'.mem
end

