-- ==== Sys2Proof/Laws/Exec.lean ====
section
/-! SUPPORT. The driver of a word, seen from one lane and from a bundle (R109, R110). -/

namespace Sys2Proof.Laws

open Sys2Proof.Machine

theorem lookup_adjust {α : Type} (m : NMap α) (i : Nat) (f : α → α) (j : Nat) :
    NMap.lookup (NMap.adjust m i f) j = if j = i then (NMap.lookup m j).map f else NMap.lookup m j := by
  induction m with
  | nil => simp [NMap.adjust, NMap.lookup]
  | cons e m ih =>
    obtain ⟨k, v⟩ := e
    simp only [NMap.adjust]
    by_cases hk : k = i
    · subst hk
      by_cases hj : k = j
      · subst hj; simp [NMap.lookup]
      · simp [NMap.lookup, hj, Ne.symm hj]
    · simp only [if_neg hk, NMap.lookup, ih]
      by_cases hj : k = j
      · subst hj; simp [hk]
      · simp [hj]

theorem adjust_adjust {α : Type} (m : NMap α) (i : Nat) (f g : α → α) :
    NMap.adjust (NMap.adjust m i f) i g = NMap.adjust m i (fun x => g (f x)) := by
  induction m with
  | nil => rfl
  | cons e m ih =>
    obtain ⟨k, v⟩ := e
    by_cases hk : k = i <;> simp [NMap.adjust, hk, ih]

@[simp] theorem block_mapBlock (s : State) (b : Nat) (f : Block → Block) (c : Nat) :
    (s.mapBlock b f).block? c = if c = b then (s.block? c).map f else s.block? c := by
  simp [State.block?, State.mapBlock, lookup_adjust]

theorem mapBlock_mapBlock (s : State) (b : Nat) (f g : Block → Block) :
    (s.mapBlock b f).mapBlock b g = s.mapBlock b (fun x => g (f x)) := by
  simp [State.mapBlock, adjust_adjust]

/-- Threads keep their index. -/
def KeepsIndex (f : Thread → Thread) : Prop := ∀ t, (f t).tidx = t.tidx

theorem mapThread_mapThread (b : Block) (k : Nat) (f g : Thread → Thread) (hf : KeepsIndex f) :
    (b.mapThread k f).mapThread k g = b.mapThread k (fun t => g (f t)) := by
  simp only [Block.mapThread, List.map_map]
  congr 1
  apply List.map_congr_left
  intro t _
  by_cases h : t.tidx = k <;> simp [h, hf t]

theorem state_mapThread_mapThread (s : State) (b k : Nat) (f g : Thread → Thread) (hf : KeepsIndex f) :
    (s.mapThread b k f).mapThread b k g = s.mapThread b k (fun t => g (f t)) := by
  simp only [State.mapThread, mapBlock_mapBlock, mapThread_mapThread _ _ _ _ hf]

theorem find_map_thread (ts : List Thread) (k j : Nat) (f : Thread → Thread) (hf : KeepsIndex f) :
    (ts.map (fun t => if t.tidx = k then f t else t)).find? (fun x => x.tidx == j) =
      (ts.find? (fun x => x.tidx == j)).map (fun t => if t.tidx = k then f t else t) := by
  induction ts with
  | nil => rfl
  | cons t ts ih =>
    have : (if t.tidx = k then f t else t).tidx = t.tidx := by split <;> simp [hf t]
    by_cases h : t.tidx = j
    · rw [List.map_cons, List.find?_cons_of_pos (by rw [this]; simp [h]), List.find?_cons_of_pos (by simp [h])]; rfl
    · rw [List.map_cons, List.find?_cons_of_neg (by rw [this]; simp [h]), List.find?_cons_of_neg (by simp [h]), ih]

theorem thread_mapThread (b : Block) (k j : Nat) (f : Thread → Thread) (hf : KeepsIndex f) :
    (b.mapThread k f).thread? j = if j = k then (b.thread? j).map f else b.thread? j := by
  simp only [Block.thread?, Block.mapThread, find_map_thread _ _ _ _ hf]
  cases h : b.threads.find? (fun x => x.tidx == j) with
  | none => simp
  | some t =>
    have : t.tidx = j := by simpa using List.find?_some h
    by_cases hj : j = k <;> simp [this, hj]

theorem state_thread_mapThread (s : State) (b k c j : Nat) (f : Thread → Thread) (hf : KeepsIndex f) :
    (s.mapThread b k f).thread? c j = if c = b ∧ j = k then (s.thread? c j).map f else s.thread? c j := by
  simp only [State.thread?, State.mapThread, block_mapBlock]
  by_cases hc : c = b
  · subst hc
    cases s.block? c with
    | none => simp
    | some x => simp [thread_mapThread _ _ _ _ hf]
  · simp [hc]

theorem passed_keeps (pc : W32) (y : Bool) : KeepsIndex (fun t => t.passed pc y) := fun _ => rfl

/-- A lane that no STEP follows passes without a trap. -/
theorem passLane_quiet (s : State) (b k : Nat) (pc : W32) (y : Bool) (h : ∀ t, s.thread? b k = some t → t.stepDue = false) :
    s.passLane b k pc y false = (s.mapThread b k (fun t => t.passed pc y), none) := by
  simp only [State.passLane]
  split
  · rename_i t ht
    rw [state_thread_mapThread _ _ _ _ _ _ (passed_keeps pc y)] at ht
    simp only [and_self, if_true, Option.map_eq_some_iff] at ht
    obtain ⟨x, hx, rfl⟩ := ht
    simp [Thread.passed, h x hx]
  · rfl

/-- A lane that no STEP follows completes by moving on. -/
theorem completeLane_quiet (s : State) (b k : Nat) (pc : W32) (y : Bool) (h : ∀ t, s.thread? b k = some t → t.stepDue = false) :
    s.completeLane b k pc y false = s.mapThread b k (fun t => t.passed pc y) := by
  rw [State.completeLane, passLane_quiet s b k pc y h]

/-- A lane that moves on takes its trap, if it has one. -/
theorem passLane_completeLane (s : State) (b k : Nat) (pc : W32) (y st : Bool) :
    (match ((s.passLane b k pc y st).1, (s.passLane b k pc y st).2.map (fun tr => (tr, 0))) with
      | (s', none) => s'
      | (s', some (tr, acc)) => s'.takeTrap b k tr acc) = s.completeLane b k pc y st := by
  simp only [State.completeLane]
  rcases s.passLane b k pc y st with ⟨s', _ | tr⟩ <;> rfl

/-- A lane that raises no trap is followed by the other lanes. -/
theorem runLanes_cons {p : Plan} {body : Bool → Env → State → LaneEnd} {steps : List Nat} {blk k : Nat} {ks : List Nat}
    {ds : List (Nat × Trap × Nat)} {s s' : State} (h : laneOut p body steps blk s k = (s', none)) :
    runLanes p body steps blk (k :: ks) ds s = runLanes p body steps blk ks ds s' := by
  simp only [runLanes, h]

/-- Traps of no lane. -/
@[simp] theorem takeTraps_nil (s : State) (blk : Nat) : s.takeTraps blk [] = s := rfl

/-- A thread's own group is no other one that waits for its page. -/
theorem takeTrap_own (s : State) (blk k : Nat) (tr : Trap) (acc : Nat) (b : Block) (h : s.block? blk = some b) :
    s.takeTrap blk k tr acc [b.gidOf k] = s.takeTrap blk k tr acc := by
  simp only [State.takeTrap, h]
  cases ht : b.thread? k with
  | none => rfl
  | some t =>
    have hk : t.tidx = k := by simpa using List.find?_some ht
    simp [State.xlateFault, hk]

/-- The trap of one lane. -/
theorem takeTraps_one (s : State) (blk k : Nat) (tr : Trap) (acc : Nat) :
    s.takeTraps blk [(k, tr, acc)] = s.takeTrap blk k tr acc := by
  simp only [State.takeTraps, List.filter_cons, List.filter_nil]
  cases hm : s.mayServe blk tr
  · simp only [Bool.false_eq_true, if_false, Bool.not_false, if_true, State.serveTraps, List.foldl_nil, State.endTraps, countedTraps,
      List.filter_nil, List.map_nil]
    cases s.block? blk <;> simp
  · simp only [if_true, Bool.not_true, Bool.false_eq_true, if_false, State.serveTraps, List.foldl_cons, List.foldl_nil,
      State.endTraps, countedTraps, List.filter_cons, List.filter_nil]
    cases h : s.block? blk with
    | none => simp [State.takeTrap, h]
    | some b =>
      cases samePage tr tr
      · rfl
      · exact takeTrap_own s blk k tr acc b h

/-- A bundle of one lane. -/
theorem runLanes_one (p : Plan) (body : Bool → Env → State → LaneEnd) (steps : List Nat) (blk k : Nat) (s : State) :
    runLanes p body steps blk [k] [] s = lane p body steps blk s k := by
  simp only [runLanes, lane]
  rcases laneOut p body steps blk s k with ⟨s', _ | ⟨tr, acc⟩⟩
  · rfl
  · simp only [List.nil_append, takeTraps_one, takeTraps_nil, ite_self]

/-- The driver on a bundle of one lane whose word nothing keeps from its effect. -/
theorem runWord_one {s : State} {i : Instr} {w : Word} {b : Block} {t : Thread} {p : Plan}
    {body : Bool → Env → State → LaneEnd} {post : Bundle → State → State → State} (h : issues s i w b t)
    (hi : p.i = i) (hw : p.w = w) (hf : p.f = formIn i) (hs : p.skip ⟨b, t⟩ = false)
    (hc : (p.ctr.map (fun c => decide (63 ≤ t.cnt.get c))).getD false = false) :
    runWord p body post s = .next (post ⟨b.id, [t.tidx], t.pc⟩ s (match body true ⟨b, t⟩ s with
      | .done s' pc => s'.completeLane b.id t.tidx pc w.hnt.yld false
      | .stay s' => s'
      | .trap s' tr acc => (s'.yieldAt b.id t.tidx w tr).takeTrap b.id t.tidx tr acc)).endWord := by
  obtain ⟨hl, hb, hd, hg, ⟨ht, hm, hp, hsec, ha, hr⟩, hst, -⟩ := h
  subst hi hw
  simp only [runWord, hl, hb, hf, hd, ne_eq, not_true_eq_false, if_false, runLanes_one]
  have hl1 : lane p body b.stepping b.id s t.tidx = (match body true ⟨b, t⟩ s with
      | .done s' pc => s'.completeLane b.id t.tidx pc p.w.hnt.yld false
      | .stay s' => s'
      | .trap s' tr acc => (s'.yieldAt b.id t.tidx p.w tr).takeTrap b.id t.tidx tr acc) := by
    simp only [lane, laneOut, hb, ht, hf, hg, hs, hst, Bool.false_and, Bool.not_true, Bool.or_false, Bool.true_and, hc]
    rw [if_neg (by revert hm; cases (formIn p.i).sup <;> cases t.sup <;> simp), if_neg (by omega)]
    rw [if_neg (by simpa using hsec)]
    simp only [ha, hr, Bool.and_false, Bool.not_true, Bool.false_eq_true, if_false]
    cases body true ⟨b, t⟩ s with
    | done s' pc => exact passLane_completeLane s' b.id t.tidx pc p.w.hnt.yld false
    | stay s' => rfl
    | trap s' tr acc => rfl
  rw [hl1]

/-! ### Words of one lane -/

/-- A lane whose word completes it goes on. -/
theorem runWord_done {s : State} {i : Instr} {w : Word} {b : Block} {t : Thread} {p : Plan}
    {body : Bool → Env → State → LaneEnd} {post : Bundle → State → State → State} (s' : State) (f : Thread → Thread) (pc : W32)
    (h : issues s i w b t)
    (hb : body true ⟨b, t⟩ s = .done (s'.mapThread b.id t.tidx f) pc) (hk : KeepsIndex f)
    (hq : ∀ x, s'.thread? b.id t.tidx = some x → (f x).stepDue = false)
    (hi : p.i = i := by rfl) (hw : p.w = w := by rfl) (hf : p.f = formIn i := by rfl)
    (hs : p.skip ⟨b, t⟩ = false := by rfl)
    (hc : (p.ctr.map (fun c => decide (63 ≤ t.cnt.get c))).getD false = false := by rfl) :
    runWord p body post s = .next (post ⟨b.id, [t.tidx], t.pc⟩ s
      (s'.mapThread b.id t.tidx (fun x => (f x).passed pc w.hnt.yld))).endWord := by
  rw [runWord_one h hi hw hf hs hc, hb]
  simp only
  rw [completeLane_quiet, state_mapThread_mapThread _ _ _ _ _ hk]
  intro x hx
  rw [state_thread_mapThread _ _ _ _ _ _ hk] at hx
  simp only [and_self, if_true, Option.map_eq_some_iff] at hx
  obtain ⟨y, hy, rfl⟩ := hx
  exact hq y hy

theorem mapThread_id (s : State) (b k : Nat) : s.mapThread b k id = s := by
  have h1 : ∀ x : Block, x.mapThread k id = x := fun x => by simp [Block.mapThread]
  have h2 : ∀ m : NMap Block, NMap.adjust m b id = m := by
    intro m
    induction m with
    | nil => rfl
    | cons e m ih => simp [NMap.adjust, ih]
  have h3 : (fun x : Block => x.mapThread k id) = id := funext h1
  simp only [State.mapThread, State.mapBlock, h3, h2]

/-- A lane that its word lets pass. -/
theorem runWord_pass {s : State} {i : Instr} {w : Word} {b : Block} {t : Thread} {p : Plan}
    {body : Bool → Env → State → LaneEnd} {post : Bundle → State → State → State} (s' : State) (pc : W32) (h : issues s i w b t)
    (hb : body true ⟨b, t⟩ s = .done s' pc) (hq : ∀ x, s'.thread? b.id t.tidx = some x → x.stepDue = false)
    (hi : p.i = i := by rfl) (hw : p.w = w := by rfl) (hf : p.f = formIn i := by rfl)
    (hs : p.skip ⟨b, t⟩ = false := by rfl)
    (hc : (p.ctr.map (fun c => decide (63 ≤ t.cnt.get c))).getD false = false := by rfl) :
    runWord p body post s = .next (post ⟨b.id, [t.tidx], t.pc⟩ s
      (s'.mapThread b.id t.tidx (fun x => x.passed pc w.hnt.yld))).endWord :=
  runWord_done (f := id) s' pc h (by rw [mapThread_id]; exact hb) (fun _ => rfl) hq hi hw hf hs hc

/-- A lane that waits, or that leaves its word in a way of its own. -/
theorem runWord_stay {s : State} {i : Instr} {w : Word} {b : Block} {t : Thread} {p : Plan}
    {body : Bool → Env → State → LaneEnd} {post : Bundle → State → State → State} (s' : State) (h : issues s i w b t)
    (hb : body true ⟨b, t⟩ s = .stay s')
    (hi : p.i = i := by rfl) (hw : p.w = w := by rfl) (hf : p.f = formIn i := by rfl)
    (hs : p.skip ⟨b, t⟩ = false := by rfl)
    (hc : (p.ctr.map (fun c => decide (63 ≤ t.cnt.get c))).getD false = false := by rfl) :
    runWord p body post s = .next (post ⟨b.id, [t.tidx], t.pc⟩ s s').endWord := by
  rw [runWord_one h hi hw hf hs hc, hb]

/-- A lane that takes a trap at its word. -/
theorem runWord_trap {s : State} {i : Instr} {w : Word} {b : Block} {t : Thread} {p : Plan}
    {body : Bool → Env → State → LaneEnd} {post : Bundle → State → State → State} (s' : State) (tr : Trap) (acc : Nat)
    (h : issues s i w b t) (hb : body true ⟨b, t⟩ s = .trap s' tr acc)
    (hi : p.i = i := by rfl) (hw : p.w = w := by rfl) (hf : p.f = formIn i := by rfl)
    (hs : p.skip ⟨b, t⟩ = false := by rfl)
    (hc : (p.ctr.map (fun c => decide (63 ≤ t.cnt.get c))).getD false = false := by rfl) :
    runWord p body post s = .next (post ⟨b.id, [t.tidx], t.pc⟩ s
      ((s'.yieldAt b.id t.tidx w tr).takeTrap b.id t.tidx tr acc)).endWord := by
  rw [runWord_one h hi hw hf hs hc, hb]

/-- The thread of a lane that issues is not due a STEP, in the state it issues in and in any with the same blocks. -/
theorem issues_quiet {s s' : State} {i : Instr} {w : Word} {b : Block} {t : Thread} (h : issues s i w b t)
    (hs : s'.blocks = s.blocks) : ∀ x, s'.thread? b.id t.tidx = some x → x.stepDue = false := by
  obtain ⟨-, hb, -, -, ⟨ht, -⟩, -, hd⟩ := h
  intro x hx
  have : s'.block? b.id = some b := by simpa [State.block?, hs] using hb
  simp only [State.thread?, this, Option.bind_some, ht, Option.some.injEq] at hx
  rw [← hx, hd]

/-! ### Words of the plain families -/

theorem setReg_tidx (t : Thread) (n : Nat) (v : W32) : (t.setReg n v).tidx = t.tidx := rfl

theorem setTuple_tidx (vs : List W32) : ∀ (t : Thread) (n : Nat), (t.setTuple n vs).tidx = t.tidx := by
  induction vs with
  | nil => intro t n; rfl
  | cons v vs ih => intro t n; simp [Thread.setTuple, ih, setReg_tidx]

theorem result_tidx (t : Thread) (d : Opd) (trn : Bool) (vs : List W32) : (t.result d trn vs).tidx = t.tidx := by
  simp only [Thread.result]
  split
  · split
    · rfl
    · simp [setTuple_tidx, Thread.shift]
  · rfl

theorem setPred_tidx (t : Thread) (n : Nat) (v : Bool) : (t.setPred n v).tidx = t.tidx := by
  simp only [Thread.setPred]; split <;> rfl

theorem setPreds_tidx (ps : List (Nat × Bool)) : ∀ t : Thread, (t.setPreds ps).tidx = t.tidx := by
  induction ps with
  | nil => intro t; rfl
  | cons p ps ih => intro t; simpa [Thread.setPreds, setPred_tidx] using ih (t.setPred p.1 p.2)

theorem apply_tidx (t : Thread) (w : Word) (r : Res) : (t.apply w r).tidx = t.tidx := by
  simp only [Thread.apply, Thread.flag, setPreds_tidx]
  split
  · exact result_tidx _ _ _ _
  · rfl

theorem setReg_stepDue (t : Thread) (n : Nat) (v : W32) : (t.setReg n v).stepDue = t.stepDue := rfl

theorem setTuple_stepDue (vs : List W32) : ∀ (t : Thread) (n : Nat), (t.setTuple n vs).stepDue = t.stepDue := by
  induction vs with
  | nil => intro t n; rfl
  | cons v vs ih => intro t n; simp [Thread.setTuple, ih, setReg_stepDue]

theorem result_stepDue (t : Thread) (d : Opd) (trn : Bool) (vs : List W32) : (t.result d trn vs).stepDue = t.stepDue := by
  simp only [Thread.result]
  split
  · split
    · rfl
    · simp [setTuple_stepDue, Thread.shift]
  · rfl

theorem setPreds_stepDue (ps : List (Nat × Bool)) : ∀ t : Thread, (t.setPreds ps).stepDue = t.stepDue := by
  induction ps with
  | nil => intro t; rfl
  | cons p ps ih =>
    intro t
    have h : (t.setPred p.1 p.2).stepDue = t.stepDue := by simp only [Thread.setPred]; split <;> rfl
    simpa [Thread.setPreds, h] using ih (t.setPred p.1 p.2)

theorem apply_stepDue (t : Thread) (w : Word) (r : Res) : (t.apply w r).stepDue = t.stepDue := by
  simp only [Thread.apply, Thread.flag, setPreds_stepDue]
  split
  · exact result_stepDue _ _ _ _
  · rfl

/-- A lane after a word of the plain families. -/
def plainAfter (w : Word) (g : Env → Res) (b : Block) (t : Thread) : Thread :=
  (if t.guard w.grd then t.apply w (g ⟨b, t⟩) else t).passed (t.pc + 1) w.hnt.yld

theorem plainAfter_tidx (w : Word) (g : Env → Res) (b : Block) (t : Thread) : (plainAfter w g b t).tidx = t.tidx := by
  simp only [plainAfter, Thread.passed]; split
  · exact apply_tidx _ _ _
  · rfl

/-- The body of a word of the plain families. -/
def plainBody (w : Word) (g : Env → Res) (_ : Bool) (e : Env) (s : State) : LaneEnd :=
  .done (s.mapThread e.blk.id e.th.tidx (fun t => t.apply w (g e))) (e.th.pc + 1)

theorem thread_of_block {s : State} {b : Block} {k : Nat} (h : s.block? b.id = some b) : s.thread? b.id k = b.thread? k := by
  simp [State.thread?, h]

/-- One lane of such a word, when nothing keeps it from its effect. -/
theorem lane_plain {s : State} {i : Instr} {w : Word} {b : Block} {t : Thread} {g : Env → Res} {steps : List Nat}
    (hb : s.block? b.id = some b) (h : laneReady s i w b t) (hs : steps.contains (b.gidOf t.tidx) = false)
    (hd : t.stepDue = false) :
    ∃ f : Thread → Thread, KeepsIndex f ∧ f t = plainAfter w g b t ∧
      laneOut (planOf i w) (plainBody w g) steps b.id s t.tidx = (s.mapThread b.id t.tidx f, none) := by
  obtain ⟨ht, hm, hp, hsec, ha, hr⟩ := h
  have h1 : ¬((formIn i).sup = true ∧ t.sup = false) := by
    rintro ⟨x, y⟩; rw [hm x] at y; cases y
  by_cases hg : t.guard w.grd = true
  · refine ⟨fun x => (x.apply w (g ⟨b, t⟩)).passed (t.pc + 1) w.hnt.yld, fun x => apply_tidx x _ _, by simp [plainAfter, hg], ?_⟩
    have hq : ∀ x, (s.mapThread b.id t.tidx (fun x => x.apply w (g ⟨b, t⟩))).thread? b.id t.tidx = some x → x.stepDue = false := by
      intro x hx
      rw [state_thread_mapThread _ _ _ _ _ _ (fun x => apply_tidx x _ _), thread_of_block hb, ht] at hx
      simp only [and_self, if_true, Option.map_some, Option.some.injEq] at hx
      rw [← hx, apply_stepDue, hd]
    simp only [laneOut, hb, ht, planOf, hg, hs, Bool.false_and, Bool.not_true, Bool.or_false, Bool.true_and, plainBody, Option.map_none,
      Option.getD_none]
    rw [if_neg (by simpa using h1), if_neg (by omega), if_neg (by simpa using hsec)]
    simp only [ha, hr, Bool.false_eq_true, if_false, Bool.not_false, Bool.true_and, Bool.not_true]
    rw [passLane_quiet _ _ _ _ _ hq, state_mapThread_mapThread _ _ _ _ _ (fun x => apply_tidx x _ _)]
    rfl
  · refine ⟨fun x => x.passed (t.pc + 1) w.hnt.yld, passed_keeps _ _, by simp [plainAfter, hg], ?_⟩
    have hq : ∀ x, s.thread? b.id t.tidx = some x → x.stepDue = false := by
      intro x hx; rw [thread_of_block hb, ht] at hx; cases hx; exact hd
    simp only [laneOut, hb, ht, planOf, hg, hs, Bool.false_and]
    rw [if_neg (by simpa using h1), if_neg (by omega), if_neg (by simpa using hsec)]
    simp [passLane_quiet _ _ _ _ _ hq]

/-- What a state keeps while lanes of a block change their own threads. -/
theorem sameButThreads_mapThread {s s' : State} {b k : Nat} {who : List Nat} {f : Thread → Thread} (hf : KeepsIndex f)
    (h : sameButThreads s s' b who) : sameButThreads s (s'.mapThread b k f) b (k :: who) := by
  obtain ⟨h0, h1, h2, h3⟩ := h
  refine ⟨h0, ?_, ?_, ?_⟩
  · intro c hc; simp [State.mapThread, hc, h1 c hc]
  · intro x hx
    obtain ⟨ts, hts⟩ := h2 x hx
    exact ⟨_, by simp only [State.mapThread, block_mapBlock, if_true, hts, Option.map_some]; rfl⟩
  · intro j hj
    rw [state_thread_mapThread _ _ _ _ _ _ hf, if_neg (by simp at hj; tauto)]
    exact h3 j (by simp at hj; tauto)

theorem sameButThreads_refl (s : State) (b : Nat) (who : List Nat) : sameButThreads s s b who :=
  ⟨rfl, fun _ _ => rfl, fun b hb => ⟨b.threads, hb⟩, fun _ _ => rfl⟩

theorem block_with_threads {b : Block} {ts : List Thread} {k : Nat} : ({ b with threads := ts } : Block).thread? k =
    ts.find? (fun x => x.tidx == k) := rfl

/-- The lanes of a bundle one after the other. -/
theorem lanes_plain {s : State} {i : Instr} {w : Word} {b : Block} {g : Env → Res} (steps : List Nat)
    (hb : s.block? b.id = some b) (hg : ∀ ts t, g ⟨{ b with threads := ts }, t⟩ = g ⟨b, t⟩) (lanes : List Nat) :
    ∀ (done : List Nat) (s' : State), sameButThreads s s' b.id done → (lanes ++ done).Nodup →
      (∀ k ∈ lanes, ∃ t, b.thread? k = some t ∧ t.tidx = k ∧ laneReady s i w b t ∧
        steps.contains (b.gidOf t.tidx) = false ∧ t.stepDue = false) →
      (∀ k ∈ done, ∀ t, b.thread? k = some t → s'.thread? b.id k = some (plainAfter w g b t)) →
      sameButThreads s (runLanes (planOf i w) (plainBody w g) steps b.id lanes [] s') b.id (lanes.reverse ++ done) ∧
        ∀ k ∈ lanes ++ done, ∀ t, b.thread? k = some t →
          (runLanes (planOf i w) (plainBody w g) steps b.id lanes [] s').thread? b.id k = some (plainAfter w g b t) := by
  induction lanes with
  | nil => intro done s' h _ _ hv; exact ⟨by simpa [runLanes] using h, by simpa [runLanes] using hv⟩
  | cons k lanes ih =>
    intro done s' h hn hr hv
    obtain ⟨t, ht, rfl, hl, hst, hdue⟩ := hr k (by simp)
    obtain ⟨ts, hts⟩ := h.2.2.1 b hb
    have hnd : t.tidx ∉ done := by
      intro hm
      exact (List.nodup_append.mp hn).2.2 _ (by simp) _ hm rfl
    have ht' : ({ b with threads := ts } : Block).thread? t.tidx = some t := by
      have := h.2.2.2 t.tidx hnd
      rw [State.thread?, hts, thread_of_block hb, ht] at this
      simpa using this
    have hl' : laneReady s' i w { b with threads := ts } t := by
      obtain ⟨-, a, c, d, e, f⟩ := hl
      refine ⟨ht', a, c, ?_, e, f⟩
      have : s'.sectionOf b.id t.tidx = s.sectionOf b.id t.tidx := by
        have h0 := congrArg State.sections h.1
        simp only [State.sectionOf]
        rw [← h0]
      simpa [this] using d
    obtain ⟨f, hf, hft, hlane⟩ := lane_plain (g := g) (steps := steps) hts hl' (by simpa [Block.gidOf] using hst) hdue
    have hlane' : laneOut (planOf i w) (plainBody w g) steps b.id s' t.tidx = (s'.mapThread b.id t.tidx f, none) := hlane
    rw [runLanes_cons hlane']
    have step := ih (t.tidx :: done) (s'.mapThread b.id t.tidx f) (sameButThreads_mapThread hf h)
      (by
        have := hn
        rw [List.cons_append] at this
        exact (List.perm_middle.nodup_iff).mpr this)
      (fun k hk => hr k (by simp [hk]))
      (by
        intro k hk x hx
        rw [state_thread_mapThread _ _ _ _ _ _ hf]
        by_cases hkt : k = t.tidx
        · subst hkt
          rw [ht] at hx; cases hx
          rw [if_pos ⟨rfl, rfl⟩, State.thread?, hts]
          simp only [Option.bind_some, ht', Option.map_some, hft, plainAfter, hg]
        · rw [if_neg (by tauto)]
          exact hv k (by simpa [hkt] using hk) x hx)
    refine ⟨by simpa using step.1, fun k hk x hx => step.2 k (by simp at hk ⊢; tauto) x hx⟩

/-- A word of the plain families on a bundle: each lane computes its own result, or passes where its guard is false; the rest of
the machine is as it was. -/
theorem runPure_bundle {s : State} {i : Instr} {w : Word} {b : Block} {u : Bundle} {g : Env → Res} (h : bundleIssues s i w b u)
    (hg : ∀ ts t, g ⟨{ b with threads := ts }, t⟩ = g ⟨b, t⟩) :
    ∃ s', runPure i w g s = .next s' ∧
      (∀ k ∈ u.lanes, ∀ t, b.thread? k = some t → s'.thread? b.id k = some (plainAfter w g b t)) ∧
      sameButThreads s s' b.id u.lanes := by
  obtain ⟨hl, hu, hb, hd, hn, hr⟩ := h
  have main := lanes_plain (i := i) (w := w) (g := g) b.stepping hb hg u.lanes [] s (sameButThreads_refl s b.id [])
    (by simpa using hn) (fun k hk => by
      obtain ⟨t, a, c, d, e⟩ := hr k hk
      exact ⟨t, a, c, d, e⟩) (by simp)
  obtain ⟨m1, m2⟩ := main
  refine ⟨(runLanes (planOf i w) (plainBody w g) b.stepping b.id u.lanes [] s).endWord, ?_, ?_, ?_⟩
  · simp only [runPure, runAlu, runWord, hl, hu, hb, planOf, hd, ne_eq, not_true_eq_false, if_false]
    rfl
  · intro k hk t ht
    exact m2 k (by simpa using hk) t ht
  · obtain ⟨h0, h1, h2, h3⟩ := m1
    exact ⟨h0, h1, h2, fun k hk => h3 k (by simpa using hk)⟩

end Sys2Proof.Laws
end

