-- ==== Sys2Proof/Laws/Maps.lean ====
section
/-! SUPPORT. Finite maps: what a read finds after an update, and that storage keeps its canonical form. -/

namespace Sys2Proof.Laws

open Sys2Proof.Machine

variable {α : Type}

@[simp] theorem lookup_nil (i : Nat) : NMap.lookup ([] : NMap α) i = none := rfl

theorem lookup_insert (m : NMap α) (i j : Nat) (x : α) :
    NMap.lookup (NMap.insert m i x) j = if j = i then some x else NMap.lookup m j := by
  induction m with
  | nil => simp [NMap.insert, NMap.lookup, eq_comm]
  | cons e m ih =>
    obtain ⟨k, v⟩ := e
    simp only [NMap.insert]
    split
    · by_cases h : i = j <;> simp [NMap.lookup, h, Ne.symm, eq_comm]
    · split
      · rename_i h; subst h
        by_cases h : i = j <;> simp [NMap.lookup, h, eq_comm]
      · rename_i h
        simp only [NMap.lookup, ih]
        by_cases hk : k = j
        · subst hk; simp [Ne.symm h]
        · simp [hk]

theorem lookup_remove (m : NMap α) (i j : Nat) :
    NMap.lookup (NMap.remove m i) j = if j = i then none else NMap.lookup m j := by
  induction m with
  | nil => simp [NMap.remove]
  | cons e m ih =>
    obtain ⟨k, v⟩ := e
    simp only [NMap.remove]
    split
    · rename_i h; subst h
      rw [ih]; by_cases h : j = k <;> simp [NMap.lookup, h]; simp [Ne.symm h]
    · rename_i h
      simp only [NMap.lookup, ih]
      by_cases hk : k = j
      · subst hk; simp [h]
      · simp [hk]

/-- Storage: a read after a write. -/
theorem read_put [DecidableEq α] (d : α) (m : NMap α) (i j : Nat) (x : α) :
    NMap.read d (NMap.put d m i x) j = if j = i then x else NMap.read d m j := by
  simp only [NMap.read, NMap.put]
  split
  · rename_i h; subst h; rw [lookup_remove]; split <;> simp
  · rw [lookup_insert]; split <;> simp

theorem read_put_same [DecidableEq α] (d : α) (m : NMap α) (i : Nat) (x : α) : NMap.read d (NMap.put d m i x) i = x := by
  simp [read_put]

theorem read_put_other [DecidableEq α] (d : α) (m : NMap α) {i j : Nat} (x : α) (h : j ≠ i) :
    NMap.read d (NMap.put d m i x) j = NMap.read d m j := by simp [read_put, h]

/-! ### Canonical form -/

theorem risesFrom_mono {m : NMap α} : ∀ {n k : Nat}, n ≤ k → NMap.risesFrom k m = true → NMap.risesFrom n m = true := by
  cases m with
  | nil => intros; rfl
  | cons e m => intro n k h hk; simp only [NMap.risesFrom, Bool.and_eq_true, decide_eq_true_eq] at *; exact ⟨by omega, hk.2⟩

theorem risesFrom_insert (i : Nat) (x : α) : ∀ (m : NMap α) (n : Nat), n ≤ i → NMap.risesFrom n m = true →
    NMap.risesFrom n (NMap.insert m i x) = true
  | [], n, h, _ => by simp [NMap.insert, NMap.risesFrom, h]
  | (k, v) :: m, n, h, hm => by
    simp only [NMap.risesFrom, Bool.and_eq_true, decide_eq_true_eq] at hm
    simp only [NMap.insert]
    split
    · simp only [NMap.risesFrom, Bool.and_eq_true, decide_eq_true_eq]; exact ⟨h, by omega, hm.2⟩
    · split
      · rename_i hk; subst hk
        simp only [NMap.risesFrom, Bool.and_eq_true, decide_eq_true_eq]; exact ⟨h, hm.2⟩
      · simp only [NMap.risesFrom, Bool.and_eq_true, decide_eq_true_eq]
        exact ⟨hm.1, risesFrom_insert i x m (k + 1) (by omega) hm.2⟩

theorem risesFrom_remove (i : Nat) : ∀ (m : NMap α) (n : Nat), NMap.risesFrom n m = true → NMap.risesFrom n (NMap.remove m i) = true
  | [], _, _ => rfl
  | (k, v) :: m, n, hm => by
    simp only [NMap.risesFrom, Bool.and_eq_true, decide_eq_true_eq] at hm
    simp only [NMap.remove]
    split
    · exact risesFrom_mono (by omega) (risesFrom_remove i m (k + 1) hm.2)
    · simp only [NMap.risesFrom, Bool.and_eq_true, decide_eq_true_eq]; exact ⟨hm.1, risesFrom_remove i m (k + 1) hm.2⟩

theorem all_insert (p : Nat × α → Bool) (i : Nat) (x : α) (hx : p (i, x) = true) : ∀ m : NMap α, m.all p = true →
    (NMap.insert m i x).all p = true
  | [], _ => by simp [NMap.insert, hx]
  | (k, v) :: m, h => by
    simp only [List.all_cons, Bool.and_eq_true] at h
    simp only [NMap.insert]
    split
    · simp [hx, h.1, h.2]
    · split
      · simp [hx, h.2]
      · simp [h.1, all_insert p i x hx m h.2]

theorem all_remove (p : Nat × α → Bool) (i : Nat) : ∀ m : NMap α, m.all p = true → (NMap.remove m i).all p = true
  | [], _ => rfl
  | (k, v) :: m, h => by
    simp only [List.all_cons, Bool.and_eq_true] at h
    simp only [NMap.remove]
    split
    · exact all_remove p i m h.2
    · simp [h.1, all_remove p i m h.2]

/-- A write keeps the canonical form of storage. -/
theorem canonical_put [DecidableEq α] (d : α) (m : NMap α) (i : Nat) (x : α) (h : NMap.canonical d m = true) :
    NMap.canonical d (NMap.put d m i x) = true := by
  simp only [NMap.canonical, Bool.and_eq_true] at h ⊢
  simp only [NMap.put]
  split
  · exact ⟨risesFrom_remove i m 0 h.1, all_remove _ i m h.2⟩
  · rename_i hx
    exact ⟨risesFrom_insert i x m 0 (Nat.zero_le _) h.1, all_insert _ i x (by simpa using hx) m h.2⟩

theorem canonical_nil [DecidableEq α] (d : α) : NMap.canonical d ([] : NMap α) = true := rfl

end Sys2Proof.Laws
end

