-- ==== Sys2Proof/Laws/Memory.lean ====
section
/-! SUPPORT. Memory: every operation that writes it keeps its canonical form, writes its own bytes and leaves every other byte
(R206, R298). -/

namespace Sys2Proof.Laws

open Sys2Proof Sys2Proof.Machine

/-! ### A run of bytes -/

theorem putBytes_wf (bs : List Byte) : ∀ (m : List Host.Cell) (k : Nat), Memory.wf m → Memory.wf (putBytes m k bs) := by
  induction bs with
  | nil => intro m k h; exact h
  | cons b bs ih => intro m k h; exact ih _ _ (canonical_put 0 m k b h)

theorem putBytes_read_outside (bs : List Byte) : ∀ (m : List Host.Cell) (k a : Nat), (a < k ∨ k + bs.length ≤ a) →
    NMap.read 0 (putBytes m k bs) a = NMap.read 0 m a := by
  induction bs with
  | nil => intro m k a _; rfl
  | cons b bs ih =>
    intro m k a h
    simp only [List.length_cons] at h
    rw [putBytes, ih _ _ _ (by omega), read_put_other _ _ _ (by omega)]

theorem putBytes_read_inside (bs : List Byte) : ∀ (m : List Host.Cell) (k i : Nat), i < bs.length →
    NMap.read 0 (putBytes m k bs) (k + i) = bs.getD i 0 := by
  induction bs with
  | nil => intro m k i h; simp at h
  | cons b bs ih =>
    intro m k i h
    rw [putBytes]
    cases i with
    | zero => rw [putBytes_read_outside _ _ _ _ (by omega)]; simp [read_put_same]
    | succ i =>
      rw [show k + (i + 1) = k + 1 + i by omega, ih _ _ _ (by simpa using h)]
      simp

/-! ### Writes of the machine -/

@[simp] theorem rawWrite_mem (s : State) (core : Option Nat) (k : Nat) (bs : List Byte) :
    (s.rawWrite core k bs).mem = putBytes s.mem k bs := rfl

/-- Two states differ at most in sections, in the versions of sectors, and in blocks. -/
def sameButSections (s t : State) : Prop := { s with sections := t.sections, versions := t.versions, blocks := t.blocks } = t

theorem sameButSections_refl (s : State) : sameButSections s s := rfl

theorem sameButSections_trans {s t u : State} (h : sameButSections s t) (g : sameButSections t u) : sameButSections s u := by
  unfold sameButSections at h g ⊢
  rw [← g, ← h]

theorem sameButSections_foldl {α : Type} (f : State → α → State) (h : ∀ s x, sameButSections s (f s x)) :
    ∀ (l : List α) (s : State), sameButSections s (l.foldl f s)
  | [], s => sameButSections_refl s
  | x :: l, s => sameButSections_trans (h s x) (sameButSections_foldl f h l (f s x))

theorem markAborted_frame (s : State) (x : Nat × Nat) (cause : Nat) (other : Option Nat) :
    sameButSections s (s.markAborted x cause other) := by
  unfold State.markAborted
  split
  · rfl
  · split <;> rfl

theorem cascade_frame : ∀ (n : Nat) (s : State) (xs : List (Nat × Nat)), sameButSections s (s.cascade n xs)
  | 0, s, _ => sameButSections_refl s
  | n + 1, _, _ => sameButSections_trans
      (sameButSections_foldl _ (fun s (h : (Nat × Nat) × Nat) => markAborted_frame s h.1 4 (some h.2)) _ _)
      (cascade_frame n _ _)

/-- The abort of sections, and of those that consumed from them, leaves memory, poison, caches, launches and time alone (R326). -/
theorem abortAll_frame (s : State) (xs : List (Nat × Nat)) (cause : Nat) (other : Option Nat) :
    sameButSections s (s.abortAll xs cause other) :=
  sameButSections_trans (sameButSections_foldl _ (fun s' x => markAborted_frame s' x cause other) _ s) (cascade_frame _ _ _)

/-- A write by another agent aborts sections and changes no memory of its own (R327). -/
theorem externalWrite_frame (s : State) (k n : Nat) : sameButSections s (s.externalWrite k n) := by
  unfold State.externalWrite
  dsimp only
  split
  · exact abortAll_frame _ _ _ _
  · exact sameButSections_refl s

@[simp] theorem write_mem (s : State) (core : Option Nat) (k : Nat) (bs : List Byte) :
    (s.write core k bs).mem = putBytes s.mem k bs :=
  (congrArg State.mem (externalWrite_frame (s.rawWrite core k bs) k bs.length)).symm

/-- A write keeps the canonical form. -/
theorem write_wf (s : State) (core : Option Nat) (k : Nat) (bs : List Byte) (h : Memory.wf s.mem) :
    Memory.wf (s.write core k bs).mem := by rw [write_mem]; exact putBytes_wf bs _ k h

/-- A write gives its bytes to the addresses that it covers. -/
theorem write_inside (s : State) (core : Option Nat) (k : Nat) (bs : List Byte) (i : Nat) (h : i < bs.length) :
    (s.write core k bs).byte (k + i) = bs.getD i 0 := by
  simp only [State.byte, write_mem]; exact putBytes_read_inside bs _ k i h

/-- A write leaves every other byte. -/
theorem write_outside (s : State) (core : Option Nat) (k : Nat) (bs : List Byte) (a : Nat) (h : a < k ∨ k + bs.length ≤ a) :
    (s.write core k bs).byte a = s.byte a := by
  simp only [State.byte, write_mem]; exact putBytes_read_outside bs _ k a h

/-- A posted write: its bytes are written, or its host or device refuses it and nothing is. -/
theorem postWrite_mem (s : State) (core : Option Nat) (src : Path) (k : Nat) (bs : List Byte) :
    (s.postWrite core src k bs).mem = if s.refuses k then s.mem else putBytes s.mem k bs := by
  unfold State.postWrite
  split
  · rfl
  · exact write_mem _ _ _ _

theorem postWrite_wf (s : State) (core : Option Nat) (src : Path) (k : Nat) (bs : List Byte) (h : Memory.wf s.mem) :
    Memory.wf (s.postWrite core src k bs).mem := by
  rw [postWrite_mem]
  split
  · exact h
  · exact putBytes_wf bs _ k h

theorem postWrite_outside (s : State) (core : Option Nat) (src : Path) (k : Nat) (bs : List Byte) (a : Nat)
    (h : a < k ∨ k + bs.length ≤ a) : (s.postWrite core src k bs).byte a = s.byte a := by
  simp only [State.byte, postWrite_mem]
  split
  · rfl
  · exact putBytes_read_outside bs _ k a h

/-- A device write at a virtual address keeps the canonical form where it is made. -/
theorem writeVirt_wf (s s' : State) (ctx va : Nat) (bs : List Byte) (h : Memory.wf s.mem) (hw : s.writeVirt ctx va bs = .ok s') :
    Memory.wf s'.mem := by
  simp only [State.writeVirt, Except.map] at hw
  split at hw <;> cases hw
  exact postWrite_wf s none .core _ bs h

/-- Reset memory has the canonical form. -/
theorem reset_wf : Memory.wf State.reset.mem := by decide

/-- A byte that nothing has written reads as zero (log entry 1). -/
theorem reset_byte (a : Nat) : State.reset.byte a = 0 := rfl

end Sys2Proof.Laws
end

