-- ==== Sys2Proof/Laws/State.lean ====
section
/-! SUPPORT. Field by field, what each update of the state leaves alone, and what a table read finds after an update. -/

namespace Sys2Proof.Laws

open Sys2Proof.Machine

/-! ### mapBlock -/

@[simp] theorem mapBlock_free (s : State) (b : Nat) (f : Block → Block) : (s.mapBlock b f).free = s.free := rfl
@[simp] theorem mapBlock_latch (s : State) (b : Nat) (f : Block → Block) : (s.mapBlock b f).latch = s.latch := rfl
@[simp] theorem mapBlock_agenda (s : State) (b : Nat) (f : Block → Block) : (s.mapBlock b f).agenda = s.agenda := rfl
@[simp] theorem mapBlock_seq (s : State) (b : Nat) (f : Block → Block) : (s.mapBlock b f).seq = s.seq := rfl
@[simp] theorem mapBlock_off (s : State) (b : Nat) (f : Block → Block) : (s.mapBlock b f).off = s.off := rfl
@[simp] theorem mapBlock_ptime (s : State) (b : Nat) (f : Block → Block) : (s.mapBlock b f).ptime = s.ptime := rfl
@[simp] theorem mapBlock_mem (s : State) (b : Nat) (f : Block → Block) : (s.mapBlock b f).mem = s.mem := rfl
@[simp] theorem mapBlock_poison (s : State) (b : Nat) (f : Block → Block) : (s.mapBlock b f).poison = s.poison := rfl
@[simp] theorem mapBlock_msc (s : State) (b : Nat) (f : Block → Block) : (s.mapBlock b f).msc = s.msc := rfl
@[simp] theorem mapBlock_behind (s : State) (b : Nat) (f : Block → Block) : (s.mapBlock b f).behind = s.behind := rfl
@[simp] theorem mapBlock_stale (s : State) (b : Nat) (f : Block → Block) : (s.mapBlock b f).stale = s.stale := rfl
@[simp] theorem mapBlock_lcache (s : State) (b : Nat) (f : Block → Block) : (s.mapBlock b f).lcache = s.lcache := rfl
@[simp] theorem mapBlock_icache (s : State) (b : Nat) (f : Block → Block) : (s.mapBlock b f).icache = s.icache := rfl
@[simp] theorem mapBlock_tlb (s : State) (b : Nat) (f : Block → Block) : (s.mapBlock b f).tlb = s.tlb := rfl
@[simp] theorem mapBlock_xinv (s : State) (b : Nat) (f : Block → Block) : (s.mapBlock b f).xinv = s.xinv := rfl
@[simp] theorem mapBlock_regions (s : State) (b : Nat) (f : Block → Block) : (s.mapBlock b f).regions = s.regions := rfl
@[simp] theorem mapBlock_cmds (s : State) (b : Nat) (f : Block → Block) : (s.mapBlock b f).cmds = s.cmds := rfl
@[simp] theorem mapBlock_sections (s : State) (b : Nat) (f : Block → Block) : (s.mapBlock b f).sections = s.sections := rfl
@[simp] theorem mapBlock_versions (s : State) (b : Nat) (f : Block → Block) : (s.mapBlock b f).versions = s.versions := rfl
@[simp] theorem mapBlock_clusters (s : State) (b : Nat) (f : Block → Block) : (s.mapBlock b f).clusters = s.clusters := rfl
@[simp] theorem mapBlock_spares (s : State) (b : Nat) (f : Block → Block) : (s.mapBlock b f).spares = s.spares := rfl
@[simp] theorem mapBlock_partitions (s : State) (b : Nat) (f : Block → Block) : (s.mapBlock b f).partitions = s.partitions := rfl
@[simp] theorem mapBlock_contexts (s : State) (b : Nat) (f : Block → Block) : (s.mapBlock b f).contexts = s.contexts := rfl
@[simp] theorem mapBlock_qtbase (s : State) (b : Nat) (f : Block → Block) : (s.mapBlock b f).qtbase = s.qtbase := rfl
@[simp] theorem mapBlock_queues (s : State) (b : Nat) (f : Block → Block) : (s.mapBlock b f).queues = s.queues := rfl
@[simp] theorem mapBlock_accepted (s : State) (b : Nat) (f : Block → Block) : (s.mapBlock b f).accepted = s.accepted := rfl
@[simp] theorem mapBlock_launches (s : State) (b : Nat) (f : Block → Block) : (s.mapBlock b f).launches = s.launches := rfl
@[simp] theorem mapBlock_requests (s : State) (b : Nat) (f : Block → Block) : (s.mapBlock b f).requests = s.requests := rfl
@[simp] theorem mapBlock_answers (s : State) (b : Nat) (f : Block → Block) : (s.mapBlock b f).answers = s.answers := rfl
@[simp] theorem mapBlock_reports (s : State) (b : Nat) (f : Block → Block) : (s.mapBlock b f).reports = s.reports := rfl
@[simp] theorem mapBlock_gangs (s : State) (b : Nat) (f : Block → Block) : (s.mapBlock b f).gangs = s.gangs := rfl
@[simp] theorem mapBlock_served (s : State) (b : Nat) (f : Block → Block) : (s.mapBlock b f).served = s.served := rfl
@[simp] theorem mapBlock_scheds (s : State) (b : Nat) (f : Block → Block) : (s.mapBlock b f).scheds = s.scheds := rfl
@[simp] theorem mapBlock_replaying (s : State) (b : Nat) (f : Block → Block) : (s.mapBlock b f).replaying = s.replaying := rfl
@[simp] theorem mapBlock_hpErr (s : State) (b : Nat) (f : Block → Block) : (s.mapBlock b f).hpErr = s.hpErr := rfl
@[simp] theorem mapBlock_therm (s : State) (b : Nat) (f : Block → Block) : (s.mapBlock b f).therm = s.therm := rfl
@[simp] theorem mapBlock_fw (s : State) (b : Nat) (f : Block → Block) : (s.mapBlock b f).fw = s.fw := rfl
@[simp] theorem mapBlock_pod (s : State) (b : Nat) (f : Block → Block) : (s.mapBlock b f).pod = s.pod := rfl
@[simp] theorem byte_mapBlock (s : State) (b : Nat) (f : Block → Block) (a : Nat) : (s.mapBlock b f).byte a = s.byte a := rfl
@[simp] theorem ctx_mapBlock (s : State) (b : Nat) (f : Block → Block) (j : Nat) : (s.mapBlock b f).ctx j = s.ctx j := rfl
@[simp] theorem cluster_mapBlock (s : State) (b : Nat) (f : Block → Block) (j : Nat) : (s.mapBlock b f).cluster j = s.cluster j := rfl
@[simp] theorem partition_mapBlock (s : State) (b : Nat) (f : Block → Block) (j : Nat) : (s.mapBlock b f).partition j = s.partition j := rfl
@[simp] theorem queue_mapBlock (s : State) (b : Nat) (f : Block → Block) (j : Nat) : (s.mapBlock b f).queue j = s.queue j := rfl
@[simp] theorem sched_mapBlock (s : State) (b : Nat) (f : Block → Block) (j : Nat) : (s.mapBlock b f).sched j = s.sched j := rfl
@[simp] theorem launch_mapBlock (s : State) (b : Nat) (f : Block → Block) (j : Nat) : (s.mapBlock b f).launch? j = s.launch? j := rfl
@[simp] theorem cmd_mapBlock (s : State) (b : Nat) (f : Block → Block) (j : Nat) : (s.mapBlock b f).cmd? j = s.cmd? j := rfl

/-! ### mapThread -/

@[simp] theorem mapThread_free (s : State) (b k : Nat) (f : Thread → Thread) : (s.mapThread b k f).free = s.free := rfl
@[simp] theorem mapThread_latch (s : State) (b k : Nat) (f : Thread → Thread) : (s.mapThread b k f).latch = s.latch := rfl
@[simp] theorem mapThread_agenda (s : State) (b k : Nat) (f : Thread → Thread) : (s.mapThread b k f).agenda = s.agenda := rfl
@[simp] theorem mapThread_seq (s : State) (b k : Nat) (f : Thread → Thread) : (s.mapThread b k f).seq = s.seq := rfl
@[simp] theorem mapThread_off (s : State) (b k : Nat) (f : Thread → Thread) : (s.mapThread b k f).off = s.off := rfl
@[simp] theorem mapThread_ptime (s : State) (b k : Nat) (f : Thread → Thread) : (s.mapThread b k f).ptime = s.ptime := rfl
@[simp] theorem mapThread_mem (s : State) (b k : Nat) (f : Thread → Thread) : (s.mapThread b k f).mem = s.mem := rfl
@[simp] theorem mapThread_poison (s : State) (b k : Nat) (f : Thread → Thread) : (s.mapThread b k f).poison = s.poison := rfl
@[simp] theorem mapThread_msc (s : State) (b k : Nat) (f : Thread → Thread) : (s.mapThread b k f).msc = s.msc := rfl
@[simp] theorem mapThread_behind (s : State) (b k : Nat) (f : Thread → Thread) : (s.mapThread b k f).behind = s.behind := rfl
@[simp] theorem mapThread_stale (s : State) (b k : Nat) (f : Thread → Thread) : (s.mapThread b k f).stale = s.stale := rfl
@[simp] theorem mapThread_lcache (s : State) (b k : Nat) (f : Thread → Thread) : (s.mapThread b k f).lcache = s.lcache := rfl
@[simp] theorem mapThread_icache (s : State) (b k : Nat) (f : Thread → Thread) : (s.mapThread b k f).icache = s.icache := rfl
@[simp] theorem mapThread_tlb (s : State) (b k : Nat) (f : Thread → Thread) : (s.mapThread b k f).tlb = s.tlb := rfl
@[simp] theorem mapThread_xinv (s : State) (b k : Nat) (f : Thread → Thread) : (s.mapThread b k f).xinv = s.xinv := rfl
@[simp] theorem mapThread_regions (s : State) (b k : Nat) (f : Thread → Thread) : (s.mapThread b k f).regions = s.regions := rfl
@[simp] theorem mapThread_cmds (s : State) (b k : Nat) (f : Thread → Thread) : (s.mapThread b k f).cmds = s.cmds := rfl
@[simp] theorem mapThread_sections (s : State) (b k : Nat) (f : Thread → Thread) : (s.mapThread b k f).sections = s.sections := rfl
@[simp] theorem mapThread_versions (s : State) (b k : Nat) (f : Thread → Thread) : (s.mapThread b k f).versions = s.versions := rfl
@[simp] theorem mapThread_clusters (s : State) (b k : Nat) (f : Thread → Thread) : (s.mapThread b k f).clusters = s.clusters := rfl
@[simp] theorem mapThread_spares (s : State) (b k : Nat) (f : Thread → Thread) : (s.mapThread b k f).spares = s.spares := rfl
@[simp] theorem mapThread_partitions (s : State) (b k : Nat) (f : Thread → Thread) : (s.mapThread b k f).partitions = s.partitions := rfl
@[simp] theorem mapThread_contexts (s : State) (b k : Nat) (f : Thread → Thread) : (s.mapThread b k f).contexts = s.contexts := rfl
@[simp] theorem mapThread_qtbase (s : State) (b k : Nat) (f : Thread → Thread) : (s.mapThread b k f).qtbase = s.qtbase := rfl
@[simp] theorem mapThread_queues (s : State) (b k : Nat) (f : Thread → Thread) : (s.mapThread b k f).queues = s.queues := rfl
@[simp] theorem mapThread_accepted (s : State) (b k : Nat) (f : Thread → Thread) : (s.mapThread b k f).accepted = s.accepted := rfl
@[simp] theorem mapThread_launches (s : State) (b k : Nat) (f : Thread → Thread) : (s.mapThread b k f).launches = s.launches := rfl
@[simp] theorem mapThread_requests (s : State) (b k : Nat) (f : Thread → Thread) : (s.mapThread b k f).requests = s.requests := rfl
@[simp] theorem mapThread_answers (s : State) (b k : Nat) (f : Thread → Thread) : (s.mapThread b k f).answers = s.answers := rfl
@[simp] theorem mapThread_reports (s : State) (b k : Nat) (f : Thread → Thread) : (s.mapThread b k f).reports = s.reports := rfl
@[simp] theorem mapThread_gangs (s : State) (b k : Nat) (f : Thread → Thread) : (s.mapThread b k f).gangs = s.gangs := rfl
@[simp] theorem mapThread_served (s : State) (b k : Nat) (f : Thread → Thread) : (s.mapThread b k f).served = s.served := rfl
@[simp] theorem mapThread_scheds (s : State) (b k : Nat) (f : Thread → Thread) : (s.mapThread b k f).scheds = s.scheds := rfl
@[simp] theorem mapThread_replaying (s : State) (b k : Nat) (f : Thread → Thread) : (s.mapThread b k f).replaying = s.replaying := rfl
@[simp] theorem mapThread_hpErr (s : State) (b k : Nat) (f : Thread → Thread) : (s.mapThread b k f).hpErr = s.hpErr := rfl
@[simp] theorem mapThread_therm (s : State) (b k : Nat) (f : Thread → Thread) : (s.mapThread b k f).therm = s.therm := rfl
@[simp] theorem mapThread_fw (s : State) (b k : Nat) (f : Thread → Thread) : (s.mapThread b k f).fw = s.fw := rfl
@[simp] theorem mapThread_pod (s : State) (b k : Nat) (f : Thread → Thread) : (s.mapThread b k f).pod = s.pod := rfl
@[simp] theorem byte_mapThread (s : State) (b k : Nat) (f : Thread → Thread) (a : Nat) : (s.mapThread b k f).byte a = s.byte a := rfl
@[simp] theorem ctx_mapThread (s : State) (b k : Nat) (f : Thread → Thread) (j : Nat) : (s.mapThread b k f).ctx j = s.ctx j := rfl
@[simp] theorem cluster_mapThread (s : State) (b k : Nat) (f : Thread → Thread) (j : Nat) : (s.mapThread b k f).cluster j = s.cluster j := rfl
@[simp] theorem partition_mapThread (s : State) (b k : Nat) (f : Thread → Thread) (j : Nat) : (s.mapThread b k f).partition j = s.partition j := rfl
@[simp] theorem queue_mapThread (s : State) (b k : Nat) (f : Thread → Thread) (j : Nat) : (s.mapThread b k f).queue j = s.queue j := rfl
@[simp] theorem sched_mapThread (s : State) (b k : Nat) (f : Thread → Thread) (j : Nat) : (s.mapThread b k f).sched j = s.sched j := rfl
@[simp] theorem launch_mapThread (s : State) (b k : Nat) (f : Thread → Thread) (j : Nat) : (s.mapThread b k f).launch? j = s.launch? j := rfl
@[simp] theorem cmd_mapThread (s : State) (b k : Nat) (f : Thread → Thread) (j : Nat) : (s.mapThread b k f).cmd? j = s.cmd? j := rfl

/-! ### mapGroup -/

@[simp] theorem mapGroup_free (s : State) (b g : Nat) (f : Group → Group) : (s.mapGroup b g f).free = s.free := rfl
@[simp] theorem mapGroup_latch (s : State) (b g : Nat) (f : Group → Group) : (s.mapGroup b g f).latch = s.latch := rfl
@[simp] theorem mapGroup_agenda (s : State) (b g : Nat) (f : Group → Group) : (s.mapGroup b g f).agenda = s.agenda := rfl
@[simp] theorem mapGroup_seq (s : State) (b g : Nat) (f : Group → Group) : (s.mapGroup b g f).seq = s.seq := rfl
@[simp] theorem mapGroup_off (s : State) (b g : Nat) (f : Group → Group) : (s.mapGroup b g f).off = s.off := rfl
@[simp] theorem mapGroup_ptime (s : State) (b g : Nat) (f : Group → Group) : (s.mapGroup b g f).ptime = s.ptime := rfl
@[simp] theorem mapGroup_mem (s : State) (b g : Nat) (f : Group → Group) : (s.mapGroup b g f).mem = s.mem := rfl
@[simp] theorem mapGroup_poison (s : State) (b g : Nat) (f : Group → Group) : (s.mapGroup b g f).poison = s.poison := rfl
@[simp] theorem mapGroup_msc (s : State) (b g : Nat) (f : Group → Group) : (s.mapGroup b g f).msc = s.msc := rfl
@[simp] theorem mapGroup_behind (s : State) (b g : Nat) (f : Group → Group) : (s.mapGroup b g f).behind = s.behind := rfl
@[simp] theorem mapGroup_stale (s : State) (b g : Nat) (f : Group → Group) : (s.mapGroup b g f).stale = s.stale := rfl
@[simp] theorem mapGroup_lcache (s : State) (b g : Nat) (f : Group → Group) : (s.mapGroup b g f).lcache = s.lcache := rfl
@[simp] theorem mapGroup_icache (s : State) (b g : Nat) (f : Group → Group) : (s.mapGroup b g f).icache = s.icache := rfl
@[simp] theorem mapGroup_tlb (s : State) (b g : Nat) (f : Group → Group) : (s.mapGroup b g f).tlb = s.tlb := rfl
@[simp] theorem mapGroup_xinv (s : State) (b g : Nat) (f : Group → Group) : (s.mapGroup b g f).xinv = s.xinv := rfl
@[simp] theorem mapGroup_regions (s : State) (b g : Nat) (f : Group → Group) : (s.mapGroup b g f).regions = s.regions := rfl
@[simp] theorem mapGroup_cmds (s : State) (b g : Nat) (f : Group → Group) : (s.mapGroup b g f).cmds = s.cmds := rfl
@[simp] theorem mapGroup_sections (s : State) (b g : Nat) (f : Group → Group) : (s.mapGroup b g f).sections = s.sections := rfl
@[simp] theorem mapGroup_versions (s : State) (b g : Nat) (f : Group → Group) : (s.mapGroup b g f).versions = s.versions := rfl
@[simp] theorem mapGroup_clusters (s : State) (b g : Nat) (f : Group → Group) : (s.mapGroup b g f).clusters = s.clusters := rfl
@[simp] theorem mapGroup_spares (s : State) (b g : Nat) (f : Group → Group) : (s.mapGroup b g f).spares = s.spares := rfl
@[simp] theorem mapGroup_partitions (s : State) (b g : Nat) (f : Group → Group) : (s.mapGroup b g f).partitions = s.partitions := rfl
@[simp] theorem mapGroup_contexts (s : State) (b g : Nat) (f : Group → Group) : (s.mapGroup b g f).contexts = s.contexts := rfl
@[simp] theorem mapGroup_qtbase (s : State) (b g : Nat) (f : Group → Group) : (s.mapGroup b g f).qtbase = s.qtbase := rfl
@[simp] theorem mapGroup_queues (s : State) (b g : Nat) (f : Group → Group) : (s.mapGroup b g f).queues = s.queues := rfl
@[simp] theorem mapGroup_accepted (s : State) (b g : Nat) (f : Group → Group) : (s.mapGroup b g f).accepted = s.accepted := rfl
@[simp] theorem mapGroup_launches (s : State) (b g : Nat) (f : Group → Group) : (s.mapGroup b g f).launches = s.launches := rfl
@[simp] theorem mapGroup_requests (s : State) (b g : Nat) (f : Group → Group) : (s.mapGroup b g f).requests = s.requests := rfl
@[simp] theorem mapGroup_answers (s : State) (b g : Nat) (f : Group → Group) : (s.mapGroup b g f).answers = s.answers := rfl
@[simp] theorem mapGroup_reports (s : State) (b g : Nat) (f : Group → Group) : (s.mapGroup b g f).reports = s.reports := rfl
@[simp] theorem mapGroup_gangs (s : State) (b g : Nat) (f : Group → Group) : (s.mapGroup b g f).gangs = s.gangs := rfl
@[simp] theorem mapGroup_served (s : State) (b g : Nat) (f : Group → Group) : (s.mapGroup b g f).served = s.served := rfl
@[simp] theorem mapGroup_scheds (s : State) (b g : Nat) (f : Group → Group) : (s.mapGroup b g f).scheds = s.scheds := rfl
@[simp] theorem mapGroup_replaying (s : State) (b g : Nat) (f : Group → Group) : (s.mapGroup b g f).replaying = s.replaying := rfl
@[simp] theorem mapGroup_hpErr (s : State) (b g : Nat) (f : Group → Group) : (s.mapGroup b g f).hpErr = s.hpErr := rfl
@[simp] theorem mapGroup_therm (s : State) (b g : Nat) (f : Group → Group) : (s.mapGroup b g f).therm = s.therm := rfl
@[simp] theorem mapGroup_fw (s : State) (b g : Nat) (f : Group → Group) : (s.mapGroup b g f).fw = s.fw := rfl
@[simp] theorem mapGroup_pod (s : State) (b g : Nat) (f : Group → Group) : (s.mapGroup b g f).pod = s.pod := rfl
@[simp] theorem byte_mapGroup (s : State) (b g : Nat) (f : Group → Group) (a : Nat) : (s.mapGroup b g f).byte a = s.byte a := rfl
@[simp] theorem ctx_mapGroup (s : State) (b g : Nat) (f : Group → Group) (j : Nat) : (s.mapGroup b g f).ctx j = s.ctx j := rfl
@[simp] theorem cluster_mapGroup (s : State) (b g : Nat) (f : Group → Group) (j : Nat) : (s.mapGroup b g f).cluster j = s.cluster j := rfl
@[simp] theorem partition_mapGroup (s : State) (b g : Nat) (f : Group → Group) (j : Nat) : (s.mapGroup b g f).partition j = s.partition j := rfl
@[simp] theorem queue_mapGroup (s : State) (b g : Nat) (f : Group → Group) (j : Nat) : (s.mapGroup b g f).queue j = s.queue j := rfl
@[simp] theorem sched_mapGroup (s : State) (b g : Nat) (f : Group → Group) (j : Nat) : (s.mapGroup b g f).sched j = s.sched j := rfl
@[simp] theorem launch_mapGroup (s : State) (b g : Nat) (f : Group → Group) (j : Nat) : (s.mapGroup b g f).launch? j = s.launch? j := rfl
@[simp] theorem cmd_mapGroup (s : State) (b g : Nat) (f : Group → Group) (j : Nat) : (s.mapGroup b g f).cmd? j = s.cmd? j := rfl

/-! ### setCtx -/

@[simp] theorem setCtx_free (s : State) (n : Nat) (c : Context) : (s.setCtx n c).free = s.free := rfl
@[simp] theorem setCtx_latch (s : State) (n : Nat) (c : Context) : (s.setCtx n c).latch = s.latch := rfl
@[simp] theorem setCtx_agenda (s : State) (n : Nat) (c : Context) : (s.setCtx n c).agenda = s.agenda := rfl
@[simp] theorem setCtx_seq (s : State) (n : Nat) (c : Context) : (s.setCtx n c).seq = s.seq := rfl
@[simp] theorem setCtx_off (s : State) (n : Nat) (c : Context) : (s.setCtx n c).off = s.off := rfl
@[simp] theorem setCtx_ptime (s : State) (n : Nat) (c : Context) : (s.setCtx n c).ptime = s.ptime := rfl
@[simp] theorem setCtx_mem (s : State) (n : Nat) (c : Context) : (s.setCtx n c).mem = s.mem := rfl
@[simp] theorem setCtx_poison (s : State) (n : Nat) (c : Context) : (s.setCtx n c).poison = s.poison := rfl
@[simp] theorem setCtx_msc (s : State) (n : Nat) (c : Context) : (s.setCtx n c).msc = s.msc := rfl
@[simp] theorem setCtx_behind (s : State) (n : Nat) (c : Context) : (s.setCtx n c).behind = s.behind := rfl
@[simp] theorem setCtx_stale (s : State) (n : Nat) (c : Context) : (s.setCtx n c).stale = s.stale := rfl
@[simp] theorem setCtx_blocks (s : State) (n : Nat) (c : Context) : (s.setCtx n c).blocks = s.blocks := rfl
@[simp] theorem setCtx_lcache (s : State) (n : Nat) (c : Context) : (s.setCtx n c).lcache = s.lcache := rfl
@[simp] theorem setCtx_icache (s : State) (n : Nat) (c : Context) : (s.setCtx n c).icache = s.icache := rfl
@[simp] theorem setCtx_tlb (s : State) (n : Nat) (c : Context) : (s.setCtx n c).tlb = s.tlb := rfl
@[simp] theorem setCtx_xinv (s : State) (n : Nat) (c : Context) : (s.setCtx n c).xinv = s.xinv := rfl
@[simp] theorem setCtx_regions (s : State) (n : Nat) (c : Context) : (s.setCtx n c).regions = s.regions := rfl
@[simp] theorem setCtx_cmds (s : State) (n : Nat) (c : Context) : (s.setCtx n c).cmds = s.cmds := rfl
@[simp] theorem setCtx_sections (s : State) (n : Nat) (c : Context) : (s.setCtx n c).sections = s.sections := rfl
@[simp] theorem setCtx_versions (s : State) (n : Nat) (c : Context) : (s.setCtx n c).versions = s.versions := rfl
@[simp] theorem setCtx_clusters (s : State) (n : Nat) (c : Context) : (s.setCtx n c).clusters = s.clusters := rfl
@[simp] theorem setCtx_spares (s : State) (n : Nat) (c : Context) : (s.setCtx n c).spares = s.spares := rfl
@[simp] theorem setCtx_partitions (s : State) (n : Nat) (c : Context) : (s.setCtx n c).partitions = s.partitions := rfl
@[simp] theorem setCtx_qtbase (s : State) (n : Nat) (c : Context) : (s.setCtx n c).qtbase = s.qtbase := rfl
@[simp] theorem setCtx_queues (s : State) (n : Nat) (c : Context) : (s.setCtx n c).queues = s.queues := rfl
@[simp] theorem setCtx_accepted (s : State) (n : Nat) (c : Context) : (s.setCtx n c).accepted = s.accepted := rfl
@[simp] theorem setCtx_launches (s : State) (n : Nat) (c : Context) : (s.setCtx n c).launches = s.launches := rfl
@[simp] theorem setCtx_requests (s : State) (n : Nat) (c : Context) : (s.setCtx n c).requests = s.requests := rfl
@[simp] theorem setCtx_answers (s : State) (n : Nat) (c : Context) : (s.setCtx n c).answers = s.answers := rfl
@[simp] theorem setCtx_reports (s : State) (n : Nat) (c : Context) : (s.setCtx n c).reports = s.reports := rfl
@[simp] theorem setCtx_gangs (s : State) (n : Nat) (c : Context) : (s.setCtx n c).gangs = s.gangs := rfl
@[simp] theorem setCtx_served (s : State) (n : Nat) (c : Context) : (s.setCtx n c).served = s.served := rfl
@[simp] theorem setCtx_scheds (s : State) (n : Nat) (c : Context) : (s.setCtx n c).scheds = s.scheds := rfl
@[simp] theorem setCtx_replaying (s : State) (n : Nat) (c : Context) : (s.setCtx n c).replaying = s.replaying := rfl
@[simp] theorem setCtx_hpErr (s : State) (n : Nat) (c : Context) : (s.setCtx n c).hpErr = s.hpErr := rfl
@[simp] theorem setCtx_therm (s : State) (n : Nat) (c : Context) : (s.setCtx n c).therm = s.therm := rfl
@[simp] theorem setCtx_fw (s : State) (n : Nat) (c : Context) : (s.setCtx n c).fw = s.fw := rfl
@[simp] theorem setCtx_pod (s : State) (n : Nat) (c : Context) : (s.setCtx n c).pod = s.pod := rfl
@[simp] theorem byte_setCtx (s : State) (n : Nat) (c : Context) (a : Nat) : (s.setCtx n c).byte a = s.byte a := rfl
@[simp] theorem block_setCtx (s : State) (n : Nat) (c : Context) (j : Nat) : (s.setCtx n c).block? j = s.block? j := rfl
@[simp] theorem thread_setCtx (s : State) (n : Nat) (c : Context) (j i : Nat) : (s.setCtx n c).thread? j i = s.thread? j i := rfl
@[simp] theorem cluster_setCtx (s : State) (n : Nat) (c : Context) (j : Nat) : (s.setCtx n c).cluster j = s.cluster j := rfl
@[simp] theorem partition_setCtx (s : State) (n : Nat) (c : Context) (j : Nat) : (s.setCtx n c).partition j = s.partition j := rfl
@[simp] theorem queue_setCtx (s : State) (n : Nat) (c : Context) (j : Nat) : (s.setCtx n c).queue j = s.queue j := rfl
@[simp] theorem sched_setCtx (s : State) (n : Nat) (c : Context) (j : Nat) : (s.setCtx n c).sched j = s.sched j := rfl
@[simp] theorem launch_setCtx (s : State) (n : Nat) (c : Context) (j : Nat) : (s.setCtx n c).launch? j = s.launch? j := rfl
@[simp] theorem cmd_setCtx (s : State) (n : Nat) (c : Context) (j : Nat) : (s.setCtx n c).cmd? j = s.cmd? j := rfl

/-! ### mapCtx -/

@[simp] theorem mapCtx_free (s : State) (n : Nat) (f : Context → Context) : (s.mapCtx n f).free = s.free := rfl
@[simp] theorem mapCtx_latch (s : State) (n : Nat) (f : Context → Context) : (s.mapCtx n f).latch = s.latch := rfl
@[simp] theorem mapCtx_agenda (s : State) (n : Nat) (f : Context → Context) : (s.mapCtx n f).agenda = s.agenda := rfl
@[simp] theorem mapCtx_seq (s : State) (n : Nat) (f : Context → Context) : (s.mapCtx n f).seq = s.seq := rfl
@[simp] theorem mapCtx_off (s : State) (n : Nat) (f : Context → Context) : (s.mapCtx n f).off = s.off := rfl
@[simp] theorem mapCtx_ptime (s : State) (n : Nat) (f : Context → Context) : (s.mapCtx n f).ptime = s.ptime := rfl
@[simp] theorem mapCtx_mem (s : State) (n : Nat) (f : Context → Context) : (s.mapCtx n f).mem = s.mem := rfl
@[simp] theorem mapCtx_poison (s : State) (n : Nat) (f : Context → Context) : (s.mapCtx n f).poison = s.poison := rfl
@[simp] theorem mapCtx_msc (s : State) (n : Nat) (f : Context → Context) : (s.mapCtx n f).msc = s.msc := rfl
@[simp] theorem mapCtx_behind (s : State) (n : Nat) (f : Context → Context) : (s.mapCtx n f).behind = s.behind := rfl
@[simp] theorem mapCtx_stale (s : State) (n : Nat) (f : Context → Context) : (s.mapCtx n f).stale = s.stale := rfl
@[simp] theorem mapCtx_blocks (s : State) (n : Nat) (f : Context → Context) : (s.mapCtx n f).blocks = s.blocks := rfl
@[simp] theorem mapCtx_lcache (s : State) (n : Nat) (f : Context → Context) : (s.mapCtx n f).lcache = s.lcache := rfl
@[simp] theorem mapCtx_icache (s : State) (n : Nat) (f : Context → Context) : (s.mapCtx n f).icache = s.icache := rfl
@[simp] theorem mapCtx_tlb (s : State) (n : Nat) (f : Context → Context) : (s.mapCtx n f).tlb = s.tlb := rfl
@[simp] theorem mapCtx_xinv (s : State) (n : Nat) (f : Context → Context) : (s.mapCtx n f).xinv = s.xinv := rfl
@[simp] theorem mapCtx_regions (s : State) (n : Nat) (f : Context → Context) : (s.mapCtx n f).regions = s.regions := rfl
@[simp] theorem mapCtx_cmds (s : State) (n : Nat) (f : Context → Context) : (s.mapCtx n f).cmds = s.cmds := rfl
@[simp] theorem mapCtx_sections (s : State) (n : Nat) (f : Context → Context) : (s.mapCtx n f).sections = s.sections := rfl
@[simp] theorem mapCtx_versions (s : State) (n : Nat) (f : Context → Context) : (s.mapCtx n f).versions = s.versions := rfl
@[simp] theorem mapCtx_clusters (s : State) (n : Nat) (f : Context → Context) : (s.mapCtx n f).clusters = s.clusters := rfl
@[simp] theorem mapCtx_spares (s : State) (n : Nat) (f : Context → Context) : (s.mapCtx n f).spares = s.spares := rfl
@[simp] theorem mapCtx_partitions (s : State) (n : Nat) (f : Context → Context) : (s.mapCtx n f).partitions = s.partitions := rfl
@[simp] theorem mapCtx_qtbase (s : State) (n : Nat) (f : Context → Context) : (s.mapCtx n f).qtbase = s.qtbase := rfl
@[simp] theorem mapCtx_queues (s : State) (n : Nat) (f : Context → Context) : (s.mapCtx n f).queues = s.queues := rfl
@[simp] theorem mapCtx_accepted (s : State) (n : Nat) (f : Context → Context) : (s.mapCtx n f).accepted = s.accepted := rfl
@[simp] theorem mapCtx_launches (s : State) (n : Nat) (f : Context → Context) : (s.mapCtx n f).launches = s.launches := rfl
@[simp] theorem mapCtx_requests (s : State) (n : Nat) (f : Context → Context) : (s.mapCtx n f).requests = s.requests := rfl
@[simp] theorem mapCtx_answers (s : State) (n : Nat) (f : Context → Context) : (s.mapCtx n f).answers = s.answers := rfl
@[simp] theorem mapCtx_reports (s : State) (n : Nat) (f : Context → Context) : (s.mapCtx n f).reports = s.reports := rfl
@[simp] theorem mapCtx_gangs (s : State) (n : Nat) (f : Context → Context) : (s.mapCtx n f).gangs = s.gangs := rfl
@[simp] theorem mapCtx_served (s : State) (n : Nat) (f : Context → Context) : (s.mapCtx n f).served = s.served := rfl
@[simp] theorem mapCtx_scheds (s : State) (n : Nat) (f : Context → Context) : (s.mapCtx n f).scheds = s.scheds := rfl
@[simp] theorem mapCtx_replaying (s : State) (n : Nat) (f : Context → Context) : (s.mapCtx n f).replaying = s.replaying := rfl
@[simp] theorem mapCtx_hpErr (s : State) (n : Nat) (f : Context → Context) : (s.mapCtx n f).hpErr = s.hpErr := rfl
@[simp] theorem mapCtx_therm (s : State) (n : Nat) (f : Context → Context) : (s.mapCtx n f).therm = s.therm := rfl
@[simp] theorem mapCtx_fw (s : State) (n : Nat) (f : Context → Context) : (s.mapCtx n f).fw = s.fw := rfl
@[simp] theorem mapCtx_pod (s : State) (n : Nat) (f : Context → Context) : (s.mapCtx n f).pod = s.pod := rfl
@[simp] theorem byte_mapCtx (s : State) (n : Nat) (f : Context → Context) (a : Nat) : (s.mapCtx n f).byte a = s.byte a := rfl
@[simp] theorem block_mapCtx (s : State) (n : Nat) (f : Context → Context) (j : Nat) : (s.mapCtx n f).block? j = s.block? j := rfl
@[simp] theorem thread_mapCtx (s : State) (n : Nat) (f : Context → Context) (j i : Nat) : (s.mapCtx n f).thread? j i = s.thread? j i := rfl
@[simp] theorem cluster_mapCtx (s : State) (n : Nat) (f : Context → Context) (j : Nat) : (s.mapCtx n f).cluster j = s.cluster j := rfl
@[simp] theorem partition_mapCtx (s : State) (n : Nat) (f : Context → Context) (j : Nat) : (s.mapCtx n f).partition j = s.partition j := rfl
@[simp] theorem queue_mapCtx (s : State) (n : Nat) (f : Context → Context) (j : Nat) : (s.mapCtx n f).queue j = s.queue j := rfl
@[simp] theorem sched_mapCtx (s : State) (n : Nat) (f : Context → Context) (j : Nat) : (s.mapCtx n f).sched j = s.sched j := rfl
@[simp] theorem launch_mapCtx (s : State) (n : Nat) (f : Context → Context) (j : Nat) : (s.mapCtx n f).launch? j = s.launch? j := rfl
@[simp] theorem cmd_mapCtx (s : State) (n : Nat) (f : Context → Context) (j : Nat) : (s.mapCtx n f).cmd? j = s.cmd? j := rfl

/-! ### mapCluster -/

@[simp] theorem mapCluster_free (s : State) (n : Nat) (f : Cluster → Cluster) : (s.mapCluster n f).free = s.free := rfl
@[simp] theorem mapCluster_latch (s : State) (n : Nat) (f : Cluster → Cluster) : (s.mapCluster n f).latch = s.latch := rfl
@[simp] theorem mapCluster_agenda (s : State) (n : Nat) (f : Cluster → Cluster) : (s.mapCluster n f).agenda = s.agenda := rfl
@[simp] theorem mapCluster_seq (s : State) (n : Nat) (f : Cluster → Cluster) : (s.mapCluster n f).seq = s.seq := rfl
@[simp] theorem mapCluster_off (s : State) (n : Nat) (f : Cluster → Cluster) : (s.mapCluster n f).off = s.off := rfl
@[simp] theorem mapCluster_ptime (s : State) (n : Nat) (f : Cluster → Cluster) : (s.mapCluster n f).ptime = s.ptime := rfl
@[simp] theorem mapCluster_mem (s : State) (n : Nat) (f : Cluster → Cluster) : (s.mapCluster n f).mem = s.mem := rfl
@[simp] theorem mapCluster_poison (s : State) (n : Nat) (f : Cluster → Cluster) : (s.mapCluster n f).poison = s.poison := rfl
@[simp] theorem mapCluster_msc (s : State) (n : Nat) (f : Cluster → Cluster) : (s.mapCluster n f).msc = s.msc := rfl
@[simp] theorem mapCluster_behind (s : State) (n : Nat) (f : Cluster → Cluster) : (s.mapCluster n f).behind = s.behind := rfl
@[simp] theorem mapCluster_stale (s : State) (n : Nat) (f : Cluster → Cluster) : (s.mapCluster n f).stale = s.stale := rfl
@[simp] theorem mapCluster_blocks (s : State) (n : Nat) (f : Cluster → Cluster) : (s.mapCluster n f).blocks = s.blocks := rfl
@[simp] theorem mapCluster_lcache (s : State) (n : Nat) (f : Cluster → Cluster) : (s.mapCluster n f).lcache = s.lcache := rfl
@[simp] theorem mapCluster_icache (s : State) (n : Nat) (f : Cluster → Cluster) : (s.mapCluster n f).icache = s.icache := rfl
@[simp] theorem mapCluster_tlb (s : State) (n : Nat) (f : Cluster → Cluster) : (s.mapCluster n f).tlb = s.tlb := rfl
@[simp] theorem mapCluster_xinv (s : State) (n : Nat) (f : Cluster → Cluster) : (s.mapCluster n f).xinv = s.xinv := rfl
@[simp] theorem mapCluster_regions (s : State) (n : Nat) (f : Cluster → Cluster) : (s.mapCluster n f).regions = s.regions := rfl
@[simp] theorem mapCluster_cmds (s : State) (n : Nat) (f : Cluster → Cluster) : (s.mapCluster n f).cmds = s.cmds := rfl
@[simp] theorem mapCluster_sections (s : State) (n : Nat) (f : Cluster → Cluster) : (s.mapCluster n f).sections = s.sections := rfl
@[simp] theorem mapCluster_versions (s : State) (n : Nat) (f : Cluster → Cluster) : (s.mapCluster n f).versions = s.versions := rfl
@[simp] theorem mapCluster_spares (s : State) (n : Nat) (f : Cluster → Cluster) : (s.mapCluster n f).spares = s.spares := rfl
@[simp] theorem mapCluster_partitions (s : State) (n : Nat) (f : Cluster → Cluster) : (s.mapCluster n f).partitions = s.partitions := rfl
@[simp] theorem mapCluster_contexts (s : State) (n : Nat) (f : Cluster → Cluster) : (s.mapCluster n f).contexts = s.contexts := rfl
@[simp] theorem mapCluster_qtbase (s : State) (n : Nat) (f : Cluster → Cluster) : (s.mapCluster n f).qtbase = s.qtbase := rfl
@[simp] theorem mapCluster_queues (s : State) (n : Nat) (f : Cluster → Cluster) : (s.mapCluster n f).queues = s.queues := rfl
@[simp] theorem mapCluster_accepted (s : State) (n : Nat) (f : Cluster → Cluster) : (s.mapCluster n f).accepted = s.accepted := rfl
@[simp] theorem mapCluster_launches (s : State) (n : Nat) (f : Cluster → Cluster) : (s.mapCluster n f).launches = s.launches := rfl
@[simp] theorem mapCluster_requests (s : State) (n : Nat) (f : Cluster → Cluster) : (s.mapCluster n f).requests = s.requests := rfl
@[simp] theorem mapCluster_answers (s : State) (n : Nat) (f : Cluster → Cluster) : (s.mapCluster n f).answers = s.answers := rfl
@[simp] theorem mapCluster_reports (s : State) (n : Nat) (f : Cluster → Cluster) : (s.mapCluster n f).reports = s.reports := rfl
@[simp] theorem mapCluster_gangs (s : State) (n : Nat) (f : Cluster → Cluster) : (s.mapCluster n f).gangs = s.gangs := rfl
@[simp] theorem mapCluster_served (s : State) (n : Nat) (f : Cluster → Cluster) : (s.mapCluster n f).served = s.served := rfl
@[simp] theorem mapCluster_scheds (s : State) (n : Nat) (f : Cluster → Cluster) : (s.mapCluster n f).scheds = s.scheds := rfl
@[simp] theorem mapCluster_replaying (s : State) (n : Nat) (f : Cluster → Cluster) : (s.mapCluster n f).replaying = s.replaying := rfl
@[simp] theorem mapCluster_hpErr (s : State) (n : Nat) (f : Cluster → Cluster) : (s.mapCluster n f).hpErr = s.hpErr := rfl
@[simp] theorem mapCluster_therm (s : State) (n : Nat) (f : Cluster → Cluster) : (s.mapCluster n f).therm = s.therm := rfl
@[simp] theorem mapCluster_fw (s : State) (n : Nat) (f : Cluster → Cluster) : (s.mapCluster n f).fw = s.fw := rfl
@[simp] theorem mapCluster_pod (s : State) (n : Nat) (f : Cluster → Cluster) : (s.mapCluster n f).pod = s.pod := rfl
@[simp] theorem byte_mapCluster (s : State) (n : Nat) (f : Cluster → Cluster) (a : Nat) : (s.mapCluster n f).byte a = s.byte a := rfl
@[simp] theorem block_mapCluster (s : State) (n : Nat) (f : Cluster → Cluster) (j : Nat) : (s.mapCluster n f).block? j = s.block? j := rfl
@[simp] theorem thread_mapCluster (s : State) (n : Nat) (f : Cluster → Cluster) (j i : Nat) : (s.mapCluster n f).thread? j i = s.thread? j i := rfl
@[simp] theorem ctx_mapCluster (s : State) (n : Nat) (f : Cluster → Cluster) (j : Nat) : (s.mapCluster n f).ctx j = s.ctx j := rfl
@[simp] theorem partition_mapCluster (s : State) (n : Nat) (f : Cluster → Cluster) (j : Nat) : (s.mapCluster n f).partition j = s.partition j := rfl
@[simp] theorem queue_mapCluster (s : State) (n : Nat) (f : Cluster → Cluster) (j : Nat) : (s.mapCluster n f).queue j = s.queue j := rfl
@[simp] theorem sched_mapCluster (s : State) (n : Nat) (f : Cluster → Cluster) (j : Nat) : (s.mapCluster n f).sched j = s.sched j := rfl
@[simp] theorem launch_mapCluster (s : State) (n : Nat) (f : Cluster → Cluster) (j : Nat) : (s.mapCluster n f).launch? j = s.launch? j := rfl
@[simp] theorem cmd_mapCluster (s : State) (n : Nat) (f : Cluster → Cluster) (j : Nat) : (s.mapCluster n f).cmd? j = s.cmd? j := rfl

/-! ### mapLink -/

@[simp] theorem mapLink_free (s : State) (n : Nat) (f : Link → Link) : (s.mapLink n f).free = s.free := rfl
@[simp] theorem mapLink_latch (s : State) (n : Nat) (f : Link → Link) : (s.mapLink n f).latch = s.latch := rfl
@[simp] theorem mapLink_agenda (s : State) (n : Nat) (f : Link → Link) : (s.mapLink n f).agenda = s.agenda := rfl
@[simp] theorem mapLink_seq (s : State) (n : Nat) (f : Link → Link) : (s.mapLink n f).seq = s.seq := rfl
@[simp] theorem mapLink_off (s : State) (n : Nat) (f : Link → Link) : (s.mapLink n f).off = s.off := rfl
@[simp] theorem mapLink_ptime (s : State) (n : Nat) (f : Link → Link) : (s.mapLink n f).ptime = s.ptime := rfl
@[simp] theorem mapLink_mem (s : State) (n : Nat) (f : Link → Link) : (s.mapLink n f).mem = s.mem := rfl
@[simp] theorem mapLink_poison (s : State) (n : Nat) (f : Link → Link) : (s.mapLink n f).poison = s.poison := rfl
@[simp] theorem mapLink_msc (s : State) (n : Nat) (f : Link → Link) : (s.mapLink n f).msc = s.msc := rfl
@[simp] theorem mapLink_behind (s : State) (n : Nat) (f : Link → Link) : (s.mapLink n f).behind = s.behind := rfl
@[simp] theorem mapLink_stale (s : State) (n : Nat) (f : Link → Link) : (s.mapLink n f).stale = s.stale := rfl
@[simp] theorem mapLink_blocks (s : State) (n : Nat) (f : Link → Link) : (s.mapLink n f).blocks = s.blocks := rfl
@[simp] theorem mapLink_lcache (s : State) (n : Nat) (f : Link → Link) : (s.mapLink n f).lcache = s.lcache := rfl
@[simp] theorem mapLink_icache (s : State) (n : Nat) (f : Link → Link) : (s.mapLink n f).icache = s.icache := rfl
@[simp] theorem mapLink_tlb (s : State) (n : Nat) (f : Link → Link) : (s.mapLink n f).tlb = s.tlb := rfl
@[simp] theorem mapLink_xinv (s : State) (n : Nat) (f : Link → Link) : (s.mapLink n f).xinv = s.xinv := rfl
@[simp] theorem mapLink_regions (s : State) (n : Nat) (f : Link → Link) : (s.mapLink n f).regions = s.regions := rfl
@[simp] theorem mapLink_cmds (s : State) (n : Nat) (f : Link → Link) : (s.mapLink n f).cmds = s.cmds := rfl
@[simp] theorem mapLink_sections (s : State) (n : Nat) (f : Link → Link) : (s.mapLink n f).sections = s.sections := rfl
@[simp] theorem mapLink_versions (s : State) (n : Nat) (f : Link → Link) : (s.mapLink n f).versions = s.versions := rfl
@[simp] theorem mapLink_spares (s : State) (n : Nat) (f : Link → Link) : (s.mapLink n f).spares = s.spares := rfl
@[simp] theorem mapLink_partitions (s : State) (n : Nat) (f : Link → Link) : (s.mapLink n f).partitions = s.partitions := rfl
@[simp] theorem mapLink_contexts (s : State) (n : Nat) (f : Link → Link) : (s.mapLink n f).contexts = s.contexts := rfl
@[simp] theorem mapLink_qtbase (s : State) (n : Nat) (f : Link → Link) : (s.mapLink n f).qtbase = s.qtbase := rfl
@[simp] theorem mapLink_queues (s : State) (n : Nat) (f : Link → Link) : (s.mapLink n f).queues = s.queues := rfl
@[simp] theorem mapLink_accepted (s : State) (n : Nat) (f : Link → Link) : (s.mapLink n f).accepted = s.accepted := rfl
@[simp] theorem mapLink_launches (s : State) (n : Nat) (f : Link → Link) : (s.mapLink n f).launches = s.launches := rfl
@[simp] theorem mapLink_requests (s : State) (n : Nat) (f : Link → Link) : (s.mapLink n f).requests = s.requests := rfl
@[simp] theorem mapLink_answers (s : State) (n : Nat) (f : Link → Link) : (s.mapLink n f).answers = s.answers := rfl
@[simp] theorem mapLink_reports (s : State) (n : Nat) (f : Link → Link) : (s.mapLink n f).reports = s.reports := rfl
@[simp] theorem mapLink_gangs (s : State) (n : Nat) (f : Link → Link) : (s.mapLink n f).gangs = s.gangs := rfl
@[simp] theorem mapLink_served (s : State) (n : Nat) (f : Link → Link) : (s.mapLink n f).served = s.served := rfl
@[simp] theorem mapLink_scheds (s : State) (n : Nat) (f : Link → Link) : (s.mapLink n f).scheds = s.scheds := rfl
@[simp] theorem mapLink_replaying (s : State) (n : Nat) (f : Link → Link) : (s.mapLink n f).replaying = s.replaying := rfl
@[simp] theorem mapLink_hpErr (s : State) (n : Nat) (f : Link → Link) : (s.mapLink n f).hpErr = s.hpErr := rfl
@[simp] theorem mapLink_therm (s : State) (n : Nat) (f : Link → Link) : (s.mapLink n f).therm = s.therm := rfl
@[simp] theorem mapLink_fw (s : State) (n : Nat) (f : Link → Link) : (s.mapLink n f).fw = s.fw := rfl
@[simp] theorem mapLink_pod (s : State) (n : Nat) (f : Link → Link) : (s.mapLink n f).pod = s.pod := rfl
@[simp] theorem byte_mapLink (s : State) (n : Nat) (f : Link → Link) (a : Nat) : (s.mapLink n f).byte a = s.byte a := rfl
@[simp] theorem block_mapLink (s : State) (n : Nat) (f : Link → Link) (j : Nat) : (s.mapLink n f).block? j = s.block? j := rfl
@[simp] theorem thread_mapLink (s : State) (n : Nat) (f : Link → Link) (j i : Nat) : (s.mapLink n f).thread? j i = s.thread? j i := rfl
@[simp] theorem ctx_mapLink (s : State) (n : Nat) (f : Link → Link) (j : Nat) : (s.mapLink n f).ctx j = s.ctx j := rfl
@[simp] theorem partition_mapLink (s : State) (n : Nat) (f : Link → Link) (j : Nat) : (s.mapLink n f).partition j = s.partition j := rfl
@[simp] theorem queue_mapLink (s : State) (n : Nat) (f : Link → Link) (j : Nat) : (s.mapLink n f).queue j = s.queue j := rfl
@[simp] theorem sched_mapLink (s : State) (n : Nat) (f : Link → Link) (j : Nat) : (s.mapLink n f).sched j = s.sched j := rfl
@[simp] theorem launch_mapLink (s : State) (n : Nat) (f : Link → Link) (j : Nat) : (s.mapLink n f).launch? j = s.launch? j := rfl
@[simp] theorem cmd_mapLink (s : State) (n : Nat) (f : Link → Link) (j : Nat) : (s.mapLink n f).cmd? j = s.cmd? j := rfl

/-! ### mapPartition -/

@[simp] theorem mapPartition_free (s : State) (n : Nat) (f : Partition → Partition) : (s.mapPartition n f).free = s.free := rfl
@[simp] theorem mapPartition_latch (s : State) (n : Nat) (f : Partition → Partition) : (s.mapPartition n f).latch = s.latch := rfl
@[simp] theorem mapPartition_agenda (s : State) (n : Nat) (f : Partition → Partition) : (s.mapPartition n f).agenda = s.agenda := rfl
@[simp] theorem mapPartition_seq (s : State) (n : Nat) (f : Partition → Partition) : (s.mapPartition n f).seq = s.seq := rfl
@[simp] theorem mapPartition_off (s : State) (n : Nat) (f : Partition → Partition) : (s.mapPartition n f).off = s.off := rfl
@[simp] theorem mapPartition_ptime (s : State) (n : Nat) (f : Partition → Partition) : (s.mapPartition n f).ptime = s.ptime := rfl
@[simp] theorem mapPartition_mem (s : State) (n : Nat) (f : Partition → Partition) : (s.mapPartition n f).mem = s.mem := rfl
@[simp] theorem mapPartition_poison (s : State) (n : Nat) (f : Partition → Partition) : (s.mapPartition n f).poison = s.poison := rfl
@[simp] theorem mapPartition_msc (s : State) (n : Nat) (f : Partition → Partition) : (s.mapPartition n f).msc = s.msc := rfl
@[simp] theorem mapPartition_behind (s : State) (n : Nat) (f : Partition → Partition) : (s.mapPartition n f).behind = s.behind := rfl
@[simp] theorem mapPartition_stale (s : State) (n : Nat) (f : Partition → Partition) : (s.mapPartition n f).stale = s.stale := rfl
@[simp] theorem mapPartition_blocks (s : State) (n : Nat) (f : Partition → Partition) : (s.mapPartition n f).blocks = s.blocks := rfl
@[simp] theorem mapPartition_lcache (s : State) (n : Nat) (f : Partition → Partition) : (s.mapPartition n f).lcache = s.lcache := rfl
@[simp] theorem mapPartition_icache (s : State) (n : Nat) (f : Partition → Partition) : (s.mapPartition n f).icache = s.icache := rfl
@[simp] theorem mapPartition_tlb (s : State) (n : Nat) (f : Partition → Partition) : (s.mapPartition n f).tlb = s.tlb := rfl
@[simp] theorem mapPartition_xinv (s : State) (n : Nat) (f : Partition → Partition) : (s.mapPartition n f).xinv = s.xinv := rfl
@[simp] theorem mapPartition_regions (s : State) (n : Nat) (f : Partition → Partition) : (s.mapPartition n f).regions = s.regions := rfl
@[simp] theorem mapPartition_cmds (s : State) (n : Nat) (f : Partition → Partition) : (s.mapPartition n f).cmds = s.cmds := rfl
@[simp] theorem mapPartition_sections (s : State) (n : Nat) (f : Partition → Partition) : (s.mapPartition n f).sections = s.sections := rfl
@[simp] theorem mapPartition_versions (s : State) (n : Nat) (f : Partition → Partition) : (s.mapPartition n f).versions = s.versions := rfl
@[simp] theorem mapPartition_clusters (s : State) (n : Nat) (f : Partition → Partition) : (s.mapPartition n f).clusters = s.clusters := rfl
@[simp] theorem mapPartition_spares (s : State) (n : Nat) (f : Partition → Partition) : (s.mapPartition n f).spares = s.spares := rfl
@[simp] theorem mapPartition_contexts (s : State) (n : Nat) (f : Partition → Partition) : (s.mapPartition n f).contexts = s.contexts := rfl
@[simp] theorem mapPartition_qtbase (s : State) (n : Nat) (f : Partition → Partition) : (s.mapPartition n f).qtbase = s.qtbase := rfl
@[simp] theorem mapPartition_queues (s : State) (n : Nat) (f : Partition → Partition) : (s.mapPartition n f).queues = s.queues := rfl
@[simp] theorem mapPartition_accepted (s : State) (n : Nat) (f : Partition → Partition) : (s.mapPartition n f).accepted = s.accepted := rfl
@[simp] theorem mapPartition_launches (s : State) (n : Nat) (f : Partition → Partition) : (s.mapPartition n f).launches = s.launches := rfl
@[simp] theorem mapPartition_requests (s : State) (n : Nat) (f : Partition → Partition) : (s.mapPartition n f).requests = s.requests := rfl
@[simp] theorem mapPartition_answers (s : State) (n : Nat) (f : Partition → Partition) : (s.mapPartition n f).answers = s.answers := rfl
@[simp] theorem mapPartition_reports (s : State) (n : Nat) (f : Partition → Partition) : (s.mapPartition n f).reports = s.reports := rfl
@[simp] theorem mapPartition_gangs (s : State) (n : Nat) (f : Partition → Partition) : (s.mapPartition n f).gangs = s.gangs := rfl
@[simp] theorem mapPartition_served (s : State) (n : Nat) (f : Partition → Partition) : (s.mapPartition n f).served = s.served := rfl
@[simp] theorem mapPartition_scheds (s : State) (n : Nat) (f : Partition → Partition) : (s.mapPartition n f).scheds = s.scheds := rfl
@[simp] theorem mapPartition_replaying (s : State) (n : Nat) (f : Partition → Partition) : (s.mapPartition n f).replaying = s.replaying := rfl
@[simp] theorem mapPartition_hpErr (s : State) (n : Nat) (f : Partition → Partition) : (s.mapPartition n f).hpErr = s.hpErr := rfl
@[simp] theorem mapPartition_therm (s : State) (n : Nat) (f : Partition → Partition) : (s.mapPartition n f).therm = s.therm := rfl
@[simp] theorem mapPartition_fw (s : State) (n : Nat) (f : Partition → Partition) : (s.mapPartition n f).fw = s.fw := rfl
@[simp] theorem mapPartition_pod (s : State) (n : Nat) (f : Partition → Partition) : (s.mapPartition n f).pod = s.pod := rfl
@[simp] theorem byte_mapPartition (s : State) (n : Nat) (f : Partition → Partition) (a : Nat) : (s.mapPartition n f).byte a = s.byte a := rfl
@[simp] theorem block_mapPartition (s : State) (n : Nat) (f : Partition → Partition) (j : Nat) : (s.mapPartition n f).block? j = s.block? j := rfl
@[simp] theorem thread_mapPartition (s : State) (n : Nat) (f : Partition → Partition) (j i : Nat) : (s.mapPartition n f).thread? j i = s.thread? j i := rfl
@[simp] theorem ctx_mapPartition (s : State) (n : Nat) (f : Partition → Partition) (j : Nat) : (s.mapPartition n f).ctx j = s.ctx j := rfl
@[simp] theorem cluster_mapPartition (s : State) (n : Nat) (f : Partition → Partition) (j : Nat) : (s.mapPartition n f).cluster j = s.cluster j := rfl
@[simp] theorem queue_mapPartition (s : State) (n : Nat) (f : Partition → Partition) (j : Nat) : (s.mapPartition n f).queue j = s.queue j := rfl
@[simp] theorem sched_mapPartition (s : State) (n : Nat) (f : Partition → Partition) (j : Nat) : (s.mapPartition n f).sched j = s.sched j := rfl
@[simp] theorem launch_mapPartition (s : State) (n : Nat) (f : Partition → Partition) (j : Nat) : (s.mapPartition n f).launch? j = s.launch? j := rfl
@[simp] theorem cmd_mapPartition (s : State) (n : Nat) (f : Partition → Partition) (j : Nat) : (s.mapPartition n f).cmd? j = s.cmd? j := rfl

/-! ### dropPart -/

@[simp] theorem dropPart_free (s : State) (n : Nat) : (s.dropPart n).free = s.free := rfl
@[simp] theorem dropPart_latch (s : State) (n : Nat) : (s.dropPart n).latch = s.latch := rfl
@[simp] theorem dropPart_agenda (s : State) (n : Nat) : (s.dropPart n).agenda = s.agenda := rfl
@[simp] theorem dropPart_seq (s : State) (n : Nat) : (s.dropPart n).seq = s.seq := rfl
@[simp] theorem dropPart_off (s : State) (n : Nat) : (s.dropPart n).off = s.off := rfl
@[simp] theorem dropPart_ptime (s : State) (n : Nat) : (s.dropPart n).ptime = s.ptime := rfl
@[simp] theorem dropPart_mem (s : State) (n : Nat) : (s.dropPart n).mem = s.mem := rfl
@[simp] theorem dropPart_poison (s : State) (n : Nat) : (s.dropPart n).poison = s.poison := rfl
@[simp] theorem dropPart_msc (s : State) (n : Nat) : (s.dropPart n).msc = s.msc := rfl
@[simp] theorem dropPart_behind (s : State) (n : Nat) : (s.dropPart n).behind = s.behind := rfl
@[simp] theorem dropPart_stale (s : State) (n : Nat) : (s.dropPart n).stale = s.stale := rfl
@[simp] theorem dropPart_blocks (s : State) (n : Nat) : (s.dropPart n).blocks = s.blocks := rfl
@[simp] theorem dropPart_lcache (s : State) (n : Nat) : (s.dropPart n).lcache = s.lcache := rfl
@[simp] theorem dropPart_icache (s : State) (n : Nat) : (s.dropPart n).icache = s.icache := rfl
@[simp] theorem dropPart_tlb (s : State) (n : Nat) : (s.dropPart n).tlb = s.tlb := rfl
@[simp] theorem dropPart_xinv (s : State) (n : Nat) : (s.dropPart n).xinv = s.xinv := rfl
@[simp] theorem dropPart_regions (s : State) (n : Nat) : (s.dropPart n).regions = s.regions := rfl
@[simp] theorem dropPart_cmds (s : State) (n : Nat) : (s.dropPart n).cmds = s.cmds := rfl
@[simp] theorem dropPart_sections (s : State) (n : Nat) : (s.dropPart n).sections = s.sections := rfl
@[simp] theorem dropPart_versions (s : State) (n : Nat) : (s.dropPart n).versions = s.versions := rfl
@[simp] theorem dropPart_clusters (s : State) (n : Nat) : (s.dropPart n).clusters = s.clusters := rfl
@[simp] theorem dropPart_spares (s : State) (n : Nat) : (s.dropPart n).spares = s.spares := rfl
@[simp] theorem dropPart_contexts (s : State) (n : Nat) : (s.dropPart n).contexts = s.contexts := rfl
@[simp] theorem dropPart_qtbase (s : State) (n : Nat) : (s.dropPart n).qtbase = s.qtbase := rfl
@[simp] theorem dropPart_queues (s : State) (n : Nat) : (s.dropPart n).queues = s.queues := rfl
@[simp] theorem dropPart_accepted (s : State) (n : Nat) : (s.dropPart n).accepted = s.accepted := rfl
@[simp] theorem dropPart_launches (s : State) (n : Nat) : (s.dropPart n).launches = s.launches := rfl
@[simp] theorem dropPart_requests (s : State) (n : Nat) : (s.dropPart n).requests = s.requests := rfl
@[simp] theorem dropPart_answers (s : State) (n : Nat) : (s.dropPart n).answers = s.answers := rfl
@[simp] theorem dropPart_reports (s : State) (n : Nat) : (s.dropPart n).reports = s.reports := rfl
@[simp] theorem dropPart_gangs (s : State) (n : Nat) : (s.dropPart n).gangs = s.gangs := rfl
@[simp] theorem dropPart_served (s : State) (n : Nat) : (s.dropPart n).served = s.served := rfl
@[simp] theorem dropPart_scheds (s : State) (n : Nat) : (s.dropPart n).scheds = s.scheds := rfl
@[simp] theorem dropPart_replaying (s : State) (n : Nat) : (s.dropPart n).replaying = s.replaying := rfl
@[simp] theorem dropPart_hpErr (s : State) (n : Nat) : (s.dropPart n).hpErr = s.hpErr := rfl
@[simp] theorem dropPart_therm (s : State) (n : Nat) : (s.dropPart n).therm = s.therm := rfl
@[simp] theorem dropPart_fw (s : State) (n : Nat) : (s.dropPart n).fw = s.fw := rfl
@[simp] theorem dropPart_pod (s : State) (n : Nat) : (s.dropPart n).pod = s.pod := rfl
@[simp] theorem byte_dropPart (s : State) (n : Nat) (a : Nat) : (s.dropPart n).byte a = s.byte a := rfl
@[simp] theorem block_dropPart (s : State) (n : Nat) (j : Nat) : (s.dropPart n).block? j = s.block? j := rfl
@[simp] theorem thread_dropPart (s : State) (n : Nat) (j i : Nat) : (s.dropPart n).thread? j i = s.thread? j i := rfl
@[simp] theorem ctx_dropPart (s : State) (n : Nat) (j : Nat) : (s.dropPart n).ctx j = s.ctx j := rfl
@[simp] theorem cluster_dropPart (s : State) (n : Nat) (j : Nat) : (s.dropPart n).cluster j = s.cluster j := rfl
@[simp] theorem queue_dropPart (s : State) (n : Nat) (j : Nat) : (s.dropPart n).queue j = s.queue j := rfl
@[simp] theorem sched_dropPart (s : State) (n : Nat) (j : Nat) : (s.dropPart n).sched j = s.sched j := rfl
@[simp] theorem launch_dropPart (s : State) (n : Nat) (j : Nat) : (s.dropPart n).launch? j = s.launch? j := rfl
@[simp] theorem cmd_dropPart (s : State) (n : Nat) (j : Nat) : (s.dropPart n).cmd? j = s.cmd? j := rfl

/-! ### mapQueue -/

@[simp] theorem mapQueue_free (s : State) (n : Nat) (f : Queue → Queue) : (s.mapQueue n f).free = s.free := rfl
@[simp] theorem mapQueue_latch (s : State) (n : Nat) (f : Queue → Queue) : (s.mapQueue n f).latch = s.latch := rfl
@[simp] theorem mapQueue_agenda (s : State) (n : Nat) (f : Queue → Queue) : (s.mapQueue n f).agenda = s.agenda := rfl
@[simp] theorem mapQueue_seq (s : State) (n : Nat) (f : Queue → Queue) : (s.mapQueue n f).seq = s.seq := rfl
@[simp] theorem mapQueue_off (s : State) (n : Nat) (f : Queue → Queue) : (s.mapQueue n f).off = s.off := rfl
@[simp] theorem mapQueue_ptime (s : State) (n : Nat) (f : Queue → Queue) : (s.mapQueue n f).ptime = s.ptime := rfl
@[simp] theorem mapQueue_mem (s : State) (n : Nat) (f : Queue → Queue) : (s.mapQueue n f).mem = s.mem := rfl
@[simp] theorem mapQueue_poison (s : State) (n : Nat) (f : Queue → Queue) : (s.mapQueue n f).poison = s.poison := rfl
@[simp] theorem mapQueue_msc (s : State) (n : Nat) (f : Queue → Queue) : (s.mapQueue n f).msc = s.msc := rfl
@[simp] theorem mapQueue_behind (s : State) (n : Nat) (f : Queue → Queue) : (s.mapQueue n f).behind = s.behind := rfl
@[simp] theorem mapQueue_stale (s : State) (n : Nat) (f : Queue → Queue) : (s.mapQueue n f).stale = s.stale := rfl
@[simp] theorem mapQueue_blocks (s : State) (n : Nat) (f : Queue → Queue) : (s.mapQueue n f).blocks = s.blocks := rfl
@[simp] theorem mapQueue_lcache (s : State) (n : Nat) (f : Queue → Queue) : (s.mapQueue n f).lcache = s.lcache := rfl
@[simp] theorem mapQueue_icache (s : State) (n : Nat) (f : Queue → Queue) : (s.mapQueue n f).icache = s.icache := rfl
@[simp] theorem mapQueue_tlb (s : State) (n : Nat) (f : Queue → Queue) : (s.mapQueue n f).tlb = s.tlb := rfl
@[simp] theorem mapQueue_xinv (s : State) (n : Nat) (f : Queue → Queue) : (s.mapQueue n f).xinv = s.xinv := rfl
@[simp] theorem mapQueue_regions (s : State) (n : Nat) (f : Queue → Queue) : (s.mapQueue n f).regions = s.regions := rfl
@[simp] theorem mapQueue_cmds (s : State) (n : Nat) (f : Queue → Queue) : (s.mapQueue n f).cmds = s.cmds := rfl
@[simp] theorem mapQueue_sections (s : State) (n : Nat) (f : Queue → Queue) : (s.mapQueue n f).sections = s.sections := rfl
@[simp] theorem mapQueue_versions (s : State) (n : Nat) (f : Queue → Queue) : (s.mapQueue n f).versions = s.versions := rfl
@[simp] theorem mapQueue_clusters (s : State) (n : Nat) (f : Queue → Queue) : (s.mapQueue n f).clusters = s.clusters := rfl
@[simp] theorem mapQueue_spares (s : State) (n : Nat) (f : Queue → Queue) : (s.mapQueue n f).spares = s.spares := rfl
@[simp] theorem mapQueue_partitions (s : State) (n : Nat) (f : Queue → Queue) : (s.mapQueue n f).partitions = s.partitions := rfl
@[simp] theorem mapQueue_contexts (s : State) (n : Nat) (f : Queue → Queue) : (s.mapQueue n f).contexts = s.contexts := rfl
@[simp] theorem mapQueue_qtbase (s : State) (n : Nat) (f : Queue → Queue) : (s.mapQueue n f).qtbase = s.qtbase := rfl
@[simp] theorem mapQueue_accepted (s : State) (n : Nat) (f : Queue → Queue) : (s.mapQueue n f).accepted = s.accepted := rfl
@[simp] theorem mapQueue_launches (s : State) (n : Nat) (f : Queue → Queue) : (s.mapQueue n f).launches = s.launches := rfl
@[simp] theorem mapQueue_requests (s : State) (n : Nat) (f : Queue → Queue) : (s.mapQueue n f).requests = s.requests := rfl
@[simp] theorem mapQueue_answers (s : State) (n : Nat) (f : Queue → Queue) : (s.mapQueue n f).answers = s.answers := rfl
@[simp] theorem mapQueue_reports (s : State) (n : Nat) (f : Queue → Queue) : (s.mapQueue n f).reports = s.reports := rfl
@[simp] theorem mapQueue_gangs (s : State) (n : Nat) (f : Queue → Queue) : (s.mapQueue n f).gangs = s.gangs := rfl
@[simp] theorem mapQueue_served (s : State) (n : Nat) (f : Queue → Queue) : (s.mapQueue n f).served = s.served := rfl
@[simp] theorem mapQueue_scheds (s : State) (n : Nat) (f : Queue → Queue) : (s.mapQueue n f).scheds = s.scheds := rfl
@[simp] theorem mapQueue_replaying (s : State) (n : Nat) (f : Queue → Queue) : (s.mapQueue n f).replaying = s.replaying := rfl
@[simp] theorem mapQueue_hpErr (s : State) (n : Nat) (f : Queue → Queue) : (s.mapQueue n f).hpErr = s.hpErr := rfl
@[simp] theorem mapQueue_therm (s : State) (n : Nat) (f : Queue → Queue) : (s.mapQueue n f).therm = s.therm := rfl
@[simp] theorem mapQueue_fw (s : State) (n : Nat) (f : Queue → Queue) : (s.mapQueue n f).fw = s.fw := rfl
@[simp] theorem mapQueue_pod (s : State) (n : Nat) (f : Queue → Queue) : (s.mapQueue n f).pod = s.pod := rfl
@[simp] theorem byte_mapQueue (s : State) (n : Nat) (f : Queue → Queue) (a : Nat) : (s.mapQueue n f).byte a = s.byte a := rfl
@[simp] theorem block_mapQueue (s : State) (n : Nat) (f : Queue → Queue) (j : Nat) : (s.mapQueue n f).block? j = s.block? j := rfl
@[simp] theorem thread_mapQueue (s : State) (n : Nat) (f : Queue → Queue) (j i : Nat) : (s.mapQueue n f).thread? j i = s.thread? j i := rfl
@[simp] theorem ctx_mapQueue (s : State) (n : Nat) (f : Queue → Queue) (j : Nat) : (s.mapQueue n f).ctx j = s.ctx j := rfl
@[simp] theorem cluster_mapQueue (s : State) (n : Nat) (f : Queue → Queue) (j : Nat) : (s.mapQueue n f).cluster j = s.cluster j := rfl
@[simp] theorem partition_mapQueue (s : State) (n : Nat) (f : Queue → Queue) (j : Nat) : (s.mapQueue n f).partition j = s.partition j := rfl
@[simp] theorem sched_mapQueue (s : State) (n : Nat) (f : Queue → Queue) (j : Nat) : (s.mapQueue n f).sched j = s.sched j := rfl
@[simp] theorem launch_mapQueue (s : State) (n : Nat) (f : Queue → Queue) (j : Nat) : (s.mapQueue n f).launch? j = s.launch? j := rfl
@[simp] theorem cmd_mapQueue (s : State) (n : Nat) (f : Queue → Queue) (j : Nat) : (s.mapQueue n f).cmd? j = s.cmd? j := rfl

/-! ### mapSched -/

@[simp] theorem mapSched_free (s : State) (n : Nat) (f : SchedRegs → SchedRegs) : (s.mapSched n f).free = s.free := rfl
@[simp] theorem mapSched_latch (s : State) (n : Nat) (f : SchedRegs → SchedRegs) : (s.mapSched n f).latch = s.latch := rfl
@[simp] theorem mapSched_agenda (s : State) (n : Nat) (f : SchedRegs → SchedRegs) : (s.mapSched n f).agenda = s.agenda := rfl
@[simp] theorem mapSched_seq (s : State) (n : Nat) (f : SchedRegs → SchedRegs) : (s.mapSched n f).seq = s.seq := rfl
@[simp] theorem mapSched_off (s : State) (n : Nat) (f : SchedRegs → SchedRegs) : (s.mapSched n f).off = s.off := rfl
@[simp] theorem mapSched_ptime (s : State) (n : Nat) (f : SchedRegs → SchedRegs) : (s.mapSched n f).ptime = s.ptime := rfl
@[simp] theorem mapSched_mem (s : State) (n : Nat) (f : SchedRegs → SchedRegs) : (s.mapSched n f).mem = s.mem := rfl
@[simp] theorem mapSched_poison (s : State) (n : Nat) (f : SchedRegs → SchedRegs) : (s.mapSched n f).poison = s.poison := rfl
@[simp] theorem mapSched_msc (s : State) (n : Nat) (f : SchedRegs → SchedRegs) : (s.mapSched n f).msc = s.msc := rfl
@[simp] theorem mapSched_behind (s : State) (n : Nat) (f : SchedRegs → SchedRegs) : (s.mapSched n f).behind = s.behind := rfl
@[simp] theorem mapSched_stale (s : State) (n : Nat) (f : SchedRegs → SchedRegs) : (s.mapSched n f).stale = s.stale := rfl
@[simp] theorem mapSched_blocks (s : State) (n : Nat) (f : SchedRegs → SchedRegs) : (s.mapSched n f).blocks = s.blocks := rfl
@[simp] theorem mapSched_lcache (s : State) (n : Nat) (f : SchedRegs → SchedRegs) : (s.mapSched n f).lcache = s.lcache := rfl
@[simp] theorem mapSched_icache (s : State) (n : Nat) (f : SchedRegs → SchedRegs) : (s.mapSched n f).icache = s.icache := rfl
@[simp] theorem mapSched_tlb (s : State) (n : Nat) (f : SchedRegs → SchedRegs) : (s.mapSched n f).tlb = s.tlb := rfl
@[simp] theorem mapSched_xinv (s : State) (n : Nat) (f : SchedRegs → SchedRegs) : (s.mapSched n f).xinv = s.xinv := rfl
@[simp] theorem mapSched_regions (s : State) (n : Nat) (f : SchedRegs → SchedRegs) : (s.mapSched n f).regions = s.regions := rfl
@[simp] theorem mapSched_cmds (s : State) (n : Nat) (f : SchedRegs → SchedRegs) : (s.mapSched n f).cmds = s.cmds := rfl
@[simp] theorem mapSched_sections (s : State) (n : Nat) (f : SchedRegs → SchedRegs) : (s.mapSched n f).sections = s.sections := rfl
@[simp] theorem mapSched_versions (s : State) (n : Nat) (f : SchedRegs → SchedRegs) : (s.mapSched n f).versions = s.versions := rfl
@[simp] theorem mapSched_clusters (s : State) (n : Nat) (f : SchedRegs → SchedRegs) : (s.mapSched n f).clusters = s.clusters := rfl
@[simp] theorem mapSched_spares (s : State) (n : Nat) (f : SchedRegs → SchedRegs) : (s.mapSched n f).spares = s.spares := rfl
@[simp] theorem mapSched_partitions (s : State) (n : Nat) (f : SchedRegs → SchedRegs) : (s.mapSched n f).partitions = s.partitions := rfl
@[simp] theorem mapSched_contexts (s : State) (n : Nat) (f : SchedRegs → SchedRegs) : (s.mapSched n f).contexts = s.contexts := rfl
@[simp] theorem mapSched_qtbase (s : State) (n : Nat) (f : SchedRegs → SchedRegs) : (s.mapSched n f).qtbase = s.qtbase := rfl
@[simp] theorem mapSched_queues (s : State) (n : Nat) (f : SchedRegs → SchedRegs) : (s.mapSched n f).queues = s.queues := rfl
@[simp] theorem mapSched_accepted (s : State) (n : Nat) (f : SchedRegs → SchedRegs) : (s.mapSched n f).accepted = s.accepted := rfl
@[simp] theorem mapSched_launches (s : State) (n : Nat) (f : SchedRegs → SchedRegs) : (s.mapSched n f).launches = s.launches := rfl
@[simp] theorem mapSched_requests (s : State) (n : Nat) (f : SchedRegs → SchedRegs) : (s.mapSched n f).requests = s.requests := rfl
@[simp] theorem mapSched_answers (s : State) (n : Nat) (f : SchedRegs → SchedRegs) : (s.mapSched n f).answers = s.answers := rfl
@[simp] theorem mapSched_reports (s : State) (n : Nat) (f : SchedRegs → SchedRegs) : (s.mapSched n f).reports = s.reports := rfl
@[simp] theorem mapSched_gangs (s : State) (n : Nat) (f : SchedRegs → SchedRegs) : (s.mapSched n f).gangs = s.gangs := rfl
@[simp] theorem mapSched_served (s : State) (n : Nat) (f : SchedRegs → SchedRegs) : (s.mapSched n f).served = s.served := rfl
@[simp] theorem mapSched_replaying (s : State) (n : Nat) (f : SchedRegs → SchedRegs) : (s.mapSched n f).replaying = s.replaying := rfl
@[simp] theorem mapSched_hpErr (s : State) (n : Nat) (f : SchedRegs → SchedRegs) : (s.mapSched n f).hpErr = s.hpErr := rfl
@[simp] theorem mapSched_therm (s : State) (n : Nat) (f : SchedRegs → SchedRegs) : (s.mapSched n f).therm = s.therm := rfl
@[simp] theorem mapSched_fw (s : State) (n : Nat) (f : SchedRegs → SchedRegs) : (s.mapSched n f).fw = s.fw := rfl
@[simp] theorem mapSched_pod (s : State) (n : Nat) (f : SchedRegs → SchedRegs) : (s.mapSched n f).pod = s.pod := rfl
@[simp] theorem byte_mapSched (s : State) (n : Nat) (f : SchedRegs → SchedRegs) (a : Nat) : (s.mapSched n f).byte a = s.byte a := rfl
@[simp] theorem block_mapSched (s : State) (n : Nat) (f : SchedRegs → SchedRegs) (j : Nat) : (s.mapSched n f).block? j = s.block? j := rfl
@[simp] theorem thread_mapSched (s : State) (n : Nat) (f : SchedRegs → SchedRegs) (j i : Nat) : (s.mapSched n f).thread? j i = s.thread? j i := rfl
@[simp] theorem ctx_mapSched (s : State) (n : Nat) (f : SchedRegs → SchedRegs) (j : Nat) : (s.mapSched n f).ctx j = s.ctx j := rfl
@[simp] theorem cluster_mapSched (s : State) (n : Nat) (f : SchedRegs → SchedRegs) (j : Nat) : (s.mapSched n f).cluster j = s.cluster j := rfl
@[simp] theorem partition_mapSched (s : State) (n : Nat) (f : SchedRegs → SchedRegs) (j : Nat) : (s.mapSched n f).partition j = s.partition j := rfl
@[simp] theorem queue_mapSched (s : State) (n : Nat) (f : SchedRegs → SchedRegs) (j : Nat) : (s.mapSched n f).queue j = s.queue j := rfl
@[simp] theorem launch_mapSched (s : State) (n : Nat) (f : SchedRegs → SchedRegs) (j : Nat) : (s.mapSched n f).launch? j = s.launch? j := rfl
@[simp] theorem cmd_mapSched (s : State) (n : Nat) (f : SchedRegs → SchedRegs) (j : Nat) : (s.mapSched n f).cmd? j = s.cmd? j := rfl

/-! ### mapLaunch -/

@[simp] theorem mapLaunch_free (s : State) (l : Nat) (f : Launch → Launch) : (s.mapLaunch l f).free = s.free := rfl
@[simp] theorem mapLaunch_latch (s : State) (l : Nat) (f : Launch → Launch) : (s.mapLaunch l f).latch = s.latch := rfl
@[simp] theorem mapLaunch_agenda (s : State) (l : Nat) (f : Launch → Launch) : (s.mapLaunch l f).agenda = s.agenda := rfl
@[simp] theorem mapLaunch_seq (s : State) (l : Nat) (f : Launch → Launch) : (s.mapLaunch l f).seq = s.seq := rfl
@[simp] theorem mapLaunch_off (s : State) (l : Nat) (f : Launch → Launch) : (s.mapLaunch l f).off = s.off := rfl
@[simp] theorem mapLaunch_ptime (s : State) (l : Nat) (f : Launch → Launch) : (s.mapLaunch l f).ptime = s.ptime := rfl
@[simp] theorem mapLaunch_mem (s : State) (l : Nat) (f : Launch → Launch) : (s.mapLaunch l f).mem = s.mem := rfl
@[simp] theorem mapLaunch_poison (s : State) (l : Nat) (f : Launch → Launch) : (s.mapLaunch l f).poison = s.poison := rfl
@[simp] theorem mapLaunch_msc (s : State) (l : Nat) (f : Launch → Launch) : (s.mapLaunch l f).msc = s.msc := rfl
@[simp] theorem mapLaunch_behind (s : State) (l : Nat) (f : Launch → Launch) : (s.mapLaunch l f).behind = s.behind := rfl
@[simp] theorem mapLaunch_stale (s : State) (l : Nat) (f : Launch → Launch) : (s.mapLaunch l f).stale = s.stale := rfl
@[simp] theorem mapLaunch_blocks (s : State) (l : Nat) (f : Launch → Launch) : (s.mapLaunch l f).blocks = s.blocks := rfl
@[simp] theorem mapLaunch_lcache (s : State) (l : Nat) (f : Launch → Launch) : (s.mapLaunch l f).lcache = s.lcache := rfl
@[simp] theorem mapLaunch_icache (s : State) (l : Nat) (f : Launch → Launch) : (s.mapLaunch l f).icache = s.icache := rfl
@[simp] theorem mapLaunch_tlb (s : State) (l : Nat) (f : Launch → Launch) : (s.mapLaunch l f).tlb = s.tlb := rfl
@[simp] theorem mapLaunch_xinv (s : State) (l : Nat) (f : Launch → Launch) : (s.mapLaunch l f).xinv = s.xinv := rfl
@[simp] theorem mapLaunch_regions (s : State) (l : Nat) (f : Launch → Launch) : (s.mapLaunch l f).regions = s.regions := rfl
@[simp] theorem mapLaunch_cmds (s : State) (l : Nat) (f : Launch → Launch) : (s.mapLaunch l f).cmds = s.cmds := rfl
@[simp] theorem mapLaunch_sections (s : State) (l : Nat) (f : Launch → Launch) : (s.mapLaunch l f).sections = s.sections := rfl
@[simp] theorem mapLaunch_versions (s : State) (l : Nat) (f : Launch → Launch) : (s.mapLaunch l f).versions = s.versions := rfl
@[simp] theorem mapLaunch_clusters (s : State) (l : Nat) (f : Launch → Launch) : (s.mapLaunch l f).clusters = s.clusters := rfl
@[simp] theorem mapLaunch_spares (s : State) (l : Nat) (f : Launch → Launch) : (s.mapLaunch l f).spares = s.spares := rfl
@[simp] theorem mapLaunch_partitions (s : State) (l : Nat) (f : Launch → Launch) : (s.mapLaunch l f).partitions = s.partitions := rfl
@[simp] theorem mapLaunch_contexts (s : State) (l : Nat) (f : Launch → Launch) : (s.mapLaunch l f).contexts = s.contexts := rfl
@[simp] theorem mapLaunch_qtbase (s : State) (l : Nat) (f : Launch → Launch) : (s.mapLaunch l f).qtbase = s.qtbase := rfl
@[simp] theorem mapLaunch_queues (s : State) (l : Nat) (f : Launch → Launch) : (s.mapLaunch l f).queues = s.queues := rfl
@[simp] theorem mapLaunch_accepted (s : State) (l : Nat) (f : Launch → Launch) : (s.mapLaunch l f).accepted = s.accepted := rfl
@[simp] theorem mapLaunch_requests (s : State) (l : Nat) (f : Launch → Launch) : (s.mapLaunch l f).requests = s.requests := rfl
@[simp] theorem mapLaunch_answers (s : State) (l : Nat) (f : Launch → Launch) : (s.mapLaunch l f).answers = s.answers := rfl
@[simp] theorem mapLaunch_reports (s : State) (l : Nat) (f : Launch → Launch) : (s.mapLaunch l f).reports = s.reports := rfl
@[simp] theorem mapLaunch_gangs (s : State) (l : Nat) (f : Launch → Launch) : (s.mapLaunch l f).gangs = s.gangs := rfl
@[simp] theorem mapLaunch_served (s : State) (l : Nat) (f : Launch → Launch) : (s.mapLaunch l f).served = s.served := rfl
@[simp] theorem mapLaunch_scheds (s : State) (l : Nat) (f : Launch → Launch) : (s.mapLaunch l f).scheds = s.scheds := rfl
@[simp] theorem mapLaunch_replaying (s : State) (l : Nat) (f : Launch → Launch) : (s.mapLaunch l f).replaying = s.replaying := rfl
@[simp] theorem mapLaunch_hpErr (s : State) (l : Nat) (f : Launch → Launch) : (s.mapLaunch l f).hpErr = s.hpErr := rfl
@[simp] theorem mapLaunch_therm (s : State) (l : Nat) (f : Launch → Launch) : (s.mapLaunch l f).therm = s.therm := rfl
@[simp] theorem mapLaunch_fw (s : State) (l : Nat) (f : Launch → Launch) : (s.mapLaunch l f).fw = s.fw := rfl
@[simp] theorem mapLaunch_pod (s : State) (l : Nat) (f : Launch → Launch) : (s.mapLaunch l f).pod = s.pod := rfl
@[simp] theorem byte_mapLaunch (s : State) (l : Nat) (f : Launch → Launch) (a : Nat) : (s.mapLaunch l f).byte a = s.byte a := rfl
@[simp] theorem block_mapLaunch (s : State) (l : Nat) (f : Launch → Launch) (j : Nat) : (s.mapLaunch l f).block? j = s.block? j := rfl
@[simp] theorem thread_mapLaunch (s : State) (l : Nat) (f : Launch → Launch) (j i : Nat) : (s.mapLaunch l f).thread? j i = s.thread? j i := rfl
@[simp] theorem ctx_mapLaunch (s : State) (l : Nat) (f : Launch → Launch) (j : Nat) : (s.mapLaunch l f).ctx j = s.ctx j := rfl
@[simp] theorem cluster_mapLaunch (s : State) (l : Nat) (f : Launch → Launch) (j : Nat) : (s.mapLaunch l f).cluster j = s.cluster j := rfl
@[simp] theorem partition_mapLaunch (s : State) (l : Nat) (f : Launch → Launch) (j : Nat) : (s.mapLaunch l f).partition j = s.partition j := rfl
@[simp] theorem queue_mapLaunch (s : State) (l : Nat) (f : Launch → Launch) (j : Nat) : (s.mapLaunch l f).queue j = s.queue j := rfl
@[simp] theorem sched_mapLaunch (s : State) (l : Nat) (f : Launch → Launch) (j : Nat) : (s.mapLaunch l f).sched j = s.sched j := rfl
@[simp] theorem cmd_mapLaunch (s : State) (l : Nat) (f : Launch → Launch) (j : Nat) : (s.mapLaunch l f).cmd? j = s.cmd? j := rfl

/-! ### mapCmd -/

@[simp] theorem mapCmd_free (s : State) (c : Nat) (f : Cmd → Cmd) : (s.mapCmd c f).free = s.free := rfl
@[simp] theorem mapCmd_latch (s : State) (c : Nat) (f : Cmd → Cmd) : (s.mapCmd c f).latch = s.latch := rfl
@[simp] theorem mapCmd_agenda (s : State) (c : Nat) (f : Cmd → Cmd) : (s.mapCmd c f).agenda = s.agenda := rfl
@[simp] theorem mapCmd_seq (s : State) (c : Nat) (f : Cmd → Cmd) : (s.mapCmd c f).seq = s.seq := rfl
@[simp] theorem mapCmd_off (s : State) (c : Nat) (f : Cmd → Cmd) : (s.mapCmd c f).off = s.off := rfl
@[simp] theorem mapCmd_ptime (s : State) (c : Nat) (f : Cmd → Cmd) : (s.mapCmd c f).ptime = s.ptime := rfl
@[simp] theorem mapCmd_mem (s : State) (c : Nat) (f : Cmd → Cmd) : (s.mapCmd c f).mem = s.mem := rfl
@[simp] theorem mapCmd_poison (s : State) (c : Nat) (f : Cmd → Cmd) : (s.mapCmd c f).poison = s.poison := rfl
@[simp] theorem mapCmd_msc (s : State) (c : Nat) (f : Cmd → Cmd) : (s.mapCmd c f).msc = s.msc := rfl
@[simp] theorem mapCmd_behind (s : State) (c : Nat) (f : Cmd → Cmd) : (s.mapCmd c f).behind = s.behind := rfl
@[simp] theorem mapCmd_stale (s : State) (c : Nat) (f : Cmd → Cmd) : (s.mapCmd c f).stale = s.stale := rfl
@[simp] theorem mapCmd_blocks (s : State) (c : Nat) (f : Cmd → Cmd) : (s.mapCmd c f).blocks = s.blocks := rfl
@[simp] theorem mapCmd_lcache (s : State) (c : Nat) (f : Cmd → Cmd) : (s.mapCmd c f).lcache = s.lcache := rfl
@[simp] theorem mapCmd_icache (s : State) (c : Nat) (f : Cmd → Cmd) : (s.mapCmd c f).icache = s.icache := rfl
@[simp] theorem mapCmd_tlb (s : State) (c : Nat) (f : Cmd → Cmd) : (s.mapCmd c f).tlb = s.tlb := rfl
@[simp] theorem mapCmd_xinv (s : State) (c : Nat) (f : Cmd → Cmd) : (s.mapCmd c f).xinv = s.xinv := rfl
@[simp] theorem mapCmd_regions (s : State) (c : Nat) (f : Cmd → Cmd) : (s.mapCmd c f).regions = s.regions := rfl
@[simp] theorem mapCmd_sections (s : State) (c : Nat) (f : Cmd → Cmd) : (s.mapCmd c f).sections = s.sections := rfl
@[simp] theorem mapCmd_versions (s : State) (c : Nat) (f : Cmd → Cmd) : (s.mapCmd c f).versions = s.versions := rfl
@[simp] theorem mapCmd_clusters (s : State) (c : Nat) (f : Cmd → Cmd) : (s.mapCmd c f).clusters = s.clusters := rfl
@[simp] theorem mapCmd_spares (s : State) (c : Nat) (f : Cmd → Cmd) : (s.mapCmd c f).spares = s.spares := rfl
@[simp] theorem mapCmd_partitions (s : State) (c : Nat) (f : Cmd → Cmd) : (s.mapCmd c f).partitions = s.partitions := rfl
@[simp] theorem mapCmd_contexts (s : State) (c : Nat) (f : Cmd → Cmd) : (s.mapCmd c f).contexts = s.contexts := rfl
@[simp] theorem mapCmd_qtbase (s : State) (c : Nat) (f : Cmd → Cmd) : (s.mapCmd c f).qtbase = s.qtbase := rfl
@[simp] theorem mapCmd_queues (s : State) (c : Nat) (f : Cmd → Cmd) : (s.mapCmd c f).queues = s.queues := rfl
@[simp] theorem mapCmd_accepted (s : State) (c : Nat) (f : Cmd → Cmd) : (s.mapCmd c f).accepted = s.accepted := rfl
@[simp] theorem mapCmd_launches (s : State) (c : Nat) (f : Cmd → Cmd) : (s.mapCmd c f).launches = s.launches := rfl
@[simp] theorem mapCmd_requests (s : State) (c : Nat) (f : Cmd → Cmd) : (s.mapCmd c f).requests = s.requests := rfl
@[simp] theorem mapCmd_answers (s : State) (c : Nat) (f : Cmd → Cmd) : (s.mapCmd c f).answers = s.answers := rfl
@[simp] theorem mapCmd_reports (s : State) (c : Nat) (f : Cmd → Cmd) : (s.mapCmd c f).reports = s.reports := rfl
@[simp] theorem mapCmd_gangs (s : State) (c : Nat) (f : Cmd → Cmd) : (s.mapCmd c f).gangs = s.gangs := rfl
@[simp] theorem mapCmd_served (s : State) (c : Nat) (f : Cmd → Cmd) : (s.mapCmd c f).served = s.served := rfl
@[simp] theorem mapCmd_scheds (s : State) (c : Nat) (f : Cmd → Cmd) : (s.mapCmd c f).scheds = s.scheds := rfl
@[simp] theorem mapCmd_replaying (s : State) (c : Nat) (f : Cmd → Cmd) : (s.mapCmd c f).replaying = s.replaying := rfl
@[simp] theorem mapCmd_hpErr (s : State) (c : Nat) (f : Cmd → Cmd) : (s.mapCmd c f).hpErr = s.hpErr := rfl
@[simp] theorem mapCmd_therm (s : State) (c : Nat) (f : Cmd → Cmd) : (s.mapCmd c f).therm = s.therm := rfl
@[simp] theorem mapCmd_fw (s : State) (c : Nat) (f : Cmd → Cmd) : (s.mapCmd c f).fw = s.fw := rfl
@[simp] theorem mapCmd_pod (s : State) (c : Nat) (f : Cmd → Cmd) : (s.mapCmd c f).pod = s.pod := rfl
@[simp] theorem byte_mapCmd (s : State) (c : Nat) (f : Cmd → Cmd) (a : Nat) : (s.mapCmd c f).byte a = s.byte a := rfl
@[simp] theorem block_mapCmd (s : State) (c : Nat) (f : Cmd → Cmd) (j : Nat) : (s.mapCmd c f).block? j = s.block? j := rfl
@[simp] theorem thread_mapCmd (s : State) (c : Nat) (f : Cmd → Cmd) (j i : Nat) : (s.mapCmd c f).thread? j i = s.thread? j i := rfl
@[simp] theorem ctx_mapCmd (s : State) (c : Nat) (f : Cmd → Cmd) (j : Nat) : (s.mapCmd c f).ctx j = s.ctx j := rfl
@[simp] theorem cluster_mapCmd (s : State) (c : Nat) (f : Cmd → Cmd) (j : Nat) : (s.mapCmd c f).cluster j = s.cluster j := rfl
@[simp] theorem partition_mapCmd (s : State) (c : Nat) (f : Cmd → Cmd) (j : Nat) : (s.mapCmd c f).partition j = s.partition j := rfl
@[simp] theorem queue_mapCmd (s : State) (c : Nat) (f : Cmd → Cmd) (j : Nat) : (s.mapCmd c f).queue j = s.queue j := rfl
@[simp] theorem sched_mapCmd (s : State) (c : Nat) (f : Cmd → Cmd) (j : Nat) : (s.mapCmd c f).sched j = s.sched j := rfl
@[simp] theorem launch_mapCmd (s : State) (c : Nat) (f : Cmd → Cmd) (j : Nat) : (s.mapCmd c f).launch? j = s.launch? j := rfl

/-! ### dropCmd -/

@[simp] theorem dropCmd_free (s : State) (c : Nat) : (s.dropCmd c).free = s.free := rfl
@[simp] theorem dropCmd_latch (s : State) (c : Nat) : (s.dropCmd c).latch = s.latch := rfl
@[simp] theorem dropCmd_agenda (s : State) (c : Nat) : (s.dropCmd c).agenda = s.agenda := rfl
@[simp] theorem dropCmd_seq (s : State) (c : Nat) : (s.dropCmd c).seq = s.seq := rfl
@[simp] theorem dropCmd_off (s : State) (c : Nat) : (s.dropCmd c).off = s.off := rfl
@[simp] theorem dropCmd_ptime (s : State) (c : Nat) : (s.dropCmd c).ptime = s.ptime := rfl
@[simp] theorem dropCmd_mem (s : State) (c : Nat) : (s.dropCmd c).mem = s.mem := rfl
@[simp] theorem dropCmd_poison (s : State) (c : Nat) : (s.dropCmd c).poison = s.poison := rfl
@[simp] theorem dropCmd_msc (s : State) (c : Nat) : (s.dropCmd c).msc = s.msc := rfl
@[simp] theorem dropCmd_behind (s : State) (c : Nat) : (s.dropCmd c).behind = s.behind := rfl
@[simp] theorem dropCmd_stale (s : State) (c : Nat) : (s.dropCmd c).stale = s.stale := rfl
@[simp] theorem dropCmd_blocks (s : State) (c : Nat) : (s.dropCmd c).blocks = s.blocks := rfl
@[simp] theorem dropCmd_lcache (s : State) (c : Nat) : (s.dropCmd c).lcache = s.lcache := rfl
@[simp] theorem dropCmd_icache (s : State) (c : Nat) : (s.dropCmd c).icache = s.icache := rfl
@[simp] theorem dropCmd_tlb (s : State) (c : Nat) : (s.dropCmd c).tlb = s.tlb := rfl
@[simp] theorem dropCmd_xinv (s : State) (c : Nat) : (s.dropCmd c).xinv = s.xinv := rfl
@[simp] theorem dropCmd_regions (s : State) (c : Nat) : (s.dropCmd c).regions = s.regions := rfl
@[simp] theorem dropCmd_sections (s : State) (c : Nat) : (s.dropCmd c).sections = s.sections := rfl
@[simp] theorem dropCmd_versions (s : State) (c : Nat) : (s.dropCmd c).versions = s.versions := rfl
@[simp] theorem dropCmd_clusters (s : State) (c : Nat) : (s.dropCmd c).clusters = s.clusters := rfl
@[simp] theorem dropCmd_spares (s : State) (c : Nat) : (s.dropCmd c).spares = s.spares := rfl
@[simp] theorem dropCmd_partitions (s : State) (c : Nat) : (s.dropCmd c).partitions = s.partitions := rfl
@[simp] theorem dropCmd_contexts (s : State) (c : Nat) : (s.dropCmd c).contexts = s.contexts := rfl
@[simp] theorem dropCmd_qtbase (s : State) (c : Nat) : (s.dropCmd c).qtbase = s.qtbase := rfl
@[simp] theorem dropCmd_queues (s : State) (c : Nat) : (s.dropCmd c).queues = s.queues := rfl
@[simp] theorem dropCmd_accepted (s : State) (c : Nat) : (s.dropCmd c).accepted = s.accepted := rfl
@[simp] theorem dropCmd_launches (s : State) (c : Nat) : (s.dropCmd c).launches = s.launches := rfl
@[simp] theorem dropCmd_requests (s : State) (c : Nat) : (s.dropCmd c).requests = s.requests := rfl
@[simp] theorem dropCmd_answers (s : State) (c : Nat) : (s.dropCmd c).answers = s.answers := rfl
@[simp] theorem dropCmd_reports (s : State) (c : Nat) : (s.dropCmd c).reports = s.reports := rfl
@[simp] theorem dropCmd_gangs (s : State) (c : Nat) : (s.dropCmd c).gangs = s.gangs := rfl
@[simp] theorem dropCmd_served (s : State) (c : Nat) : (s.dropCmd c).served = s.served := rfl
@[simp] theorem dropCmd_scheds (s : State) (c : Nat) : (s.dropCmd c).scheds = s.scheds := rfl
@[simp] theorem dropCmd_replaying (s : State) (c : Nat) : (s.dropCmd c).replaying = s.replaying := rfl
@[simp] theorem dropCmd_hpErr (s : State) (c : Nat) : (s.dropCmd c).hpErr = s.hpErr := rfl
@[simp] theorem dropCmd_therm (s : State) (c : Nat) : (s.dropCmd c).therm = s.therm := rfl
@[simp] theorem dropCmd_fw (s : State) (c : Nat) : (s.dropCmd c).fw = s.fw := rfl
@[simp] theorem dropCmd_pod (s : State) (c : Nat) : (s.dropCmd c).pod = s.pod := rfl
@[simp] theorem byte_dropCmd (s : State) (c : Nat) (a : Nat) : (s.dropCmd c).byte a = s.byte a := rfl
@[simp] theorem block_dropCmd (s : State) (c : Nat) (j : Nat) : (s.dropCmd c).block? j = s.block? j := rfl
@[simp] theorem thread_dropCmd (s : State) (c : Nat) (j i : Nat) : (s.dropCmd c).thread? j i = s.thread? j i := rfl
@[simp] theorem ctx_dropCmd (s : State) (c : Nat) (j : Nat) : (s.dropCmd c).ctx j = s.ctx j := rfl
@[simp] theorem cluster_dropCmd (s : State) (c : Nat) (j : Nat) : (s.dropCmd c).cluster j = s.cluster j := rfl
@[simp] theorem partition_dropCmd (s : State) (c : Nat) (j : Nat) : (s.dropCmd c).partition j = s.partition j := rfl
@[simp] theorem queue_dropCmd (s : State) (c : Nat) (j : Nat) : (s.dropCmd c).queue j = s.queue j := rfl
@[simp] theorem sched_dropCmd (s : State) (c : Nat) (j : Nat) : (s.dropCmd c).sched j = s.sched j := rfl
@[simp] theorem launch_dropCmd (s : State) (c : Nat) (j : Nat) : (s.dropCmd c).launch? j = s.launch? j := rfl

/-! ### mapSection -/

@[simp] theorem mapSection_free (s : State) (c k : Nat) (f : Section → Section) : (s.mapSection c k f).free = s.free := rfl
@[simp] theorem mapSection_latch (s : State) (c k : Nat) (f : Section → Section) : (s.mapSection c k f).latch = s.latch := rfl
@[simp] theorem mapSection_agenda (s : State) (c k : Nat) (f : Section → Section) : (s.mapSection c k f).agenda = s.agenda := rfl
@[simp] theorem mapSection_seq (s : State) (c k : Nat) (f : Section → Section) : (s.mapSection c k f).seq = s.seq := rfl
@[simp] theorem mapSection_off (s : State) (c k : Nat) (f : Section → Section) : (s.mapSection c k f).off = s.off := rfl
@[simp] theorem mapSection_ptime (s : State) (c k : Nat) (f : Section → Section) : (s.mapSection c k f).ptime = s.ptime := rfl
@[simp] theorem mapSection_mem (s : State) (c k : Nat) (f : Section → Section) : (s.mapSection c k f).mem = s.mem := rfl
@[simp] theorem mapSection_poison (s : State) (c k : Nat) (f : Section → Section) : (s.mapSection c k f).poison = s.poison := rfl
@[simp] theorem mapSection_msc (s : State) (c k : Nat) (f : Section → Section) : (s.mapSection c k f).msc = s.msc := rfl
@[simp] theorem mapSection_behind (s : State) (c k : Nat) (f : Section → Section) : (s.mapSection c k f).behind = s.behind := rfl
@[simp] theorem mapSection_stale (s : State) (c k : Nat) (f : Section → Section) : (s.mapSection c k f).stale = s.stale := rfl
@[simp] theorem mapSection_blocks (s : State) (c k : Nat) (f : Section → Section) : (s.mapSection c k f).blocks = s.blocks := rfl
@[simp] theorem mapSection_lcache (s : State) (c k : Nat) (f : Section → Section) : (s.mapSection c k f).lcache = s.lcache := rfl
@[simp] theorem mapSection_icache (s : State) (c k : Nat) (f : Section → Section) : (s.mapSection c k f).icache = s.icache := rfl
@[simp] theorem mapSection_tlb (s : State) (c k : Nat) (f : Section → Section) : (s.mapSection c k f).tlb = s.tlb := rfl
@[simp] theorem mapSection_xinv (s : State) (c k : Nat) (f : Section → Section) : (s.mapSection c k f).xinv = s.xinv := rfl
@[simp] theorem mapSection_regions (s : State) (c k : Nat) (f : Section → Section) : (s.mapSection c k f).regions = s.regions := rfl
@[simp] theorem mapSection_cmds (s : State) (c k : Nat) (f : Section → Section) : (s.mapSection c k f).cmds = s.cmds := rfl
@[simp] theorem mapSection_versions (s : State) (c k : Nat) (f : Section → Section) : (s.mapSection c k f).versions = s.versions := rfl
@[simp] theorem mapSection_clusters (s : State) (c k : Nat) (f : Section → Section) : (s.mapSection c k f).clusters = s.clusters := rfl
@[simp] theorem mapSection_spares (s : State) (c k : Nat) (f : Section → Section) : (s.mapSection c k f).spares = s.spares := rfl
@[simp] theorem mapSection_partitions (s : State) (c k : Nat) (f : Section → Section) : (s.mapSection c k f).partitions = s.partitions := rfl
@[simp] theorem mapSection_contexts (s : State) (c k : Nat) (f : Section → Section) : (s.mapSection c k f).contexts = s.contexts := rfl
@[simp] theorem mapSection_qtbase (s : State) (c k : Nat) (f : Section → Section) : (s.mapSection c k f).qtbase = s.qtbase := rfl
@[simp] theorem mapSection_queues (s : State) (c k : Nat) (f : Section → Section) : (s.mapSection c k f).queues = s.queues := rfl
@[simp] theorem mapSection_accepted (s : State) (c k : Nat) (f : Section → Section) : (s.mapSection c k f).accepted = s.accepted := rfl
@[simp] theorem mapSection_launches (s : State) (c k : Nat) (f : Section → Section) : (s.mapSection c k f).launches = s.launches := rfl
@[simp] theorem mapSection_requests (s : State) (c k : Nat) (f : Section → Section) : (s.mapSection c k f).requests = s.requests := rfl
@[simp] theorem mapSection_answers (s : State) (c k : Nat) (f : Section → Section) : (s.mapSection c k f).answers = s.answers := rfl
@[simp] theorem mapSection_reports (s : State) (c k : Nat) (f : Section → Section) : (s.mapSection c k f).reports = s.reports := rfl
@[simp] theorem mapSection_gangs (s : State) (c k : Nat) (f : Section → Section) : (s.mapSection c k f).gangs = s.gangs := rfl
@[simp] theorem mapSection_served (s : State) (c k : Nat) (f : Section → Section) : (s.mapSection c k f).served = s.served := rfl
@[simp] theorem mapSection_scheds (s : State) (c k : Nat) (f : Section → Section) : (s.mapSection c k f).scheds = s.scheds := rfl
@[simp] theorem mapSection_replaying (s : State) (c k : Nat) (f : Section → Section) : (s.mapSection c k f).replaying = s.replaying := rfl
@[simp] theorem mapSection_hpErr (s : State) (c k : Nat) (f : Section → Section) : (s.mapSection c k f).hpErr = s.hpErr := rfl
@[simp] theorem mapSection_therm (s : State) (c k : Nat) (f : Section → Section) : (s.mapSection c k f).therm = s.therm := rfl
@[simp] theorem mapSection_fw (s : State) (c k : Nat) (f : Section → Section) : (s.mapSection c k f).fw = s.fw := rfl
@[simp] theorem mapSection_pod (s : State) (c k : Nat) (f : Section → Section) : (s.mapSection c k f).pod = s.pod := rfl
@[simp] theorem byte_mapSection (s : State) (c k : Nat) (f : Section → Section) (a : Nat) : (s.mapSection c k f).byte a = s.byte a := rfl
@[simp] theorem block_mapSection (s : State) (c k : Nat) (f : Section → Section) (j : Nat) : (s.mapSection c k f).block? j = s.block? j := rfl
@[simp] theorem thread_mapSection (s : State) (c k : Nat) (f : Section → Section) (j i : Nat) : (s.mapSection c k f).thread? j i = s.thread? j i := rfl
@[simp] theorem ctx_mapSection (s : State) (c k : Nat) (f : Section → Section) (j : Nat) : (s.mapSection c k f).ctx j = s.ctx j := rfl
@[simp] theorem cluster_mapSection (s : State) (c k : Nat) (f : Section → Section) (j : Nat) : (s.mapSection c k f).cluster j = s.cluster j := rfl
@[simp] theorem partition_mapSection (s : State) (c k : Nat) (f : Section → Section) (j : Nat) : (s.mapSection c k f).partition j = s.partition j := rfl
@[simp] theorem queue_mapSection (s : State) (c k : Nat) (f : Section → Section) (j : Nat) : (s.mapSection c k f).queue j = s.queue j := rfl
@[simp] theorem sched_mapSection (s : State) (c k : Nat) (f : Section → Section) (j : Nat) : (s.mapSection c k f).sched j = s.sched j := rfl
@[simp] theorem launch_mapSection (s : State) (c k : Nat) (f : Section → Section) (j : Nat) : (s.mapSection c k f).launch? j = s.launch? j := rfl
@[simp] theorem cmd_mapSection (s : State) (c k : Nat) (f : Section → Section) (j : Nat) : (s.mapSection c k f).cmd? j = s.cmd? j := rfl

/-! ### mapGang -/

@[simp] theorem mapGang_free (s : State) (l g : Nat) (f : Gang → Gang) : (s.mapGang l g f).free = s.free := rfl
@[simp] theorem mapGang_latch (s : State) (l g : Nat) (f : Gang → Gang) : (s.mapGang l g f).latch = s.latch := rfl
@[simp] theorem mapGang_agenda (s : State) (l g : Nat) (f : Gang → Gang) : (s.mapGang l g f).agenda = s.agenda := rfl
@[simp] theorem mapGang_seq (s : State) (l g : Nat) (f : Gang → Gang) : (s.mapGang l g f).seq = s.seq := rfl
@[simp] theorem mapGang_off (s : State) (l g : Nat) (f : Gang → Gang) : (s.mapGang l g f).off = s.off := rfl
@[simp] theorem mapGang_ptime (s : State) (l g : Nat) (f : Gang → Gang) : (s.mapGang l g f).ptime = s.ptime := rfl
@[simp] theorem mapGang_mem (s : State) (l g : Nat) (f : Gang → Gang) : (s.mapGang l g f).mem = s.mem := rfl
@[simp] theorem mapGang_poison (s : State) (l g : Nat) (f : Gang → Gang) : (s.mapGang l g f).poison = s.poison := rfl
@[simp] theorem mapGang_msc (s : State) (l g : Nat) (f : Gang → Gang) : (s.mapGang l g f).msc = s.msc := rfl
@[simp] theorem mapGang_behind (s : State) (l g : Nat) (f : Gang → Gang) : (s.mapGang l g f).behind = s.behind := rfl
@[simp] theorem mapGang_stale (s : State) (l g : Nat) (f : Gang → Gang) : (s.mapGang l g f).stale = s.stale := rfl
@[simp] theorem mapGang_blocks (s : State) (l g : Nat) (f : Gang → Gang) : (s.mapGang l g f).blocks = s.blocks := rfl
@[simp] theorem mapGang_lcache (s : State) (l g : Nat) (f : Gang → Gang) : (s.mapGang l g f).lcache = s.lcache := rfl
@[simp] theorem mapGang_icache (s : State) (l g : Nat) (f : Gang → Gang) : (s.mapGang l g f).icache = s.icache := rfl
@[simp] theorem mapGang_tlb (s : State) (l g : Nat) (f : Gang → Gang) : (s.mapGang l g f).tlb = s.tlb := rfl
@[simp] theorem mapGang_xinv (s : State) (l g : Nat) (f : Gang → Gang) : (s.mapGang l g f).xinv = s.xinv := rfl
@[simp] theorem mapGang_regions (s : State) (l g : Nat) (f : Gang → Gang) : (s.mapGang l g f).regions = s.regions := rfl
@[simp] theorem mapGang_cmds (s : State) (l g : Nat) (f : Gang → Gang) : (s.mapGang l g f).cmds = s.cmds := rfl
@[simp] theorem mapGang_sections (s : State) (l g : Nat) (f : Gang → Gang) : (s.mapGang l g f).sections = s.sections := rfl
@[simp] theorem mapGang_versions (s : State) (l g : Nat) (f : Gang → Gang) : (s.mapGang l g f).versions = s.versions := rfl
@[simp] theorem mapGang_clusters (s : State) (l g : Nat) (f : Gang → Gang) : (s.mapGang l g f).clusters = s.clusters := rfl
@[simp] theorem mapGang_spares (s : State) (l g : Nat) (f : Gang → Gang) : (s.mapGang l g f).spares = s.spares := rfl
@[simp] theorem mapGang_partitions (s : State) (l g : Nat) (f : Gang → Gang) : (s.mapGang l g f).partitions = s.partitions := rfl
@[simp] theorem mapGang_contexts (s : State) (l g : Nat) (f : Gang → Gang) : (s.mapGang l g f).contexts = s.contexts := rfl
@[simp] theorem mapGang_qtbase (s : State) (l g : Nat) (f : Gang → Gang) : (s.mapGang l g f).qtbase = s.qtbase := rfl
@[simp] theorem mapGang_queues (s : State) (l g : Nat) (f : Gang → Gang) : (s.mapGang l g f).queues = s.queues := rfl
@[simp] theorem mapGang_accepted (s : State) (l g : Nat) (f : Gang → Gang) : (s.mapGang l g f).accepted = s.accepted := rfl
@[simp] theorem mapGang_launches (s : State) (l g : Nat) (f : Gang → Gang) : (s.mapGang l g f).launches = s.launches := rfl
@[simp] theorem mapGang_requests (s : State) (l g : Nat) (f : Gang → Gang) : (s.mapGang l g f).requests = s.requests := rfl
@[simp] theorem mapGang_answers (s : State) (l g : Nat) (f : Gang → Gang) : (s.mapGang l g f).answers = s.answers := rfl
@[simp] theorem mapGang_reports (s : State) (l g : Nat) (f : Gang → Gang) : (s.mapGang l g f).reports = s.reports := rfl
@[simp] theorem mapGang_served (s : State) (l g : Nat) (f : Gang → Gang) : (s.mapGang l g f).served = s.served := rfl
@[simp] theorem mapGang_scheds (s : State) (l g : Nat) (f : Gang → Gang) : (s.mapGang l g f).scheds = s.scheds := rfl
@[simp] theorem mapGang_replaying (s : State) (l g : Nat) (f : Gang → Gang) : (s.mapGang l g f).replaying = s.replaying := rfl
@[simp] theorem mapGang_hpErr (s : State) (l g : Nat) (f : Gang → Gang) : (s.mapGang l g f).hpErr = s.hpErr := rfl
@[simp] theorem mapGang_therm (s : State) (l g : Nat) (f : Gang → Gang) : (s.mapGang l g f).therm = s.therm := rfl
@[simp] theorem mapGang_fw (s : State) (l g : Nat) (f : Gang → Gang) : (s.mapGang l g f).fw = s.fw := rfl
@[simp] theorem mapGang_pod (s : State) (l g : Nat) (f : Gang → Gang) : (s.mapGang l g f).pod = s.pod := rfl
@[simp] theorem byte_mapGang (s : State) (l g : Nat) (f : Gang → Gang) (a : Nat) : (s.mapGang l g f).byte a = s.byte a := rfl
@[simp] theorem block_mapGang (s : State) (l g : Nat) (f : Gang → Gang) (j : Nat) : (s.mapGang l g f).block? j = s.block? j := rfl
@[simp] theorem thread_mapGang (s : State) (l g : Nat) (f : Gang → Gang) (j i : Nat) : (s.mapGang l g f).thread? j i = s.thread? j i := rfl
@[simp] theorem ctx_mapGang (s : State) (l g : Nat) (f : Gang → Gang) (j : Nat) : (s.mapGang l g f).ctx j = s.ctx j := rfl
@[simp] theorem cluster_mapGang (s : State) (l g : Nat) (f : Gang → Gang) (j : Nat) : (s.mapGang l g f).cluster j = s.cluster j := rfl
@[simp] theorem partition_mapGang (s : State) (l g : Nat) (f : Gang → Gang) (j : Nat) : (s.mapGang l g f).partition j = s.partition j := rfl
@[simp] theorem queue_mapGang (s : State) (l g : Nat) (f : Gang → Gang) (j : Nat) : (s.mapGang l g f).queue j = s.queue j := rfl
@[simp] theorem sched_mapGang (s : State) (l g : Nat) (f : Gang → Gang) (j : Nat) : (s.mapGang l g f).sched j = s.sched j := rfl
@[simp] theorem launch_mapGang (s : State) (l g : Nat) (f : Gang → Gang) (j : Nat) : (s.mapGang l g f).launch? j = s.launch? j := rfl
@[simp] theorem cmd_mapGang (s : State) (l g : Nat) (f : Gang → Gang) (j : Nat) : (s.mapGang l g f).cmd? j = s.cmd? j := rfl

/-! ### mapReport -/

@[simp] theorem mapReport_free (s : State) (r : Nat) (f : Report → Report) : (s.mapReport r f).free = s.free := rfl
@[simp] theorem mapReport_latch (s : State) (r : Nat) (f : Report → Report) : (s.mapReport r f).latch = s.latch := rfl
@[simp] theorem mapReport_agenda (s : State) (r : Nat) (f : Report → Report) : (s.mapReport r f).agenda = s.agenda := rfl
@[simp] theorem mapReport_seq (s : State) (r : Nat) (f : Report → Report) : (s.mapReport r f).seq = s.seq := rfl
@[simp] theorem mapReport_off (s : State) (r : Nat) (f : Report → Report) : (s.mapReport r f).off = s.off := rfl
@[simp] theorem mapReport_ptime (s : State) (r : Nat) (f : Report → Report) : (s.mapReport r f).ptime = s.ptime := rfl
@[simp] theorem mapReport_mem (s : State) (r : Nat) (f : Report → Report) : (s.mapReport r f).mem = s.mem := rfl
@[simp] theorem mapReport_poison (s : State) (r : Nat) (f : Report → Report) : (s.mapReport r f).poison = s.poison := rfl
@[simp] theorem mapReport_msc (s : State) (r : Nat) (f : Report → Report) : (s.mapReport r f).msc = s.msc := rfl
@[simp] theorem mapReport_behind (s : State) (r : Nat) (f : Report → Report) : (s.mapReport r f).behind = s.behind := rfl
@[simp] theorem mapReport_stale (s : State) (r : Nat) (f : Report → Report) : (s.mapReport r f).stale = s.stale := rfl
@[simp] theorem mapReport_blocks (s : State) (r : Nat) (f : Report → Report) : (s.mapReport r f).blocks = s.blocks := rfl
@[simp] theorem mapReport_lcache (s : State) (r : Nat) (f : Report → Report) : (s.mapReport r f).lcache = s.lcache := rfl
@[simp] theorem mapReport_icache (s : State) (r : Nat) (f : Report → Report) : (s.mapReport r f).icache = s.icache := rfl
@[simp] theorem mapReport_tlb (s : State) (r : Nat) (f : Report → Report) : (s.mapReport r f).tlb = s.tlb := rfl
@[simp] theorem mapReport_xinv (s : State) (r : Nat) (f : Report → Report) : (s.mapReport r f).xinv = s.xinv := rfl
@[simp] theorem mapReport_regions (s : State) (r : Nat) (f : Report → Report) : (s.mapReport r f).regions = s.regions := rfl
@[simp] theorem mapReport_cmds (s : State) (r : Nat) (f : Report → Report) : (s.mapReport r f).cmds = s.cmds := rfl
@[simp] theorem mapReport_sections (s : State) (r : Nat) (f : Report → Report) : (s.mapReport r f).sections = s.sections := rfl
@[simp] theorem mapReport_versions (s : State) (r : Nat) (f : Report → Report) : (s.mapReport r f).versions = s.versions := rfl
@[simp] theorem mapReport_clusters (s : State) (r : Nat) (f : Report → Report) : (s.mapReport r f).clusters = s.clusters := rfl
@[simp] theorem mapReport_spares (s : State) (r : Nat) (f : Report → Report) : (s.mapReport r f).spares = s.spares := rfl
@[simp] theorem mapReport_partitions (s : State) (r : Nat) (f : Report → Report) : (s.mapReport r f).partitions = s.partitions := rfl
@[simp] theorem mapReport_contexts (s : State) (r : Nat) (f : Report → Report) : (s.mapReport r f).contexts = s.contexts := rfl
@[simp] theorem mapReport_qtbase (s : State) (r : Nat) (f : Report → Report) : (s.mapReport r f).qtbase = s.qtbase := rfl
@[simp] theorem mapReport_queues (s : State) (r : Nat) (f : Report → Report) : (s.mapReport r f).queues = s.queues := rfl
@[simp] theorem mapReport_accepted (s : State) (r : Nat) (f : Report → Report) : (s.mapReport r f).accepted = s.accepted := rfl
@[simp] theorem mapReport_launches (s : State) (r : Nat) (f : Report → Report) : (s.mapReport r f).launches = s.launches := rfl
@[simp] theorem mapReport_requests (s : State) (r : Nat) (f : Report → Report) : (s.mapReport r f).requests = s.requests := rfl
@[simp] theorem mapReport_answers (s : State) (r : Nat) (f : Report → Report) : (s.mapReport r f).answers = s.answers := rfl
@[simp] theorem mapReport_gangs (s : State) (r : Nat) (f : Report → Report) : (s.mapReport r f).gangs = s.gangs := rfl
@[simp] theorem mapReport_served (s : State) (r : Nat) (f : Report → Report) : (s.mapReport r f).served = s.served := rfl
@[simp] theorem mapReport_scheds (s : State) (r : Nat) (f : Report → Report) : (s.mapReport r f).scheds = s.scheds := rfl
@[simp] theorem mapReport_replaying (s : State) (r : Nat) (f : Report → Report) : (s.mapReport r f).replaying = s.replaying := rfl
@[simp] theorem mapReport_hpErr (s : State) (r : Nat) (f : Report → Report) : (s.mapReport r f).hpErr = s.hpErr := rfl
@[simp] theorem mapReport_therm (s : State) (r : Nat) (f : Report → Report) : (s.mapReport r f).therm = s.therm := rfl
@[simp] theorem mapReport_fw (s : State) (r : Nat) (f : Report → Report) : (s.mapReport r f).fw = s.fw := rfl
@[simp] theorem mapReport_pod (s : State) (r : Nat) (f : Report → Report) : (s.mapReport r f).pod = s.pod := rfl
@[simp] theorem byte_mapReport (s : State) (r : Nat) (f : Report → Report) (a : Nat) : (s.mapReport r f).byte a = s.byte a := rfl
@[simp] theorem block_mapReport (s : State) (r : Nat) (f : Report → Report) (j : Nat) : (s.mapReport r f).block? j = s.block? j := rfl
@[simp] theorem thread_mapReport (s : State) (r : Nat) (f : Report → Report) (j i : Nat) : (s.mapReport r f).thread? j i = s.thread? j i := rfl
@[simp] theorem ctx_mapReport (s : State) (r : Nat) (f : Report → Report) (j : Nat) : (s.mapReport r f).ctx j = s.ctx j := rfl
@[simp] theorem cluster_mapReport (s : State) (r : Nat) (f : Report → Report) (j : Nat) : (s.mapReport r f).cluster j = s.cluster j := rfl
@[simp] theorem partition_mapReport (s : State) (r : Nat) (f : Report → Report) (j : Nat) : (s.mapReport r f).partition j = s.partition j := rfl
@[simp] theorem queue_mapReport (s : State) (r : Nat) (f : Report → Report) (j : Nat) : (s.mapReport r f).queue j = s.queue j := rfl
@[simp] theorem sched_mapReport (s : State) (r : Nat) (f : Report → Report) (j : Nat) : (s.mapReport r f).sched j = s.sched j := rfl
@[simp] theorem launch_mapReport (s : State) (r : Nat) (f : Report → Report) (j : Nat) : (s.mapReport r f).launch? j = s.launch? j := rfl
@[simp] theorem cmd_mapReport (s : State) (r : Nat) (f : Report → Report) (j : Nat) : (s.mapReport r f).cmd? j = s.cmd? j := rfl

/-! ### mapFw -/

@[simp] theorem mapFw_free (s : State) (f : Firmware → Firmware) : (s.mapFw f).free = s.free := rfl
@[simp] theorem mapFw_latch (s : State) (f : Firmware → Firmware) : (s.mapFw f).latch = s.latch := rfl
@[simp] theorem mapFw_agenda (s : State) (f : Firmware → Firmware) : (s.mapFw f).agenda = s.agenda := rfl
@[simp] theorem mapFw_seq (s : State) (f : Firmware → Firmware) : (s.mapFw f).seq = s.seq := rfl
@[simp] theorem mapFw_off (s : State) (f : Firmware → Firmware) : (s.mapFw f).off = s.off := rfl
@[simp] theorem mapFw_ptime (s : State) (f : Firmware → Firmware) : (s.mapFw f).ptime = s.ptime := rfl
@[simp] theorem mapFw_mem (s : State) (f : Firmware → Firmware) : (s.mapFw f).mem = s.mem := rfl
@[simp] theorem mapFw_poison (s : State) (f : Firmware → Firmware) : (s.mapFw f).poison = s.poison := rfl
@[simp] theorem mapFw_msc (s : State) (f : Firmware → Firmware) : (s.mapFw f).msc = s.msc := rfl
@[simp] theorem mapFw_behind (s : State) (f : Firmware → Firmware) : (s.mapFw f).behind = s.behind := rfl
@[simp] theorem mapFw_stale (s : State) (f : Firmware → Firmware) : (s.mapFw f).stale = s.stale := rfl
@[simp] theorem mapFw_blocks (s : State) (f : Firmware → Firmware) : (s.mapFw f).blocks = s.blocks := rfl
@[simp] theorem mapFw_lcache (s : State) (f : Firmware → Firmware) : (s.mapFw f).lcache = s.lcache := rfl
@[simp] theorem mapFw_icache (s : State) (f : Firmware → Firmware) : (s.mapFw f).icache = s.icache := rfl
@[simp] theorem mapFw_tlb (s : State) (f : Firmware → Firmware) : (s.mapFw f).tlb = s.tlb := rfl
@[simp] theorem mapFw_xinv (s : State) (f : Firmware → Firmware) : (s.mapFw f).xinv = s.xinv := rfl
@[simp] theorem mapFw_regions (s : State) (f : Firmware → Firmware) : (s.mapFw f).regions = s.regions := rfl
@[simp] theorem mapFw_cmds (s : State) (f : Firmware → Firmware) : (s.mapFw f).cmds = s.cmds := rfl
@[simp] theorem mapFw_sections (s : State) (f : Firmware → Firmware) : (s.mapFw f).sections = s.sections := rfl
@[simp] theorem mapFw_versions (s : State) (f : Firmware → Firmware) : (s.mapFw f).versions = s.versions := rfl
@[simp] theorem mapFw_clusters (s : State) (f : Firmware → Firmware) : (s.mapFw f).clusters = s.clusters := rfl
@[simp] theorem mapFw_spares (s : State) (f : Firmware → Firmware) : (s.mapFw f).spares = s.spares := rfl
@[simp] theorem mapFw_partitions (s : State) (f : Firmware → Firmware) : (s.mapFw f).partitions = s.partitions := rfl
@[simp] theorem mapFw_contexts (s : State) (f : Firmware → Firmware) : (s.mapFw f).contexts = s.contexts := rfl
@[simp] theorem mapFw_qtbase (s : State) (f : Firmware → Firmware) : (s.mapFw f).qtbase = s.qtbase := rfl
@[simp] theorem mapFw_queues (s : State) (f : Firmware → Firmware) : (s.mapFw f).queues = s.queues := rfl
@[simp] theorem mapFw_accepted (s : State) (f : Firmware → Firmware) : (s.mapFw f).accepted = s.accepted := rfl
@[simp] theorem mapFw_launches (s : State) (f : Firmware → Firmware) : (s.mapFw f).launches = s.launches := rfl
@[simp] theorem mapFw_requests (s : State) (f : Firmware → Firmware) : (s.mapFw f).requests = s.requests := rfl
@[simp] theorem mapFw_answers (s : State) (f : Firmware → Firmware) : (s.mapFw f).answers = s.answers := rfl
@[simp] theorem mapFw_reports (s : State) (f : Firmware → Firmware) : (s.mapFw f).reports = s.reports := rfl
@[simp] theorem mapFw_gangs (s : State) (f : Firmware → Firmware) : (s.mapFw f).gangs = s.gangs := rfl
@[simp] theorem mapFw_served (s : State) (f : Firmware → Firmware) : (s.mapFw f).served = s.served := rfl
@[simp] theorem mapFw_scheds (s : State) (f : Firmware → Firmware) : (s.mapFw f).scheds = s.scheds := rfl
@[simp] theorem mapFw_replaying (s : State) (f : Firmware → Firmware) : (s.mapFw f).replaying = s.replaying := rfl
@[simp] theorem mapFw_hpErr (s : State) (f : Firmware → Firmware) : (s.mapFw f).hpErr = s.hpErr := rfl
@[simp] theorem mapFw_therm (s : State) (f : Firmware → Firmware) : (s.mapFw f).therm = s.therm := rfl
@[simp] theorem mapFw_pod (s : State) (f : Firmware → Firmware) : (s.mapFw f).pod = s.pod := rfl
@[simp] theorem byte_mapFw (s : State) (f : Firmware → Firmware) (a : Nat) : (s.mapFw f).byte a = s.byte a := rfl
@[simp] theorem block_mapFw (s : State) (f : Firmware → Firmware) (j : Nat) : (s.mapFw f).block? j = s.block? j := rfl
@[simp] theorem thread_mapFw (s : State) (f : Firmware → Firmware) (j i : Nat) : (s.mapFw f).thread? j i = s.thread? j i := rfl
@[simp] theorem ctx_mapFw (s : State) (f : Firmware → Firmware) (j : Nat) : (s.mapFw f).ctx j = s.ctx j := rfl
@[simp] theorem cluster_mapFw (s : State) (f : Firmware → Firmware) (j : Nat) : (s.mapFw f).cluster j = s.cluster j := rfl
@[simp] theorem partition_mapFw (s : State) (f : Firmware → Firmware) (j : Nat) : (s.mapFw f).partition j = s.partition j := rfl
@[simp] theorem queue_mapFw (s : State) (f : Firmware → Firmware) (j : Nat) : (s.mapFw f).queue j = s.queue j := rfl
@[simp] theorem sched_mapFw (s : State) (f : Firmware → Firmware) (j : Nat) : (s.mapFw f).sched j = s.sched j := rfl
@[simp] theorem launch_mapFw (s : State) (f : Firmware → Firmware) (j : Nat) : (s.mapFw f).launch? j = s.launch? j := rfl
@[simp] theorem cmd_mapFw (s : State) (f : Firmware → Firmware) (j : Nat) : (s.mapFw f).cmd? j = s.cmd? j := rfl

/-! ### hold -/

@[simp] theorem hold_free (s : State) (b k : Nat) (w : Wait) : (s.hold b k w).free = s.free := rfl
@[simp] theorem hold_latch (s : State) (b k : Nat) (w : Wait) : (s.hold b k w).latch = s.latch := rfl
@[simp] theorem hold_agenda (s : State) (b k : Nat) (w : Wait) : (s.hold b k w).agenda = s.agenda := rfl
@[simp] theorem hold_seq (s : State) (b k : Nat) (w : Wait) : (s.hold b k w).seq = s.seq := rfl
@[simp] theorem hold_off (s : State) (b k : Nat) (w : Wait) : (s.hold b k w).off = s.off := rfl
@[simp] theorem hold_ptime (s : State) (b k : Nat) (w : Wait) : (s.hold b k w).ptime = s.ptime := rfl
@[simp] theorem hold_mem (s : State) (b k : Nat) (w : Wait) : (s.hold b k w).mem = s.mem := rfl
@[simp] theorem hold_poison (s : State) (b k : Nat) (w : Wait) : (s.hold b k w).poison = s.poison := rfl
@[simp] theorem hold_msc (s : State) (b k : Nat) (w : Wait) : (s.hold b k w).msc = s.msc := rfl
@[simp] theorem hold_behind (s : State) (b k : Nat) (w : Wait) : (s.hold b k w).behind = s.behind := rfl
@[simp] theorem hold_stale (s : State) (b k : Nat) (w : Wait) : (s.hold b k w).stale = s.stale := rfl
@[simp] theorem hold_lcache (s : State) (b k : Nat) (w : Wait) : (s.hold b k w).lcache = s.lcache := rfl
@[simp] theorem hold_icache (s : State) (b k : Nat) (w : Wait) : (s.hold b k w).icache = s.icache := rfl
@[simp] theorem hold_tlb (s : State) (b k : Nat) (w : Wait) : (s.hold b k w).tlb = s.tlb := rfl
@[simp] theorem hold_xinv (s : State) (b k : Nat) (w : Wait) : (s.hold b k w).xinv = s.xinv := rfl
@[simp] theorem hold_regions (s : State) (b k : Nat) (w : Wait) : (s.hold b k w).regions = s.regions := rfl
@[simp] theorem hold_cmds (s : State) (b k : Nat) (w : Wait) : (s.hold b k w).cmds = s.cmds := rfl
@[simp] theorem hold_sections (s : State) (b k : Nat) (w : Wait) : (s.hold b k w).sections = s.sections := rfl
@[simp] theorem hold_versions (s : State) (b k : Nat) (w : Wait) : (s.hold b k w).versions = s.versions := rfl
@[simp] theorem hold_clusters (s : State) (b k : Nat) (w : Wait) : (s.hold b k w).clusters = s.clusters := rfl
@[simp] theorem hold_spares (s : State) (b k : Nat) (w : Wait) : (s.hold b k w).spares = s.spares := rfl
@[simp] theorem hold_partitions (s : State) (b k : Nat) (w : Wait) : (s.hold b k w).partitions = s.partitions := rfl
@[simp] theorem hold_contexts (s : State) (b k : Nat) (w : Wait) : (s.hold b k w).contexts = s.contexts := rfl
@[simp] theorem hold_qtbase (s : State) (b k : Nat) (w : Wait) : (s.hold b k w).qtbase = s.qtbase := rfl
@[simp] theorem hold_queues (s : State) (b k : Nat) (w : Wait) : (s.hold b k w).queues = s.queues := rfl
@[simp] theorem hold_accepted (s : State) (b k : Nat) (w : Wait) : (s.hold b k w).accepted = s.accepted := rfl
@[simp] theorem hold_launches (s : State) (b k : Nat) (w : Wait) : (s.hold b k w).launches = s.launches := rfl
@[simp] theorem hold_requests (s : State) (b k : Nat) (w : Wait) : (s.hold b k w).requests = s.requests := rfl
@[simp] theorem hold_answers (s : State) (b k : Nat) (w : Wait) : (s.hold b k w).answers = s.answers := rfl
@[simp] theorem hold_reports (s : State) (b k : Nat) (w : Wait) : (s.hold b k w).reports = s.reports := rfl
@[simp] theorem hold_gangs (s : State) (b k : Nat) (w : Wait) : (s.hold b k w).gangs = s.gangs := rfl
@[simp] theorem hold_served (s : State) (b k : Nat) (w : Wait) : (s.hold b k w).served = s.served := rfl
@[simp] theorem hold_scheds (s : State) (b k : Nat) (w : Wait) : (s.hold b k w).scheds = s.scheds := rfl
@[simp] theorem hold_replaying (s : State) (b k : Nat) (w : Wait) : (s.hold b k w).replaying = s.replaying := rfl
@[simp] theorem hold_hpErr (s : State) (b k : Nat) (w : Wait) : (s.hold b k w).hpErr = s.hpErr := rfl
@[simp] theorem hold_therm (s : State) (b k : Nat) (w : Wait) : (s.hold b k w).therm = s.therm := rfl
@[simp] theorem hold_fw (s : State) (b k : Nat) (w : Wait) : (s.hold b k w).fw = s.fw := rfl
@[simp] theorem hold_pod (s : State) (b k : Nat) (w : Wait) : (s.hold b k w).pod = s.pod := rfl
@[simp] theorem byte_hold (s : State) (b k : Nat) (w : Wait) (a : Nat) : (s.hold b k w).byte a = s.byte a := rfl
@[simp] theorem ctx_hold (s : State) (b k : Nat) (w : Wait) (j : Nat) : (s.hold b k w).ctx j = s.ctx j := rfl
@[simp] theorem cluster_hold (s : State) (b k : Nat) (w : Wait) (j : Nat) : (s.hold b k w).cluster j = s.cluster j := rfl
@[simp] theorem partition_hold (s : State) (b k : Nat) (w : Wait) (j : Nat) : (s.hold b k w).partition j = s.partition j := rfl
@[simp] theorem queue_hold (s : State) (b k : Nat) (w : Wait) (j : Nat) : (s.hold b k w).queue j = s.queue j := rfl
@[simp] theorem sched_hold (s : State) (b k : Nat) (w : Wait) (j : Nat) : (s.hold b k w).sched j = s.sched j := rfl
@[simp] theorem launch_hold (s : State) (b k : Nat) (w : Wait) (j : Nat) : (s.hold b k w).launch? j = s.launch? j := rfl
@[simp] theorem cmd_hold (s : State) (b k : Nat) (w : Wait) (j : Nat) : (s.hold b k w).cmd? j = s.cmd? j := rfl

/-! ### note -/

@[simp] theorem note_free (s : State) (sp k : Nat) (old : List Byte) (p : Path) : (s.note sp k old p).free = s.free := rfl
@[simp] theorem note_latch (s : State) (sp k : Nat) (old : List Byte) (p : Path) : (s.note sp k old p).latch = s.latch := rfl
@[simp] theorem note_agenda (s : State) (sp k : Nat) (old : List Byte) (p : Path) : (s.note sp k old p).agenda = s.agenda := rfl
@[simp] theorem note_seq (s : State) (sp k : Nat) (old : List Byte) (p : Path) : (s.note sp k old p).seq = s.seq := rfl
@[simp] theorem note_off (s : State) (sp k : Nat) (old : List Byte) (p : Path) : (s.note sp k old p).off = s.off := rfl
@[simp] theorem note_ptime (s : State) (sp k : Nat) (old : List Byte) (p : Path) : (s.note sp k old p).ptime = s.ptime := rfl
@[simp] theorem note_mem (s : State) (sp k : Nat) (old : List Byte) (p : Path) : (s.note sp k old p).mem = s.mem := rfl
@[simp] theorem note_poison (s : State) (sp k : Nat) (old : List Byte) (p : Path) : (s.note sp k old p).poison = s.poison := rfl
@[simp] theorem note_msc (s : State) (sp k : Nat) (old : List Byte) (p : Path) : (s.note sp k old p).msc = s.msc := rfl
@[simp] theorem note_behind (s : State) (sp k : Nat) (old : List Byte) (p : Path) : (s.note sp k old p).behind = s.behind := rfl
@[simp] theorem note_blocks (s : State) (sp k : Nat) (old : List Byte) (p : Path) : (s.note sp k old p).blocks = s.blocks := rfl
@[simp] theorem note_lcache (s : State) (sp k : Nat) (old : List Byte) (p : Path) : (s.note sp k old p).lcache = s.lcache := rfl
@[simp] theorem note_icache (s : State) (sp k : Nat) (old : List Byte) (p : Path) : (s.note sp k old p).icache = s.icache := rfl
@[simp] theorem note_tlb (s : State) (sp k : Nat) (old : List Byte) (p : Path) : (s.note sp k old p).tlb = s.tlb := rfl
@[simp] theorem note_xinv (s : State) (sp k : Nat) (old : List Byte) (p : Path) : (s.note sp k old p).xinv = s.xinv := rfl
@[simp] theorem note_regions (s : State) (sp k : Nat) (old : List Byte) (p : Path) : (s.note sp k old p).regions = s.regions := rfl
@[simp] theorem note_cmds (s : State) (sp k : Nat) (old : List Byte) (p : Path) : (s.note sp k old p).cmds = s.cmds := rfl
@[simp] theorem note_sections (s : State) (sp k : Nat) (old : List Byte) (p : Path) : (s.note sp k old p).sections = s.sections := rfl
@[simp] theorem note_versions (s : State) (sp k : Nat) (old : List Byte) (p : Path) : (s.note sp k old p).versions = s.versions := rfl
@[simp] theorem note_clusters (s : State) (sp k : Nat) (old : List Byte) (p : Path) : (s.note sp k old p).clusters = s.clusters := rfl
@[simp] theorem note_spares (s : State) (sp k : Nat) (old : List Byte) (p : Path) : (s.note sp k old p).spares = s.spares := rfl
@[simp] theorem note_partitions (s : State) (sp k : Nat) (old : List Byte) (p : Path) : (s.note sp k old p).partitions = s.partitions := rfl
@[simp] theorem note_contexts (s : State) (sp k : Nat) (old : List Byte) (p : Path) : (s.note sp k old p).contexts = s.contexts := rfl
@[simp] theorem note_qtbase (s : State) (sp k : Nat) (old : List Byte) (p : Path) : (s.note sp k old p).qtbase = s.qtbase := rfl
@[simp] theorem note_queues (s : State) (sp k : Nat) (old : List Byte) (p : Path) : (s.note sp k old p).queues = s.queues := rfl
@[simp] theorem note_accepted (s : State) (sp k : Nat) (old : List Byte) (p : Path) : (s.note sp k old p).accepted = s.accepted := rfl
@[simp] theorem note_launches (s : State) (sp k : Nat) (old : List Byte) (p : Path) : (s.note sp k old p).launches = s.launches := rfl
@[simp] theorem note_requests (s : State) (sp k : Nat) (old : List Byte) (p : Path) : (s.note sp k old p).requests = s.requests := rfl
@[simp] theorem note_answers (s : State) (sp k : Nat) (old : List Byte) (p : Path) : (s.note sp k old p).answers = s.answers := rfl
@[simp] theorem note_reports (s : State) (sp k : Nat) (old : List Byte) (p : Path) : (s.note sp k old p).reports = s.reports := rfl
@[simp] theorem note_gangs (s : State) (sp k : Nat) (old : List Byte) (p : Path) : (s.note sp k old p).gangs = s.gangs := rfl
@[simp] theorem note_served (s : State) (sp k : Nat) (old : List Byte) (p : Path) : (s.note sp k old p).served = s.served := rfl
@[simp] theorem note_scheds (s : State) (sp k : Nat) (old : List Byte) (p : Path) : (s.note sp k old p).scheds = s.scheds := rfl
@[simp] theorem note_replaying (s : State) (sp k : Nat) (old : List Byte) (p : Path) : (s.note sp k old p).replaying = s.replaying := rfl
@[simp] theorem note_hpErr (s : State) (sp k : Nat) (old : List Byte) (p : Path) : (s.note sp k old p).hpErr = s.hpErr := rfl
@[simp] theorem note_therm (s : State) (sp k : Nat) (old : List Byte) (p : Path) : (s.note sp k old p).therm = s.therm := rfl
@[simp] theorem note_fw (s : State) (sp k : Nat) (old : List Byte) (p : Path) : (s.note sp k old p).fw = s.fw := rfl
@[simp] theorem note_pod (s : State) (sp k : Nat) (old : List Byte) (p : Path) : (s.note sp k old p).pod = s.pod := rfl
@[simp] theorem byte_note (s : State) (sp k : Nat) (old : List Byte) (p : Path) (a : Nat) : (s.note sp k old p).byte a = s.byte a := rfl
@[simp] theorem block_note (s : State) (sp k : Nat) (old : List Byte) (p : Path) (j : Nat) : (s.note sp k old p).block? j = s.block? j := rfl
@[simp] theorem thread_note (s : State) (sp k : Nat) (old : List Byte) (p : Path) (j i : Nat) : (s.note sp k old p).thread? j i = s.thread? j i := rfl
@[simp] theorem ctx_note (s : State) (sp k : Nat) (old : List Byte) (p : Path) (j : Nat) : (s.note sp k old p).ctx j = s.ctx j := rfl
@[simp] theorem cluster_note (s : State) (sp k : Nat) (old : List Byte) (p : Path) (j : Nat) : (s.note sp k old p).cluster j = s.cluster j := rfl
@[simp] theorem partition_note (s : State) (sp k : Nat) (old : List Byte) (p : Path) (j : Nat) : (s.note sp k old p).partition j = s.partition j := rfl
@[simp] theorem queue_note (s : State) (sp k : Nat) (old : List Byte) (p : Path) (j : Nat) : (s.note sp k old p).queue j = s.queue j := rfl
@[simp] theorem sched_note (s : State) (sp k : Nat) (old : List Byte) (p : Path) (j : Nat) : (s.note sp k old p).sched j = s.sched j := rfl
@[simp] theorem launch_note (s : State) (sp k : Nat) (old : List Byte) (p : Path) (j : Nat) : (s.note sp k old p).launch? j = s.launch? j := rfl
@[simp] theorem cmd_note (s : State) (sp k : Nat) (old : List Byte) (p : Path) (j : Nat) : (s.note sp k old p).cmd? j = s.cmd? j := rfl

/-! ### unveil -/

@[simp] theorem unveil_free (s : State) (p q : Path) (sc c b t : Nat) : (s.unveil p q sc c b t).free = s.free := rfl
@[simp] theorem unveil_latch (s : State) (p q : Path) (sc c b t : Nat) : (s.unveil p q sc c b t).latch = s.latch := rfl
@[simp] theorem unveil_agenda (s : State) (p q : Path) (sc c b t : Nat) : (s.unveil p q sc c b t).agenda = s.agenda := rfl
@[simp] theorem unveil_seq (s : State) (p q : Path) (sc c b t : Nat) : (s.unveil p q sc c b t).seq = s.seq := rfl
@[simp] theorem unveil_off (s : State) (p q : Path) (sc c b t : Nat) : (s.unveil p q sc c b t).off = s.off := rfl
@[simp] theorem unveil_ptime (s : State) (p q : Path) (sc c b t : Nat) : (s.unveil p q sc c b t).ptime = s.ptime := rfl
@[simp] theorem unveil_mem (s : State) (p q : Path) (sc c b t : Nat) : (s.unveil p q sc c b t).mem = s.mem := rfl
@[simp] theorem unveil_poison (s : State) (p q : Path) (sc c b t : Nat) : (s.unveil p q sc c b t).poison = s.poison := rfl
@[simp] theorem unveil_msc (s : State) (p q : Path) (sc c b t : Nat) : (s.unveil p q sc c b t).msc = s.msc := rfl
@[simp] theorem unveil_behind (s : State) (p q : Path) (sc c b t : Nat) : (s.unveil p q sc c b t).behind = s.behind := rfl
@[simp] theorem unveil_blocks (s : State) (p q : Path) (sc c b t : Nat) : (s.unveil p q sc c b t).blocks = s.blocks := rfl
@[simp] theorem unveil_lcache (s : State) (p q : Path) (sc c b t : Nat) : (s.unveil p q sc c b t).lcache = s.lcache := rfl
@[simp] theorem unveil_icache (s : State) (p q : Path) (sc c b t : Nat) : (s.unveil p q sc c b t).icache = s.icache := rfl
@[simp] theorem unveil_tlb (s : State) (p q : Path) (sc c b t : Nat) : (s.unveil p q sc c b t).tlb = s.tlb := rfl
@[simp] theorem unveil_xinv (s : State) (p q : Path) (sc c b t : Nat) : (s.unveil p q sc c b t).xinv = s.xinv := rfl
@[simp] theorem unveil_regions (s : State) (p q : Path) (sc c b t : Nat) : (s.unveil p q sc c b t).regions = s.regions := rfl
@[simp] theorem unveil_cmds (s : State) (p q : Path) (sc c b t : Nat) : (s.unveil p q sc c b t).cmds = s.cmds := rfl
@[simp] theorem unveil_sections (s : State) (p q : Path) (sc c b t : Nat) : (s.unveil p q sc c b t).sections = s.sections := rfl
@[simp] theorem unveil_versions (s : State) (p q : Path) (sc c b t : Nat) : (s.unveil p q sc c b t).versions = s.versions := rfl
@[simp] theorem unveil_clusters (s : State) (p q : Path) (sc c b t : Nat) : (s.unveil p q sc c b t).clusters = s.clusters := rfl
@[simp] theorem unveil_spares (s : State) (p q : Path) (sc c b t : Nat) : (s.unveil p q sc c b t).spares = s.spares := rfl
@[simp] theorem unveil_partitions (s : State) (p q : Path) (sc c b t : Nat) : (s.unveil p q sc c b t).partitions = s.partitions := rfl
@[simp] theorem unveil_contexts (s : State) (p q : Path) (sc c b t : Nat) : (s.unveil p q sc c b t).contexts = s.contexts := rfl
@[simp] theorem unveil_qtbase (s : State) (p q : Path) (sc c b t : Nat) : (s.unveil p q sc c b t).qtbase = s.qtbase := rfl
@[simp] theorem unveil_queues (s : State) (p q : Path) (sc c b t : Nat) : (s.unveil p q sc c b t).queues = s.queues := rfl
@[simp] theorem unveil_accepted (s : State) (p q : Path) (sc c b t : Nat) : (s.unveil p q sc c b t).accepted = s.accepted := rfl
@[simp] theorem unveil_launches (s : State) (p q : Path) (sc c b t : Nat) : (s.unveil p q sc c b t).launches = s.launches := rfl
@[simp] theorem unveil_requests (s : State) (p q : Path) (sc c b t : Nat) : (s.unveil p q sc c b t).requests = s.requests := rfl
@[simp] theorem unveil_answers (s : State) (p q : Path) (sc c b t : Nat) : (s.unveil p q sc c b t).answers = s.answers := rfl
@[simp] theorem unveil_reports (s : State) (p q : Path) (sc c b t : Nat) : (s.unveil p q sc c b t).reports = s.reports := rfl
@[simp] theorem unveil_gangs (s : State) (p q : Path) (sc c b t : Nat) : (s.unveil p q sc c b t).gangs = s.gangs := rfl
@[simp] theorem unveil_served (s : State) (p q : Path) (sc c b t : Nat) : (s.unveil p q sc c b t).served = s.served := rfl
@[simp] theorem unveil_scheds (s : State) (p q : Path) (sc c b t : Nat) : (s.unveil p q sc c b t).scheds = s.scheds := rfl
@[simp] theorem unveil_replaying (s : State) (p q : Path) (sc c b t : Nat) : (s.unveil p q sc c b t).replaying = s.replaying := rfl
@[simp] theorem unveil_hpErr (s : State) (p q : Path) (sc c b t : Nat) : (s.unveil p q sc c b t).hpErr = s.hpErr := rfl
@[simp] theorem unveil_therm (s : State) (p q : Path) (sc c b t : Nat) : (s.unveil p q sc c b t).therm = s.therm := rfl
@[simp] theorem unveil_fw (s : State) (p q : Path) (sc c b t : Nat) : (s.unveil p q sc c b t).fw = s.fw := rfl
@[simp] theorem unveil_pod (s : State) (p q : Path) (sc c b t : Nat) : (s.unveil p q sc c b t).pod = s.pod := rfl
@[simp] theorem byte_unveil (s : State) (p q : Path) (sc c b t : Nat) (a : Nat) : (s.unveil p q sc c b t).byte a = s.byte a := rfl
@[simp] theorem block_unveil (s : State) (p q : Path) (sc c b t : Nat) (j : Nat) : (s.unveil p q sc c b t).block? j = s.block? j := rfl
@[simp] theorem thread_unveil (s : State) (p q : Path) (sc c b t : Nat) (j i : Nat) : (s.unveil p q sc c b t).thread? j i = s.thread? j i := rfl
@[simp] theorem ctx_unveil (s : State) (p q : Path) (sc c b t : Nat) (j : Nat) : (s.unveil p q sc c b t).ctx j = s.ctx j := rfl
@[simp] theorem cluster_unveil (s : State) (p q : Path) (sc c b t : Nat) (j : Nat) : (s.unveil p q sc c b t).cluster j = s.cluster j := rfl
@[simp] theorem partition_unveil (s : State) (p q : Path) (sc c b t : Nat) (j : Nat) : (s.unveil p q sc c b t).partition j = s.partition j := rfl
@[simp] theorem queue_unveil (s : State) (p q : Path) (sc c b t : Nat) (j : Nat) : (s.unveil p q sc c b t).queue j = s.queue j := rfl
@[simp] theorem sched_unveil (s : State) (p q : Path) (sc c b t : Nat) (j : Nat) : (s.unveil p q sc c b t).sched j = s.sched j := rfl
@[simp] theorem launch_unveil (s : State) (p q : Path) (sc c b t : Nat) (j : Nat) : (s.unveil p q sc c b t).launch? j = s.launch? j := rfl
@[simp] theorem cmd_unveil (s : State) (p q : Path) (sc c b t : Nat) (j : Nat) : (s.unveil p q sc c b t).cmd? j = s.cmd? j := rfl

/-! ### tellAll -/

@[simp] theorem tellAll_free (s : State) (p : Stale → Bool) (w : Knower) (n : Nat) : (s.tellAll p w n).free = s.free := rfl
@[simp] theorem tellAll_latch (s : State) (p : Stale → Bool) (w : Knower) (n : Nat) : (s.tellAll p w n).latch = s.latch := rfl
@[simp] theorem tellAll_agenda (s : State) (p : Stale → Bool) (w : Knower) (n : Nat) : (s.tellAll p w n).agenda = s.agenda := rfl
@[simp] theorem tellAll_seq (s : State) (p : Stale → Bool) (w : Knower) (n : Nat) : (s.tellAll p w n).seq = s.seq := rfl
@[simp] theorem tellAll_off (s : State) (p : Stale → Bool) (w : Knower) (n : Nat) : (s.tellAll p w n).off = s.off := rfl
@[simp] theorem tellAll_ptime (s : State) (p : Stale → Bool) (w : Knower) (n : Nat) : (s.tellAll p w n).ptime = s.ptime := rfl
@[simp] theorem tellAll_mem (s : State) (p : Stale → Bool) (w : Knower) (n : Nat) : (s.tellAll p w n).mem = s.mem := rfl
@[simp] theorem tellAll_poison (s : State) (p : Stale → Bool) (w : Knower) (n : Nat) : (s.tellAll p w n).poison = s.poison := rfl
@[simp] theorem tellAll_msc (s : State) (p : Stale → Bool) (w : Knower) (n : Nat) : (s.tellAll p w n).msc = s.msc := rfl
@[simp] theorem tellAll_behind (s : State) (p : Stale → Bool) (w : Knower) (n : Nat) : (s.tellAll p w n).behind = s.behind := rfl
@[simp] theorem tellAll_blocks (s : State) (p : Stale → Bool) (w : Knower) (n : Nat) : (s.tellAll p w n).blocks = s.blocks := rfl
@[simp] theorem tellAll_lcache (s : State) (p : Stale → Bool) (w : Knower) (n : Nat) : (s.tellAll p w n).lcache = s.lcache := rfl
@[simp] theorem tellAll_icache (s : State) (p : Stale → Bool) (w : Knower) (n : Nat) : (s.tellAll p w n).icache = s.icache := rfl
@[simp] theorem tellAll_tlb (s : State) (p : Stale → Bool) (w : Knower) (n : Nat) : (s.tellAll p w n).tlb = s.tlb := rfl
@[simp] theorem tellAll_xinv (s : State) (p : Stale → Bool) (w : Knower) (n : Nat) : (s.tellAll p w n).xinv = s.xinv := rfl
@[simp] theorem tellAll_regions (s : State) (p : Stale → Bool) (w : Knower) (n : Nat) : (s.tellAll p w n).regions = s.regions := rfl
@[simp] theorem tellAll_cmds (s : State) (p : Stale → Bool) (w : Knower) (n : Nat) : (s.tellAll p w n).cmds = s.cmds := rfl
@[simp] theorem tellAll_sections (s : State) (p : Stale → Bool) (w : Knower) (n : Nat) : (s.tellAll p w n).sections = s.sections := rfl
@[simp] theorem tellAll_versions (s : State) (p : Stale → Bool) (w : Knower) (n : Nat) : (s.tellAll p w n).versions = s.versions := rfl
@[simp] theorem tellAll_clusters (s : State) (p : Stale → Bool) (w : Knower) (n : Nat) : (s.tellAll p w n).clusters = s.clusters := rfl
@[simp] theorem tellAll_spares (s : State) (p : Stale → Bool) (w : Knower) (n : Nat) : (s.tellAll p w n).spares = s.spares := rfl
@[simp] theorem tellAll_partitions (s : State) (p : Stale → Bool) (w : Knower) (n : Nat) : (s.tellAll p w n).partitions = s.partitions := rfl
@[simp] theorem tellAll_contexts (s : State) (p : Stale → Bool) (w : Knower) (n : Nat) : (s.tellAll p w n).contexts = s.contexts := rfl
@[simp] theorem tellAll_qtbase (s : State) (p : Stale → Bool) (w : Knower) (n : Nat) : (s.tellAll p w n).qtbase = s.qtbase := rfl
@[simp] theorem tellAll_queues (s : State) (p : Stale → Bool) (w : Knower) (n : Nat) : (s.tellAll p w n).queues = s.queues := rfl
@[simp] theorem tellAll_accepted (s : State) (p : Stale → Bool) (w : Knower) (n : Nat) : (s.tellAll p w n).accepted = s.accepted := rfl
@[simp] theorem tellAll_launches (s : State) (p : Stale → Bool) (w : Knower) (n : Nat) : (s.tellAll p w n).launches = s.launches := rfl
@[simp] theorem tellAll_requests (s : State) (p : Stale → Bool) (w : Knower) (n : Nat) : (s.tellAll p w n).requests = s.requests := rfl
@[simp] theorem tellAll_answers (s : State) (p : Stale → Bool) (w : Knower) (n : Nat) : (s.tellAll p w n).answers = s.answers := rfl
@[simp] theorem tellAll_reports (s : State) (p : Stale → Bool) (w : Knower) (n : Nat) : (s.tellAll p w n).reports = s.reports := rfl
@[simp] theorem tellAll_gangs (s : State) (p : Stale → Bool) (w : Knower) (n : Nat) : (s.tellAll p w n).gangs = s.gangs := rfl
@[simp] theorem tellAll_served (s : State) (p : Stale → Bool) (w : Knower) (n : Nat) : (s.tellAll p w n).served = s.served := rfl
@[simp] theorem tellAll_scheds (s : State) (p : Stale → Bool) (w : Knower) (n : Nat) : (s.tellAll p w n).scheds = s.scheds := rfl
@[simp] theorem tellAll_replaying (s : State) (p : Stale → Bool) (w : Knower) (n : Nat) : (s.tellAll p w n).replaying = s.replaying := rfl
@[simp] theorem tellAll_hpErr (s : State) (p : Stale → Bool) (w : Knower) (n : Nat) : (s.tellAll p w n).hpErr = s.hpErr := rfl
@[simp] theorem tellAll_therm (s : State) (p : Stale → Bool) (w : Knower) (n : Nat) : (s.tellAll p w n).therm = s.therm := rfl
@[simp] theorem tellAll_fw (s : State) (p : Stale → Bool) (w : Knower) (n : Nat) : (s.tellAll p w n).fw = s.fw := rfl
@[simp] theorem tellAll_pod (s : State) (p : Stale → Bool) (w : Knower) (n : Nat) : (s.tellAll p w n).pod = s.pod := rfl
@[simp] theorem byte_tellAll (s : State) (p : Stale → Bool) (w : Knower) (n : Nat) (a : Nat) : (s.tellAll p w n).byte a = s.byte a := rfl
@[simp] theorem block_tellAll (s : State) (p : Stale → Bool) (w : Knower) (n : Nat) (j : Nat) : (s.tellAll p w n).block? j = s.block? j := rfl
@[simp] theorem thread_tellAll (s : State) (p : Stale → Bool) (w : Knower) (n : Nat) (j i : Nat) : (s.tellAll p w n).thread? j i = s.thread? j i := rfl
@[simp] theorem ctx_tellAll (s : State) (p : Stale → Bool) (w : Knower) (n : Nat) (j : Nat) : (s.tellAll p w n).ctx j = s.ctx j := rfl
@[simp] theorem cluster_tellAll (s : State) (p : Stale → Bool) (w : Knower) (n : Nat) (j : Nat) : (s.tellAll p w n).cluster j = s.cluster j := rfl
@[simp] theorem partition_tellAll (s : State) (p : Stale → Bool) (w : Knower) (n : Nat) (j : Nat) : (s.tellAll p w n).partition j = s.partition j := rfl
@[simp] theorem queue_tellAll (s : State) (p : Stale → Bool) (w : Knower) (n : Nat) (j : Nat) : (s.tellAll p w n).queue j = s.queue j := rfl
@[simp] theorem sched_tellAll (s : State) (p : Stale → Bool) (w : Knower) (n : Nat) (j : Nat) : (s.tellAll p w n).sched j = s.sched j := rfl
@[simp] theorem launch_tellAll (s : State) (p : Stale → Bool) (w : Knower) (n : Nat) (j : Nat) : (s.tellAll p w n).launch? j = s.launch? j := rfl
@[simp] theorem cmd_tellAll (s : State) (p : Stale → Bool) (w : Knower) (n : Nat) (j : Nat) : (s.tellAll p w n).cmd? j = s.cmd? j := rfl

/-! ### credit -/

@[simp] theorem credit_free (s : State) (n : Nat) (c : Option Nat) (ks : List (Knower × Nat)) : (s.credit n c ks).free = s.free := rfl
@[simp] theorem credit_latch (s : State) (n : Nat) (c : Option Nat) (ks : List (Knower × Nat)) : (s.credit n c ks).latch = s.latch := rfl
@[simp] theorem credit_agenda (s : State) (n : Nat) (c : Option Nat) (ks : List (Knower × Nat)) : (s.credit n c ks).agenda = s.agenda := rfl
@[simp] theorem credit_seq (s : State) (n : Nat) (c : Option Nat) (ks : List (Knower × Nat)) : (s.credit n c ks).seq = s.seq := rfl
@[simp] theorem credit_off (s : State) (n : Nat) (c : Option Nat) (ks : List (Knower × Nat)) : (s.credit n c ks).off = s.off := rfl
@[simp] theorem credit_ptime (s : State) (n : Nat) (c : Option Nat) (ks : List (Knower × Nat)) : (s.credit n c ks).ptime = s.ptime := rfl
@[simp] theorem credit_mem (s : State) (n : Nat) (c : Option Nat) (ks : List (Knower × Nat)) : (s.credit n c ks).mem = s.mem := rfl
@[simp] theorem credit_poison (s : State) (n : Nat) (c : Option Nat) (ks : List (Knower × Nat)) : (s.credit n c ks).poison = s.poison := rfl
@[simp] theorem credit_msc (s : State) (n : Nat) (c : Option Nat) (ks : List (Knower × Nat)) : (s.credit n c ks).msc = s.msc := rfl
@[simp] theorem credit_behind (s : State) (n : Nat) (c : Option Nat) (ks : List (Knower × Nat)) : (s.credit n c ks).behind = s.behind := rfl
@[simp] theorem credit_blocks (s : State) (n : Nat) (c : Option Nat) (ks : List (Knower × Nat)) : (s.credit n c ks).blocks = s.blocks := rfl
@[simp] theorem credit_lcache (s : State) (n : Nat) (c : Option Nat) (ks : List (Knower × Nat)) : (s.credit n c ks).lcache = s.lcache := rfl
@[simp] theorem credit_icache (s : State) (n : Nat) (c : Option Nat) (ks : List (Knower × Nat)) : (s.credit n c ks).icache = s.icache := rfl
@[simp] theorem credit_tlb (s : State) (n : Nat) (c : Option Nat) (ks : List (Knower × Nat)) : (s.credit n c ks).tlb = s.tlb := rfl
@[simp] theorem credit_xinv (s : State) (n : Nat) (c : Option Nat) (ks : List (Knower × Nat)) : (s.credit n c ks).xinv = s.xinv := rfl
@[simp] theorem credit_regions (s : State) (n : Nat) (c : Option Nat) (ks : List (Knower × Nat)) : (s.credit n c ks).regions = s.regions := rfl
@[simp] theorem credit_cmds (s : State) (n : Nat) (c : Option Nat) (ks : List (Knower × Nat)) : (s.credit n c ks).cmds = s.cmds := rfl
@[simp] theorem credit_sections (s : State) (n : Nat) (c : Option Nat) (ks : List (Knower × Nat)) : (s.credit n c ks).sections = s.sections := rfl
@[simp] theorem credit_versions (s : State) (n : Nat) (c : Option Nat) (ks : List (Knower × Nat)) : (s.credit n c ks).versions = s.versions := rfl
@[simp] theorem credit_clusters (s : State) (n : Nat) (c : Option Nat) (ks : List (Knower × Nat)) : (s.credit n c ks).clusters = s.clusters := rfl
@[simp] theorem credit_spares (s : State) (n : Nat) (c : Option Nat) (ks : List (Knower × Nat)) : (s.credit n c ks).spares = s.spares := rfl
@[simp] theorem credit_partitions (s : State) (n : Nat) (c : Option Nat) (ks : List (Knower × Nat)) : (s.credit n c ks).partitions = s.partitions := rfl
@[simp] theorem credit_contexts (s : State) (n : Nat) (c : Option Nat) (ks : List (Knower × Nat)) : (s.credit n c ks).contexts = s.contexts := rfl
@[simp] theorem credit_qtbase (s : State) (n : Nat) (c : Option Nat) (ks : List (Knower × Nat)) : (s.credit n c ks).qtbase = s.qtbase := rfl
@[simp] theorem credit_queues (s : State) (n : Nat) (c : Option Nat) (ks : List (Knower × Nat)) : (s.credit n c ks).queues = s.queues := rfl
@[simp] theorem credit_accepted (s : State) (n : Nat) (c : Option Nat) (ks : List (Knower × Nat)) : (s.credit n c ks).accepted = s.accepted := rfl
@[simp] theorem credit_launches (s : State) (n : Nat) (c : Option Nat) (ks : List (Knower × Nat)) : (s.credit n c ks).launches = s.launches := rfl
@[simp] theorem credit_requests (s : State) (n : Nat) (c : Option Nat) (ks : List (Knower × Nat)) : (s.credit n c ks).requests = s.requests := rfl
@[simp] theorem credit_answers (s : State) (n : Nat) (c : Option Nat) (ks : List (Knower × Nat)) : (s.credit n c ks).answers = s.answers := rfl
@[simp] theorem credit_reports (s : State) (n : Nat) (c : Option Nat) (ks : List (Knower × Nat)) : (s.credit n c ks).reports = s.reports := rfl
@[simp] theorem credit_gangs (s : State) (n : Nat) (c : Option Nat) (ks : List (Knower × Nat)) : (s.credit n c ks).gangs = s.gangs := rfl
@[simp] theorem credit_served (s : State) (n : Nat) (c : Option Nat) (ks : List (Knower × Nat)) : (s.credit n c ks).served = s.served := rfl
@[simp] theorem credit_scheds (s : State) (n : Nat) (c : Option Nat) (ks : List (Knower × Nat)) : (s.credit n c ks).scheds = s.scheds := rfl
@[simp] theorem credit_replaying (s : State) (n : Nat) (c : Option Nat) (ks : List (Knower × Nat)) : (s.credit n c ks).replaying = s.replaying := rfl
@[simp] theorem credit_hpErr (s : State) (n : Nat) (c : Option Nat) (ks : List (Knower × Nat)) : (s.credit n c ks).hpErr = s.hpErr := rfl
@[simp] theorem credit_therm (s : State) (n : Nat) (c : Option Nat) (ks : List (Knower × Nat)) : (s.credit n c ks).therm = s.therm := rfl
@[simp] theorem credit_fw (s : State) (n : Nat) (c : Option Nat) (ks : List (Knower × Nat)) : (s.credit n c ks).fw = s.fw := rfl
@[simp] theorem credit_pod (s : State) (n : Nat) (c : Option Nat) (ks : List (Knower × Nat)) : (s.credit n c ks).pod = s.pod := rfl
@[simp] theorem byte_credit (s : State) (n : Nat) (c : Option Nat) (ks : List (Knower × Nat)) (a : Nat) : (s.credit n c ks).byte a = s.byte a := rfl
@[simp] theorem block_credit (s : State) (n : Nat) (c : Option Nat) (ks : List (Knower × Nat)) (j : Nat) : (s.credit n c ks).block? j = s.block? j := rfl
@[simp] theorem thread_credit (s : State) (n : Nat) (c : Option Nat) (ks : List (Knower × Nat)) (j i : Nat) : (s.credit n c ks).thread? j i = s.thread? j i := rfl
@[simp] theorem ctx_credit (s : State) (n : Nat) (c : Option Nat) (ks : List (Knower × Nat)) (j : Nat) : (s.credit n c ks).ctx j = s.ctx j := rfl
@[simp] theorem cluster_credit (s : State) (n : Nat) (c : Option Nat) (ks : List (Knower × Nat)) (j : Nat) : (s.credit n c ks).cluster j = s.cluster j := rfl
@[simp] theorem partition_credit (s : State) (n : Nat) (c : Option Nat) (ks : List (Knower × Nat)) (j : Nat) : (s.credit n c ks).partition j = s.partition j := rfl
@[simp] theorem queue_credit (s : State) (n : Nat) (c : Option Nat) (ks : List (Knower × Nat)) (j : Nat) : (s.credit n c ks).queue j = s.queue j := rfl
@[simp] theorem sched_credit (s : State) (n : Nat) (c : Option Nat) (ks : List (Knower × Nat)) (j : Nat) : (s.credit n c ks).sched j = s.sched j := rfl
@[simp] theorem launch_credit (s : State) (n : Nat) (c : Option Nat) (ks : List (Knower × Nat)) (j : Nat) : (s.credit n c ks).launch? j = s.launch? j := rfl
@[simp] theorem cmd_credit (s : State) (n : Nat) (c : Option Nat) (ks : List (Knower × Nat)) (j : Nat) : (s.credit n c ks).cmd? j = s.cmd? j := rfl

/-! ### forgetBlock -/

@[simp] theorem forgetBlock_free (s : State) (b : Nat) : (s.forgetBlock b).free = s.free := rfl
@[simp] theorem forgetBlock_latch (s : State) (b : Nat) : (s.forgetBlock b).latch = s.latch := rfl
@[simp] theorem forgetBlock_agenda (s : State) (b : Nat) : (s.forgetBlock b).agenda = s.agenda := rfl
@[simp] theorem forgetBlock_seq (s : State) (b : Nat) : (s.forgetBlock b).seq = s.seq := rfl
@[simp] theorem forgetBlock_off (s : State) (b : Nat) : (s.forgetBlock b).off = s.off := rfl
@[simp] theorem forgetBlock_ptime (s : State) (b : Nat) : (s.forgetBlock b).ptime = s.ptime := rfl
@[simp] theorem forgetBlock_mem (s : State) (b : Nat) : (s.forgetBlock b).mem = s.mem := rfl
@[simp] theorem forgetBlock_poison (s : State) (b : Nat) : (s.forgetBlock b).poison = s.poison := rfl
@[simp] theorem forgetBlock_msc (s : State) (b : Nat) : (s.forgetBlock b).msc = s.msc := rfl
@[simp] theorem forgetBlock_behind (s : State) (b : Nat) : (s.forgetBlock b).behind = s.behind := rfl
@[simp] theorem forgetBlock_blocks (s : State) (b : Nat) : (s.forgetBlock b).blocks = s.blocks := rfl
@[simp] theorem forgetBlock_lcache (s : State) (b : Nat) : (s.forgetBlock b).lcache = s.lcache := rfl
@[simp] theorem forgetBlock_icache (s : State) (b : Nat) : (s.forgetBlock b).icache = s.icache := rfl
@[simp] theorem forgetBlock_tlb (s : State) (b : Nat) : (s.forgetBlock b).tlb = s.tlb := rfl
@[simp] theorem forgetBlock_xinv (s : State) (b : Nat) : (s.forgetBlock b).xinv = s.xinv := rfl
@[simp] theorem forgetBlock_regions (s : State) (b : Nat) : (s.forgetBlock b).regions = s.regions := rfl
@[simp] theorem forgetBlock_cmds (s : State) (b : Nat) : (s.forgetBlock b).cmds = s.cmds := rfl
@[simp] theorem forgetBlock_sections (s : State) (b : Nat) : (s.forgetBlock b).sections = s.sections := rfl
@[simp] theorem forgetBlock_versions (s : State) (b : Nat) : (s.forgetBlock b).versions = s.versions := rfl
@[simp] theorem forgetBlock_clusters (s : State) (b : Nat) : (s.forgetBlock b).clusters = s.clusters := rfl
@[simp] theorem forgetBlock_spares (s : State) (b : Nat) : (s.forgetBlock b).spares = s.spares := rfl
@[simp] theorem forgetBlock_partitions (s : State) (b : Nat) : (s.forgetBlock b).partitions = s.partitions := rfl
@[simp] theorem forgetBlock_contexts (s : State) (b : Nat) : (s.forgetBlock b).contexts = s.contexts := rfl
@[simp] theorem forgetBlock_qtbase (s : State) (b : Nat) : (s.forgetBlock b).qtbase = s.qtbase := rfl
@[simp] theorem forgetBlock_queues (s : State) (b : Nat) : (s.forgetBlock b).queues = s.queues := rfl
@[simp] theorem forgetBlock_accepted (s : State) (b : Nat) : (s.forgetBlock b).accepted = s.accepted := rfl
@[simp] theorem forgetBlock_launches (s : State) (b : Nat) : (s.forgetBlock b).launches = s.launches := rfl
@[simp] theorem forgetBlock_requests (s : State) (b : Nat) : (s.forgetBlock b).requests = s.requests := rfl
@[simp] theorem forgetBlock_answers (s : State) (b : Nat) : (s.forgetBlock b).answers = s.answers := rfl
@[simp] theorem forgetBlock_reports (s : State) (b : Nat) : (s.forgetBlock b).reports = s.reports := rfl
@[simp] theorem forgetBlock_gangs (s : State) (b : Nat) : (s.forgetBlock b).gangs = s.gangs := rfl
@[simp] theorem forgetBlock_served (s : State) (b : Nat) : (s.forgetBlock b).served = s.served := rfl
@[simp] theorem forgetBlock_scheds (s : State) (b : Nat) : (s.forgetBlock b).scheds = s.scheds := rfl
@[simp] theorem forgetBlock_replaying (s : State) (b : Nat) : (s.forgetBlock b).replaying = s.replaying := rfl
@[simp] theorem forgetBlock_hpErr (s : State) (b : Nat) : (s.forgetBlock b).hpErr = s.hpErr := rfl
@[simp] theorem forgetBlock_therm (s : State) (b : Nat) : (s.forgetBlock b).therm = s.therm := rfl
@[simp] theorem forgetBlock_fw (s : State) (b : Nat) : (s.forgetBlock b).fw = s.fw := rfl
@[simp] theorem forgetBlock_pod (s : State) (b : Nat) : (s.forgetBlock b).pod = s.pod := rfl
@[simp] theorem byte_forgetBlock (s : State) (b : Nat) (a : Nat) : (s.forgetBlock b).byte a = s.byte a := rfl
@[simp] theorem block_forgetBlock (s : State) (b : Nat) (j : Nat) : (s.forgetBlock b).block? j = s.block? j := rfl
@[simp] theorem thread_forgetBlock (s : State) (b : Nat) (j i : Nat) : (s.forgetBlock b).thread? j i = s.thread? j i := rfl
@[simp] theorem ctx_forgetBlock (s : State) (b : Nat) (j : Nat) : (s.forgetBlock b).ctx j = s.ctx j := rfl
@[simp] theorem cluster_forgetBlock (s : State) (b : Nat) (j : Nat) : (s.forgetBlock b).cluster j = s.cluster j := rfl
@[simp] theorem partition_forgetBlock (s : State) (b : Nat) (j : Nat) : (s.forgetBlock b).partition j = s.partition j := rfl
@[simp] theorem queue_forgetBlock (s : State) (b : Nat) (j : Nat) : (s.forgetBlock b).queue j = s.queue j := rfl
@[simp] theorem sched_forgetBlock (s : State) (b : Nat) (j : Nat) : (s.forgetBlock b).sched j = s.sched j := rfl
@[simp] theorem launch_forgetBlock (s : State) (b : Nat) (j : Nat) : (s.forgetBlock b).launch? j = s.launch? j := rfl
@[simp] theorem cmd_forgetBlock (s : State) (b : Nat) (j : Nat) : (s.forgetBlock b).cmd? j = s.cmd? j := rfl

/-! ### setLines -/

@[simp] theorem setLines_free (s : State) (c : Nat) (ls : NMap Line) : (s.setLines c ls).free = s.free := rfl
@[simp] theorem setLines_latch (s : State) (c : Nat) (ls : NMap Line) : (s.setLines c ls).latch = s.latch := rfl
@[simp] theorem setLines_agenda (s : State) (c : Nat) (ls : NMap Line) : (s.setLines c ls).agenda = s.agenda := rfl
@[simp] theorem setLines_seq (s : State) (c : Nat) (ls : NMap Line) : (s.setLines c ls).seq = s.seq := rfl
@[simp] theorem setLines_off (s : State) (c : Nat) (ls : NMap Line) : (s.setLines c ls).off = s.off := rfl
@[simp] theorem setLines_ptime (s : State) (c : Nat) (ls : NMap Line) : (s.setLines c ls).ptime = s.ptime := rfl
@[simp] theorem setLines_mem (s : State) (c : Nat) (ls : NMap Line) : (s.setLines c ls).mem = s.mem := rfl
@[simp] theorem setLines_poison (s : State) (c : Nat) (ls : NMap Line) : (s.setLines c ls).poison = s.poison := rfl
@[simp] theorem setLines_msc (s : State) (c : Nat) (ls : NMap Line) : (s.setLines c ls).msc = s.msc := rfl
@[simp] theorem setLines_behind (s : State) (c : Nat) (ls : NMap Line) : (s.setLines c ls).behind = s.behind := rfl
@[simp] theorem setLines_stale (s : State) (c : Nat) (ls : NMap Line) : (s.setLines c ls).stale = s.stale := rfl
@[simp] theorem setLines_blocks (s : State) (c : Nat) (ls : NMap Line) : (s.setLines c ls).blocks = s.blocks := rfl
@[simp] theorem setLines_icache (s : State) (c : Nat) (ls : NMap Line) : (s.setLines c ls).icache = s.icache := rfl
@[simp] theorem setLines_tlb (s : State) (c : Nat) (ls : NMap Line) : (s.setLines c ls).tlb = s.tlb := rfl
@[simp] theorem setLines_xinv (s : State) (c : Nat) (ls : NMap Line) : (s.setLines c ls).xinv = s.xinv := rfl
@[simp] theorem setLines_regions (s : State) (c : Nat) (ls : NMap Line) : (s.setLines c ls).regions = s.regions := rfl
@[simp] theorem setLines_cmds (s : State) (c : Nat) (ls : NMap Line) : (s.setLines c ls).cmds = s.cmds := rfl
@[simp] theorem setLines_sections (s : State) (c : Nat) (ls : NMap Line) : (s.setLines c ls).sections = s.sections := rfl
@[simp] theorem setLines_versions (s : State) (c : Nat) (ls : NMap Line) : (s.setLines c ls).versions = s.versions := rfl
@[simp] theorem setLines_clusters (s : State) (c : Nat) (ls : NMap Line) : (s.setLines c ls).clusters = s.clusters := rfl
@[simp] theorem setLines_spares (s : State) (c : Nat) (ls : NMap Line) : (s.setLines c ls).spares = s.spares := rfl
@[simp] theorem setLines_partitions (s : State) (c : Nat) (ls : NMap Line) : (s.setLines c ls).partitions = s.partitions := rfl
@[simp] theorem setLines_contexts (s : State) (c : Nat) (ls : NMap Line) : (s.setLines c ls).contexts = s.contexts := rfl
@[simp] theorem setLines_qtbase (s : State) (c : Nat) (ls : NMap Line) : (s.setLines c ls).qtbase = s.qtbase := rfl
@[simp] theorem setLines_queues (s : State) (c : Nat) (ls : NMap Line) : (s.setLines c ls).queues = s.queues := rfl
@[simp] theorem setLines_accepted (s : State) (c : Nat) (ls : NMap Line) : (s.setLines c ls).accepted = s.accepted := rfl
@[simp] theorem setLines_launches (s : State) (c : Nat) (ls : NMap Line) : (s.setLines c ls).launches = s.launches := rfl
@[simp] theorem setLines_requests (s : State) (c : Nat) (ls : NMap Line) : (s.setLines c ls).requests = s.requests := rfl
@[simp] theorem setLines_answers (s : State) (c : Nat) (ls : NMap Line) : (s.setLines c ls).answers = s.answers := rfl
@[simp] theorem setLines_reports (s : State) (c : Nat) (ls : NMap Line) : (s.setLines c ls).reports = s.reports := rfl
@[simp] theorem setLines_gangs (s : State) (c : Nat) (ls : NMap Line) : (s.setLines c ls).gangs = s.gangs := rfl
@[simp] theorem setLines_served (s : State) (c : Nat) (ls : NMap Line) : (s.setLines c ls).served = s.served := rfl
@[simp] theorem setLines_scheds (s : State) (c : Nat) (ls : NMap Line) : (s.setLines c ls).scheds = s.scheds := rfl
@[simp] theorem setLines_replaying (s : State) (c : Nat) (ls : NMap Line) : (s.setLines c ls).replaying = s.replaying := rfl
@[simp] theorem setLines_hpErr (s : State) (c : Nat) (ls : NMap Line) : (s.setLines c ls).hpErr = s.hpErr := rfl
@[simp] theorem setLines_therm (s : State) (c : Nat) (ls : NMap Line) : (s.setLines c ls).therm = s.therm := rfl
@[simp] theorem setLines_fw (s : State) (c : Nat) (ls : NMap Line) : (s.setLines c ls).fw = s.fw := rfl
@[simp] theorem setLines_pod (s : State) (c : Nat) (ls : NMap Line) : (s.setLines c ls).pod = s.pod := rfl
@[simp] theorem byte_setLines (s : State) (c : Nat) (ls : NMap Line) (a : Nat) : (s.setLines c ls).byte a = s.byte a := rfl
@[simp] theorem block_setLines (s : State) (c : Nat) (ls : NMap Line) (j : Nat) : (s.setLines c ls).block? j = s.block? j := rfl
@[simp] theorem thread_setLines (s : State) (c : Nat) (ls : NMap Line) (j i : Nat) : (s.setLines c ls).thread? j i = s.thread? j i := rfl
@[simp] theorem ctx_setLines (s : State) (c : Nat) (ls : NMap Line) (j : Nat) : (s.setLines c ls).ctx j = s.ctx j := rfl
@[simp] theorem cluster_setLines (s : State) (c : Nat) (ls : NMap Line) (j : Nat) : (s.setLines c ls).cluster j = s.cluster j := rfl
@[simp] theorem partition_setLines (s : State) (c : Nat) (ls : NMap Line) (j : Nat) : (s.setLines c ls).partition j = s.partition j := rfl
@[simp] theorem queue_setLines (s : State) (c : Nat) (ls : NMap Line) (j : Nat) : (s.setLines c ls).queue j = s.queue j := rfl
@[simp] theorem sched_setLines (s : State) (c : Nat) (ls : NMap Line) (j : Nat) : (s.setLines c ls).sched j = s.sched j := rfl
@[simp] theorem launch_setLines (s : State) (c : Nat) (ls : NMap Line) (j : Nat) : (s.setLines c ls).launch? j = s.launch? j := rfl
@[simp] theorem cmd_setLines (s : State) (c : Nat) (ls : NMap Line) (j : Nat) : (s.setLines c ls).cmd? j = s.cmd? j := rfl

/-! ### issueOp -/

@[simp] theorem issueOp_free (s : State) (b k : Nat) (c : Ctr) (pc : W32) (x : Act) (sl : Option Nat) : (s.issueOp b k c pc x sl).free = s.free := rfl
@[simp] theorem issueOp_latch (s : State) (b k : Nat) (c : Ctr) (pc : W32) (x : Act) (sl : Option Nat) : (s.issueOp b k c pc x sl).latch = s.latch := rfl
@[simp] theorem issueOp_agenda (s : State) (b k : Nat) (c : Ctr) (pc : W32) (x : Act) (sl : Option Nat) : (s.issueOp b k c pc x sl).agenda = s.agenda := rfl
@[simp] theorem issueOp_off (s : State) (b k : Nat) (c : Ctr) (pc : W32) (x : Act) (sl : Option Nat) : (s.issueOp b k c pc x sl).off = s.off := rfl
@[simp] theorem issueOp_ptime (s : State) (b k : Nat) (c : Ctr) (pc : W32) (x : Act) (sl : Option Nat) : (s.issueOp b k c pc x sl).ptime = s.ptime := rfl
@[simp] theorem issueOp_mem (s : State) (b k : Nat) (c : Ctr) (pc : W32) (x : Act) (sl : Option Nat) : (s.issueOp b k c pc x sl).mem = s.mem := rfl
@[simp] theorem issueOp_poison (s : State) (b k : Nat) (c : Ctr) (pc : W32) (x : Act) (sl : Option Nat) : (s.issueOp b k c pc x sl).poison = s.poison := rfl
@[simp] theorem issueOp_msc (s : State) (b k : Nat) (c : Ctr) (pc : W32) (x : Act) (sl : Option Nat) : (s.issueOp b k c pc x sl).msc = s.msc := rfl
@[simp] theorem issueOp_behind (s : State) (b k : Nat) (c : Ctr) (pc : W32) (x : Act) (sl : Option Nat) : (s.issueOp b k c pc x sl).behind = s.behind := rfl
@[simp] theorem issueOp_stale (s : State) (b k : Nat) (c : Ctr) (pc : W32) (x : Act) (sl : Option Nat) : (s.issueOp b k c pc x sl).stale = s.stale := rfl
@[simp] theorem issueOp_lcache (s : State) (b k : Nat) (c : Ctr) (pc : W32) (x : Act) (sl : Option Nat) : (s.issueOp b k c pc x sl).lcache = s.lcache := rfl
@[simp] theorem issueOp_icache (s : State) (b k : Nat) (c : Ctr) (pc : W32) (x : Act) (sl : Option Nat) : (s.issueOp b k c pc x sl).icache = s.icache := rfl
@[simp] theorem issueOp_tlb (s : State) (b k : Nat) (c : Ctr) (pc : W32) (x : Act) (sl : Option Nat) : (s.issueOp b k c pc x sl).tlb = s.tlb := rfl
@[simp] theorem issueOp_xinv (s : State) (b k : Nat) (c : Ctr) (pc : W32) (x : Act) (sl : Option Nat) : (s.issueOp b k c pc x sl).xinv = s.xinv := rfl
@[simp] theorem issueOp_regions (s : State) (b k : Nat) (c : Ctr) (pc : W32) (x : Act) (sl : Option Nat) : (s.issueOp b k c pc x sl).regions = s.regions := rfl
@[simp] theorem issueOp_cmds (s : State) (b k : Nat) (c : Ctr) (pc : W32) (x : Act) (sl : Option Nat) : (s.issueOp b k c pc x sl).cmds = s.cmds := rfl
@[simp] theorem issueOp_sections (s : State) (b k : Nat) (c : Ctr) (pc : W32) (x : Act) (sl : Option Nat) : (s.issueOp b k c pc x sl).sections = s.sections := rfl
@[simp] theorem issueOp_versions (s : State) (b k : Nat) (c : Ctr) (pc : W32) (x : Act) (sl : Option Nat) : (s.issueOp b k c pc x sl).versions = s.versions := rfl
@[simp] theorem issueOp_clusters (s : State) (b k : Nat) (c : Ctr) (pc : W32) (x : Act) (sl : Option Nat) : (s.issueOp b k c pc x sl).clusters = s.clusters := rfl
@[simp] theorem issueOp_spares (s : State) (b k : Nat) (c : Ctr) (pc : W32) (x : Act) (sl : Option Nat) : (s.issueOp b k c pc x sl).spares = s.spares := rfl
@[simp] theorem issueOp_partitions (s : State) (b k : Nat) (c : Ctr) (pc : W32) (x : Act) (sl : Option Nat) : (s.issueOp b k c pc x sl).partitions = s.partitions := rfl
@[simp] theorem issueOp_contexts (s : State) (b k : Nat) (c : Ctr) (pc : W32) (x : Act) (sl : Option Nat) : (s.issueOp b k c pc x sl).contexts = s.contexts := rfl
@[simp] theorem issueOp_qtbase (s : State) (b k : Nat) (c : Ctr) (pc : W32) (x : Act) (sl : Option Nat) : (s.issueOp b k c pc x sl).qtbase = s.qtbase := rfl
@[simp] theorem issueOp_queues (s : State) (b k : Nat) (c : Ctr) (pc : W32) (x : Act) (sl : Option Nat) : (s.issueOp b k c pc x sl).queues = s.queues := rfl
@[simp] theorem issueOp_accepted (s : State) (b k : Nat) (c : Ctr) (pc : W32) (x : Act) (sl : Option Nat) : (s.issueOp b k c pc x sl).accepted = s.accepted := rfl
@[simp] theorem issueOp_launches (s : State) (b k : Nat) (c : Ctr) (pc : W32) (x : Act) (sl : Option Nat) : (s.issueOp b k c pc x sl).launches = s.launches := rfl
@[simp] theorem issueOp_requests (s : State) (b k : Nat) (c : Ctr) (pc : W32) (x : Act) (sl : Option Nat) : (s.issueOp b k c pc x sl).requests = s.requests := rfl
@[simp] theorem issueOp_answers (s : State) (b k : Nat) (c : Ctr) (pc : W32) (x : Act) (sl : Option Nat) : (s.issueOp b k c pc x sl).answers = s.answers := rfl
@[simp] theorem issueOp_reports (s : State) (b k : Nat) (c : Ctr) (pc : W32) (x : Act) (sl : Option Nat) : (s.issueOp b k c pc x sl).reports = s.reports := rfl
@[simp] theorem issueOp_gangs (s : State) (b k : Nat) (c : Ctr) (pc : W32) (x : Act) (sl : Option Nat) : (s.issueOp b k c pc x sl).gangs = s.gangs := rfl
@[simp] theorem issueOp_served (s : State) (b k : Nat) (c : Ctr) (pc : W32) (x : Act) (sl : Option Nat) : (s.issueOp b k c pc x sl).served = s.served := rfl
@[simp] theorem issueOp_scheds (s : State) (b k : Nat) (c : Ctr) (pc : W32) (x : Act) (sl : Option Nat) : (s.issueOp b k c pc x sl).scheds = s.scheds := rfl
@[simp] theorem issueOp_replaying (s : State) (b k : Nat) (c : Ctr) (pc : W32) (x : Act) (sl : Option Nat) : (s.issueOp b k c pc x sl).replaying = s.replaying := rfl
@[simp] theorem issueOp_hpErr (s : State) (b k : Nat) (c : Ctr) (pc : W32) (x : Act) (sl : Option Nat) : (s.issueOp b k c pc x sl).hpErr = s.hpErr := rfl
@[simp] theorem issueOp_therm (s : State) (b k : Nat) (c : Ctr) (pc : W32) (x : Act) (sl : Option Nat) : (s.issueOp b k c pc x sl).therm = s.therm := rfl
@[simp] theorem issueOp_fw (s : State) (b k : Nat) (c : Ctr) (pc : W32) (x : Act) (sl : Option Nat) : (s.issueOp b k c pc x sl).fw = s.fw := rfl
@[simp] theorem issueOp_pod (s : State) (b k : Nat) (c : Ctr) (pc : W32) (x : Act) (sl : Option Nat) : (s.issueOp b k c pc x sl).pod = s.pod := rfl
@[simp] theorem byte_issueOp (s : State) (b k : Nat) (c : Ctr) (pc : W32) (x : Act) (sl : Option Nat) (a : Nat) : (s.issueOp b k c pc x sl).byte a = s.byte a := rfl
@[simp] theorem ctx_issueOp (s : State) (b k : Nat) (c : Ctr) (pc : W32) (x : Act) (sl : Option Nat) (j : Nat) : (s.issueOp b k c pc x sl).ctx j = s.ctx j := rfl
@[simp] theorem cluster_issueOp (s : State) (b k : Nat) (c : Ctr) (pc : W32) (x : Act) (sl : Option Nat) (j : Nat) : (s.issueOp b k c pc x sl).cluster j = s.cluster j := rfl
@[simp] theorem partition_issueOp (s : State) (b k : Nat) (c : Ctr) (pc : W32) (x : Act) (sl : Option Nat) (j : Nat) : (s.issueOp b k c pc x sl).partition j = s.partition j := rfl
@[simp] theorem queue_issueOp (s : State) (b k : Nat) (c : Ctr) (pc : W32) (x : Act) (sl : Option Nat) (j : Nat) : (s.issueOp b k c pc x sl).queue j = s.queue j := rfl
@[simp] theorem sched_issueOp (s : State) (b k : Nat) (c : Ctr) (pc : W32) (x : Act) (sl : Option Nat) (j : Nat) : (s.issueOp b k c pc x sl).sched j = s.sched j := rfl
@[simp] theorem launch_issueOp (s : State) (b k : Nat) (c : Ctr) (pc : W32) (x : Act) (sl : Option Nat) (j : Nat) : (s.issueOp b k c pc x sl).launch? j = s.launch? j := rfl
@[simp] theorem cmd_issueOp (s : State) (b k : Nat) (c : Ctr) (pc : W32) (x : Act) (sl : Option Nat) (j : Nat) : (s.issueOp b k c pc x sl).cmd? j = s.cmd? j := rfl

/-! ### tick -/

@[simp] theorem tick_latch (s : State) : s.tick.latch = s.latch := rfl
@[simp] theorem tick_agenda (s : State) : s.tick.agenda = s.agenda := rfl
@[simp] theorem tick_seq (s : State) : s.tick.seq = s.seq := rfl
@[simp] theorem tick_off (s : State) : s.tick.off = s.off := rfl
@[simp] theorem tick_ptime (s : State) : s.tick.ptime = s.ptime := rfl
@[simp] theorem tick_mem (s : State) : s.tick.mem = s.mem := rfl
@[simp] theorem tick_poison (s : State) : s.tick.poison = s.poison := rfl
@[simp] theorem tick_msc (s : State) : s.tick.msc = s.msc := rfl
@[simp] theorem tick_behind (s : State) : s.tick.behind = s.behind := rfl
@[simp] theorem tick_stale (s : State) : s.tick.stale = s.stale := rfl
@[simp] theorem tick_blocks (s : State) : s.tick.blocks = s.blocks := rfl
@[simp] theorem tick_lcache (s : State) : s.tick.lcache = s.lcache := rfl
@[simp] theorem tick_icache (s : State) : s.tick.icache = s.icache := rfl
@[simp] theorem tick_tlb (s : State) : s.tick.tlb = s.tlb := rfl
@[simp] theorem tick_xinv (s : State) : s.tick.xinv = s.xinv := rfl
@[simp] theorem tick_regions (s : State) : s.tick.regions = s.regions := rfl
@[simp] theorem tick_cmds (s : State) : s.tick.cmds = s.cmds := rfl
@[simp] theorem tick_sections (s : State) : s.tick.sections = s.sections := rfl
@[simp] theorem tick_versions (s : State) : s.tick.versions = s.versions := rfl
@[simp] theorem tick_clusters (s : State) : s.tick.clusters = s.clusters := rfl
@[simp] theorem tick_spares (s : State) : s.tick.spares = s.spares := rfl
@[simp] theorem tick_partitions (s : State) : s.tick.partitions = s.partitions := rfl
@[simp] theorem tick_contexts (s : State) : s.tick.contexts = s.contexts := rfl
@[simp] theorem tick_qtbase (s : State) : s.tick.qtbase = s.qtbase := rfl
@[simp] theorem tick_queues (s : State) : s.tick.queues = s.queues := rfl
@[simp] theorem tick_accepted (s : State) : s.tick.accepted = s.accepted := rfl
@[simp] theorem tick_launches (s : State) : s.tick.launches = s.launches := rfl
@[simp] theorem tick_requests (s : State) : s.tick.requests = s.requests := rfl
@[simp] theorem tick_answers (s : State) : s.tick.answers = s.answers := rfl
@[simp] theorem tick_reports (s : State) : s.tick.reports = s.reports := rfl
@[simp] theorem tick_gangs (s : State) : s.tick.gangs = s.gangs := rfl
@[simp] theorem tick_served (s : State) : s.tick.served = s.served := rfl
@[simp] theorem tick_scheds (s : State) : s.tick.scheds = s.scheds := rfl
@[simp] theorem tick_replaying (s : State) : s.tick.replaying = s.replaying := rfl
@[simp] theorem tick_hpErr (s : State) : s.tick.hpErr = s.hpErr := rfl
@[simp] theorem tick_therm (s : State) : s.tick.therm = s.therm := rfl
@[simp] theorem tick_fw (s : State) : s.tick.fw = s.fw := rfl
@[simp] theorem tick_pod (s : State) : s.tick.pod = s.pod := rfl
@[simp] theorem byte_tick (s : State) (a : Nat) : s.tick.byte a = s.byte a := rfl
@[simp] theorem block_tick (s : State) (j : Nat) : s.tick.block? j = s.block? j := rfl
@[simp] theorem thread_tick (s : State) (j i : Nat) : s.tick.thread? j i = s.thread? j i := rfl
@[simp] theorem ctx_tick (s : State) (j : Nat) : s.tick.ctx j = s.ctx j := rfl
@[simp] theorem cluster_tick (s : State) (j : Nat) : s.tick.cluster j = s.cluster j := rfl
@[simp] theorem partition_tick (s : State) (j : Nat) : s.tick.partition j = s.partition j := rfl
@[simp] theorem queue_tick (s : State) (j : Nat) : s.tick.queue j = s.queue j := rfl
@[simp] theorem sched_tick (s : State) (j : Nat) : s.tick.sched j = s.sched j := rfl
@[simp] theorem launch_tick (s : State) (j : Nat) : s.tick.launch? j = s.launch? j := rfl
@[simp] theorem cmd_tick (s : State) (j : Nat) : s.tick.cmd? j = s.cmd? j := rfl

/-! ### endWord -/

@[simp] theorem endWord_agenda (s : State) : s.endWord.agenda = s.agenda := rfl
@[simp] theorem endWord_seq (s : State) : s.endWord.seq = s.seq := rfl
@[simp] theorem endWord_off (s : State) : s.endWord.off = s.off := rfl
@[simp] theorem endWord_ptime (s : State) : s.endWord.ptime = s.ptime := rfl
@[simp] theorem endWord_mem (s : State) : s.endWord.mem = s.mem := rfl
@[simp] theorem endWord_poison (s : State) : s.endWord.poison = s.poison := rfl
@[simp] theorem endWord_msc (s : State) : s.endWord.msc = s.msc := rfl
@[simp] theorem endWord_behind (s : State) : s.endWord.behind = s.behind := rfl
@[simp] theorem endWord_stale (s : State) : s.endWord.stale = s.stale := rfl
@[simp] theorem endWord_blocks (s : State) : s.endWord.blocks = s.blocks := rfl
@[simp] theorem endWord_lcache (s : State) : s.endWord.lcache = s.lcache := rfl
@[simp] theorem endWord_icache (s : State) : s.endWord.icache = s.icache := rfl
@[simp] theorem endWord_tlb (s : State) : s.endWord.tlb = s.tlb := rfl
@[simp] theorem endWord_xinv (s : State) : s.endWord.xinv = s.xinv := rfl
@[simp] theorem endWord_regions (s : State) : s.endWord.regions = s.regions := rfl
@[simp] theorem endWord_cmds (s : State) : s.endWord.cmds = s.cmds := rfl
@[simp] theorem endWord_sections (s : State) : s.endWord.sections = s.sections := rfl
@[simp] theorem endWord_versions (s : State) : s.endWord.versions = s.versions := rfl
@[simp] theorem endWord_clusters (s : State) : s.endWord.clusters = s.clusters := rfl
@[simp] theorem endWord_spares (s : State) : s.endWord.spares = s.spares := rfl
@[simp] theorem endWord_partitions (s : State) : s.endWord.partitions = s.partitions := rfl
@[simp] theorem endWord_contexts (s : State) : s.endWord.contexts = s.contexts := rfl
@[simp] theorem endWord_qtbase (s : State) : s.endWord.qtbase = s.qtbase := rfl
@[simp] theorem endWord_queues (s : State) : s.endWord.queues = s.queues := rfl
@[simp] theorem endWord_accepted (s : State) : s.endWord.accepted = s.accepted := rfl
@[simp] theorem endWord_launches (s : State) : s.endWord.launches = s.launches := rfl
@[simp] theorem endWord_requests (s : State) : s.endWord.requests = s.requests := rfl
@[simp] theorem endWord_answers (s : State) : s.endWord.answers = s.answers := rfl
@[simp] theorem endWord_reports (s : State) : s.endWord.reports = s.reports := rfl
@[simp] theorem endWord_gangs (s : State) : s.endWord.gangs = s.gangs := rfl
@[simp] theorem endWord_served (s : State) : s.endWord.served = s.served := rfl
@[simp] theorem endWord_scheds (s : State) : s.endWord.scheds = s.scheds := rfl
@[simp] theorem endWord_replaying (s : State) : s.endWord.replaying = s.replaying := rfl
@[simp] theorem endWord_hpErr (s : State) : s.endWord.hpErr = s.hpErr := rfl
@[simp] theorem endWord_therm (s : State) : s.endWord.therm = s.therm := rfl
@[simp] theorem endWord_fw (s : State) : s.endWord.fw = s.fw := rfl
@[simp] theorem endWord_pod (s : State) : s.endWord.pod = s.pod := rfl
@[simp] theorem byte_endWord (s : State) (a : Nat) : s.endWord.byte a = s.byte a := rfl
@[simp] theorem block_endWord (s : State) (j : Nat) : s.endWord.block? j = s.block? j := rfl
@[simp] theorem thread_endWord (s : State) (j i : Nat) : s.endWord.thread? j i = s.thread? j i := rfl
@[simp] theorem ctx_endWord (s : State) (j : Nat) : s.endWord.ctx j = s.ctx j := rfl
@[simp] theorem cluster_endWord (s : State) (j : Nat) : s.endWord.cluster j = s.cluster j := rfl
@[simp] theorem partition_endWord (s : State) (j : Nat) : s.endWord.partition j = s.partition j := rfl
@[simp] theorem queue_endWord (s : State) (j : Nat) : s.endWord.queue j = s.queue j := rfl
@[simp] theorem sched_endWord (s : State) (j : Nat) : s.endWord.sched j = s.sched j := rfl
@[simp] theorem launch_endWord (s : State) (j : Nat) : s.endWord.launch? j = s.launch? j := rfl
@[simp] theorem cmd_endWord (s : State) (j : Nat) : s.endWord.cmd? j = s.cmd? j := rfl

/-! ### A table read after its update -/

@[simp] theorem ctx_mapCtx (s : State) (n : Nat) (f : Context → Context) (j : Nat) :
    (s.mapCtx n f).ctx j = if j = n then f (s.ctx n) else s.ctx j := read_put ..

@[simp] theorem cluster_mapCluster (s : State) (n : Nat) (f : Cluster → Cluster) (j : Nat) :
    (s.mapCluster n f).cluster j = if j = n then f (s.cluster n) else s.cluster j := read_put ..

@[simp] theorem partition_mapPartition (s : State) (n : Nat) (f : Partition → Partition) (j : Nat) :
    (s.mapPartition n f).partition j = if j = n then f (s.partition n) else s.partition j := read_put ..

@[simp] theorem queue_mapQueue (s : State) (n : Nat) (f : Queue → Queue) (j : Nat) :
    (s.mapQueue n f).queue j = if j = n then f (s.queue n) else s.queue j := read_put ..

@[simp] theorem sched_mapSched (s : State) (n : Nat) (f : SchedRegs → SchedRegs) (j : Nat) :
    (s.mapSched n f).sched j = if j = n then f (s.sched n) else s.sched j := read_put ..

theorem launch_mapLaunch (s : State) (l : Nat) (f : Launch → Launch) (hf : ∀ x, (f x).lid = x.lid) (j : Nat) :
    (s.mapLaunch l f).launch? j = if j = l then (s.launch? j).map f else s.launch? j := by
  simp only [State.launch?, State.mapLaunch]
  induction s.launches with
  | nil => simp
  | cons x xs ih =>
    have hx : (if x.lid = l then f x else x).lid = x.lid := by split <;> simp [hf]
    simp only [List.map_cons]
    by_cases h : x.lid = j
    · rw [List.find?_cons_of_pos (by rw [hx]; simp [h]), List.find?_cons_of_pos (by simp [h])]
      by_cases hj : j = l <;> simp [h, hj]
    · rw [List.find?_cons_of_neg (by rw [hx]; simp [h]), List.find?_cons_of_neg (by simp [h]), ih]

theorem cmd_mapCmd (s : State) (c : Nat) (f : Cmd → Cmd) (hf : ∀ x, (f x).id = x.id) (j : Nat) :
    (s.mapCmd c f).cmd? j = if j = c then (s.cmd? j).map f else s.cmd? j := by
  simp only [State.cmd?, State.mapCmd]
  induction s.cmds with
  | nil => simp
  | cons x xs ih =>
    have hx : (if x.id = c then f x else x).id = x.id := by split <;> simp [hf]
    simp only [List.map_cons]
    by_cases h : x.id = j
    · rw [List.find?_cons_of_pos (by rw [hx]; simp [h]), List.find?_cons_of_pos (by simp [h])]
      by_cases hj : j = c <;> simp [h, hj]
    · rw [List.find?_cons_of_neg (by rw [hx]; simp [h]), List.find?_cons_of_neg (by simp [h]), ih]

end Sys2Proof.Laws
end

