-- ==== Sys2Proof/Laws/Ops.lean ====
section
/-! SUPPORT. What the shared operations do, said once: translation, alignment, traps and their return, waits, counted operations,
completion of a lane, and the messages of a link. -/

namespace Sys2Proof.Laws

open Sys2Proof Sys2Proof.Machine

/-! ### Addresses -/

/-- R207: an address raises no MISALIGN exactly where its high bits are zero and its size divides it. -/
theorem misaligned_none (a : W64) (n : Nat) : misaligned a n = none ↔ a.extractLsb' 57 7 = 0 ∧ a.toNat % n = 0 := by
  unfold misaligned; split
  · simp_all
  · split <;> simp_all

/-- A translation that succeeds rests on a leaf that allows the access (R345). -/
theorem xlate_ok {s : State} {cs : List Nat} {ctx va pick : Nat} {n : Need} {sup : Bool} {x : Xlat} (hm : ctx ≠ massifCtx)
    (h : s.xlate cs ctx va n sup pick = .ok x) :
    s.leafFor cs ctx va pick = .ok (x.leaf, x.lo) ∧ leafAllows x.leaf n sup = true ∧ x.key = leafKey x.leaf x.lo va := by
  rw [State.xlate, if_neg hm] at h
  split at h
  · cases h
  · rename_i leaf lo hl
    split at h
    · rename_i ha; cases h; exact ⟨hl, ha, rfl⟩
    · cases h

/-- A translation that fails is a translation fault, or a permission fault with detail 3 (R345). -/
theorem xlate_error {s : State} {cs : List Nat} {ctx va pick : Nat} {n : Need} {sup : Bool} {c d : Nat}
    (h : s.xlate cs ctx va n sup pick = .error (c, d)) :
    (c = 5 ∧ s.leafFor cs ctx va pick = .error d) ∨ (c = 6 ∧ d = 3) := by
  unfold State.xlate at h
  split at h
  · cases h
  split at h
  · rename_i hl; cases h; exact .inl ⟨rfl, hl⟩
  · split at h
    · cases h
    · cases h; exact .inr ⟨rfl, rfl⟩

/-- The firmware of a Massif core translates nothing (log entry 127). -/
theorem xlate_massif (s : State) (cs : List Nat) (va pick : Nat) (n : Need) (sup : Bool) :
    s.xlate cs massifCtx va n sup pick = .ok ⟨physKey 4 va, 0, 64⟩ := rfl

/-- An access with caches empty walks the tables. -/
theorem leafFor_cold {s : State} (h : s.tlb = []) (cs : List Nat) (ctx va pick : Nat) : s.leafFor cs ctx va pick = s.walk ctx va := by
  simp [State.leafFor, State.cached, h]

/-- A leaf enters the caches and nothing else changes. -/
theorem cacheLeaf_frame (s : State) (cs : List Nat) (ctx va : Nat) (x : Xlat) : { s.cacheLeaf cs ctx va x with tlb := s.tlb } = s := by
  simp only [State.cacheLeaf]; split <;> rfl

/-- An access leaves its leaf in the caches and its line in the MSC, and nothing else changes. -/
theorem touch_frame (s : State) (e : Env) (a : W64) (x : Xlat) : { s.touch e a x with tlb := s.tlb, msc := s.msc } = s := by
  simp only [State.touch, State.cacheLeaf, State.fillMsc]; split <;> split <;> rfl

theorem touch_blocks (s : State) (e : Env) (a : W64) (x : Xlat) : (s.touch e a x).blocks = s.blocks :=
  (congrArg State.blocks (touch_frame s e a x) :)

theorem touch_sections (s : State) (e : Env) (a : W64) (x : Xlat) : (s.touch e a x).sections = s.sections :=
  (congrArg State.sections (touch_frame s e a x) :)

theorem touch_mem (s : State) (e : Env) (a : W64) (x : Xlat) : (s.touch e a x).mem = s.mem :=
  (congrArg State.mem (touch_frame s e a x) :)

/-! ### Taking a trap and returning (R334, R335, R342) -/

/-- A handled trap outside a handler, with a handler to go to and the counters at zero, enters it at once. -/
theorem takeTrap_enters {s : State} {b : Block} {t : Thread} {tr : Trap} {acc : Nat} (hb : s.block? b.id = some b)
    (ht : b.thread? t.tidx = some t) (hh : handled tr.cause = true) (hr : replayable tr.cause = false) (hf : failOp tr.cause = false)
    (hs : b.stage ≠ .prologue) (hc : (s.ctx b.decl.ctx).handler ≠ 0) (hi : t.inside = false) (hn : t.cnt.none = true) :
    s.takeTrap b.id t.tidx tr acc = s.enterHandler b t.unwait tr := by
  have hc' : ¬ (s.ctx b.decl.ctx).handler = 0#64 := hc
  simp [State.takeTrap, hb, ht, hh, hr, hf, hs, hc', hi, hn]

/-- With operations outstanding, the trap is held and the wait withdrawn until they have drained. -/
theorem takeTrap_drains {s : State} {b : Block} {t : Thread} {tr : Trap} {acc : Nat} (hb : s.block? b.id = some b)
    (ht : b.thread? t.tidx = some t) (hh : handled tr.cause = true) (hr : replayable tr.cause = false) (hf : failOp tr.cause = false)
    (hs : b.stage ≠ .prologue) (hc : (s.ctx b.decl.ctx).handler ≠ 0) (hi : t.inside = false) (hn : t.cnt.none = false) :
    s.takeTrap b.id t.tidx tr acc = s.mapThread b.id t.tidx (fun t => { t with trap := some tr, wait := none }) := by
  have hc' : ¬ (s.ctx b.decl.ctx).handler = 0#64 := hc
  simp [State.takeTrap, hb, ht, hh, hr, hf, hs, hc', hi, hn]

/-- ERET: the PC, the flags and both status bits come from the frame. -/
theorem eret_spec (t : Thread) : t.eret.pc = NMap.read 0 t.frame 0 ∧ t.eret.fst = NMap.read 0 t.frame 5 ∧ t.eret.sup = false ∧
    t.eret.inTrap = false ∧ t.eret.regs = t.regs ∧ t.eret.preds = t.preds ∧ t.eret.tidx = t.tidx ∧ t.eret.frame = t.frame :=
  ⟨rfl, rfl, rfl, rfl, rfl, rfl, rfl, rfl⟩

/-! ### Ends of a lane -/

/-- A lane that no STEP follows, with an effect on its thread, completes as `wentOn` says. -/
theorem wentOn_of_complete {s0 : State} {b : Block} {t : Thread} {w : Word} {pc : W32} {f : Thread → Thread}
    (hk : KeepsIndex f) (hq : ∀ x, s0.thread? b.id t.tidx = some x → (f x).stepDue = false) :
    ((s0.mapThread b.id t.tidx f).completeLane b.id t.tidx pc w.hnt.yld false).endWord = wentOn s0 b t w f pc := by
  rw [completeLane_quiet, state_mapThread_mapThread _ _ _ _ _ hk]
  · rfl
  · intro x hx
    rw [state_thread_mapThread _ _ _ _ _ _ hk] at hx
    simp only [and_self, if_true, Option.map_eq_some_iff] at hx
    obtain ⟨y, hy, rfl⟩ := hx
    exact hq y hy

/-- A lane that issues a counted operation completes as `counted` says. -/
theorem counted_of_complete {s0 : State} {b : Block} {t : Thread} {w : Word} {c : Ctr} {a : Act} {slot : Option Nat}
    (hq : ∀ x, s0.thread? b.id t.tidx = some x → x.stepDue = false) :
    ((s0.issueOp b.id t.tidx c t.pc a slot).completeLane b.id t.tidx (t.pc + 1) w.hnt.yld false).endWord = counted s0 b t w c a slot :=
  wentOn_of_complete (s0 := { s0 with seq := s0.seq + 1 }) (f := fun x => x.issued s0.seq c t.pc a slot) (fun _ => rfl) hq

/-- A lane without an effect on its thread only moves on. -/
theorem pass_of_complete {s0 : State} {b : Block} {t : Thread} {w : Word} {pc : W32}
    (hq : ∀ x, s0.thread? b.id t.tidx = some x → x.stepDue = false) :
    (s0.completeLane b.id t.tidx pc w.hnt.yld false).endWord = wentOn s0 b t w id pc := by
  rw [completeLane_quiet _ _ _ _ _ hq]; rfl

theorem quiet_block {s : State} {i : Instr} {w : Word} {b : Block} {t : Thread} (h : issues s i w b t) (f : Block → Block)
    (hf : ∀ x, (f x).threads = x.threads) : ∀ x, (s.mapBlock b.id f).thread? b.id t.tidx = some x → x.stepDue = false := by
  intro x hx
  apply issues_quiet h (s' := s) rfl x
  simpa [State.thread?, hf, Block.thread?, h.2.1] using hx

/-- A word whose counter stands at 63 waits (R125). -/
theorem stay_full {s : State} {i : Instr} {w : Word} {b : Block} {t : Thread} {p : Plan} {body} {c : Ctr} (h : issues s i w b t)
    (hi : p.i = i) (hw : p.w = w) (hf : p.f = formIn i) (hs : p.skip ⟨b, t⟩ = false) (hp : p.ctr = some c)
    (hc : 63 ≤ t.cnt.get c) : runWord p body (fun _ _ s => s) s = .next (waits s b t (.full c)) := by
  obtain ⟨hl, hb, hd, hg, ⟨ht, hm, hpp, hsec, ha, hr⟩, hst, -⟩ := h
  subst hi hw
  simp only [runWord, hl, hb, hf, hd, ne_eq, not_true_eq_false, if_false, runLanes_one]
  have hl1 : lane p body b.stepping b.id s t.tidx = s.hold b.id t.tidx (.full c) := by
    simp only [lane, laneOut, hb, ht, hf, hg, hs, hst, Bool.false_and, Bool.not_true, Bool.or_false, Bool.true_and, hp]
    rw [if_neg (by revert hm; cases (formIn p.i).sup <;> cases t.sup <;> simp), if_neg (by omega)]
    rw [if_neg (by simpa using hsec)]
    simp [hc]
  rw [hl1]; rfl

/-! ### Messages (R67) -/

/-- Everything that a message can do: nothing where its link cannot carry it, its SEQ has been seen, or the Massif does not take it yet;
a link error for a bad RET; or its permit and its effect. -/
theorem message_cases (c : Nat) (m : Msg) (what : Option CairnMsg) (act : State → State) (s : State) :
    let s1 : State := if m.toCairn then s else { s with served := c }
    (message c m what act s = .next s.tick ∧ (64 ≤ c ∨ (s.cluster c).lost = true ∨ (s.cluster c).link.maySend m.toCairn = false ∨
      (s.cluster c).link.seen m = true ∨ (m.toCairn = false ∧ s.hears c what = false))) ∨
    (message c m what act s = .next ((s1.mapLink c (fun l => l.drop m)).linkError c).tick ∧
      16 - (s.cluster c).link.held m.toCairn < m.ret) ∨
    (message c m what act s = .next (act (s1.mapLink c (fun l => (l.deliver m).shift m what))).tick ∧ c < 64 ∧
      (s.cluster c).lost = false ∧ (s.cluster c).link.maySend m.toCairn = true ∧ (s.cluster c).link.seen m = false ∧
      m.ret ≤ 16 - (s.cluster c).link.held m.toCairn ∧ (m.toCairn = false → s.hears c what = true)) := by
  simp only [message]
  split
  · rename_i h; exact .inl ⟨rfl, by tauto⟩
  · rename_i h
    simp only [not_or, Bool.not_eq_true, Bool.not_eq_false] at h
    split
    · rename_i hs; exact .inl ⟨rfl, .inr (.inr (.inr (.inl hs)))⟩
    split
    · rename_i hh; exact .inl ⟨rfl, .inr (.inr (.inr (.inr (by simpa using hh))))⟩
    split
    · rename_i hb; exact .inr (.inl ⟨rfl, by simpa [Link.badRet] using hb⟩)
    · rename_i hs hh hb
      refine .inr (.inr ⟨rfl, by have := h.1; simp only [Config.clusters] at this; omega, h.2.1, h.2.2, by simpa using hs, ?_,
        fun ht => by simpa [ht] using hh⟩)
      simpa [Link.badRet] using hb

/-! ### Knowledge of writes (R303, R307), and take-over (R389) -/

/-- What an acquire side of a thread changes: who knows of which write, and lines of its core's load cache. -/
theorem observe_frame (s : State) (core blk tidx : Nat) (p : Stale → Bool) :
    { s.observe core blk tidx p with stale := s.stale, lcache := s.lcache } = s := by
  simp only [State.observe, State.renew]; split <;> rfl

theorem passPhase_frame (s : State) (core blk tidx off n : Nat) :
    { s.passPhase core blk tidx off n with stale := s.stale, lcache := s.lcache } = s := observe_frame s core blk tidx _

theorem takeOrder_frame (s : State) (core blk tidx scope inst at' : Nat) :
    { s.takeOrder core blk tidx scope inst at' with stale := s.stale, lcache := s.lcache } = s :=
  observe_frame s core blk tidx _

theorem zipWith_self {α β : Type} (f : α → β) (g : α → β → α) (h : ∀ x, g x (f x) = x) (l : List α) :
    List.zipWith g l (l.map f) = l := by
  induction l with
  | nil => rfl
  | cons x l ih => simp [h, ih]

/-- A core that replays the journal has the state that the failed one had: nothing is lost at a take-over. -/
@[simp] theorem replay_journal (s : State) : s.replay s.journal = s := by
  simp only [State.replay, State.journal]
  rw [zipWith_self _ _ (fun _ => rfl), zipWith_self _ _ (fun _ => rfl)]

end Sys2Proof.Laws
end

