-- ==== Sys2Proof/Laws/Words.lean ====
section
/-! SUPPORT. Fields of a concatenation, and the fields of a word or paired word read back from its bits (R88, R95, R102). -/

namespace Sys2Proof.Laws

open BitVec

theorem field_high {n m : Nat} (x : BitVec n) (y : BitVec m) (k len : Nat) (h : m ≤ k) :
    (x ++ y).extractLsb' k len = x.extractLsb' (k - m) len := BitVec.extractLsb'_append_eq_of_le h

theorem field_low {n m : Nat} (x : BitVec n) (y : BitVec m) (k len : Nat) (h : k + len ≤ m) :
    (x ++ y).extractLsb' k len = y.extractLsb' k len := BitVec.extractLsb'_append_eq_of_add_le h

theorem field_all {n : Nat} (x : BitVec n) : x.extractLsb' 0 n = x := by simp

theorem bit_high {n m : Nat} (x : BitVec n) (y : BitVec m) (k : Nat) (h : m ≤ k) :
    (x ++ y).getLsbD k = x.getLsbD (k - m) := by rw [getLsbD_append, if_neg (by omega)]

theorem bit_low {n m : Nat} (x : BitVec n) (y : BitVec m) (k : Nat) (h : k < m) :
    (x ++ y).getLsbD k = y.getLsbD k := by rw [getLsbD_append, if_pos h]

theorem opd_round (o : Opd) : Opd.ofBits o.bits = o := by
  cases o <;>
    simp (disch := decide) only [Opd.bits, Opd.ofBits, field_high, field_low, Nat.reduceSub, field_all] <;> rfl

theorem word_round (w : Word) (op : BitVec 8) : Word.ofBits (w.bits op) = w := by
  obtain ⟨⟨gn, gp⟩, ⟨h1, h2, h3, h4, h5, h6⟩, d, a, b, m, i⟩ := w
  simp (disch := decide) only [Word.ofBits, Word.bits, Guard.bits, Hints.bits, field_high, field_low, bit_high, bit_low,
    Nat.reduceSub, field_all]
  simp [opd_round]

theorem pair_round (p : Pair) : Pair.ofBits p.bits = p := by
  obtain ⟨⟨gn, gp⟩, ⟨h1, h2, h3, h4, h5, h6⟩, ⟨s0, d0, a0, b0, m0⟩, ⟨s1, d1, a1, b1, m1⟩⟩ := p
  simp (disch := decide) only [Pair.ofBits, Pair.bits, Half.bits, Guard.bits, Hints.bits, field_high, field_low, bit_high,
    bit_low, Nat.reduceSub, field_all]
  simp

theorem opcode_round (w : Word) (op : BitVec 8) : opcodeOf (w.bits op) = op.toNat := by
  simp (disch := decide) only [opcodeOf, Word.bits, field_low, field_all]

theorem pair_opcode (p : Pair) : opcodeOf p.bits = 0xF0 := by
  simp (disch := decide) only [opcodeOf, Pair.bits, field_low, field_all]
  rfl

/-- What decoding makes of a word's bits. -/
theorem instrOf_bits (w : Word) (op : BitVec 8) (h : op.toNat ≠ 0xF0) : instrOf (w.bits op) = ofOpcode op.toNat w := by
  rw [instrOf, opcode_round, if_neg h, word_round]

/-- A word decodes to the instruction of its opcode, where that passes its checks. -/
theorem decode_bits (w : Word) (op : BitVec 8) (i : Instr) (h : op.toNat ≠ 0xF0) (ho : ofOpcode op.toNat w = some i)
    (hw : i.wf = true) : decode (w.bits op) = .ok i := by
  have hc : checkInstr i = 0 := by simpa [Instr.wf] using hw
  simp [decode, instrOf_bits w op h, ho, hc]

end Sys2Proof.Laws
end

