-- ==== Sys2Proof/Laws/PerInstr.lean ====
section
/-! SUPPORT. Decoding undoes encoding, instruction by instruction (R88 to R108). -/

namespace Sys2Proof.Laws.RoundTrip

/-- A well-formed instruction that has a word is encoded to a word that decodes to it. -/
def Statement (i : Instr) : Prop := i.hasWord = true → i.wf = true → ∃ x, encode i = some x ∧ decode x = .ok i

/-- An event of the part has no word. -/
theorem of_event (i : Instr) (h : i.hasWord = false) : Statement i := fun h' => by rw [h] at h'; cases h'

/-- A well-formed word holds listed modifier values. -/
theorem modOk_of_wf {i : Instr} {w : Word} {f : Form} (hf : formOf i = some (w, f)) (hw : i.wf = true) : f.modOk = true := by
  have hc : f.check w = 0 := by
    have : checkInstr i = f.check w := by
      unfold checkInstr
      split
      · simp [formOf] at hf
      · rw [hf]
    simpa [Instr.wf, this] using hw
  unfold Form.check at hc
  split at hc; · cases hc
  split at hc; · cases hc
  split at hc; · cases hc
  split at hc; · cases hc
  split at hc; · cases hc
  rename_i h
  simp only [modifiersOk, Bool.not_eq_true, Bool.not_eq_false'] at h
  revert h
  cases f.modOk <;> simp

/-- An instruction whose opcode and fields give it back. -/
theorem of_word (i : Instr) (w : Word) (op : BitVec 8) (h : op.toNat ≠ 0xF0) (he : encode i = some (w.bits op))
    (ho : i.wf = true → ofOpcode op.toNat w = some i) : Statement i := fun _ hw =>
  ⟨w.bits op, he, decode_bits w op i h (ho hw) hw⟩

theorem nop (w : Word) : Statement (.nop w) := of_word _ w 0x00#8 (by decide) rfl (fun _ => rfl)

theorem bra (w : Word) : Statement (.bra w) := of_word _ w 0x01#8 (by decide) rfl (fun _ => rfl)

theorem brx (w : Word) : Statement (.brx w) := of_word _ w 0x02#8 (by decide) rfl (fun _ => rfl)

theorem call (w : Word) : Statement (.call w) := of_word _ w 0x03#8 (by decide) rfl (fun _ => rfl)

theorem callx (w : Word) : Statement (.callx w) := of_word _ w 0x04#8 (by decide) rfl (fun _ => rfl)

theorem ret (w : Word) : Statement (.ret w) := of_word _ w 0x05#8 (by decide) rfl (fun _ => rfl)

theorem exit (w : Word) : Statement (.exit w) := of_word _ w 0x06#8 (by decide) rfl (fun _ => rfl)

theorem join (w : Word) : Statement (.join w) := of_word _ w 0x07#8 (by decide) rfl (fun _ => rfl)

theorem jmset (w : Word) : Statement (.jmset w) := of_word _ w 0x08#8 (by decide) rfl (fun _ => rfl)

theorem jmget (w : Word) : Statement (.jmget w) := of_word _ w 0x09#8 (by decide) rfl (fun _ => rfl)

theorem yield (w : Word) : Statement (.yield w) := of_word _ w 0x0A#8 (by decide) rfl (fun _ => rfl)

theorem waitc (w : Word) : Statement (.waitc w) := of_word _ w 0x0B#8 (by decide) rfl (fun _ => rfl)

theorem waitt (w : Word) : Statement (.waitt w) := of_word _ w 0x0C#8 (by decide) rfl (fun _ => rfl)

theorem bpt (w : Word) : Statement (.bpt w) := of_word _ w 0x0D#8 (by decide) rfl (fun _ => rfl)

theorem trap (w : Word) : Statement (.trap w) := of_word _ w 0x0E#8 (by decide) rfl (fun _ => rfl)

theorem eret (w : Word) : Statement (.eret w) := of_word _ w 0x0F#8 (by decide) rfl (fun _ => rfl)

theorem iadd (w : Word) : Statement (.iadd w) := of_word _ w 0x10#8 (by decide) rfl (fun _ => rfl)

theorem isub (w : Word) : Statement (.isub w) := of_word _ w 0x11#8 (by decide) rfl (fun _ => rfl)

theorem imul (w : Word) : Statement (.imul w) := of_word _ w 0x12#8 (by decide) rfl (fun _ => rfl)

theorem imulh (w : Word) : Statement (.imulh w) := of_word _ w 0x13#8 (by decide) rfl (fun _ => rfl)

theorem imad (w : Word) : Statement (.imad w) := of_word _ w 0x14#8 (by decide) rfl (fun _ => rfl)

theorem imadw (w : Word) : Statement (.imadw w) := of_word _ w 0x15#8 (by decide) rfl (fun _ => rfl)

theorem imin (w : Word) : Statement (.imin w) := of_word _ w 0x16#8 (by decide) rfl (fun _ => rfl)

theorem imax (w : Word) : Statement (.imax w) := of_word _ w 0x17#8 (by decide) rfl (fun _ => rfl)

theorem iabs (w : Word) : Statement (.iabs w) := of_word _ w 0x18#8 (by decide) rfl (fun _ => rfl)

theorem iaddc (w : Word) : Statement (.iaddc w) := of_word _ w 0x19#8 (by decide) rfl (fun _ => rfl)

theorem lea (w : Word) : Statement (.lea w) := of_word _ w 0x1A#8 (by decide) rfl (fun _ => rfl)

theorem idot4 (w : Word) : Statement (.idot4 w) := of_word _ w 0x1B#8 (by decide) rfl (fun _ => rfl)

theorem isad (w : Word) : Statement (.isad w) := of_word _ w 0x1C#8 (by decide) rfl (fun _ => rfl)

theorem idiv (w : Word) : Statement (.idiv w) := of_word _ w 0x1D#8 (by decide) rfl (fun _ => rfl)

theorem irem (w : Word) : Statement (.irem w) := of_word _ w 0x1E#8 (by decide) rfl (fun _ => rfl)

theorem lut3 (w : Word) : Statement (.lut3 w) := of_word _ w 0x20#8 (by decide) rfl (fun _ => rfl)

theorem shl (w : Word) : Statement (.shl w) := of_word _ w 0x21#8 (by decide) rfl (fun _ => rfl)

theorem shr (w : Word) : Statement (.shr w) := of_word _ w 0x22#8 (by decide) rfl (fun _ => rfl)

theorem sar (w : Word) : Statement (.sar w) := of_word _ w 0x23#8 (by decide) rfl (fun _ => rfl)

theorem rotl (w : Word) : Statement (.rotl w) := of_word _ w 0x24#8 (by decide) rfl (fun _ => rfl)

theorem funnel (w : Word) : Statement (.funnel w) := of_word _ w 0x25#8 (by decide) rfl (fun _ => rfl)

theorem bprm (w : Word) : Statement (.bprm w) := of_word _ w 0x26#8 (by decide) rfl (fun _ => rfl)

theorem bfx (w : Word) : Statement (.bfx w) := of_word _ w 0x27#8 (by decide) rfl (fun _ => rfl)

theorem bfi (w : Word) : Statement (.bfi w) := of_word _ w 0x28#8 (by decide) rfl (fun _ => rfl)

theorem popc (w : Word) : Statement (.popc w) := of_word _ w 0x29#8 (by decide) rfl (fun _ => rfl)

theorem clz (w : Word) : Statement (.clz w) := of_word _ w 0x2A#8 (by decide) rfl (fun _ => rfl)

theorem brev (w : Word) : Statement (.brev w) := of_word _ w 0x2B#8 (by decide) rfl (fun _ => rfl)

theorem ffs (w : Word) : Statement (.ffs w) := of_word _ w 0x2C#8 (by decide) rfl (fun _ => rfl)

theorem mov (w : Word) : Statement (.mov w) := of_word _ w 0x2D#8 (by decide) rfl (fun _ => rfl)

theorem movw (w : Word) : Statement (.movw w) := of_word _ w 0x2E#8 (by decide) rfl (fun _ => rfl)

theorem sel (w : Word) : Statement (.sel w) := of_word _ w 0x2F#8 (by decide) rfl (fun _ => rfl)

theorem icmp (w : Word) : Statement (.icmp w) := of_word _ w 0x30#8 (by decide) rfl (fun _ => rfl)

theorem fcmp (w : Word) : Statement (.fcmp w) := of_word _ w 0x31#8 (by decide) rfl (fun _ => rfl)

theorem hcmp2 (w : Word) : Statement (.hcmp2 w) := of_word _ w 0x32#8 (by decide) rfl (fun _ => rfl)

theorem dcmp (w : Word) : Statement (.dcmp w) := of_word _ w 0x33#8 (by decide) rfl (fun _ => rfl)

theorem plop (w : Word) : Statement (.plop w) := of_word _ w 0x34#8 (by decide) rfl (fun _ => rfl)

theorem p2v (w : Word) : Statement (.p2v w) := of_word _ w 0x35#8 (by decide) rfl (fun _ => rfl)

theorem v2p (w : Word) : Statement (.v2p w) := of_word _ w 0x36#8 (by decide) rfl (fun _ => rfl)

theorem fclass (w : Word) : Statement (.fclass w) := of_word _ w 0x37#8 (by decide) rfl (fun _ => rfl)

theorem tqset (w : Word) : Statement (.tqset w) := of_word _ w 0x38#8 (by decide) rfl (fun _ => rfl)

theorem tqget (w : Word) : Statement (.tqget w) := of_word _ w 0x39#8 (by decide) rfl (fun _ => rfl)

theorem fadd (w : Word) : Statement (.fadd w) := of_word _ w 0x40#8 (by decide) rfl (fun _ => rfl)

theorem fmul (w : Word) : Statement (.fmul w) := of_word _ w 0x41#8 (by decide) rfl (fun _ => rfl)

theorem ffma (w : Word) : Statement (.ffma w) := of_word _ w 0x42#8 (by decide) rfl (fun _ => rfl)

theorem fmin (w : Word) : Statement (.fmin w) := of_word _ w 0x43#8 (by decide) rfl (fun _ => rfl)

theorem fmax (w : Word) : Statement (.fmax w) := of_word _ w 0x44#8 (by decide) rfl (fun _ => rfl)

theorem frnd (w : Word) : Statement (.frnd w) := of_word _ w 0x45#8 (by decide) rfl (fun _ => rfl)

theorem fscale (w : Word) : Statement (.fscale w) := of_word _ w 0x46#8 (by decide) rfl (fun _ => rfl)

theorem fgetexp (w : Word) : Statement (.fgetexp w) := of_word _ w 0x47#8 (by decide) rfl (fun _ => rfl)

theorem fset (w : Word) : Statement (.fset w) := of_word _ w 0x48#8 (by decide) rfl (fun _ => rfl)

theorem fcpysgn (w : Word) : Statement (.fcpysgn w) := of_word _ w 0x49#8 (by decide) rfl (fun _ => rfl)

theorem hadd2 (w : Word) : Statement (.hadd2 w) := of_word _ w 0x50#8 (by decide) rfl (fun _ => rfl)

theorem hmul2 (w : Word) : Statement (.hmul2 w) := of_word _ w 0x51#8 (by decide) rfl (fun _ => rfl)

theorem hfma2 (w : Word) : Statement (.hfma2 w) := of_word _ w 0x52#8 (by decide) rfl (fun _ => rfl)

theorem hmin2 (w : Word) : Statement (.hmin2 w) := of_word _ w 0x53#8 (by decide) rfl (fun _ => rfl)

theorem hmax2 (w : Word) : Statement (.hmax2 w) := of_word _ w 0x54#8 (by decide) rfl (fun _ => rfl)

theorem hdot2 (w : Word) : Statement (.hdot2 w) := of_word _ w 0x55#8 (by decide) rfl (fun _ => rfl)

theorem dadd (w : Word) : Statement (.dadd w) := of_word _ w 0x58#8 (by decide) rfl (fun _ => rfl)

theorem dmul (w : Word) : Statement (.dmul w) := of_word _ w 0x59#8 (by decide) rfl (fun _ => rfl)

theorem dfma (w : Word) : Statement (.dfma w) := of_word _ w 0x5A#8 (by decide) rfl (fun _ => rfl)

theorem dmin (w : Word) : Statement (.dmin w) := of_word _ w 0x5B#8 (by decide) rfl (fun _ => rfl)

theorem dmax (w : Word) : Statement (.dmax w) := of_word _ w 0x5C#8 (by decide) rfl (fun _ => rfl)

theorem cvt (w : Word) : Statement (.cvt w) := of_word _ w 0x60#8 (by decide) rfl (fun _ => rfl)

theorem cvtsc (w : Word) : Statement (.cvtsc w) := of_word _ w 0x61#8 (by decide) rfl (fun _ => rfl)

theorem packn (w : Word) : Statement (.packn w) := of_word _ w 0x62#8 (by decide) rfl (fun _ => rfl)

theorem unpkn (w : Word) : Statement (.unpkn w) := of_word _ w 0x63#8 (by decide) rfl (fun _ => rfl)

theorem fmset (w : Word) : Statement (.fmset w) := of_word _ w 0x64#8 (by decide) rfl (fun _ => rfl)

theorem fmget (w : Word) : Statement (.fmget w) := of_word _ w 0x65#8 (by decide) rfl (fun _ => rfl)

theorem rsqs (w : Word) : Statement (.rsqs w) := of_word _ w 0x68#8 (by decide) rfl (fun _ => rfl)

theorem rcps (w : Word) : Statement (.rcps w) := of_word _ w 0x69#8 (by decide) rfl (fun _ => rfl)

theorem sinr (w : Word) : Statement (.sinr w) := of_word _ w 0x6A#8 (by decide) rfl (fun _ => rfl)

theorem cosr (w : Word) : Statement (.cosr w) := of_word _ w 0x6B#8 (by decide) rfl (fun _ => rfl)

theorem ex2 (w : Word) : Statement (.ex2 w) := of_word _ w 0x6C#8 (by decide) rfl (fun _ => rfl)

theorem lg2 (w : Word) : Statement (.lg2 w) := of_word _ w 0x6D#8 (by decide) rfl (fun _ => rfl)

theorem tnh (w : Word) : Statement (.tnh w) := of_word _ w 0x6E#8 (by decide) rfl (fun _ => rfl)

theorem sigm (w : Word) : Statement (.sigm w) := of_word _ w 0x6F#8 (by decide) rfl (fun _ => rfl)

theorem shfl (w : Word) : Statement (.shfl w) := of_word _ w 0x70#8 (by decide) rfl (fun _ => rfl)

theorem xbf (w : Word) : Statement (.xbf w) := of_word _ w 0x71#8 (by decide) rfl (fun _ => rfl)

theorem vote (w : Word) : Statement (.vote w) := of_word _ w 0x72#8 (by decide) rfl (fun _ => rfl)

theorem redg (w : Word) : Statement (.redg w) := of_word _ w 0x73#8 (by decide) rfl (fun _ => rfl)

theorem scang (w : Word) : Statement (.scang w) := of_word _ w 0x74#8 (by decide) rfl (fun _ => rfl)

theorem matchLanes (w : Word) : Statement (.matchLanes w) := of_word _ w 0x75#8 (by decide) rfl (fun _ => rfl)

theorem elect (w : Word) : Statement (.elect w) := of_word _ w 0x76#8 (by decide) rfl (fun _ => rfl)

theorem topk (w : Word) : Statement (.topk w) := of_word _ w 0x77#8 (by decide) rfl (fun _ => rfl)

theorem ld (w : Word) : Statement (.ld w) := of_word _ w 0x80#8 (by decide) rfl (fun _ => rfl)

theorem st (w : Word) : Statement (.st w) := of_word _ w 0x81#8 (by decide) rfl (fun _ => rfl)

theorem lds (w : Word) : Statement (.lds w) := of_word _ w 0x82#8 (by decide) rfl (fun _ => rfl)

theorem sts (w : Word) : Statement (.sts w) := of_word _ w 0x83#8 (by decide) rfl (fun _ => rfl)

theorem ldp (w : Word) : Statement (.ldp w) := of_word _ w 0x84#8 (by decide) rfl (fun _ => rfl)

theorem stw2 (w : Word) : Statement (.stw2 w) := of_word _ w 0x85#8 (by decide) rfl (fun _ => rfl)

theorem ldxp (w : Word) : Statement (.ldxp w) := of_word _ w 0x86#8 (by decide) rfl (fun _ => rfl)

theorem prf (w : Word) : Statement (.prf w) := of_word _ w 0x87#8 (by decide) rfl (fun _ => rfl)

theorem cctlIvl (w : Word) : Statement (.cctlIvl w) := of_word _ w 0x88#8 (by decide) rfl (fun hw => by
  have h := modOk_of_wf (i := .cctlIvl w) rfl hw
  simp only [formCctl, Bool.and_eq_true, beq_iff_eq] at h
  show some (if modF w 0 3 = 1 then Instr.cctlIva w else if modF w 0 3 = 2 then Instr.cctlWbm w else if modF w 0 3 = 3 then Instr.cctlWim w else Instr.cctlIvl w) = _
  rw [h.2]; rfl)

theorem cctlIva (w : Word) : Statement (.cctlIva w) := of_word _ w 0x88#8 (by decide) rfl (fun hw => by
  have h := modOk_of_wf (i := .cctlIva w) rfl hw
  simp only [formCctl, Bool.and_eq_true, beq_iff_eq] at h
  show some (if modF w 0 3 = 1 then Instr.cctlIva w else if modF w 0 3 = 2 then Instr.cctlWbm w else if modF w 0 3 = 3 then Instr.cctlWim w else Instr.cctlIvl w) = _
  rw [h.2]; rfl)

theorem cctlWbm (w : Word) : Statement (.cctlWbm w) := of_word _ w 0x88#8 (by decide) rfl (fun hw => by
  have h := modOk_of_wf (i := .cctlWbm w) rfl hw
  simp only [formCctl, Bool.and_eq_true, beq_iff_eq] at h
  show some (if modF w 0 3 = 1 then Instr.cctlIva w else if modF w 0 3 = 2 then Instr.cctlWbm w else if modF w 0 3 = 3 then Instr.cctlWim w else Instr.cctlIvl w) = _
  rw [h.2]; rfl)

theorem cctlWim (w : Word) : Statement (.cctlWim w) := of_word _ w 0x88#8 (by decide) rfl (fun hw => by
  have h := modOk_of_wf (i := .cctlWim w) rfl hw
  simp only [formCctl, Bool.and_eq_true, beq_iff_eq] at h
  show some (if modF w 0 3 = 1 then Instr.cctlIva w else if modF w 0 3 = 2 then Instr.cctlWbm w else if modF w 0 3 = 3 then Instr.cctlWim w else Instr.cctlIvl w) = _
  rw [h.2]; rfl)

theorem ldsx (w : Word) : Statement (.ldsx w) := of_word _ w 0x89#8 (by decide) rfl (fun _ => rfl)

theorem stsx (w : Word) : Statement (.stsx w) := of_word _ w 0x8A#8 (by decide) rfl (fun _ => rfl)

theorem tlk (w : Word) : Statement (.tlk w) := of_word _ w 0x90#8 (by decide) rfl (fun _ => rfl)

theorem ttag (w : Word) : Statement (.ttag w) := of_word _ w 0x91#8 (by decide) rfl (fun _ => rfl)

theorem tstat (w : Word) : Statement (.tstat w) := of_word _ w 0x92#8 (by decide) rfl (fun _ => rfl)

theorem tinv (w : Word) : Statement (.tinv w) := of_word _ w 0x93#8 (by decide) rfl (fun _ => rfl)

theorem hgl (w : Word) : Statement (.hgl w) := of_word _ w 0x94#8 (by decide) rfl (fun _ => rfl)

theorem hga (w : Word) : Statement (.hga w) := of_word _ w 0x95#8 (by decide) rfl (fun _ => rfl)

theorem hgw (w : Word) : Statement (.hgw w) := of_word _ w 0x96#8 (by decide) rfl (fun _ => rfl)

theorem atom (w : Word) : Statement (.atom w) := of_word _ w 0xA0#8 (by decide) rfl (fun _ => rfl)

theorem atomc (w : Word) : Statement (.atomc w) := of_word _ w 0xA1#8 (by decide) rfl (fun _ => rfl)

theorem atomf (w : Word) : Statement (.atomf w) := of_word _ w 0xA2#8 (by decide) rfl (fun _ => rfl)

theorem red (w : Word) : Statement (.red w) := of_word _ w 0xA3#8 (by decide) rfl (fun _ => rfl)

theorem redf (w : Word) : Statement (.redf w) := of_word _ w 0xA4#8 (by decide) rfl (fun _ => rfl)

theorem atoms (w : Word) : Statement (.atoms w) := of_word _ w 0xA5#8 (by decide) rfl (fun _ => rfl)

theorem atomw (w : Word) : Statement (.atomw w) := of_word _ w 0xA6#8 (by decide) rfl (fun _ => rfl)

theorem sha (w : Word) : Statement (.sha w) := of_word _ w 0xA7#8 (by decide) rfl (fun _ => rfl)

theorem binit (w : Word) : Statement (.binit w) := of_word _ w 0xB0#8 (by decide) rfl (fun _ => rfl)

theorem arrv (w : Word) : Statement (.arrv w) := of_word _ w 0xB1#8 (by decide) rfl (fun _ => rfl)

theorem pwait (w : Word) : Statement (.pwait w) := of_word _ w 0xB2#8 (by decide) rfl (fun _ => rfl)

theorem ptest (w : Word) : Statement (.ptest w) := of_word _ w 0xB3#8 (by decide) rfl (fun _ => rfl)

theorem fence (w : Word) : Statement (.fence w) := of_word _ w 0xB4#8 (by decide) rfl (fun _ => rfl)

theorem xfence (w : Word) : Statement (.xfence w) := of_word _ w 0xB5#8 (by decide) rfl (fun _ => rfl)

theorem acq (w : Word) : Statement (.acq w) := of_word _ w 0xB6#8 (by decide) rfl (fun _ => rfl)

theorem rel (w : Word) : Statement (.rel w) := of_word _ w 0xB7#8 (by decide) rfl (fun _ => rfl)

theorem rbind (w : Word) : Statement (.rbind w) := of_word _ w 0xB8#8 (by decide) rfl (fun _ => rfl)

theorem bexp (w : Word) : Statement (.bexp w) := of_word _ w 0xB9#8 (by decide) rfl (fun _ => rfl)

theorem ctr (w : Word) : Statement (.ctr w) := of_word _ w 0xC0#8 (by decide) rfl (fun _ => rfl)

theorem ctrs (w : Word) : Statement (.ctrs w) := of_word _ w 0xC1#8 (by decide) rfl (fun _ => rfl)

theorem ctrsp (w : Word) : Statement (.ctrsp w) := of_word _ w 0xC2#8 (by decide) rfl (fun _ => rfl)

theorem cwd (w : Word) : Statement (.cwd w) := of_word _ w 0xC3#8 (by decide) rfl (fun _ => rfl)

theorem aalloc (w : Word) : Statement (.aalloc w) := of_word _ w 0xC4#8 (by decide) rfl (fun _ => rfl)

theorem afree (w : Word) : Statement (.afree w) := of_word _ w 0xC5#8 (by decide) rfl (fun _ => rfl)

theorem azero (w : Word) : Statement (.azero w) := of_word _ w 0xC6#8 (by decide) rfl (fun _ => rfl)

theorem ald (w : Word) : Statement (.ald w) := of_word _ w 0xC7#8 (by decide) rfl (fun _ => rfl)

theorem ast (w : Word) : Statement (.ast w) := of_word _ w 0xC8#8 (by decide) rfl (fun _ => rfl)

theorem adrn (w : Word) : Statement (.adrn w) := of_word _ w 0xC9#8 (by decide) rfl (fun _ => rfl)

theorem astat (w : Word) : Statement (.astat w) := of_word _ w 0xCA#8 (by decide) rfl (fun _ => rfl)

theorem cpy (w : Word) : Statement (.cpy w) := of_word _ w 0xD0#8 (by decide) rfl (fun _ => rfl)

theorem cpym (w : Word) : Statement (.cpym w) := of_word _ w 0xD1#8 (by decide) rfl (fun _ => rfl)

theorem shf (w : Word) : Statement (.shf w) := of_word _ w 0xD2#8 (by decide) rfl (fun _ => rfl)

theorem wnw (w : Word) : Statement (.wnw w) := of_word _ w 0xD3#8 (by decide) rfl (fun _ => rfl)

theorem gln (w : Word) : Statement (.gln w) := of_word _ w 0xD4#8 (by decide) rfl (fun _ => rfl)

theorem launch (w : Word) : Statement (.launch w) := of_word _ w 0xD5#8 (by decide) rfl (fun _ => rfl)

theorem lctlCancel (w : Word) : Statement (.lctlCancel w) := of_word _ w 0xD6#8 (by decide) rfl (fun hw => by
  have h := modOk_of_wf (i := .lctlCancel w) rfl hw
  simp only [formLctl, Bool.and_eq_true, beq_iff_eq] at h
  show some (if modF w 0 3 = 1 then Instr.lctlKill w else if modF w 0 3 = 2 then Instr.lctlQuery w else Instr.lctlCancel w) = _
  rw [h.2]; rfl)

theorem lctlKill (w : Word) : Statement (.lctlKill w) := of_word _ w 0xD6#8 (by decide) rfl (fun hw => by
  have h := modOk_of_wf (i := .lctlKill w) rfl hw
  simp only [formLctl, Bool.and_eq_true, beq_iff_eq] at h
  show some (if modF w 0 3 = 1 then Instr.lctlKill w else if modF w 0 3 = 2 then Instr.lctlQuery w else Instr.lctlCancel w) = _
  rw [h.2]; rfl)

theorem lctlQuery (w : Word) : Statement (.lctlQuery w) := of_word _ w 0xD6#8 (by decide) rfl (fun hw => by
  have h := modOk_of_wf (i := .lctlQuery w) rfl hw
  simp only [formLctl, Bool.and_eq_true, beq_iff_eq] at h
  show some (if modF w 0 3 = 1 then Instr.lctlKill w else if modF w 0 3 = 2 then Instr.lctlQuery w else Instr.lctlCancel w) = _
  rw [h.2]; rfl)

theorem lpset (w : Word) : Statement (.lpset w) := of_word _ w 0xD8#8 (by decide) rfl (fun _ => rfl)

theorem lendLaunch (w : Word) : Statement (.lendLaunch w) := of_word _ w 0xD9#8 (by decide) rfl (fun hw => by
  have h := modOk_of_wf (i := .lendLaunch w) rfl hw
  simp only [formLend, Bool.and_eq_true, beq_iff_eq] at h
  show some (if modF w 0 3 = 1 then Instr.lendCancel w else if modF w 0 3 = 2 then Instr.lendRepeat w else Instr.lendLaunch w) = _
  rw [h.2]; rfl)

theorem lendCancel (w : Word) : Statement (.lendCancel w) := of_word _ w 0xD9#8 (by decide) rfl (fun hw => by
  have h := modOk_of_wf (i := .lendCancel w) rfl hw
  simp only [formLend, Bool.and_eq_true, beq_iff_eq] at h
  show some (if modF w 0 3 = 1 then Instr.lendCancel w else if modF w 0 3 = 2 then Instr.lendRepeat w else Instr.lendLaunch w) = _
  rw [h.2]; rfl)

theorem lendRepeat (w : Word) : Statement (.lendRepeat w) := of_word _ w 0xD9#8 (by decide) rfl (fun hw => by
  have h := modOk_of_wf (i := .lendRepeat w) rfl hw
  simp only [formLend, Bool.and_eq_true, beq_iff_eq] at h
  show some (if modF w 0 3 = 1 then Instr.lendCancel w else if modF w 0 3 = 2 then Instr.lendRepeat w else Instr.lendLaunch w) = _
  rw [h.2]; rfl)

theorem fxb (w : Word) : Statement (.fxb w) := of_word _ w 0xE0#8 (by decide) rfl (fun _ => rfl)

theorem fxe (w : Word) : Statement (.fxe w) := of_word _ w 0xE1#8 (by decide) rfl (fun _ => rfl)

theorem fxa (w : Word) : Statement (.fxa w) := of_word _ w 0xE2#8 (by decide) rfl (fun _ => rfl)

theorem fxs (w : Word) : Statement (.fxs w) := of_word _ w 0xE3#8 (by decide) rfl (fun _ => rfl)

theorem sread (w : Word) : Statement (.sread w) := of_word _ w 0xE8#8 (by decide) rfl (fun _ => rfl)

theorem swrite (w : Word) : Statement (.swrite w) := of_word _ w 0xE9#8 (by decide) rfl (fun _ => rfl)

theorem isync (w : Word) : Statement (.isync w) := of_word _ w 0xEC#8 (by decide) rfl (fun _ => rfl)

theorem dbgmBrk (w : Word) : Statement (.dbgmBrk w) := of_word _ w 0xED#8 (by decide) rfl (fun hw => by
  have h := modOk_of_wf (i := .dbgmBrk w) rfl hw
  simp only [formDbgm, beq_iff_eq] at h
  show some (if modF w 0 2 = 1 then Instr.dbgmStepon w else if modF w 0 2 = 2 then Instr.dbgmStepoff w else Instr.dbgmBrk w) = _
  rw [h]; rfl)

theorem dbgmStepon (w : Word) : Statement (.dbgmStepon w) := of_word _ w 0xED#8 (by decide) rfl (fun hw => by
  have h := modOk_of_wf (i := .dbgmStepon w) rfl hw
  simp only [formDbgm, beq_iff_eq] at h
  show some (if modF w 0 2 = 1 then Instr.dbgmStepon w else if modF w 0 2 = 2 then Instr.dbgmStepoff w else Instr.dbgmBrk w) = _
  rw [h]; rfl)

theorem dbgmStepoff (w : Word) : Statement (.dbgmStepoff w) := of_word _ w 0xED#8 (by decide) rfl (fun hw => by
  have h := modOk_of_wf (i := .dbgmStepoff w) rfl hw
  simp only [formDbgm, beq_iff_eq] at h
  show some (if modF w 0 2 = 1 then Instr.dbgmStepon w else if modF w 0 2 = 2 then Instr.dbgmStepoff w else Instr.dbgmBrk w) = _
  rw [h]; rfl)

theorem pairedWord (p : Pair) : Statement (.pairedWord p) := fun _ hw => by
  have hc : checkInstr (.pairedWord p) = 0 := by simpa [Instr.wf] using hw
  exact ⟨p.bits, rfl, by simp [decode, instrOf, pair_opcode, pair_round, hc]⟩

theorem issueCycle (core sched : Nat) : Statement (.issueCycle core sched) := of_event _ rfl

theorem yieldExpiry (blk tidx : Nat) : Statement (.yieldExpiry blk tidx) := of_event _ rfl

theorem resultWrite (blk tidx : Nat) : Statement (.resultWrite blk tidx) := of_event _ rfl

theorem loadReturn (blk tidx op : Nat) : Statement (.loadReturn blk tidx op) := of_event _ rfl

theorem storePerformed (blk tidx op : Nat) : Statement (.storePerformed blk tidx op) := of_event _ rfl

theorem commandAccept (cmd : Nat) : Statement (.commandAccept cmd) := of_event _ rfl

theorem tileOpRetire (blk tidx op : Nat) : Statement (.tileOpRetire blk tidx op) := of_event _ rfl

theorem timeWaitExpiry (blk tidx : Nat) : Statement (.timeWaitExpiry blk tidx) := of_event _ rfl

theorem translationWalk (ctx page acc : Nat) : Statement (.translationWalk ctx page acc) := of_event _ rfl

theorem trapEntry (blk tidx : Nat) : Statement (.trapEntry blk tidx) := of_event _ rfl

theorem copyLanding (cmd target first count : Nat) : Statement (.copyLanding cmd target first count) := of_event _ rfl

theorem timedCommandStart (cmd : Nat) : Statement (.timedCommandStart cmd) := of_event _ rfl

theorem engineFault (cmd : Nat) (ecc : Bool) : Statement (.engineFault cmd ecc) := of_event _ rfl

theorem gleanerWalk (cmd : Nat) : Statement (.gleanerWalk cmd) := of_event _ rfl

theorem sheafReplay (cmd : Nat) : Statement (.sheafReplay cmd) := of_event _ rfl

theorem collectiveExchange (cmd : Nat) (peers : List Peer) : Statement (.collectiveExchange cmd peers) := of_event _ rfl

theorem flagFlit (cmd : Nat) (bad : Bool) : Statement (.flagFlit cmd bad) := of_event _ rfl

theorem collectiveEnd (cmd : Nat) (lost : Bool) : Statement (.collectiveEnd cmd lost) := of_event _ rfl

theorem drainExecute (cmd : Nat) : Statement (.drainExecute cmd) := of_event _ rfl

theorem enginePassGrant (cluster : Nat) : Statement (.enginePassGrant cluster) := of_event _ rfl

theorem classAgeing (cluster entry : Nat) : Statement (.classAgeing cluster entry) := of_event _ rfl

theorem ctrsBarrierArrival (blk tidx op : Nat) : Statement (.ctrsBarrierArrival blk tidx op) := of_event _ rfl

theorem instanceClose (blk slot : Nat) : Statement (.instanceClose blk slot) := of_event _ rfl

theorem sectionCommit (cluster slot : Nat) : Statement (.sectionCommit cluster slot) := of_event _ rfl

theorem abortDelivery (blk tidx : Nat) : Statement (.abortDelivery blk tidx) := of_event _ rfl

theorem remotePatienceExpired (blk tidx : Nat) : Statement (.remotePatienceExpired blk tidx) := of_event _ rfl

theorem blockRetire (blk : Nat) : Statement (.blockRetire blk) := of_event _ rfl

theorem retireMsg (blk : Nat) : Statement (.retireMsg blk) := of_event _ rfl

theorem completionBitMessage (lid bit : Nat) : Statement (.completionBitMessage lid bit) := of_event _ rfl

theorem finalReport (dev lid done killed never : Nat) (faults : List FaultEntry) (counts : FaultCounts) : Statement (.finalReport dev lid done killed never faults counts) := of_event _ rfl

theorem completionForward (lid : Nat) (sent : PodDone) : Statement (.completionForward lid sent) := of_event _ rfl

theorem frontEndRound : Statement .frontEndRound := of_event _ rfl

theorem submitLaunch (q : Nat) : Statement (.submitLaunch q) := of_event _ rfl

theorem submitCancel (q : Nat) : Statement (.submitCancel q) := of_event _ rfl

theorem submitKill (q : Nat) : Statement (.submitKill q) := of_event _ rfl

theorem entryReserved (q : Nat) : Statement (.entryReserved q) := of_event _ rfl

theorem prologueStart (lid : Nat) : Statement (.prologueStart lid) := of_event _ rfl

theorem prologueBudgetExpired (lid : Nat) : Statement (.prologueBudgetExpired lid) := of_event _ rfl

theorem startTimeReached (lid : Nat) : Statement (.startTimeReached lid) := of_event _ rfl

theorem launchRelease (lid : Nat) : Statement (.launchRelease lid) := of_event _ rfl

theorem podSubmit (dev ctx : Nat) (record : Submission) : Statement (.podSubmit dev ctx record) := of_event _ rfl

theorem podRecordReceive (podSeq ctx dev : Nat) (record params : List Byte) : Statement (.podRecordReceive podSeq ctx dev record params) := of_event _ rfl

theorem rangeRequest (dev lid want : Nat) : Statement (.rangeRequest dev lid want) := of_event _ rfl

theorem rangeDeal (lid first count : Nat) : Statement (.rangeDeal lid first count) := of_event _ rfl

theorem splitRequest (dev lid : Nat) : Statement (.splitRequest dev lid) := of_event _ rfl

theorem splitReturn (dev lid first count : Nat) : Statement (.splitReturn dev lid first count) := of_event _ rfl

theorem podCancel (lid : Nat) (hard : Bool) : Statement (.podCancel lid hard) := of_event _ rfl

theorem unitHandoff (lid : Nat) : Statement (.unitHandoff lid) := of_event _ rfl

theorem placementRound (cluster : Nat) : Statement (.placementRound cluster) := of_event _ rfl

theorem placementTimer (cluster : Nat) : Statement (.placementTimer cluster) := of_event _ rfl

theorem dieGangAck (gang cluster : Nat) : Statement (.dieGangAck gang cluster) := of_event _ rfl

theorem gangStarved (gang : Nat) : Statement (.gangStarved gang) := of_event _ rfl

theorem gangPreemptTrigger (gang : Nat) : Statement (.gangPreemptTrigger gang) := of_event _ rfl

theorem residueWrite (blk : Nat) : Statement (.residueWrite blk) := of_event _ rfl

theorem clusterFailure (cluster reason : Nat) : Statement (.clusterFailure cluster reason) := of_event _ rfl

theorem cairnTimeout (cluster : Nat) : Statement (.cairnTimeout cluster) := of_event _ rfl

theorem placeMsg (cluster : Nat) (m : Msg) : Statement (.placeMsg cluster m) := of_event _ rfl

theorem killMsg (cluster : Nat) (m : Msg) : Statement (.killMsg cluster m) := of_event _ rfl

theorem preemptMsg (cluster : Nat) (m : Msg) : Statement (.preemptMsg cluster m) := of_event _ rfl

theorem faultMsg (cluster : Nat) (m : Msg) : Statement (.faultMsg cluster m) := of_event _ rfl

theorem patchMsg (cluster : Nat) (m : Msg) : Statement (.patchMsg cluster m) := of_event _ rfl

theorem permitMsg (cluster : Nat) (m : Msg) : Statement (.permitMsg cluster m) := of_event _ rfl

theorem ackMsg (cluster : Nat) (m : Msg) : Statement (.ackMsg cluster m) := of_event _ rfl

theorem messageUnknown (cluster : Nat) (m : Msg) : Statement (.messageUnknown cluster m) := of_event _ rfl

theorem permitTimeout (cluster : Nat) (toCairn : Bool) : Statement (.permitTimeout cluster toCairn) := of_event _ rfl

theorem submissionDoorbell (q : Nat) (v : W64) : Statement (.submissionDoorbell q v) := of_event _ rfl

theorem completionDoorbell (q : Nat) (v : W64) : Statement (.completionDoorbell q v) := of_event _ rfl

theorem qtbaseWrite (v : W64) : Statement (.qtbaseWrite v) := of_event _ rfl

theorem pmaskWrite (n : Nat) (v : W64) : Statement (.pmaskWrite n v) := of_event _ rfl

theorem pctlBind (n : Nat) (v : W64) : Statement (.pctlBind n v) := of_event _ rfl

theorem pctlHalt (n : Nat) (v : W64) : Statement (.pctlHalt n v) := of_event _ rfl

theorem pctlRun (n : Nat) (v : W64) : Statement (.pctlRun n v) := of_event _ rfl

theorem haltComplete (n : Nat) : Statement (.haltComplete n) := of_event _ rfl

theorem shadowSwap (n : Nat) (v : W64) : Statement (.shadowSwap n v) := of_event _ rfl

theorem swapDone (n : Nat) : Statement (.swapDone n) := of_event _ rfl

theorem resumeReplay (ctx : Nat) (v : W64) : Statement (.resumeReplay ctx v) := of_event _ rfl

theorem resumeFail (ctx : Nat) (v : W64) : Statement (.resumeFail ctx v) := of_event _ rfl

theorem translationInvalidate (v : W64) : Statement (.translationInvalidate v) := of_event _ rfl

theorem xinvDone : Statement .xinvDone := of_event _ rfl

theorem registerWrite (off : Nat) (v : W64) : Statement (.registerWrite off v) := of_event _ rfl

theorem counterClear (cluster sched : Nat) (v : W64) : Statement (.counterClear cluster sched v) := of_event _ rfl

theorem counterFreeze (cluster sched : Nat) (v : W64) : Statement (.counterFreeze cluster sched v) := of_event _ rfl

theorem sampleLatch (cluster sched : Nat) : Statement (.sampleLatch cluster sched) := of_event _ rfl

theorem hperrRead : Statement .hperrRead := of_event _ rfl

theorem healthRead (cluster : Nat) : Statement (.healthRead cluster) := of_event _ rfl

theorem traceHeadWrite (ctx : Nat) (v : W64) : Statement (.traceHeadWrite ctx v) := of_event _ rfl

theorem replayStart (ctx : Nat) (v : W64) : Statement (.replayStart ctx v) := of_event _ rfl

theorem peerWrite (addr : Nat) (bytes : List Byte) : Statement (.peerWrite addr bytes) := of_event _ rfl

theorem portReadError (blk tidx op : Nat) : Statement (.portReadError blk tidx op) := of_event _ rfl

theorem portReadTimeout (blk tidx op : Nat) : Statement (.portReadTimeout blk tidx op) := of_event _ rfl

theorem peerWriteRefused (blk tidx op : Nat) : Statement (.peerWriteRefused blk tidx op) := of_event _ rfl

theorem flitCrcError (port : Flit) : Statement (.flitCrcError port) := of_event _ rfl

theorem linkDown (port : Nat) : Statement (.linkDown port) := of_event _ rfl

theorem deviceLeavesPod (dev : Nat) : Statement (.deviceLeavesPod dev) := of_event _ rfl

theorem heartbeatMissed : Statement .heartbeatMissed := of_event _ rfl

theorem selfTestPass : Statement .selfTestPass := of_event _ rfl

theorem resetEvent : Statement .resetEvent := of_event _ rfl

theorem minverWrite (v : W64) : Statement (.minverWrite v) := of_event _ rfl

theorem patchStart (v : W64) : Statement (.patchStart v) := of_event _ rfl

theorem patchVerify : Statement .patchVerify := of_event _ rfl

theorem patchSwap : Statement .patchSwap := of_event _ rfl

theorem patchTimeout : Statement .patchTimeout := of_event _ rfl

theorem patchComplete : Statement .patchComplete := of_event _ rfl

theorem attestRequest (v : W64) : Statement (.attestRequest v) := of_event _ rfl

theorem certificateRequest (v : W64) : Statement (.certificateRequest v) := of_event _ rfl

theorem thermalStep (temp : Nat) : Statement (.thermalStep temp) := of_event _ rfl

theorem thermalShutdown : Statement .thermalShutdown := of_event _ rfl

theorem cancelBroadcastReceipt (lid : Nat) (hard : Bool) : Statement (.cancelBroadcastReceipt lid hard) := of_event _ rfl

theorem activeCoreError : Statement .activeCoreError := of_event _ rfl

theorem ridgeActivation (dev : Nat) : Statement (.ridgeActivation dev) := of_event _ rfl

end Sys2Proof.Laws.RoundTrip
end

