-- ==== Sys2Proof/Tests/Slice0.lean ====
section
/-! SUPPORT. Tests: words written out from the encodings of spec/, ill-formed terms that the checks refuse, worked examples of the
spec, and for every statement with hypotheses the state and operands that meet them. -/

set_option linter.unusedVariables false
set_option Elab.async false

namespace Sys2Proof.Tests.Slice0

open Sys2Proof.Machine

/-- A word with an empty guard and no hint. -/
def wd (d a b : Opd) (mod : BitVec 10) (imm : W32) : Word :=
  { grd := ⟨false, 0⟩, hnt := ⟨0, false, false, false, false, false⟩, d := d, a := a, b := b, mod := mod, imm := imm }

/-! ### Decoding -/

/-- Words of the control family, field by field (R88, R107), against what decoding gives. -/
theorem test_decode_control :
    -- NOP
    decodeTableWord 96 0x000000000000000000000000 = some (.nop (wd (.reg 0) (.reg 0) (.reg 0) 0x0 0x0)) ∧
    -- BRA loop
    decodeTableWord 96 0xFFFFFFFB0000000000000001 = some (.bra (wd (.reg 0) (.reg 0) (.reg 0) 0x0 0xfffffffb)) ∧
    -- BRX V5, -2
    decodeTableWord 96 0xFFFFFFFE0000001400000002 = some (.brx (wd (.reg 0) (.reg 5) (.reg 0) 0x0 0xfffffffe)) ∧
    -- CALL V30, build
    decodeTableWord 96 0x00000035000000001E000003 = some (.call (wd (.reg 30) (.reg 0) (.reg 0) 0x0 0x35)) ∧
    -- CALLX V3, V5
    decodeTableWord 96 0x000000000000001403000004 = some (.callx (wd (.reg 3) (.reg 5) (.reg 0) 0x0 0x0)) ∧
    -- RET V30
    decodeTableWord 96 0x000000000000007800000005 = some (.ret (wd (.reg 0) (.reg 30) (.reg 0) 0x0 0x0)) ∧
    -- (!P5) EXIT
    decodeTableWord 96 0x000000000000000000008506 = some (.exit { wd (.reg 0) (.reg 0) (.reg 0) 0x0 0x0 with grd := ⟨true, 5⟩ }) ∧
    -- join: JOIN JM1
    decodeTableWord 96 0x000000000040000000000007 = some (.join (wd (.reg 0) (.reg 0) (.reg 0) 0x1 0x0)) ∧
    -- JMSET.or.self JM1
    decodeTableWord 96 0x000000000A40000000000008 = some (.jmset (wd (.reg 0) (.reg 0) (.reg 0) 0x29 0x0)) ∧
    -- JMGET V4, JM2
    decodeTableWord 96 0x000000000080000004000009 = some (.jmget (wd (.reg 4) (.reg 0) (.reg 0) 0x2 0x0)) ∧
    -- YIELD
    decodeTableWord 96 0x00000000000000000000000A = some (.yield (wd (.reg 0) (.reg 0) (.reg 0) 0x0 0x0)) ∧
    -- WAITC 0, 63, 63, 63
    decodeTableWord 96 0x3F3F3F00000000000000000B = some (.waitc (wd (.reg 0) (.reg 0) (.reg 0) 0x0 0x3f3f3f00)) ∧
    -- WAITT V16
    decodeTableWord 96 0x00000000000000400000000C = some (.waitt (wd (.reg 0) (.reg 16) (.reg 0) 0x0 0x0)) ∧
    -- BPT 7
    decodeTableWord 96 0x00000007000000000000000D = some (.bpt (wd (.reg 0) (.reg 0) (.reg 0) 0x0 0x7)) ∧
    -- TRAP 0x2A
    decodeTableWord 96 0x0000002A000000000000000E = some (.trap (wd (.reg 0) (.reg 0) (.reg 0) 0x0 0x2a)) ∧
    -- ERET
    decodeTableWord 96 0x00000000000000000000000F = some (.eret (wd (.reg 0) (.reg 0) (.reg 0) 0x0 0x0)) := by
  decide +kernel

/-- Words of the integer family, field by field (R88, R107), against what decoding gives. -/
theorem test_decode_integer :
    -- IADD V1, V2, 5
    decodeTableWord 96 0x0000000501B0000801000010 = some (.iadd (wd (.reg 1) (.reg 2) (.imm 0) 0x6 0x5)) ∧
    -- ISUB.s32 V1, V2, V3
    decodeTableWord 96 0x000000000080300801000011 = some (.isub (wd (.reg 1) (.reg 2) (.reg 3) 0x2 0x0)) ∧
    -- IMUL.s32 V31, LANE, 144
    decodeTableWord 96 0x0000009000B004201F000012 = some (.imul (wd (.reg 31) (.special 8) (.imm 0) 0x2 0x90)) ∧
    -- IMULH.n32 V1, V2, 7
    decodeTableWord 96 0x0000000701B0000801000013 = some (.imulh (wd (.reg 1) (.reg 2) (.imm 0) 0x6 0x7)) ∧
    -- IMAD.s32 V4, V5, V6, V7
    decodeTableWord 96 0x000000070080601404000014 = some (.imad (wd (.reg 4) (.reg 5) (.reg 6) 0x2 0x7)) ∧
    -- IMADW.s32 V4, V6, V7, V8
    decodeTableWord 96 0x000000080080701804000015 = some (.imadw (wd (.reg 4) (.reg 6) (.reg 7) 0x2 0x8)) ∧
    -- IMIN.s32 V1, V2, V3
    decodeTableWord 96 0x000000000080300801000016 = some (.imin (wd (.reg 1) (.reg 2) (.reg 3) 0x2 0x0)) ∧
    -- IMAX.n32 V1, V2, V3
    decodeTableWord 96 0x000000000180300801000017 = some (.imax (wd (.reg 1) (.reg 2) (.reg 3) 0x6 0x0)) ∧
    -- IABS.s32 V1, V2
    decodeTableWord 96 0x000000000080000801000018 = some (.iabs (wd (.reg 1) (.reg 2) (.reg 0) 0x2 0x0)) ∧
    -- IADDC V0, V4, V8, !P0, P9
    decodeTableWord 96 0x000009800000801000000019 = some (.iaddc (wd (.reg 0) (.reg 4) (.reg 8) 0x0 0x980)) ∧
    -- LEA V94, V92, V5
    decodeTableWord 96 0x00000000000051705E00001A = some (.lea (wd (.reg 94) (.reg 92) (.reg 5) 0x0 0x0)) ∧
    -- IDOT4 V1, V2, V3, V4
    decodeTableWord 96 0x00000004000030080100001B = some (.idot4 (wd (.reg 1) (.reg 2) (.reg 3) 0x0 0x4)) ∧
    -- ISAD.n32 V1, V2, V3, V4
    decodeTableWord 96 0x00000004018030080100001C = some (.isad (wd (.reg 1) (.reg 2) (.reg 3) 0x6 0x4)) ∧
    -- IDIV.s32 V1, V2, V3
    decodeTableWord 96 0x00000000008030080100001D = some (.idiv (wd (.reg 1) (.reg 2) (.reg 3) 0x2 0x0)) ∧
    -- IREM.n32 V1, V2, V3
    decodeTableWord 96 0x00000000018030080100001E = some (.irem (wd (.reg 1) (.reg 2) (.reg 3) 0x6 0x0)) := by
  decide +kernel

/-- Words of the bits family, field by field (R88, R107), against what decoding gives. -/
theorem test_decode_bits :
    -- LUT3 V1, V2, V3, V4, 0xE8
    decodeTableWord 96 0x0003A0040000300801000020 = some (.lut3 (wd (.reg 1) (.reg 2) (.reg 3) 0x0 0x3a004)) ∧
    -- SHL V5, LANE, 4
    decodeTableWord 96 0x000000040030042005000021 = some (.shl (wd (.reg 5) (.special 8) (.imm 0) 0x0 0x4)) ∧
    -- SHR V5, LANE, 1
    decodeTableWord 96 0x000000010030042005000022 = some (.shr (wd (.reg 5) (.special 8) (.imm 0) 0x0 0x1)) ∧
    -- SAR V1, V2, 5
    decodeTableWord 96 0x000000050030000801000023 = some (.sar (wd (.reg 1) (.reg 2) (.imm 0) 0x0 0x5)) ∧
    -- ROTL.64 V2, V4, V6
    decodeTableWord 96 0x000000004000601002000024 = some (.rotl (wd (.reg 2) (.reg 4) (.reg 6) 0x100 0x0)) ∧
    -- FUNNEL V1, V2, V3, V4
    decodeTableWord 96 0x000000040000300801000025 = some (.funnel (wd (.reg 1) (.reg 2) (.reg 3) 0x0 0x4)) ∧
    -- BPRM V6, V2, ZERO, 0x0005_0900
    decodeTableWord 96 0x000509000010000806000026 = some (.bprm (wd (.reg 6) (.reg 2) (.special 0) 0x0 0x50900)) ∧
    -- BFX.n32 V53, V52, 0x0110
    decodeTableWord 96 0x0000011001B000D035000027 = some (.bfx (wd (.reg 53) (.reg 52) (.imm 0) 0x6 0x110)) ∧
    -- BFI V1, V2, V3, V4
    decodeTableWord 96 0x000000040000300801000028 = some (.bfi (wd (.reg 1) (.reg 2) (.reg 3) 0x0 0x4)) ∧
    -- POPC V58, V56
    decodeTableWord 96 0x00000000000000E03A000029 = some (.popc (wd (.reg 58) (.reg 56) (.reg 0) 0x0 0x0)) ∧
    -- CLZ V1, V2
    decodeTableWord 96 0x00000000000000080100002A = some (.clz (wd (.reg 1) (.reg 2) (.reg 0) 0x0 0x0)) ∧
    -- BREV V1, V2
    decodeTableWord 96 0x00000000000000080100002B = some (.brev (wd (.reg 1) (.reg 2) (.reg 0) 0x0 0x0)) ∧
    -- FFS V1, V2
    decodeTableWord 96 0x00000000000000080100002C = some (.ffs (wd (.reg 1) (.reg 2) (.reg 0) 0x0 0x0)) ∧
    -- MOV V5, 0x3F80_0000
    decodeTableWord 96 0x3F80000000000C000500002D = some (.mov (wd (.reg 5) (.imm 0) (.reg 0) 0x0 0x3f800000)) ∧
    -- MOVW V2, PW2, PW3
    decodeTableWord 96 0x00000000001134480200002E = some (.movw (wd (.reg 2) (.special 18) (.special 19) 0x0 0x0)) ∧
    -- SEL V7, ZERO, V1, P4
    decodeTableWord 96 0x00000000010014000700002F = some (.sel (wd (.reg 7) (.special 0) (.reg 1) 0x4 0x0)) := by
  decide +kernel

/-- Words of the compares family, field by field (R88, R107), against what decoding gives. -/
theorem test_decode_compares :
    -- ICMP.lt.s32 P4, V1, ZERO
    decodeTableWord 96 0x000000000490000404000030 = some (.icmp (wd (.reg 4) (.reg 1) (.special 0) 0x12 0x0)) ∧
    -- FCMP P4, V1, V2
    decodeTableWord 96 0x000000000000200404000031 = some (.fcmp (wd (.reg 4) (.reg 1) (.reg 2) 0x0 0x0)) ∧
    -- HCMP2 P4, V1, V2
    decodeTableWord 96 0x000000000000200404000032 = some (.hcmp2 (wd (.reg 4) (.reg 1) (.reg 2) 0x0 0x0)) ∧
    -- DCMP P4, V2, V4
    decodeTableWord 96 0x000000000000400804000033 = some (.dcmp (wd (.reg 4) (.reg 2) (.reg 4) 0x0 0x0)) ∧
    -- PLOP P5, P1, P4, P0, 0xC0
    decodeTableWord 96 0x000300000000400405000034 = some (.plop (wd (.reg 5) (.reg 1) (.reg 4) 0x0 0x30000)) ∧
    -- P2V V24, P0, 16
    decodeTableWord 96 0x0000000003C0000018000035 = some (.p2v (wd (.reg 24) (.reg 0) (.reg 0) 0xf 0x0)) ∧
    -- V2P P0, V24, 16
    decodeTableWord 96 0x0000000003C0006000000036 = some (.v2p (wd (.reg 0) (.reg 24) (.reg 0) 0xf 0x0)) ∧
    -- FCLASS V7, V0
    decodeTableWord 96 0x000000000000000007000037 = some (.fclass (wd (.reg 7) (.reg 0) (.reg 0) 0x0 0x0)) ∧
    -- TQSET TQ3, P9
    decodeTableWord 96 0x000000000000002403000038 = some (.tqset (wd (.reg 3) (.reg 9) (.reg 0) 0x0 0x0)) ∧
    -- TQGET P4, TQ3
    decodeTableWord 96 0x000000000000000C04000039 = some (.tqget (wd (.reg 4) (.reg 3) (.reg 0) 0x0 0x0)) := by
  decide +kernel

/-- Words of the float family, field by field (R88, R107), against what decoding gives. -/
theorem test_decode_float :
    -- FADD V18, V14, V16
    decodeTableWord 96 0x000000000001003812000040 = some (.fadd (wd (.reg 18) (.reg 14) (.reg 16) 0x0 0x0)) ∧
    -- (P4) FMUL V2, V0, V1
    decodeTableWord 96 0x000000000000100002000441 = some (.fmul { wd (.reg 2) (.reg 0) (.reg 1) 0x0 0x0 with grd := ⟨false, 4⟩ }) ∧
    -- (P3) FFMA.rz V20, V21, X1[-3], V23
    decodeTableWord 96 0x000000174027D05414040342 = some (.ffma { wd (.reg 20) (.reg 21) (.idx 1 61) 0x100 0x17 with grd := ⟨false, 3⟩, hnt := ⟨0, false, false, true, false, false⟩ }) ∧
    -- FMIN V1, V2, V3
    decodeTableWord 96 0x000000000000300801000043 = some (.fmin (wd (.reg 1) (.reg 2) (.reg 3) 0x0 0x0)) ∧
    -- FMAX V14, V14, V15
    decodeTableWord 96 0x000000000000F0380E000044 = some (.fmax (wd (.reg 14) (.reg 14) (.reg 15) 0x0 0x0)) ∧
    -- FRND V1, V2
    decodeTableWord 96 0x000000000000000801000045 = some (.frnd (wd (.reg 1) (.reg 2) (.reg 0) 0x0 0x0)) ∧
    -- FSCALE V1, V2, V3
    decodeTableWord 96 0x000000000000300801000046 = some (.fscale (wd (.reg 1) (.reg 2) (.reg 3) 0x0 0x0)) ∧
    -- FGETEXP V1, V2
    decodeTableWord 96 0x000000000000000801000047 = some (.fgetexp (wd (.reg 1) (.reg 2) (.reg 0) 0x0 0x0)) ∧
    -- FSET V1, V2, V3
    decodeTableWord 96 0x000000000000300801000048 = some (.fset (wd (.reg 1) (.reg 2) (.reg 3) 0x0 0x0)) ∧
    -- (P3) FCPYSGN.neg V10, V10, V10
    decodeTableWord 96 0x000000001000A0280A000349 = some (.fcpysgn { wd (.reg 10) (.reg 10) (.reg 10) 0x40 0x0 with grd := ⟨false, 3⟩ }) := by
  decide +kernel

/-- Words of the packed and double family, field by field (R88, R107), against what decoding gives. -/
theorem test_decode_packed_and_double :
    -- HADD2 V1, V2, V3
    decodeTableWord 96 0x000000000000300801000050 = some (.hadd2 (wd (.reg 1) (.reg 2) (.reg 3) 0x0 0x0)) ∧
    -- HMUL2 V1, V2, V3
    decodeTableWord 96 0x000000000000300801000051 = some (.hmul2 (wd (.reg 1) (.reg 2) (.reg 3) 0x0 0x0)) ∧
    -- HFMA2 V1, V2, V3, V4
    decodeTableWord 96 0x000000040000300801000052 = some (.hfma2 (wd (.reg 1) (.reg 2) (.reg 3) 0x0 0x4)) ∧
    -- HMIN2 V1, V2, V3
    decodeTableWord 96 0x000000000000300801000053 = some (.hmin2 (wd (.reg 1) (.reg 2) (.reg 3) 0x0 0x0)) ∧
    -- HMAX2 V1, V2, V3
    decodeTableWord 96 0x000000000000300801000054 = some (.hmax2 (wd (.reg 1) (.reg 2) (.reg 3) 0x0 0x0)) ∧
    -- HDOT2 V1, V2, V3, V4
    decodeTableWord 96 0x000000040000300801000055 = some (.hdot2 (wd (.reg 1) (.reg 2) (.reg 3) 0x0 0x4)) ∧
    -- DADD V2, V4, V6
    decodeTableWord 96 0x000000000000601002000058 = some (.dadd (wd (.reg 2) (.reg 4) (.reg 6) 0x0 0x0)) ∧
    -- DMUL V2, V4, V6
    decodeTableWord 96 0x000000000000601002000059 = some (.dmul (wd (.reg 2) (.reg 4) (.reg 6) 0x0 0x0)) ∧
    -- DFMA V2, V4, V6, V8
    decodeTableWord 96 0x00000008000060100200005A = some (.dfma (wd (.reg 2) (.reg 4) (.reg 6) 0x0 0x8)) ∧
    -- DMIN V2, V4, V6
    decodeTableWord 96 0x00000000000060100200005B = some (.dmin (wd (.reg 2) (.reg 4) (.reg 6) 0x0 0x0)) ∧
    -- DMAX V2, V4, V6
    decodeTableWord 96 0x00000000000060100200005C = some (.dmax (wd (.reg 2) (.reg 4) (.reg 6) 0x0 0x0)) := by
  decide +kernel

/-- Words of the conversions family, field by field (R88, R107), against what decoding gives. -/
theorem test_decode_conversions :
    -- CVT.f32.f16 V1, V2
    decodeTableWord 96 0x000001000000000801000060 = some (.cvt (wd (.reg 1) (.reg 2) (.reg 0) 0x0 0x100)) ∧
    -- CVTSC V1, V2, V3
    decodeTableWord 96 0x000000040000300801000061 = some (.cvtsc (wd (.reg 1) (.reg 2) (.reg 3) 0x0 0x4)) ∧
    -- PACKN.e4m3.x4 V8, V4
    decodeTableWord 96 0x000000040600001008000062 = some (.packn (wd (.reg 8) (.reg 4) (.reg 0) 0x18 0x4)) ∧
    -- UNPKN.bf16.x2 V14, V4
    decodeTableWord 96 0x00000002020000100E000063 = some (.unpkn (wd (.reg 14) (.reg 4) (.reg 0) 0x8 0x2)) ∧
    -- FMSET FM2, q43u
    decodeTableWord 96 0x0001034300000C0002000064 = some (.fmset (wd (.reg 2) (.imm 0) (.reg 0) 0x0 0x10343)) ∧
    -- FMGET V1, FM2
    decodeTableWord 96 0x000000000000000801000065 = some (.fmget (wd (.reg 1) (.reg 2) (.reg 0) 0x0 0x0)) := by
  decide +kernel

/-- Words of the special functions family, field by field (R88, R107), against what decoding gives. -/
theorem test_decode_special_functions :
    -- RSQS V1, V0
    decodeTableWord 96 0x000000000000000001000068 = some (.rsqs (wd (.reg 1) (.reg 0) (.reg 0) 0x0 0x0)) ∧
    -- RCPS V1, V2
    decodeTableWord 96 0x000000000000000801000069 = some (.rcps (wd (.reg 1) (.reg 2) (.reg 0) 0x0 0x0)) ∧
    -- SINR V10, V8
    decodeTableWord 96 0x00000000000000200A00006A = some (.sinr (wd (.reg 10) (.reg 8) (.reg 0) 0x0 0x0)) ∧
    -- COSR V9, V8
    decodeTableWord 96 0x00000000000000200900006B = some (.cosr (wd (.reg 9) (.reg 8) (.reg 0) 0x0 0x0)) ∧
    -- EX2 V1, V2
    decodeTableWord 96 0x00000000000000080100006C = some (.ex2 (wd (.reg 1) (.reg 2) (.reg 0) 0x0 0x0)) ∧
    -- LG2 V1, V2
    decodeTableWord 96 0x00000000000000080100006D = some (.lg2 (wd (.reg 1) (.reg 2) (.reg 0) 0x0 0x0)) ∧
    -- TNH V1, V2
    decodeTableWord 96 0x00000000000000080100006E = some (.tnh (wd (.reg 1) (.reg 2) (.reg 0) 0x0 0x0)) ∧
    -- SIGM V1, V2
    decodeTableWord 96 0x00000000000000080100006F = some (.sigm (wd (.reg 1) (.reg 2) (.reg 0) 0x0 0x0)) := by
  decide +kernel

/-- Words of the cross lane family, field by field (R88, R107), against what decoding gives. -/
theorem test_decode_cross_lane :
    -- SHFL.xor V3, V2, 1
    decodeTableWord 96 0x0000000100F0000803000070 = some (.shfl (wd (.reg 3) (.reg 2) (.imm 0) 0x3 0x1)) ∧
    -- XBF.2.x8 V0, V0
    decodeTableWord 96 0x000000000200000000000071 = some (.xbf (wd (.reg 0) (.reg 0) (.reg 0) 0x8 0x0)) ∧
    -- VOTE.ballot V56, P3
    decodeTableWord 96 0x0000000000C0000C38000072 = some (.vote (wd (.reg 56) (.reg 3) (.reg 0) 0x3 0x0)) ∧
    -- REDG V1, V2
    decodeTableWord 96 0x000000000000000801000073 = some (.redg (wd (.reg 1) (.reg 2) (.reg 0) 0x0 0x0)) ∧
    -- SCANG V1, V2
    decodeTableWord 96 0x000000000000000801000074 = some (.scang (wd (.reg 1) (.reg 2) (.reg 0) 0x0 0x0)) ∧
    -- MATCH V2, V4
    decodeTableWord 96 0x000000000000001002000075 = some (.matchLanes (wd (.reg 2) (.reg 4) (.reg 0) 0x0 0x0)) ∧
    -- ELECT P3
    decodeTableWord 96 0x000000000000000003000076 = some (.elect (wd (.reg 3) (.reg 0) (.reg 0) 0x0 0x0)) ∧
    -- TOPK.8 V20, V18, LANE
    decodeTableWord 96 0x0000000001D0804814000077 = some (.topk (wd (.reg 20) (.reg 18) (.special 8) 0x7 0x0)) := by
  decide +kernel

/-- Words of the memory family, field by field (R88, R107), against what decoding gives. -/
theorem test_decode_memory :
    -- LD.n32 V4, V2, 16
    decodeTableWord 96 0x000000100180000804000080 = some (.ld (wd (.reg 4) (.reg 2) (.reg 0) 0x6 0x10)) ∧
    -- ST.n32.v4 V88, V40, 0
    decodeTableWord 96 0x000000000982816000000081 = some (.st (wd (.reg 0) (.reg 88) (.reg 40) 0x26 0x0)) ∧
    -- LDS.n32.v2 V24, V5, 256
    decodeTableWord 96 0x000001000580001418000082 = some (.lds (wd (.reg 24) (.reg 5) (.reg 0) 0x16 0x100)) ∧
    -- (P2) STS V7, V9, 0
    decodeTableWord 96 0x000000000180901C00000283 = some (.sts { wd (.reg 0) (.reg 7) (.reg 9) 0x6 0x0 with grd := ⟨false, 2⟩ }) ∧
    -- LDP.n64 V2, ZERO, 0
    decodeTableWord 96 0x0000000001C0040002000084 = some (.ldp (wd (.reg 2) (.special 0) (.reg 0) 0x7 0x0)) ∧
    -- STW2, 32-bit elements, two of them
    decodeTableWord 96 0x000010060240400800000085 = some (.stw2 (wd (.reg 0) (.reg 2) (.reg 4) 0x9 0x1006)) ∧
    -- LDXP.b16.k8 V32, V12, V14, 64, P6
    decodeTableWord 96 0x000006400040E03020000086 = some (.ldxp (wd (.reg 32) (.reg 12) (.reg 14) 0x1 0x640)) ∧
    -- PRF, level 1, offset 64
    decodeTableWord 96 0x000000400040000800000087 = some (.prf (wd (.reg 0) (.reg 2) (.reg 0) 0x1 0x40)) ∧
    -- CCTL.ivl V2, 0
    decodeTableWord 96 0x000000000000000800000088 = some (.cctlIvl (wd (.reg 0) (.reg 2) (.reg 0) 0x0 0x0)) ∧
    -- CCTL.iva
    decodeTableWord 96 0x000000000040000000000088 = some (.cctlIva (wd (.reg 0) (.reg 0) (.reg 0) 0x1 0x0)) ∧
    -- CCTL.wbm V2, 64
    decodeTableWord 96 0x000000400080000800000088 = some (.cctlWbm (wd (.reg 0) (.reg 2) (.reg 0) 0x2 0x40)) ∧
    -- CCTL.wim V2, -64
    decodeTableWord 96 0xFFFFFFC000C0000800000088 = some (.cctlWim (wd (.reg 0) (.reg 2) (.reg 0) 0x3 0xffffffc0)) ∧
    -- (P3) LDSX.n32 V10, V6, 64
    decodeTableWord 96 0x0000004001B000180A000389 = some (.ldsx { wd (.reg 10) (.reg 6) (.imm 0) 0x6 0x40 with grd := ⟨false, 3⟩ }) ∧
    -- STSX.n32 V1, V2, V3
    decodeTableWord 96 0x00000003018020040000008A = some (.stsx (wd (.reg 0) (.reg 1) (.reg 2) 0x6 0x3)) := by
  decide +kernel

/-- Words of the tiles and grids family, field by field (R88, R107), against what decoding gives. -/
theorem test_decode_tiles_and_grids :
    -- TLK V6, V8, P3
    decodeTableWord 96 0x000000000000302006000090 = some (.tlk (wd (.reg 6) (.reg 8) (.reg 3) 0x0 0x0)) ∧
    -- (P1) TTAG LANE, V40
    decodeTableWord 96 0x000000000002842000000191 = some (.ttag { wd (.reg 0) (.special 8) (.reg 40) 0x0 0x0 with grd := ⟨false, 1⟩ }) ∧
    -- TSTAT V4, V3
    decodeTableWord 96 0x000000000000000C04000092 = some (.tstat (wd (.reg 4) (.reg 3) (.reg 0) 0x0 0x0)) ∧
    -- TINV V3
    decodeTableWord 96 0x000000000000000C00000093 = some (.tinv (wd (.reg 0) (.reg 3) (.reg 0) 0x0 0x0)) ∧
    -- HGL.lin V20, V2, PW2, 0x3, P5
    decodeTableWord 96 0x001400030011200814000094 = some (.hgl (wd (.reg 20) (.reg 2) (.special 18) 0x0 0x140003)) ∧
    -- HGA, level mask 3
    decodeTableWord 96 0x00000C080000500800000095 = some (.hga (wd (.reg 0) (.reg 2) (.reg 5) 0x0 0xc08)) ∧
    -- HGW, level 0
    decodeTableWord 96 0x000000000000202004000096 = some (.hgw (wd (.reg 4) (.reg 8) (.reg 2) 0x0 0x0)) := by
  decide +kernel

/-- Words of the atomics family, field by field (R88, R107), against what decoding gives. -/
theorem test_decode_atomics :
    -- ATOM.add.n32.dev V10, V2, V7
    decodeTableWord 96 0x00000000A18070080A0000A0 = some (.atom (wd (.reg 10) (.reg 2) (.reg 7) 0x286 0x0)) ∧
    -- ATOMC.n32.dev V1, V2, V4, V5
    decodeTableWord 96 0x00000005A1804008010000A1 = some (.atomc (wd (.reg 1) (.reg 2) (.reg 4) 0x286 0x5)) ∧
    -- ATOMF.f32.dev V1, V2, V4, offset 8
    decodeTableWord 96 0x00000008A0004008010000A2 = some (.atomf (wd (.reg 1) (.reg 2) (.reg 4) 0x280 0x8)) ∧
    -- RED.add.n32.dev V2, V4, -4
    decodeTableWord 96 0xFFFFFFFCA1804008000000A3 = some (.red (wd (.reg 0) (.reg 2) (.reg 4) 0x286 0xfffffffc)) ∧
    -- REDF.f32.dev V2, V4, 0
    decodeTableWord 96 0x00000000A0004008000000A4 = some (.redf (wd (.reg 0) (.reg 2) (.reg 4) 0x280 0x0)) ∧
    -- ATOMS.add.n32 V1, V2, V3, 16
    decodeTableWord 96 0x0000001001803008010000A5 = some (.atoms (wd (.reg 1) (.reg 2) (.reg 3) 0x6 0x10)) ∧
    -- ATOMW.cas.dev V4, V2, V8, V12
    decodeTableWord 96 0x0000000CA2008008040000A6 = some (.atomw (wd (.reg 4) (.reg 2) (.reg 8) 0x288 0xc)) ∧
    -- SHA.add.f32 V2, V7, 8
    decodeTableWord 96 0x0000000800007008000000A7 = some (.sha (wd (.reg 0) (.reg 2) (.reg 7) 0x0 0x8)) := by
  decide +kernel

/-- Words of the barriers family, field by field (R88, R107), against what decoding gives. -/
theorem test_decode_barriers :
    -- BINIT.exitdrop V4, ZERO
    decodeTableWord 96 0x0000000000500010000000B0 = some (.binit (wd (.reg 0) (.reg 4) (.special 0) 0x1 0x0)) ∧
    -- ARRV V6, V4, 1
    decodeTableWord 96 0x0000000100300010060000B1 = some (.arrv (wd (.reg 6) (.reg 4) (.imm 0) 0x0 0x1)) ∧
    -- PWAIT V4, V6
    decodeTableWord 96 0x0000000000006010000000B2 = some (.pwait (wd (.reg 0) (.reg 4) (.reg 6) 0x0 0x0)) ∧
    -- PTEST P3, V4, V5
    decodeTableWord 96 0x0000000000005010030000B3 = some (.ptest (wd (.reg 3) (.reg 4) (.reg 5) 0x0 0x0)) ∧
    -- FENCE.rel.dev
    decodeTableWord 96 0x0000000005400000000000B4 = some (.fence (wd (.reg 0) (.reg 0) (.reg 0) 0x15 0x0)) ∧
    -- XFENCE.copy.core.clu
    decodeTableWord 96 0x0000000030400000000000B5 = some (.xfence (wd (.reg 0) (.reg 0) (.reg 0) 0xc1 0x0)) ∧
    -- ACQ.ge ZERO, V12, 1
    decodeTableWord 96 0x0000000100700031000000B6 = some (.acq (wd (.special 0) (.reg 12) (.imm 0) 0x1 0x1)) ∧
    -- REL.add V12, 1
    decodeTableWord 96 0x0000000100300030000000B7 = some (.rel (wd (.reg 0) (.reg 12) (.imm 0) 0x0 0x1)) ∧
    -- RBIND V3, V10, 2
    decodeTableWord 96 0x0000000200300028030000B8 = some (.rbind (wd (.reg 3) (.reg 10) (.imm 0) 0x0 0x2)) ∧
    -- BEXP V4, V5
    decodeTableWord 96 0x0000000000005010000000B9 = some (.bexp (wd (.reg 0) (.reg 4) (.reg 5) 0x0 0x0)) := by
  decide +kernel

/-- Words of the granary family, field by field (R88, R107), against what decoding gives. -/
theorem test_decode_granary :
    -- CTR.f16.grp.jm1 V4, V8, V24
    decodeTableWord 96 0x001FFC1810008010000000C0 = some (.ctr (wd (.reg 0) (.reg 4) (.reg 8) 0x40 0x1ffc18)) ∧
    -- CTRS.bf16.blk V4, V16, V20
    decodeTableWord 96 0x000FFC1424010010000000C1 = some (.ctrs (wd (.reg 0) (.reg 4) (.reg 16) 0x90 0xffc14)) ∧
    -- CTRSP.e4m3.blk.k16 V4, V8, V16
    decodeTableWord 96 0x000FFC1044408010000000C2 = some (.ctrsp (wd (.reg 0) (.reg 4) (.reg 8) 0x111 0xffc10)) ∧
    -- CWD V4
    decodeTableWord 96 0x0000000000000010000000C3 = some (.cwd (wd (.reg 0) (.reg 4) (.reg 0) 0x0 0x0)) ∧
    -- (P2) AALLOC.xf40.grp V4
    decodeTableWord 96 0x0000000000400000040002C4 = some (.aalloc { wd (.reg 4) (.reg 0) (.reg 0) 0x1 0x0 with grd := ⟨false, 2⟩ }) ∧
    -- AFREE V4
    decodeTableWord 96 0x0000000000000010000000C5 = some (.afree (wd (.reg 0) (.reg 4) (.reg 0) 0x0 0x0)) ∧
    -- AZERO V4
    decodeTableWord 96 0x0000000000000010000000C6 = some (.azero (wd (.reg 0) (.reg 4) (.reg 0) 0x0 0x0)) ∧
    -- ALD.f32 V40, V4, 7
    decodeTableWord 96 0x0000000700300010280000C7 = some (.ald (wd (.reg 40) (.reg 4) (.imm 0) 0x0 0x7)) ∧
    -- AST.f32 V4, V5, V40
    decodeTableWord 96 0x0000002800005010000000C8 = some (.ast (wd (.reg 0) (.reg 4) (.reg 5) 0x0 0x28)) ∧
    -- ADRN.add V4, V10, V12
    decodeTableWord 96 0x000FFC0C0040A010000000C9 = some (.adrn (wd (.reg 0) (.reg 4) (.reg 10) 0x1 0xffc0c)) ∧
    -- ASTAT.clr V9, V4
    decodeTableWord 96 0x0000000000400010090000CA = some (.astat (wd (.reg 9) (.reg 4) (.reg 0) 0x1 0x0)) := by
  decide +kernel

/-- Words of the engines family, field by field (R88, R107), against what decoding gives. -/
theorem test_decode_engines :
    -- CPY.g2s.slot V10, V20, V30
    decodeTableWord 96 0x0000001E01014028000000D0 = some (.cpy (wd (.reg 0) (.reg 10) (.reg 20) 0x4 0x1e)) ∧
    -- CPYM V2, V4, V8
    decodeTableWord 96 0x0000000800004008000000D1 = some (.cpym (wd (.reg 0) (.reg 2) (.reg 4) 0x0 0x8)) ∧
    -- SHF V5, V4
    decodeTableWord 96 0x0000000000004014000000D2 = some (.shf (wd (.reg 0) (.reg 5) (.reg 4) 0x0 0x0)) ∧
    -- WNW.at V40, V44, V46
    decodeTableWord 96 0x0000002E0402C0A0000000D3 = some (.wnw (wd (.reg 0) (.reg 40) (.reg 44) 0x10 0x2e)) ∧
    -- GLN.tag V50, V10
    decodeTableWord 96 0x000000000040A0C8000000D4 = some (.gln (wd (.reg 0) (.reg 50) (.reg 10) 0x1 0x0)) := by
  decide +kernel

/-- Words of the launches family, field by field (R88, R107), against what decoding gives. -/
theorem test_decode_launches :
    -- LAUNCH V4, V2
    decodeTableWord 96 0x0000000000000008040000D5 = some (.launch (wd (.reg 4) (.reg 2) (.reg 0) 0x0 0x0)) ∧
    -- LCTL.cancel V6, V4
    decodeTableWord 96 0x0000000000000010060000D6 = some (.lctlCancel (wd (.reg 6) (.reg 4) (.reg 0) 0x0 0x0)) ∧
    -- LCTL.kill V6, V4
    decodeTableWord 96 0x0000000000400010060000D6 = some (.lctlKill (wd (.reg 6) (.reg 4) (.reg 0) 0x1 0x0)) ∧
    -- LCTL.query V6, V4
    decodeTableWord 96 0x0000000000800010060000D6 = some (.lctlQuery (wd (.reg 6) (.reg 4) (.reg 0) 0x2 0x0)) ∧
    -- LPSET.ex 4, PW3
    decodeTableWord 96 0x0000000400513C00000000D8 = some (.lpset (wd (.reg 0) (.imm 0) (.special 19) 0x1 0x4)) ∧
    -- LEND.launch
    decodeTableWord 96 0x0000000000000000000000D9 = some (.lendLaunch (wd (.reg 0) (.reg 0) (.reg 0) 0x0 0x0)) ∧
    -- LEND.cancel
    decodeTableWord 96 0x0000000000400000000000D9 = some (.lendCancel (wd (.reg 0) (.reg 0) (.reg 0) 0x1 0x0)) ∧
    -- LEND.repeat PW4
    decodeTableWord 96 0x0000000000800450000000D9 = some (.lendRepeat (wd (.reg 0) (.special 20) (.reg 0) 0x2 0x0)) := by
  decide +kernel

/-- Words of the sections and system family, field by field (R88, R107), against what decoding gives. -/
theorem test_decode_sections_and_system :
    -- FXB V20, retry
    decodeTableWord 96 0x0000000000000000140000E0 = some (.fxb (wd (.reg 20) (.reg 0) (.reg 0) 0x0 0x0)) ∧
    -- FXE
    decodeTableWord 96 0x0000000000000000000000E1 = some (.fxe (wd (.reg 0) (.reg 0) (.reg 0) 0x0 0x0)) ∧
    -- FXA
    decodeTableWord 96 0x0000000000000000000000E2 = some (.fxa (wd (.reg 0) (.reg 0) (.reg 0) 0x0 0x0)) ∧
    -- FXS V21
    decodeTableWord 96 0x0000000000000000150000E3 = some (.fxs (wd (.reg 21) (.reg 0) (.reg 0) 0x0 0x0)) ∧
    -- SREAD V40, %tframe.0
    decodeTableWord 96 0x0000010000000000280000E8 = some (.sread (wd (.reg 40) (.reg 0) (.reg 0) 0x0 0x100)) ∧
    -- SWRITE %tframe.0, V41
    decodeTableWord 96 0x00000100000000A4000000E9 = some (.swrite (wd (.reg 0) (.reg 41) (.reg 0) 0x0 0x100)) ∧
    -- ISYNC.dev
    decodeTableWord 96 0x0000000001400000000000EC = some (.isync (wd (.reg 0) (.reg 0) (.reg 0) 0x5 0x0)) ∧
    -- DBGM.brk 5
    decodeTableWord 96 0x0000000500000000000000ED = some (.dbgmBrk (wd (.reg 0) (.reg 0) (.reg 0) 0x0 0x5)) ∧
    -- DBGM.stepon
    decodeTableWord 96 0x0000000000400000000000ED = some (.dbgmStepon (wd (.reg 0) (.reg 0) (.reg 0) 0x1 0x0)) ∧
    -- DBGM.stepoff
    decodeTableWord 96 0x0000000000800000000000ED = some (.dbgmStepoff (wd (.reg 0) (.reg 0) (.reg 0) 0x2 0x0)) := by
  decide +kernel

/-- The paired word of chapter 05: (P2) IADD V8, V9, V10 && FMUL V13, V14, V15 | yld. -/
theorem test_decode_pair :
    decodeTableWord 96 0x0078383520050242000202F0 = some (.pairedWord
      { grd := ⟨false, 2⟩, hnt := ⟨0, false, false, false, true, false⟩, h0 := ⟨0x00, 8, 9, 10, 0⟩,
        h1 := ⟨0x12, 13, 14, 15, 0⟩ }) := by
  decide +kernel

/-! ### Ill-formed words: one for each check of R108, refused with its detail -/

/-- IADD V1, V2, 5. -/
def base : Word := wd (.reg 1) (.reg 2) (.imm 0) 6 5

/-- The borderline words of chapter 05 that the word alone decides, and a reserved type. -/
theorem test_wf_borderline :
    checkInstr (.iadd base) = 0 ∧
    checkInstr (.iadd { base with b := .imm 1 }) = 5 ∧ checkInstr (.iadd { base with a := .imm 0 }) = 6 ∧
    checkInstr (.iadd { base with d := .special 8 }) = 5 ∧ checkInstr (.iadd { base with d := .special 0 }) = 0 ∧
    checkInstr (.iadd { base with hnt := ⟨0, false, false, false, false, true⟩ }) = 0 ∧
    checkInstr (.iadd { base with hnt := ⟨0, false, true, false, false, false⟩ }) = 4 ∧
    checkInstr (.iadd { base with hnt := ⟨1, false, false, false, false, false⟩ }) = 4 ∧
    checkInstr (.iadd { base with grd := ⟨true, 0⟩ }) = 0 ∧
    checkInstr (.iadd { base with b := .reg 3 }) = 6 ∧ (Instr.iadd { base with d := .special 8 }).wf = false := by
  decide +kernel

/-- Unused fields, reserved codes and the conditions of an entry: NOP with an operand, IADDC with a bit above its fields, IADD with
a modifier it lacks, a special that is reserved, and a predicate beyond 127. -/
theorem test_wf_fields :
    checkInstr (.nop (wd (.reg 1) (.reg 0) (.reg 0) 0 0)) = 7 ∧ checkInstr (.iaddc (wd (.reg 0) (.reg 4) (.reg 8) 0 0x8980)) = 7 ∧
    checkInstr (.iadd { base with mod := 0x206 }) = 8 ∧ checkInstr (.iadd { base with a := .special 4 }) = 5 ∧
    checkInstr (.icmp (wd (.reg 128) (.reg 1) (.reg 2) 6 0)) = 10 ∧ (Instr.nop (wd (.reg 1) (.reg 0) (.reg 0) 0 0)).wf = false := by
  decide +kernel

/-- The pair of chapter 05, and it with a hint, a reserved special, a second source of MOV, and the two breaches named there. -/
theorem test_wf_pair :
    let p : Pair := { grd := ⟨false, 2⟩, hnt := ⟨0, false, false, false, true, false⟩, h0 := ⟨0x00, 8, 9, 10, 0⟩,
                      h1 := ⟨0x12, 13, 14, 15, 0⟩ }
    p.check = 0 ∧ ({ p with hnt := ⟨0, false, false, true, false, false⟩ } : Pair).check = 4 ∧
    ({ p with h0 := ⟨0x00, 8, 0x104, 10, 0⟩ } : Pair).check = 5 ∧ ({ p with h0 := ⟨0x0A, 8, 9, 10, 0⟩ } : Pair).check = 7 ∧
    ({ p with h1 := ⟨0x12, 12, 14, 15, 0⟩ } : Pair).check = 9 ∧ ({ p with h1 := ⟨0x13, 13, 8, 15, 0⟩ } : Pair).check = 9 := by
  decide +kernel

/-- Reserved opcodes, LPSET and LEND in a kernel, a kernel's word in a prologue, and the lower detail first. -/
theorem test_decode_refuses :
    decode 0x0000000501B000080100001F#96 = .error 2 ∧ decode 0x0000000501B000080120001F#96 = .error 2 ∧
    decode 0xF1#96 = .error 2 ∧ decodeAt .kernel 0xD8#96 = .error 3 ∧ decodeAt .kernel 0xD9#96 = .error 3 ∧
    decodeAt .prologue 0x06#96 = .error 3 ∧ decodeAt .firmware 0x06#96 = decode 0x06#96 ∧ decodeAt .firmware 0x0C#96 = .error 3 ∧ decodeTableWord 96 0x0000000501B000080100001F = none := by
  decide +kernel

/-! ### Small states for single steps -/

/-- A thread that stands at word 0, with some registers and predicates set. -/
def th (regs : NMap W32) (preds : NMap Bool := []) : Thread := { Thread.start 0 0 with regs := regs, preds := preds }

/-- The lone block of withFetchWord, with this thread. -/
def bk (t : Thread) : Block := { Block.lone 0 .running with threads := [t] }

/-- The machine of withFetchWord, with this block, its first thread about to issue. -/
def st (b : Block) : State := { State.reset.withFetchWord 96 0 with blocks := [(0, b)], latch := some ⟨0, [0], 0⟩ }

/-- The same while an XINV runs, so that no leaf enters the caches and no free value decides what an access finds. -/
def stx (b : Block) : State := { st b with xinv := some 0 }

/-- The conditions of `issues` as a value. -/
def okIssue (s : State) (i : Instr) (w : Word) (b : Block) (t : Thread) : Bool :=
  decide (s.latch = some ⟨b.id, [t.tidx], t.pc⟩ ∧ s.block? b.id = some b ∧ illegalDetail b i (formIn i).team = 0 ∧
    t.guard w.grd = true ∧ (b.thread? t.tidx = some t ∧ ((formIn i).sup = true → t.sup = true) ∧ w.grd.pred.toNat < b.decl.preds ∧
      (sectionForbids (opNum i) && ((s.sectionOf b.id t.tidx).map Section.live).getD false) = false ∧
      t.awaits (formIn i) w = false ∧ t.rangesOk b.decl (formIn i) w = true) ∧
    (b.stepping.contains (b.gidOf t.tidx) = false ∧ t.stepDue = false))

theorem iss {s : State} {i : Instr} {w : Word} {b : Block} {t : Thread} (h : okIssue s i w b t = true) : issues s i w b t := by
  unfold issues laneReady unstepped
  exact of_decide_eq_true h

theorem iss_all {α : Type} (L : List α) (s : α → State) (i : α → Instr) (w : α → Word) (b : α → Block) (t : α → Thread)
    (h : L.all (fun x => okIssue (s x) (i x) (w x) (b x) (t x)) = true) : ∀ x ∈ L, issues (s x) (i x) (w x) (b x) (t x) :=
  fun x hx => iss (List.all_eq_true.mp h x hx)

/-- The conditions of `bundleIssues` as a value, with the threads given. -/
theorem bun {s : State} {i : Instr} {w : Word} {b : Block} {u : Bundle} (h : decide (s.latch = some u ∧ u.blk = b.id ∧
      s.block? b.id = some b ∧ illegalDetail b i (formIn i).team = 0 ∧ u.lanes.Nodup) = true)
    (hl : u.lanes.all (fun k => (b.thread? k).any (fun t => decide (t.tidx = k ∧ (b.thread? t.tidx = some t ∧
      ((formIn i).sup = true → t.sup = true) ∧ w.grd.pred.toNat < b.decl.preds ∧
      (sectionForbids (opNum i) && ((s.sectionOf b.id t.tidx).map Section.live).getD false) = false ∧
      t.awaits (formIn i) w = false ∧ t.rangesOk b.decl (formIn i) w = true) ∧
      (b.stepping.contains (b.gidOf t.tidx) = false ∧ t.stepDue = false)))) = true) : bundleIssues s i w b u := by
  obtain ⟨h1, h2, h3, h4, h5⟩ := of_decide_eq_true h
  refine ⟨h1, h2, h3, h4, h5, fun k hk => ?_⟩
  have := List.all_eq_true.mp hl k hk
  obtain ⟨t, ht, hd⟩ := (Option.any_eq_true _ _).mp this
  exact ⟨t, ht, (of_decide_eq_true hd).1, (of_decide_eq_true hd).2.1, (of_decide_eq_true hd).2.2⟩

theorem got {ε α : Type} {f : Except ε α} (h : f.isOk = true) : ∃ x, f = .ok x := by
  cases f with
  | ok x => exact ⟨x, rfl⟩
  | error e => cases h

theorem lost {ε α : Type} {f : Except ε α} (h : f.isOk = false) : ∃ e, f = .error e := by
  cases f with
  | ok x => cases h
  | error e => exact ⟨e, rfl⟩

theorem okOf {ε α : Type} {f : Except ε α} {x : α} (h : f.toOption = some x) : f = .ok x := by
  cases f with
  | ok y => simpa [Except.toOption] using h
  | error e => cases h

theorem gotNone {ε α : Type} {f : Except ε (Option α)} (h : (f.toOption.map Option.isNone) = some true) : f = .ok none := by
  cases f with
  | ok x => cases x <;> simp_all [Except.toOption]
  | error e => cases h

theorem gotSome {ε α : Type} {f : Except ε (Option α)} (h : (f.toOption.map Option.isSome) = some true) : ∃ x, f = .ok (some x) := by
  cases f with
  | ok x =>
    cases x with
    | none => simp [Except.toOption] at h
    | some y => exact ⟨y, rfl⟩
  | error e => cases h

def failsWith {ε α : Type} (f : Except ε α) (p : ε → Bool) : Bool :=
  match f with
  | .ok _ => false
  | .error e => p e

theorem lostWith {ε α : Type} {f : Except ε α} (p : ε → Bool) (h : failsWith f p = true) : ∃ e, f = .error e ∧ p e = true := by
  cases f with
  | ok x => cases h
  | error e => exact ⟨e, rfl, h⟩

/-- Words of the tests. -/
def w3 (d a b : BitVec 8) (mod : BitVec 10 := 0) (imm : W32 := 0) : Word := wd (.reg d) (.reg a) (.reg b) mod imm
def wi (d a : BitVec 8) (mod : BitVec 10) (imm : W32) : Word := wd (.reg d) (.reg a) (.imm 0) mod imm

/-! ### Witnesses: for every statement with hypotheses, what meets them -/

theorem witness_EveryWordRoundTrips : (Instr.iadd (wi 1 2 6 5)).hasWord = true ∧ (Instr.iadd (wi 1 2 6 5)).wf = true ∧
    (Instr.lut3 (w3 255 255 255 0 0x3FCFF)).wf = true := by decide +kernel

theorem witness_DecodedWordsEncodeBack : decode 0x0000000501B0000801000010#96 = .ok (.iadd (wi 1 2 6 5)) := by
  rw [show decode 0x0000000501B0000801000010#96 = .ok (.iadd (wi 1 2 6 5)) by decide +kernel]

theorem witness_StepRunsTheFetchedWord :
    let s := stx (bk (th []))
    let bad := { s with mem := putBytes s.mem 0x10000 [0x1F] }
    (s.alive = true ∧ s.latch = some ⟨0, [0], 0⟩ ∧ s.block? 0 = some (bk (th [])) ∧ (∀ k ∈ [0], ((((bk (th [])).thread? k).map
      Thread.sup).getD false) = false)) ∧
    (∃ r, s.fetchBytes (bk (th [])).coreId 0 ((bk (th [])).fetchVa 0) false = .ok r ∧
      (decodeAt .kernel (wordOfBytes r.1)).isOk = true) ∧
    ∃ r, bad.fetchBytes (bk (th [])).coreId 0 ((bk (th [])).fetchVa 0) false = .ok r ∧
      (decodeAt .kernel (wordOfBytes r.1)).isOk = false := by
  refine ⟨by decide +kernel, ⟨_, rfl, by decide +kernel⟩, ⟨_, rfl, by decide +kernel⟩⟩

theorem witness_FetchTakesTheBytesAtThePc :
    let s := st (bk (th []))
    let b := { bk (th []) with decl := { Decl.lone with codebase := 0x7FFFFF94 } }
    let va := (b.decl.codebase + BitVec.ofNat 64 (12 * (8#32).toNat)).toNat % 2 ^ 57
    va = 0x7FFFFFF4 ∧ s.tlb = [] ∧ s.ilines b.coreId = [] ∧ b.decl.ctx < 16 ∧
    (∀ k < 3, s.walk 0 (va + 4 * k) = .ok (0xE3, 31)) ∧ leafAllows 0xE3 Need.fetch false = true ∧
    va % 2 ^ 31 + 12 ≤ 2 ^ 31 ∧ va % 4 = 0 := by decide +kernel

theorem witness_StepsWithoutABundle :
    let s : State := { State.reset with agenda := [.selfTestPass] }
    let off : State := { State.reset with off := true }
    let bad : State := { State.reset with fw := { Firmware.reset with state := .bootRefused } }
    (s.alive = true ∧ s.latch = none ∧ s.agenda = .selfTestPass :: []) ∧
    (State.reset.alive = true ∧ State.reset.latch = none ∧ State.reset.agenda = []) ∧ off.off = true ∧
    bad.off = false ∧ bad.fw.state = .bootRefused := by decide +kernel

/-- Two lanes, the second with a false guard. -/
def pairBlock : Block :=
  { Block.lone 0 .running with
    decl := { Decl.lone with width := 2, nthr := 2 },
    threads := [th [(2, 7)] [(5, true)], { th [(2, 9)] with tidx := 1 }],
    groups := [Group.start 2 0] }
def pairState : State := { st pairBlock with latch := some ⟨0, [0, 1], 0⟩ }
def guarded : Word := { wi 1 2 6 5 with grd := ⟨false, 5⟩ }

theorem witness_PlainWordsCompute : (∃ g, pureOf (.iadd guarded) = some (guarded, g)) ∧
    bundleIssues pairState (.iadd guarded) guarded pairBlock ⟨0, [0, 1], 0⟩ :=
  ⟨⟨_, rfl⟩, bun (by decide +kernel) (by decide +kernel)⟩

theorem witness_PlainWordsFrame : (∃ g, pureOf (.iadd guarded) = some (guarded, g)) ∧
    bundleIssues pairState (.iadd guarded) guarded pairBlock ⟨0, [0, 1], 0⟩ ∧
    (th [(2, 7)] [(5, true)]).guard guarded.grd = true ∧ { th [(2, 9)] with tidx := 1 }.guard guarded.grd = false :=
  ⟨⟨_, rfl⟩, bun (by decide +kernel) (by decide +kernel), by decide +kernel, by decide +kernel⟩

theorem witness_ConvertersAndReadsCompute :
    (∃ g, aluOf (.cvt (w3 1 2 0 0 0x100)) = some (w3 1 2 0 0 0x100, g)) ∧
    issues (st (bk (th []))) (.cvt (w3 1 2 0 0 0x100)) (w3 1 2 0 0 0x100) (bk (th [])) (th []) ∧
    aluFits (.cvt (w3 1 2 0 0 0x100)) ⟨bk (th []), th []⟩ ∧
    (∃ g, aluOf (.bprm (w3 1 2 3 1 4)) = some (w3 1 2 3 1 4, g)) ∧
    (let t := th [(4, 0x18)]; issues (st (bk t)) (.bprm (w3 1 2 3 1 4)) (w3 1 2 3 1 4) (bk t) t ∧
      ¬ aluFits (.bprm (w3 1 2 3 1 4)) ⟨bk t, t⟩) :=
  ⟨⟨_, rfl⟩, iss (by decide +kernel), by unfold aluFits; decide +kernel, ⟨_, rfl⟩, iss (by decide +kernel),
    by unfold aluFits; decide +kernel⟩

theorem witness_FalseGuardChangesNothing :
    let w : Word := { w3 255 254 0 6 with grd := ⟨true, 0⟩ }
    let z : Word := { w3 0 0 0 with grd := ⟨true, 0⟩ }
    let p : Pair := ⟨⟨true, 0⟩, ⟨0, false, false, false, false, false⟩, ⟨0, 8, 9, 10, 0⟩, ⟨0x12, 13, 14, 15, 0⟩⟩
    let s := st (bk (th []))
    (guardedOf (.ld w) = some w ∧ issuesIdle s (.ld w) w (bk (th [])) (th [])) ∧
    issuesIdle s (.pairedWord p) (halfWord p p.h0) (bk (th [])) (th []) ∧ issuesIdle s (.yield z) z (bk (th [])) (th []) ∧
    (∀ i ∈ [Instr.bra z, .call z, .exit z, .join z], steeringOf i = some z ∧ issuesIdle s i z (bk (th [])) (th [])) ∧
    s.replays 0 = false ∧ (bk (th [])).stage ≠ .restoring ∧ ∀ x ∈ (bk (th [])).threads, x.wait = none ∧ x.tokens = [] := by
  intro w z p s
  refine ⟨⟨rfl, ?_⟩, ?_, ?_, fun i hi => ?_, by decide +kernel⟩ <;> unfold issuesIdle unstepped
  · decide +kernel
  · decide +kernel
  · decide +kernel
  · revert i; decide +kernel

/-- The greatest sum of IADD.s32 with and without SAT, and IABS of the least value. -/
theorem witness_TwoSourceArithmetic :
    let t := th [(2, 0x7FFFFFFF), (3, 1), (4, 0x80000000)]
    (∃ op, mouldOf (.iadd (w3 1 2 3 0xA)) = some (w3 1 2 3 0xA, op)) ∧
    issues (st (bk t)) (.iadd (w3 1 2 3 0xA)) (w3 1 2 3 0xA) (bk t) t ∧ t.named (w3 1 2 3 0xA).d = some 1 ∧
    issues (st (bk t)) (.imulh (w3 6 2 4 7)) (w3 6 2 4 7) (bk t) t ∧ modF (w3 6 2 4 7) 0 3 = 7 ∧
    issues (st (bk t)) (.iabs (w3 1 4 0 2)) (w3 1 4 0 2) (bk t) t :=
  ⟨⟨_, rfl⟩, iss (by decide +kernel), by decide +kernel, iss (by decide +kernel), by decide +kernel, iss (by decide +kernel)⟩

/-- Min by −1, and a zero divisor, in the four types. -/
theorem witness_DivisionTruncates :
    let t := th [(2, 0x80000000), (3, 0xFFFFFFFF), (5, 0x80000000), (6, 0xFFFFFFFF), (7, 0xFFFFFFFF)]
    ∀ x ∈ [((2 : BitVec 10), (3 : BitVec 8)), (6, 0), (3, 6), (7, 8)], ∀ rem ∈ [true, false],
      let w := w3 0 (if x.1 % 4 = 2 then 2 else 4) x.2 x.1
      issues (st (bk t)) (if rem then .irem w else .idiv w) w (bk t) t := by
  intro t x hx rem hr
  revert x rem
  intro x hx rem hr
  simp only [List.mem_cons, List.not_mem_nil, or_false] at hx hr
  rcases hx with rfl | rfl | rfl | rfl <;> rcases hr with rfl | rfl <;> exact iss (by decide +kernel)

theorem witness_CarriesAndAddresses :
    let t := th [(2, 0xFFFFFFFF), (3, 0)]
    issues (st (bk t)) (.iaddc (w3 1 2 3 0 0x900)) (w3 1 2 3 0 0x900) (bk t) t ∧ t.named (w3 1 2 3 0 0x900).d = some 1 ∧
    issues (st (bk t)) (.lea (w3 4 2 3 15)) (w3 4 2 3 15) (bk t) t ∧ t.named (w3 4 2 3 15).d = some 4 :=
  ⟨iss (by decide +kernel), by decide +kernel, iss (by decide +kernel), by decide +kernel⟩

/-- Each word of the statement at the counts 31 and 32, the funnel at 32, and empty or outlying bit fields. -/
def shiftCases : List (Instr × Word × W32) :=
  ([31, 32].map (fun (c : W32) => [(Instr.shl (w3 1 2 3), w3 1 2 3, c), (.shr (w3 1 2 3), w3 1 2 3, c), (.sar (w3 1 2 3), w3 1 2 3, c),
    (.rotl (w3 1 2 3), w3 1 2 3, c), (.mov (w3 1 2 0), w3 1 2 0, c), (.sel (w3 1 2 3 0x80), w3 1 2 3 0x80, c),
    (.funnel (w3 1 2 3 2 3), w3 1 2 3 2 3, 32), (.bfx (w3 1 2 3 2), w3 1 2 3 2, c), (.bfx (w3 1 2 3 6), w3 1 2 3 6, 0x120)])).flatten

theorem witness_ShiftsAndFields : ∀ x ∈ shiftCases,
    let t := th [(2, 0x80000001), (3, x.2.2)]
    issues (st (bk t)) x.1 x.2.1 (bk t) t ∧ modB x.2.1 8 = false := fun x hx =>
  ⟨iss_all shiftCases (fun x => st (bk (th [(2, 0x80000001), (3, x.2.2)]))) (fun x => x.1) (fun x => x.2.1)
    (fun x => bk (th [(2, 0x80000001), (3, x.2.2)])) (fun x => th [(2, 0x80000001), (3, x.2.2)]) (by decide +kernel) x hx,
    (by decide +kernel : ∀ x ∈ shiftCases, modB x.2.1 8 = false) x hx⟩

theorem witness_ComparisonsSetPredicates :
    let t := th [(1, 0x7F800001), (2, 0x80000000)]
    issues (st (bk t)) (.icmp (w3 4 1 2 0x12A)) (w3 4 1 2 0x12A) (bk t) t ∧ modF (w3 4 1 2 0x12A) 0 3 = 2 ∧
    issues (st (bk t)) (.icmp (w3 0 1 2 0x006)) (w3 0 1 2 6) (bk t) t ∧
    issues (st (bk t)) (.fcmp (w3 4 1 2 0x10)) (w3 4 1 2 0x10) (bk t) t ∧ modF (w3 4 1 2 0x10) 8 2 = 0 ∧
    (Fmt.f32.value ((⟨bk t, t⟩ : Env).word (.reg 1) 0).toNat).isNan = true :=
  ⟨iss (by decide +kernel), by decide +kernel, iss (by decide +kernel), iss (by decide +kernel), by decide +kernel, by decide +kernel⟩

theorem witness_BypassSlotsShift :
    let t := th []
    let trn : Word := { w3 2 4 6 with hnt := ⟨0, false, false, false, false, true⟩ }
    (∃ g, pureOf (.dadd trn) = some (trn, g) ∧ ((g ⟨bk t, t⟩).regs).isSome = true) ∧
    issues (st (bk t)) (.dadd trn) trn (bk t) t ∧ trn.hnt.trn = true ∧
    (∃ g, pureOf (.icmp (w3 4 1 2 2)) = some (w3 4 1 2 2, g) ∧ (g ⟨bk t, t⟩).regs = none) ∧
    issues (st (bk t)) (.icmp (w3 4 1 2 2)) (w3 4 1 2 2) (bk t) t :=
  ⟨⟨_, rfl, by decide +kernel⟩, iss (by decide +kernel), rfl, ⟨_, rfl, rfl⟩, iss (by decide +kernel)⟩

/-- Operands of every clause: words with A in V2 and B in V3. -/
def floatCases : List (Instr × W32 × W32) :=
  [(.fadd (w3 1 2 3), 0x7F800001, 0), (.fmul (w3 1 2 3), 0, 0x7FC00000), (.fadd (w3 1 2 3), 0x7F800000, 0xFF800000),
   (.fmul (w3 1 2 3), 0x7F800000, 0x80000000), (.fmin (w3 1 2 3), 0x7FC00000, 0x80000000), (.fmax (w3 1 2 3), 0x7F800001, 1)] ++
  ([0, 0x80000000, 0x7F800000, 0xFF800000].map (fun a => [(Instr.rsqs (w3 1 2 0), a, (0 : W32)), (.rcps (w3 1 2 0), a, 0),
    (.sinr (w3 1 2 0), a, 0), (.cosr (w3 1 2 0), a, 0), (.ex2 (w3 1 2 0), a, 0), (.lg2 (w3 1 2 0), a, 0), (.tnh (w3 1 2 0), a, 0),
    (.sigm (w3 1 2 0), a, 0)])).flatten

def floatWord (x : Instr × W32 × W32) : Word := ((formOf x.1).map Prod.fst).getD (w3 0 0 0)

theorem witness_FloatSpecialResults : ∀ x ∈ floatCases,
    let t := th [(2, x.2.1), (3, x.2.2)]
    issues (st (bk t)) x.1 (floatWord x) (bk t) t ∧ modB (floatWord x) 7 = false ∧ (⟨bk t, t⟩ : Env).word (floatWord x).a 0 = x.2.1 :=
  fun x hx =>
  ⟨iss_all floatCases (fun x => st (bk (th [(2, x.2.1), (3, x.2.2)]))) (fun x => x.1) floatWord
    (fun x => bk (th [(2, x.2.1), (3, x.2.2)])) (fun x => th [(2, x.2.1), (3, x.2.2)]) (by decide +kernel) x hx,
    (by decide +kernel : ∀ x ∈ floatCases, modB (floatWord x) 7 = false) x hx,
    (by decide +kernel : ∀ x ∈ floatCases, (⟨bk (th [(2, x.2.1), (3, x.2.2)]), th [(2, x.2.1), (3, x.2.2)]⟩ : Env).word
      (floatWord x).a 0 = x.2.1) x hx⟩

/-- A thread with a 64-bit address in V2 and V3. -/
def at' (lo hi : W32) : Thread := th [(2, lo), (3, hi)]
def counts (t : Thread) (ld sto : Nat) : Thread := { t with cnt := { Counts.zero with ld := ld, st := sto } }
def ldW : Word := w3 4 2 0 6
def stW : Word := wd (.reg 0) (.reg 2) (.reg 4) 6 0

theorem witness_GlobalLoadsAndStoresIssue :
    let t := counts (at' 0x7FFFFFFC 0) 62 62
    let u := at' 0 0x02000000
    let v := at' 0x80000000 0
    let f := counts t 63 63
    (∀ x ∈ [t, u, v, f], (st (bk x)).sectionOf 0 0 = none) ∧
    (∀ x ∈ [t, u, v, f], issues (st (bk x)) (.ld ldW) ldW (bk x) x ∧ issues (st (bk x)) (.st stW) stW (bk x) x) ∧
    (∀ n ∈ [Need.load, Need.store], ∃ x, (st (bk t)).reach ⟨bk t, t⟩ ((⟨bk t, t⟩ : Env).address ldW) 4 n 0 = .ok x) ∧
    (∀ y ∈ [u, v], ∀ n ∈ [Need.load, Need.store], ∃ tr,
      (st (bk y)).reach ⟨bk y, y⟩ ((⟨bk y, y⟩ : Env).address ldW) 4 n 0 = .error tr) ∧ t.cnt.ld < 63 ∧ 63 ≤ f.cnt.st := by
  intro t u v f
  refine ⟨by decide +kernel, fun x hx => ⟨?_, ?_⟩, fun n hn => got ?_, fun y hy n hn => lost ?_, by decide, by decide⟩
  · exact iss_all [t, u, v, f] (fun x => st (bk x)) (fun _ => .ld ldW) (fun _ => ldW) bk id (by decide +kernel) x hx
  · exact iss_all [t, u, v, f] (fun x => st (bk x)) (fun _ => .st stW) (fun _ => stW) bk id (by decide +kernel) x hx
  · revert n; decide +kernel
  · revert y n; decide +kernel

theorem witness_MisalignedAddressesTrap :
    let e : Env := ⟨bk (th []), th []⟩
    let s := st (bk (th []))
    2 ^ 57 ≤ (0x0200000000000000#64).toNat ∧
    ((0x01FFFFFFFFFFFFFF#64).toNat < 2 ^ 57 ∧ ¬ 2 ∣ (0x01FFFFFFFFFFFFFF#64).toNat) ∧
    ((0x80000000#64).toNat < 2 ^ 57 ∧ 128 ∣ (0x80000000#64).toNat ∧ ∃ tr, s.reach e 0x80000000 128 Need.load 0 = .error tr) ∧
    (128 ∣ 128 ∧ ∃ x, s.reach e 0x7FFFFF80 128 Need.load 0 = .ok x) :=
  ⟨by decide, by decide, ⟨by decide, by decide, lost (by decide +kernel)⟩, by decide, got (by decide +kernel)⟩

def sec : Section :=
  { cluster := 0, slot := 0, blk := 0, tidx := 0, state := .opened, target := 9, vstatus := some 3, preds := [], consumes := [],
    waitsOn := [], reads := [], writes := [], cause := 0, other := none, ended := 0 }
def withSec (s : State) (xs : List Section) : State := { s with sections := xs }
def tracks (t : Tracked) : Nat :=
  match t with
  | .aborts _ _ => 1
  | .waits _ _ => 2
  | .runs _ => 3

/-- An access that runs, one beyond 128 sectors, one that another cluster holds up, and one to host memory. -/
theorem witness_SectionAccessesAreTracked :
    let t := counts (at' 0x100 0) 62 62
    let h := counts (at' 0x80000000 0) 62 62
    let full : Section := { sec with reads := (List.range 128).map (· + 100) }
    let far : Section := { sec with cluster := 1, blk := 7, writes := [8] }
    let s1 := withSec (st (bk t)) [sec]
    let s2 := withSec (st (bk t)) [full]
    let s3 := withSec (st (bk t)) [sec, far]
    let s4 := { withSec (st (bk h)) [sec] with mem := putBytes (st (bk h)).mem 0x4008 (leBytes 8 0xF3) }
    let x : Xlat := ⟨0x100, 0xE3, 31⟩
    let y : Xlat := ⟨physKey 2 0, 0xF3, 31⟩
    (∀ write ∈ [true, false], ∀ s ∈ [s1, s2, s3], issues s (if write then .st stW else .ld ldW) (if write then stW else ldW) (bk t) t ∧
      s.reach ⟨bk t, t⟩ 0x100 4 (if write then Need.store else Need.load) 0 = .ok x) ∧
    (∀ s ∈ [s1, s3], s.sectionOf 0 0 = some sec) ∧ s2.sectionOf 0 0 = some full ∧ sec.live = true ∧ full.live = true ∧
    (∀ write ∈ [true, false], tracks ((s1.touch ⟨bk t, t⟩ 0x100 x).track sec x.tier x.key 4 write) = 3 ∧
      tracks ((s2.touch ⟨bk t, t⟩ 0x100 x).track full x.tier x.key 4 write) = 1 ∧
      tracks ((s3.touch ⟨bk t, t⟩ 0x100 x).track sec x.tier x.key 4 write) = 2) ∧
    (issues s4 (.ld ldW) ldW (bk h) h ∧ s4.reach ⟨bk h, h⟩ 0x80000000 4 Need.load 0 = .ok y ∧ 2 ≤ y.tier) := by
  intro t h full far s1 s2 s3 s4 x y
  refine ⟨fun write hw s hs => ⟨iss ?_, ?_⟩, by decide +kernel, by decide +kernel, rfl, rfl, by decide +kernel, iss (by decide +kernel),
    by decide +kernel, by decide +kernel⟩ <;> revert write s <;> decide +kernel

/-- A tile entry: base 0, state, 4096 bytes, tag. -/
def tileOf (state : Nat) (tag : Nat := 0) : BitVec 128 := BitVec.ofNat 128 (tag + state * 2 ^ 78 + 32 * 2 ^ 80)
def tiled (t : Thread) : Block := { bk t with tiles := [(0, tileOf 2), (1, tileOf 1), (3, tileOf 3)] }

/-- Offsets at both ends of the scratchpad, and slots 0 (READY), 1 (FILLING) and 4 (absent) of four. -/
theorem witness_LocalAccessesIssue :
    let w := w3 4 2 0 6
    let ws := wd (.reg 0) (.reg 2) (.reg 4) 6 0
    let wx := w3 4 2 3 6
    let wy := wd (.reg 0) (.reg 2) (.reg 3) 6 4
    let t := counts (th [(2, 4092)]) 62 62
    let neg := { w with imm := 0xFFFFFFFF }
    let negS := { ws with imm := 0xFFFFFFFF }
    let out (a b : Nat) := counts (th [(2, BitVec.ofNat 32 a), (3, BitVec.ofNat 32 b)]) 62 62
    (issues (st (bk t)) (.lds w) w (bk t) t ∧ issues (st (bk t)) (.sts ws) ws (bk t) t ∧ (⟨bk t, t⟩ : Env).offset w = 4092) ∧
    (∀ a ∈ [4093, 4090], let t := out a 0; issues (st (bk t)) (.lds w) w (bk t) t ∧ issues (st (bk t)) (.sts ws) ws (bk t) t ∧
      (⟨bk t, t⟩ : Env).offset w = a) ∧ 4090 % 4 ≠ 0 ∧
    (let t := out 0 0; issues (st (bk t)) (.lds neg) neg (bk t) t ∧ issues (st (bk t)) (.sts negS) negS (bk t) t ∧
      (⟨bk t, t⟩ : Env).offset neg = -1) ∧
    (∀ a ∈ [0, 2], let t := out a 0; issues (st (bk t)) (.ldp w) w (bk t) t) ∧
    (∀ x ∈ [(0, 4092), (0, 4093), (0, 2), (1, 0), (4, 0)], let t := out x.1 x.2
      issues (st (tiled t)) (.ldsx wx) wx (tiled t) t ∧ issues (st (tiled t)) (.stsx wy) wy (tiled t) t) ∧
    tileState ((tiled t).tile 0) = 2 ∧ tileSize ((tiled t).tile 0) = 4096 ∧ tileState ((tiled t).tile 1) = 1 ∧ t.cnt.ld < 63 := by
  intro w ws wx wy t neg negS out
  refine ⟨⟨iss (by decide +kernel), iss (by decide +kernel), by decide +kernel⟩, fun a ha => ⟨iss ?_, iss ?_, ?_⟩,
    by decide, ⟨iss (by decide +kernel), iss (by decide +kernel), by decide +kernel⟩, fun a ha => iss ?_,
    fun x hx => ⟨iss ?_, iss ?_⟩, by decide +kernel⟩
  · revert a; decide +kernel
  · revert a; decide +kernel
  · revert a; decide +kernel
  · revert a; decide +kernel
  · revert x; decide +kernel
  · revert x; decide +kernel

theorem witness_TileTableWordsIssue :
    let on (a : Nat) : Thread := { th [(2, BitVec.ofNat 32 a), (4, 0), (6, 0x200000)] with cnt := { Counts.zero with tl := 62 } }
    let tag := w3 0 2 4
    (let t := on 0; issues (st (tiled t)) (.tlk (w3 8 2 3)) (w3 8 2 3) (tiled t) t) ∧
    (∀ a ∈ [3, 4], let t := on a; issues (st (tiled t)) (.tstat (w3 8 2 0)) (w3 8 2 0) (tiled t) t ∧
      issues (st (tiled t)) (.tinv (w3 0 2 0)) (w3 0 2 0) (tiled t) t) ∧
    (let t := on 2; issues (st (tiled t)) (.tinv (w3 0 2 0)) (w3 0 2 0) (tiled t) t ∧ tileState ((tiled t).tile 2) = 0 ∧
      tileState ((tiled t).tile 3) = 3 ∧ issues (st (tiled t)) (.ttag tag) tag (tiled t) t ∧
      ttagFault (tiled t) (BitVec.ofNat 128 (wordsNat ((⟨tiled t, t⟩ : Env).tuple tag.b 4))) = none) := by
  intro on tag
  refine ⟨iss (by decide +kernel), fun a ha => ⟨iss ?_, iss ?_⟩, iss (by decide +kernel), by decide +kernel, by decide +kernel,
    iss (by decide +kernel), by decide +kernel⟩
  · revert a; decide +kernel
  · revert a; decide +kernel

/-- STW2 of two words, LDXP of b16 and k8 at the last and the first number without a pattern, and the cache words. -/
theorem witness_WideAndCacheWordsIssue :
    let w := wd (.reg 0) (.reg 2) (.reg 4) 9 (6 + 4 * 1024)
    let x := w3 32 2 4 0 0x601
    let c (m : BitVec 10) := w3 0 2 0 m
    let t := { th [(2, 0x100), (3, 0), (6, 0x200)] with cnt := { Counts.zero with ld := 62, st := 62 } }
    let n (k : Nat) := th [(2, 0x100), (4, BitVec.ofNat 32 k), (5, BitVec.ofNat 32 (k / 2 ^ 32))]
    let bad := at' 0x80000000 0
    (issues (stx (bk t)) (.stw2 w) w (bk t) t ∧ (∀ r ∈ [0x200#64, 0x204#64], misaligned r 4 = none) ∧
      (∃ y, (stx (bk t)).reach ⟨bk t, t⟩ 0x100 8 Need.store 0 = .ok y) ∧
      ∃ ys, (stx (bk t)).reachAll ⟨bk t, t⟩ 4 Need.store 1 [0x200#64, 0x204#64] = .ok ys) ∧
    (∀ k ∈ [binom 64 8 - 1, binom 64 8], issues (stx (bk (n k))) (.ldxp x) x (bk (n k)) (n k) ∧
      ((⟨bk (n k), n k⟩ : Env).dword .unsigned x.b 0).toNat = k) ∧
    (∃ xs, (stx (bk (n 0))).reachAll ⟨bk (n 0), n 0⟩ 1 Need.load 0 ((List.range 8).map (fun i => 0x100#64 + BitVec.ofNat 64 i)) = .ok xs) ∧
    (∀ i ∈ [Instr.prf (c 1), .cctlIvl (c 0), .cctlIva (wd (.reg 0) (.reg 0) (.reg 0) 1 0), .cctlIvl (c 0)], ∀ u ∈ [t, bad],
      issues (st (bk u)) i (((formOf i).map Prod.fst).getD (c 0)) (bk u) u) ∧
    (let t := { t with sup := true }; issues (st (bk t)) (.cctlWbm (c 2)) (c 2) (bk t) t ∧
      issues (st (bk t)) (.cctlWim (c 3)) (c 3) (bk t) t ∧ ∃ y, (st (bk t)).reach ⟨bk t, t⟩ 0x100 1 Need.both 0 = .ok y) ∧
    ∃ tr, (st (bk bad)).reach ⟨bk bad, bad⟩ 0x80000000 1 Need.load 0 = .error tr := by
  intro w x c t n bad
  refine ⟨⟨iss (by decide +kernel), by simp [misaligned], got (by decide +kernel), got (by decide +kernel)⟩, fun k hk => ⟨iss ?_, ?_⟩,
    got (by decide +kernel), fun i hi u hu => iss ?_, ⟨iss (by decide +kernel), iss (by decide +kernel), got (by decide +kernel)⟩,
    lost (by decide +kernel)⟩
  · revert k; decide +kernel
  · revert k; decide +kernel
  · revert i u; decide +kernel

theorem witness_AtomicsIssue :
    let A : BitVec 10 := 0x280
    let w := w3 4 2 8 (A ||| 6)
    let c := w3 4 2 8 (A ||| 6) 9
    let f := w3 4 2 8 A
    let r := wd (.reg 0) (.reg 2) (.reg 8) (A ||| 6) 0
    let rf := wd (.reg 0) (.reg 2) (.reg 8) A 0
    let aw := w3 4 2 8 (A ||| 8) 12
    let s := w3 4 2 8 6
    let sc := w3 4 2 8 0x3E 9
    let ok := counts (at' 0x7FFFFFF0 0) 62 62
    let bad := counts (at' 0x7FFFFFF8 0x00100000) 62 62
    let all : List (Instr × Word × Nat) :=
      [(.atom w, w, 4), (.atomc c, c, 4), (.atomf f, f, 4), (.red r, r, 4), (.redf rf, rf, 4), (.atomw aw, aw, 16)]
    (∀ x ∈ all, ∀ t ∈ [ok, bad], issues (st (bk t)) x.1 x.2.1 (bk t) t) ∧
    (∀ x ∈ all, (∃ y, (st (bk ok)).reach ⟨bk ok, ok⟩ 0x7FFFFFF0 x.2.2 Need.both 0 = .ok y) ∧
      ∃ tr, (st (bk bad)).reach ⟨bk bad, bad⟩ 0x001000007FFFFFF8 x.2.2 Need.both 0 = .error tr) ∧
    (∀ o ∈ [4092, 4093], let t := counts (th [(2, BitVec.ofNat 32 o)]) 62 62
      issues (st (bk t)) (.atoms s) s (bk t) t ∧ issues (st (bk t)) (.atoms sc) sc (bk t) t) ∧ ok.cnt.ld < 63 := by
  intro A w c f r rf aw s sc ok bad all
  refine ⟨fun x hx t ht => iss ?_, fun x hx => ⟨got ?_, lost ?_⟩, fun o ho => ⟨iss ?_, iss ?_⟩, by decide⟩
  · revert x t; decide +kernel
  · revert x; decide +kernel
  · revert x; decide +kernel
  · revert o; decide +kernel
  · revert o; decide +kernel

def gridRegion (base : Nat) : Region :=
  { ctx := 0, idx := 1, base := base, size := 0x10000, cls := 1, home := 5, obj := 0x500, gtab := 0x40000, ndims := 2,
    levels := [⟨0, 0, 4, 1, 0, 8⟩], binbase := 0, bcap := 0, sublog := 0 }
/-- The region at index 1, which V4 holds; V8 and V9 hold the coordinate. -/
def inGrid (b : Block) (base : Nat) : State := { stx b with regions := [gridRegion base] }
def coord (x y : W32) : Thread := counts (th [(4, 1), (8, x), (9, y)]) 62 62

/-- A mask of a level that is absent, tuples past the last register, a NaN, both ends of the unit interval, an unmapped table. -/
theorem witness_HashGridWordsIssue :
    let l (d a : BitVec 8) (m : W32) := w3 d a 4 0 m
    let g := wd (.reg 0) (.reg 8) (.reg 4) 0 (20 + 1024)
    let h (f c : W32) := w3 16 8 4 0 (f * 256 + c * 65536)
    let t := coord 0 0x3F800000
    let n := coord 0x7FC00000 0
    let e : Env := ⟨bk t, t⟩
    (∀ b ∈ [0x20000, 0x80000000], (inGrid (bk t) b).region? 0 (e.word (.reg 4) 0).toNat = some (gridRegion b)) ∧
    (∀ x ∈ [(20, 8, 1), (20, 8, 2), (20, 255, 1), (255, 8, 1)], ∀ u ∈ [t, n], ∀ b ∈ [0x20000, 0x80000000],
      issues (inGrid (bk u) b) (.hgl (l (BitVec.ofNat 8 x.1) (BitVec.ofNat 8 x.2.1) (BitVec.ofNat 32 x.2.2)))
        (l (BitVec.ofNat 8 x.1) (BitVec.ofNat 8 x.2.1) (BitVec.ofNat 32 x.2.2)) (bk u) u) ∧
    maskOk 1 (gridRegion 0) = true ∧ maskOk 2 (gridRegion 0) = false ∧ e.spans (.reg 8) 2 = true ∧ e.spans (.reg 255) 2 = false ∧
    clampCoord (e.tuple (.reg 8) 2) = some [0, 1] ∧ clampCoord ((⟨bk n, n⟩ : Env).tuple (.reg 8) 2) = none ∧
    (let asks (b : Nat) := [(4, [featureAddrs b 4 ⟨0, 0, 4, 1, 0, 8⟩ ([0, 1].map (axisOf 0 8)) 0])];
      (∃ ts, (inGrid (bk t) 0x20000).reachLevels e Need.load (asks 0x20000) = .ok ts) ∧
      ∃ tr, (inGrid (bk t) 0x80000000).reachLevels e Need.load (asks 0x80000000) = .error tr) ∧
    (∀ u ∈ [t, n], issues (inGrid (bk u) 0x20000) (.hga g) g (bk u) u) ∧ e.spans g.c 1 = true ∧
    (∃ ts, (inGrid (bk t) 0x20000).reachLevels e Need.both [(4, [(featureAddrs 0x40000 4 ⟨0, 0, 4, 1, 0, 8⟩ ([0, 1].map (axisOf 0 8))
      0).filter (fun a => decide (a.1 ≠ 0))])] = .ok ts) ∧
    (∀ x ∈ [(0, 3), (1, 3), (3, 0)], issues (inGrid (bk t) 0x20000) (.hgw (h (BitVec.ofNat 32 x.1) (BitVec.ofNat 32 x.2)))
      (h (BitVec.ofNat 32 x.1) (BitVec.ofNat 32 x.2)) (bk t) t) ∧ t.cnt.ld < 63 := by
  intro l g h t n e
  refine ⟨by decide +kernel, fun x hx u hu b hb => iss ?_, by decide +kernel, by decide +kernel, by decide +kernel, by decide +kernel,
    by decide +kernel, by decide +kernel, ⟨got (by decide +kernel), lost (by decide +kernel)⟩, fun u hu => iss ?_, by decide +kernel,
    got (by decide +kernel), fun x hx => iss ?_, by decide⟩
  · revert x u b; decide +kernel
  · revert u; decide +kernel
  · revert x; decide +kernel

/-- A descriptor with its 32 class bytes. -/
def descr (cls flags : Nat) (rest : List Byte) : List Byte :=
  leBytes 8 0x20000 ++ leBytes 8 0x10000 ++ leBytes 1 cls ++ leBytes 1 5 ++ leBytes 2 flags ++ leBytes 4 0 ++ leBytes 8 0x500 ++ rest
def plainDescr (flags : Nat) : List Byte := descr 0 flags (List.replicate 32 0)
def binDescr : List Byte := descr 2 1 (leBytes 8 0x80000 ++ leBytes 4 32 ++ leBytes 1 16 ++ List.replicate 19 0)
def withDescr (b : Block) (d : List Byte) : State := { stx b with mem := putBytes (stx b).mem 0x3000 d }
def binRegion : Region := Region.ofBytes 0 2 binDescr []

/-- RBIND with every status that the statement names, and SHA inside and outside a BIN region. -/
theorem witness_RegionWordsComplete :
    let w := w3 1 2 4
    let t (i : Nat) := th [(2, 0x3000), (4, BitVec.ofNat 32 i)]
    let e (i : Nat) : Env := ⟨bk (t i), t i⟩
    (∀ i ∈ [4095, 4096], ∀ d ∈ [plainDescr 1, plainDescr 0, binDescr], issues (withDescr (bk (t i)) d) (.rbind w) w (bk (t i)) (t i) ∧
      (∃ x, (withDescr (bk (t i)) d).reach (e i) 0x3000 64 Need.load 0 = .ok x ∧ (withDescr (bk (t i)) d).bytes x.key 64 = d) ∧
      (withDescr (bk (t i)) d).readLevels (e i) d = .ok []) ∧
    rbindStatus (withDescr (bk (t 4095)) (plainDescr 1)) 0 4095 (plainDescr 1) [] = 0 ∧
    rbindStatus (withDescr (bk (t 4095)) (plainDescr 0)) 0 4095 (plainDescr 0) [] = 1 ∧
    rbindStatus (withDescr (bk (t 4096)) (plainDescr 1)) 0 4096 (plainDescr 1) [] = 2 ∧
    rbindStatus (withDescr (bk (t 4095)) binDescr) 0 4095 binDescr [] = 0 ∧
    (∃ s1, (withDescr (bk (t 4095)) binDescr).zeroBins (e 4095) binRegion 1 = .ok s1) ∧
    (let v := wd (.reg 0) (.reg 2) (.reg 4) 2 0
      let s (b : Block) : State := { stx b with regions := [binRegion] }
      (∀ a ∈ [0x2FFFC, 0x30000, 0x20001], let t := counts (th [(2, BitVec.ofNat 32 a)]) 0 62; issues (s (bk t)) (.sha v) v (bk t) t) ∧
      misaligned 0x20001 4 = some 1 ∧ misaligned 0x2FFFC 4 = none ∧ (s (bk (t 0))).binRegion 0 0x2FFFC = some binRegion ∧
      (s (bk (t 0))).binRegion 0 0x30000 = none ∧
      ∃ x, (s (bk (t 0))).reach (e 0) (BitVec.ofNat 64 (binRegion.binAt 0)) 16 Need.both 0 = .ok x) := by
  intro w t e
  refine ⟨fun i hi d hd => ⟨iss ?_, ?_, ?_⟩, by decide +kernel, by decide +kernel, by decide +kernel, by decide +kernel,
    got (by decide +kernel), ?_⟩
  · revert i d; decide +kernel
  · have h : ((withDescr (bk (t i)) d).reach (e i) 0x3000 64 Need.load 0).toOption.any
        (fun x => (withDescr (bk (t i)) d).bytes x.key 64 == d) = true := by
      revert i d; decide +kernel
    obtain ⟨x, hx, hb⟩ := (Option.any_eq_true _ _).mp h
    refine ⟨x, ?_, by simpa using hb⟩
    revert hx
    cases (withDescr (bk (t i)) d).reach (e i) 0x3000 64 Need.load 0 <;> simp [Except.toOption]
  · revert i d; decide +kernel
  · intro v s
    refine ⟨fun a ha => iss ?_, by decide, by decide, by decide +kernel, by decide +kernel, got (by decide +kernel)⟩
    revert a; decide +kernel

/-- A block whose object at 64 expects `expa` arrivals and has `arrd`. -/
def objBlock (t : Thread) (expa arrd : Nat) : Block :=
  { bk t with objects := [4] }.setObj 64
    { expa := expa, arrd := arrd, expb := 0, land := 0, phase := 7, init := true, exitdrop := false, ovf := false, resv := 0 }

/-- The five words at the object, at offsets that no object may have, with counts at both ends, and on both sides of the phase. -/
theorem witness_BarrierWordsComplete :
    let t (a v : Nat) := counts (th [(2, BitVec.ofNat 32 a), (3, BitVec.ofNat 32 v)]) 0 62
    let w := wd (.reg 0) (.reg 2) (.reg 3) 0 0
    let d := w3 4 2 3
    let x := wd (.reg 0) (.reg 2) (.special 0) 1 0
    (∀ a ∈ [4088, 65], ∀ i ∈ [Instr.binit w, .bexp w, .pwait w, .arrv w, .ptest w],
      issues (st (bk (t a 1))) i w (bk (t a 1)) (t a 1) ∧ ((bk (t a 1)).objFault a).isSome = true) ∧
    (∀ v ∈ [0, 1, 65535, 65536], issues (st (bk (t 4080 v))) (.binit w) w (bk (t 4080 v)) (t 4080 v)) ∧
    issues (st (bk (t 4080 1))) (.binit x) x (bk (t 4080 1)) (t 4080 1) ∧
    (let b := objBlock (t 64 1) 3 1;
      issues (st b) (.arrv d) d b (t 64 1) ∧ b.quietBank (t 64 1) = true ∧ (t 64 1).written = true ∧ b.xregs = [] ∧ ((st b).ctx 0).traces 3 = false ∧ (st b).replays 0 = false ∧
      (t 64 1).tokens = [] ∧ (t 64 1).pend = [] ∧ (b.obj 64).init = true ∧ (b.obj 64).arrd + 1 ≤ (b.obj 64).expa ∧
      (b.obj 64).expb + 0 < 2 ^ 32 ∧ (b.obj 64).arrd + 1 ≠ (b.obj 64).expa ∧ issues (st b) (.bexp w) w b (t 64 1) ∧
      b.objBefore 64 0 = false ∧ (b.obj 64).expb + 1 < 2 ^ 32) ∧
    (let b := objBlock { t 64 1 with tokens := [⟨0, 0, 0, 64, .expect 0, none, 0, false, none⟩] } 3 1; b.objBefore 64 1 = true) ∧
    (∀ v ∈ [7, 8], let b := objBlock (t 64 v) 3 1; issues (st b) (.pwait w) w b (t 64 v) ∧ issues (st b) (.ptest d) d b (t 64 v) ∧
      (b.obj 64).phase = 7) ∧
    (∀ i ∈ [Instr.bexp w, .pwait w, .ptest w], issues (st (bk (t 64 1))) i w (bk (t 64 1)) (t 64 1)) ∧
    ((bk (t 64 1)).obj 64).init = false := by
  intro t w d x
  refine ⟨fun a ha i hi => ⟨iss ?_, ?_⟩, fun v hv => iss ?_, iss (by decide +kernel), ⟨iss (by decide +kernel), by decide +kernel,
    by decide +kernel, by decide +kernel, by decide +kernel, by decide +kernel, rfl, rfl, by decide +kernel, by decide +kernel,
    by decide +kernel, by decide +kernel, iss (by decide +kernel), by decide +kernel, by decide +kernel⟩, by decide +kernel, fun v hv => ⟨iss ?_, iss ?_, ?_⟩, fun i hi => iss ?_,
    by decide +kernel⟩
  · revert a i; decide +kernel
  · revert a; decide +kernel
  · revert v; decide +kernel
  · revert v; decide +kernel
  · revert v; decide +kernel
  · revert v; decide +kernel
  · revert i; decide +kernel

/-- An object whose last arrival has come, with a thread that waits for its phase, and one that still expects an arrival. -/
theorem witness_PhasesComplete :
    let t := { th [] with wait := some (.phase 64 7 false 0 true) }
    let u := { objBlock t 1 1 with tiles := [(0, tileOf 1 + BitVec.ofNat 128 (2 ^ 113 + 4 * 2 ^ 96))] }
    let v := objBlock t 2 1
    (∀ b ∈ [u, v], (st b).block? b.id = some b) ∧
    (u.stage ≠ .restoring ∧ (u.obj 64).init = true ∧ (u.obj 64).ovf = false ∧ (u.obj 64).arrd = (u.obj 64).expa ∧
      (u.obj 64).land = (u.obj 64).expb ∧ (u.threads.map Thread.tidx).Nodup ∧ ((st u).ctx 0).traces 4 = false ∧ u.stepping = [] ∧
      (∀ x ∈ u.threads, x.stepDue = false) ∧ tileState (u.tile 0) = 1 ∧ tileBarv (u.tile 0) = true ∧ tileBar (u.tile 0) = 64 ∧
      (st u).slotBusy 0 0 = false) ∧ (v.obj 64).arrd ≠ (v.obj 64).expa := by
  decide +kernel

def pending (t : Thread) (c : Ctr) (a : Act) : Thread := { t with cnt := t.cnt.add c, pend := [⟨0, c, 0, a, none⟩] }

/-- Each fence with nothing outstanding and with a store, a region with SEQ 0, and targets 0 and 1. -/
theorem witness_FencesComplete :
    let t (v : Nat) := th [(2, 1), (4, BitVec.ofNat 32 v)]
    let p := pending (t 0) .st (.store [])
    let ld := pending (t 0) .ld (.load (.phys 0) 0 4 1 false false false [none])
    let n : W32 := 0
    let f (m : BitVec 10) := wd (.reg 0) (.reg 0) (.reg 0) m 0
    let a := w3 6 2 4 1
    let r := wd (.reg 0) (.reg 2) (.reg 4) 0 0
    (∀ u ∈ [t 0, p, ld], ∀ k ∈ [0, 8, 16], issues (st (bk u)) (.fence (f (BitVec.ofNat 10 (k + 5)))) (f (BitVec.ofNat 10 (k + 5))) (bk u) u) ∧
    (t 0).fenced 2 = true ∧ p.fenced 2 = false ∧ ld.fenced 1 = false ∧
    issues (st (bk (t 0))) (.xfence (f 0xC3)) (f 0xC3) (bk (t 0)) (t 0) ∧
    issues (st (bk (t 0))) (.acq a) a (bk (t 0)) (t 0) ∧ issues (st (bk (t 0))) (.rel r) r (bk (t 0)) (t 0) ∧
    (st (bk (t 0))).region? 0 1 = none ∧
    (∀ u ∈ [t 0, t 1, p], issues (inGrid (bk u) 0x20000) (.acq a) a (bk u) u ∧ issues (inGrid (bk u) 0x20000) (.rel r) r (bk u) u ∧
      (inGrid (bk u) 0x20000).region? 0 1 = some (gridRegion 0x20000)) ∧
    (t 1).performed = true ∧ p.performed = false ∧
    ∀ u ∈ [t 0, t 1], (((inGrid (bk u) 0x20000).seqOf ⟨bk u, u⟩ (gridRegion 0x20000)).toOption.map Prod.snd) = some 0 := by
  intro t p ld n f a r
  refine ⟨fun u hu k hk => iss ?_, by decide +kernel, by decide +kernel, by decide +kernel, iss (by decide +kernel),
    iss (by decide +kernel), iss (by decide +kernel), by decide +kernel, fun u hu => ⟨iss ?_, iss ?_, ?_⟩, by decide +kernel,
    by decide +kernel, by decide +kernel⟩
  · revert u k; decide +kernel
  · revert u; decide +kernel
  · revert u; decide +kernel
  · revert u; decide +kernel

/-- Every word of the statement; WAITC below and above a limit, WAITT before and after its time. -/
theorem witness_ControlWordsComplete :
    let n : Opd := .reg 0
    let t := counts (th [(2, 1), (5, 3)]) 1 0
    let l := wd n n n 0
    let a := wd n (.reg 2) n 0 0
    let all : List (Instr × Word) := [(.nop (l 0), l 0), (.yield (l 0), l 0), (.bra (l 0xFFFFFFFF), l 0xFFFFFFFF), (.brx a, a),
      (.ret a, a), (.call (wd (.reg 1) n n 0 5), wd (.reg 1) n n 0 5), (.callx (w3 2 2 0), w3 2 2 0), (.waitc (l 0), l 0),
      (.waitc (l 1), l 1), (.waitt a, a), (.waitt (wd n (.special 0) n 0 0), wd n (.special 0) n 0 0),
      (.jmset (wd n n n 0x29 0), wd n n n 0x29 0), (.jmset (wd n (.reg 2) n 1 0), wd n (.reg 2) n 1 0),
      (.tqset (w3 15 127 0), w3 15 127 0), (.fmset (w3 7 2 0), w3 7 2 0)]
    (∀ x ∈ all, issues (st (bk t)) x.1 x.2 (bk t) t) ∧ (st (bk t)).replays 0 = false ∧ (∀ x ∈ (bk t).threads, x.wait = none) ∧
    ((⟨bk t, t⟩ : Env).dword .unsigned (.special 0) 0).toNat ≤ (st (bk t)).ptime.toNat ∧
    (st (bk t)).ptime.toNat < ((⟨bk t, t⟩ : Env).dword .unsigned (.reg 2) 0).toNat := by
  intro n t l a all
  exact ⟨iss_all all (fun _ => st (bk t)) Prod.fst Prod.snd (fun _ => bk t) (fun _ => t) (by decide +kernel), by decide +kernel,
    by decide +kernel, by decide +kernel, by decide +kernel⟩

/-- Two lanes of a group, the other one free or waiting at word 4, with join mask 1 as given. -/
def joinBlock (t : Thread) (other : Option Wait) (jm : W64) : Block :=
  { pairBlock with
    threads := [t, { Thread.start 1 4 with wait := other }], groups := [{ Group.start 2 0 with jm := [(1, jm)] }] }

theorem witness_JoinsRelease :
    let w := wd (.reg 0) (.reg 0) (.reg 0) 1 0
    let t := th []
    let p := pending t .st (.store [])
    (∀ b ∈ [joinBlock t none 2, joinBlock t none 3, joinBlock t (some (.join 1 false)) 3, joinBlock t none 1],
      issues (st b) (.join w) w b t ∧ (st b).replays 0 = false ∧ ((st b).ctx 0).traces 2 = false ∧ (b.threads.map Thread.tidx).Nodup ∧
      (∀ x ∈ b.threads, x.stepDue = false)) ∧
    (joinBlock t none 2).joinMask 0 1 = 2 ∧ (joinBlock t none 3).joinMask 0 1 = 3 ∧ t.written = true ∧
    (let b := joinBlock p none 1; issues (st b) (.join w) w b p ∧ p.written = false ∧ b.joinMask 0 1 = 1) := by
  intro w t p
  refine ⟨fun b hb => ⟨iss ?_, ?_⟩, by decide +kernel, by decide +kernel, by decide, iss (by decide +kernel), by decide +kernel,
    by decide +kernel⟩
  · revert b; decide +kernel
  · revert b; decide +kernel

theorem witness_ThreadsExit :
    let w := wd (.reg 0) (.reg 0) (.reg 0) 0 0
    ∀ t ∈ [th [], pending (th []) .ld (.load (.phys 0) 0 4 1 false false false [some 3])],
      let b : Block := { bk t with slots := [], decl := { Decl.lone with team := 0, slots := 0 } }
      issues (st b) (.exit w) w b t ∧ (st b).replays b.id = false ∧ b.xregs = [] ∧ b.slots = [] ∧ b.decl.team = 0 ∧
      (∀ x ∈ b.threads, x.wait = none ∧ x.tokens = []) ∧ b.quietBank t = true ∧ (∀ x ∈ (st b).sections, ¬ (x.blk = b.id ∧ x.tidx = t.tidx)) ∧
      (b.threads.map Thread.tidx).Nodup := by
  intro w t ht
  refine ⟨iss ?_, ?_⟩
  · revert t; decide +kernel
  · revert t; decide +kernel

/-- A machine whose context 0 has a handler. -/
def withHandler (b : Block) (h : W64) : State := { st b with contexts := [(0, { Context.reset with root := 0x1001, handler := h })] }
def trap' (c : Nat) : Trap := { cause := c, detail := 3, faddr := 0, pc := 5 }

/-- Handlers at the first and the last word that a PC can name, every handled cause of R335 at its ends, counters at zero and not. -/
theorem witness_TrapsEnterTheHandler :
    let w := wd (.reg 0) (.reg 0) (.reg 0) 0 7
    let t := th []
    let p := pending t .st (.store [])
    (issues (st (bk t)) (.trap w) w (bk t) t ∧ issues (st (bk t)) (.bpt w) w (bk t) t) ∧
    (∀ u ∈ [t, p], ∀ h ∈ [0x10000, 0x10000 + 12 * (2 ^ 32 - 1)],
      (withHandler (bk u) (BitVec.ofNat 64 h)).block? (bk u).id = some (bk u) ∧ (bk u).thread? u.tidx = some u ∧
      (bk u).stage ≠ .prologue ∧ ((withHandler (bk u) (BitVec.ofNat 64 h)).ctx 0).handler ≠ 0 ∧ u.inside = false ∧
      ((withHandler (bk u) (BitVec.ofNat 64 h)).ctx 0).handler.toNat = (bk u).decl.codebase.toNat + 12 * ((h - 0x10000) / 12) ∧
      (h - 0x10000) / 12 < 2 ^ 32) ∧
    (∀ c ∈ [0x0E, 0x10, 0x11, 0x12, 0x16], handled (trap' c).cause = true) ∧ t.cnt = Counts.zero ∧ p.cnt ≠ Counts.zero ∧ t.tokens = [] := by
  intro w t p
  exact ⟨⟨iss (by decide +kernel), iss (by decide +kernel)⟩, by decide +kernel, by decide, rfl, by decide, rfl⟩

/-- A thread in its handler, with the cause word of its last trap. -/
def inHandler (cause : W32) (held : Bool) : Thread :=
  { th [] with sup := true, inTrap := true, ppend := held, frame := [(0, 9), (1, cause)] }

/-- Returns from a TRAP, from the PREEMPT that saves and the one that restores, with a held PREEMPT, and at user privilege. -/
theorem witness_ReturnsFromTheHandler :
    let w := wd (.reg 0) (.reg 0) (.reg 0) 0 0
    (∀ t ∈ [inHandler 0x10 false, inHandler 0x211 false, inHandler 0x11 false, inHandler 0x10 true],
      issues (withHandler (bk t) 0x10000) (.eret w) w (bk t) t ∧ (bk t).stage ≠ .restoring ∧ t.inTrap = true ∧ t.cnt = Counts.zero ∧
      t.tokens = [] ∧ ((withHandler (bk t) 0x10000).ctx 0).handler.toNat = (bk t).decl.codebase.toNat + 12 * 0) ∧
    (inHandler 0x10 false).lastPreempt false = false ∧ (inHandler 0x211 false).lastPreempt true = true ∧
    (inHandler 0x11 false).lastPreempt false = true ∧ (inHandler 0x10 true).ppend = true ∧
    (let b := bk (th []); (st b).latch = some ⟨b.id, [0], 0⟩ ∧ (st b).block? b.id = some b ∧ b.thread? 0 = some (th []) ∧
      illegalDetail b (.eret w) false = 0 ∧ (th []).sup = false ∧ b.stage = .running ∧ b.gang = none ∧ (st b).replays b.id = false) := by
  intro w
  refine ⟨fun t ht => ⟨iss ?_, ?_⟩, by decide, by decide, by decide, rfl, by decide +kernel⟩
  · revert t; decide +kernel
  · revert t; decide +kernel

/-- SWRITE of each kind of number with values at both sides of its limit, ISYNC, and DBGM with and without a debugger. -/
theorem witness_SystemWordsComplete :
    let n : Opd := .reg 0
    let sw (k v : Nat) : Word × Thread := (wd n (.reg 2) n 0 (BitVec.ofNat 32 k), { th [(2, BitVec.ofNat 32 v)] with sup := true })
    let d (m : BitVec 10) := wd n n n m 0
    let dbg (t : Thread) : State := { st (bk t) with contexts := [(0, { Context.reset with root := 0x1001, obsCtl := 0x40 })] }
    (∀ x ∈ [sw 0 31, sw 0 32, sw 1 0, sw 4 0xFFFFFFFF, sw 0x11 1, sw 0x11 2, sw 0x100 9, sw 0x10F 9],
      issues (st (bk x.2)) (.swrite x.1) x.1 (bk x.2) x.2) ∧ ixOk 0 = true ∧ ixOk 0x7FFFFFFF = false ∧
    issues (st (bk (th []))) (.isync (d 5)) (d 5) (bk (th [])) (th []) ∧
    (∀ s ∈ [st (bk (th [])), dbg (th [])], issues s (.dbgmBrk (d 0)) (d 0) (bk (th [])) (th []) ∧
      issues s (.dbgmStepon (d 1)) (d 1) (bk (th [])) (th []) ∧ issues s (.dbgmStepoff (d 2)) (d 2) (bk (th [])) (th [])) ∧
    ((st (bk (th []))).ctx 0).obsCtl.getLsbD 6 = false ∧ ((dbg (th [])).ctx 0).obsCtl.getLsbD 6 = true := by
  intro n sw d dbg
  refine ⟨fun x hx => iss ?_, by decide +kernel, by decide +kernel, iss (by decide +kernel), fun s hs => ⟨iss ?_, iss ?_, iss ?_⟩,
    by decide +kernel, by decide +kernel⟩
  · revert x; decide +kernel
  · revert s; decide +kernel
  · revert s; decide +kernel
  · revert s; decide +kernel

/-- The pair of chapter 05, with halves that swap registers, with one past the last register, and with a token awaited. -/
theorem witness_PairedHalvesReadFirst :
    let p (d : BitVec 8) : Pair := ⟨⟨false, 0⟩, ⟨0, false, false, false, true, false⟩, ⟨0x00, 8, 9, 10, 0⟩, ⟨0x12, d, 14, 15, 0⟩⟩
    let small (t : Thread) : Block := { bk t with decl := { Decl.lone with regs := 16 } }
    let aw : Thread := { th [] with tokens := [⟨0, 0, 0, 64, .arrive 1 0, some 9, 0, false, none⟩] }
    (∀ d ∈ [13, 17], issues (st (small (th []))) (.pairedWord (p (BitVec.ofNat 8 d))) (halfWord (p (BitVec.ofNat 8 d)) (p (BitVec.ofNat 8 d)).h0)
      (small (th [])) (th [])) ∧
    issues (st (bk aw)) (.pairedWord (p 13)) (halfWord (p 13) (p 13).h0) (bk aw) aw ∧
    aw.awaits (halfForm (p 13).h0) (halfWord (p 13) (p 13).h0) = true ∧
    (th []).awaits (halfForm (p 13).h0) (halfWord (p 13) (p 13).h0) = false ∧
    (th []).rangesOk (small (th [])).decl (halfForm (p 13).h1) (halfWord (p 13) (p 13).h1) = true ∧
    (th []).rangesOk (small (th [])).decl (halfForm (p 17).h1) (halfWord (p 17) (p 17).h1) = false := by
  intro p small aw
  refine ⟨fun d hd => iss ?_, iss (by decide +kernel), by decide +kernel, by decide +kernel, by decide +kernel, by decide +kernel⟩
  revert d; decide +kernel

/-- Conditions of a lane of `bundleArrives`. -/
def okArrives (s : State) (i : Instr) (w : Word) (b : Block) (u : Bundle) (g : Nat) : Bool :=
  decide (s.latch = some u ∧ u.blk = b.id ∧ s.block? b.id = some b ∧ illegalDetail b i (formIn i).team = 0 ∧ u.lanes ≠ [] ∧ u.lanes.Nodup ∧
    (b.threads.map Thread.tidx).Nodup ∧ s.replays b.id = false ∧ (s.ctx b.decl.ctx).traces 2 = false ∧
    ∀ t ∈ b.threads, b.gidOf t.tidx = g → t.tidx ∉ u.lanes → t.wait = none) &&
  u.lanes.all (fun k => (b.thread? k).any (fun t => decide (b.gidOf k = g ∧ t.pc = u.pc ∧ t.written = true ∧ t.cnt.cp < 63 ∧
      w.grd.pred.toNat < b.decl.preds ∧ (sectionForbids (opNum i) && ((s.sectionOf b.id k).map Section.live).getD false) = false ∧
      (t.guard w.grd = true → t.awaits (formIn i) w = false ∧ t.rangesOk b.decl (formIn i) w = true) ∧
      (b.stepping.contains (b.gidOf t.tidx) = false ∧ t.stepDue = false))))

theorem arr {s : State} {i : Instr} {w : Word} {b : Block} {u : Bundle} {g : Nat} (h : okArrives s i w b u g = true) :
    bundleArrives s i w b u g := by
  obtain ⟨h1, h2⟩ := Bool.and_eq_true_iff.mp h
  obtain ⟨a1, a2, a3, a4, a5, a6, a7, a8, a9, a10⟩ := of_decide_eq_true h1
  refine ⟨a1, a2, a3, a4, a5, a6, a7, a8, a9, fun k hk => ?_, a10⟩
  obtain ⟨t, ht, hd⟩ := (Option.any_eq_true _ _).mp (List.all_eq_true.mp h2 k hk)
  unfold unstepped
  exact ⟨t, ht, (of_decide_eq_true hd)⟩

/-- The eight words on two lanes that both arrive, one of them with a false guard, and on a bundle of lane 0 alone. -/
theorem witness_CrossLaneWordsRelease :
    let g (w : Word) : Word := { w with grd := ⟨false, 5⟩ }
    let words : List (Instr × Word × Meet) := [(.shfl (g (w3 4 2 3)), g (w3 4 2 3), .shfl), (.xbf (g (w3 32 40 0)), g (w3 32 40 0), .xbf),
      (.vote (g (w3 3 5 0)), g (w3 3 5 0), .vote), (.redg (g (w3 4 2 0)), g (w3 4 2 0), .redg), (.scang (g (w3 4 2 0)), g (w3 4 2 0), .scang),
      (.matchLanes (g (w3 4 2 0)), g (w3 4 2 0), .matchLanes), (.elect (g (w3 3 0 0)), g (w3 3 0 0), .elect),
      (.topk (g (w3 4 2 3)), g (w3 4 2 3), .topk)]
    ∀ x ∈ words, crossOf x.1 = some (x.2.1, x.2.2) ∧ bundleArrives pairState x.1 x.2.1 pairBlock ⟨0, [0, 1], 0⟩ 0 ∧
      bundleArrives (st pairBlock) x.1 x.2.1 pairBlock ⟨0, [0], 0⟩ 0 ∧
      (pairBlock.clip 0 ((Env.mk pairBlock (th [(2, 7)] [(5, true)])).namedSet x.2.1 true)) = 3 := by
  intro g words x hx
  refine ⟨?_, arr ?_, arr ?_, ?_⟩ <;> revert x <;> decide +kernel

/-- SHF on a bound BIN region and on an index that is not bound, a drain whose tile predicate is false, and a false guard. -/
theorem witness_EngineWordsIssue :
    let w := wd (.reg 0) (.reg 2) (.reg 3) 0 0
    let off : Word := { w with grd := ⟨true, 0⟩ }
    let dr := wd (.reg 0) (.reg 4) (.reg 6) 0 (8 + 15 * 0x100000)
    let t := { th [(2, 2), (3, 64), (4, 0), (6, 0x100), (10, 64)] with cnt := { Counts.zero with cp := 62 } }
    let sl : Slot := { Slot.start with state := .idle }
    let b : Block := { objBlock t 2 0 with slots := [sl], groups := [{ Group.start 1 0 with tq := 0 }] }
    let s : State := { stx b with regions := [binRegion] }
    let held (m : Meet) (w : Word) : Thread := { t with wait := some (.meet m w 1 true) }
    let e (m : Meet) (w : Word) : Env := ⟨b.mapThread 0 (fun x => { x with wait := some (.meet m w 1 true) }), held m w⟩
    engineOf (.shf w) = some (w, .shf) ∧ engineOf (.adrn dr) = some (dr, .adrn) ∧
    bundleArrives s (.shf w) w b ⟨0, [0], 0⟩ 0 ∧ bundleArrives (stx b) (.shf w) w b ⟨0, [0], 0⟩ 0 ∧ bundleArrives s (.shf off) off b ⟨0, [0], 0⟩ 0 ∧
    bundleArrives s (.adrn dr) dr b ⟨0, [0], 0⟩ 0 ∧ b.thread? 0 = some t ∧ b.stage = .running ∧ (Env.mk b t).namedSet w true = 1 ∧
    b.clip 0 1 &&& ~~~(1#64 <<< (0 % b.decl.width)) = 0 ∧ t.guard w.grd = true ∧ t.guard off.grd = false ∧
    (∃ y, engineIssue .shf w (e .shf w) ((s.hold 0 0 (.meet .shf w 1 true)).meetKnow b [0]) = .ok (some y)) ∧
    engineIssue .adrn dr (e .adrn dr) ((s.hold 0 0 (.meet .adrn dr 1 true)).meetKnow b [0]) = .ok none ∧
    (∃ tr, engineIssue .shf w (e .shf w) (((stx b).hold 0 0 (.meet .shf w 1 true)).meetKnow b [0]) = .error tr ∧
      (!replayable tr.cause && !failOp tr.cause && !handled tr.cause) = true) ∧ b.gang = none := by
  intro w off dr t sl b s held e
  refine ⟨rfl, rfl, arr (by decide +kernel), arr (by decide +kernel), arr (by decide +kernel), arr (by decide +kernel), by decide +kernel,
    rfl, by decide +kernel, by decide +kernel, by decide +kernel, by decide +kernel, gotSome (by decide +kernel), gotNone (by decide +kernel), lostWith _ (by decide +kernel), rfl⟩


/-- A queued command of the lone block, with its job. -/
def cmdOf (job : Job) (stage : CmdStage) : Cmd :=
  { id := 0, ctx := 0, blk := 0, tidx := 0, pc := 0, sup := false, cluster := 0, stage := stage, start := none, lanes := [0], gone := false,
    read := [], job := job }
def withCmd (s : State) (c : Cmd) : State := { s with cmds := [c], seq := 1 }

def idleSlot (fmt : Nat) : Slot := { Slot.start with state := .idle, fmt := fmt }
/-- A block of a launch without a team, with one slot, and an object at 64. -/
def accBlock (t : Thread) (sl : Slot) : Block :=
  { objBlock t 2 0 with decl := { Decl.lone with team := 0 }, slots := [sl] }
def openSlot (p : InstParams) (arrived : List Nat) : Slot :=
  { idleSlot 0 with state := .opened, inst := some ⟨9, p, [0, 1], arrived, [], []⟩ }

/-- The three forms on a slot that opens, on one that the lane has arrived at, on parameters that differ, on a handle without a slot,
with a clear join mask, a false tile predicate, and a reservation table that is full. -/
theorem witness_ContractionArrivalsAreRecorded :
    let c := wd (.reg 0) (.reg 4) (.reg 8) 0x40 (24 + 0x1000)
    let cz := wd (.reg 0) (.reg 4) (.reg 8) 0x40 (24 + 0x1000 + 15 * 0x800000)
    let cs := wd (.reg 0) (.reg 4) (.reg 6) 0x40 (5 + 0x1000)
    let cp := wd (.reg 0) (.reg 8) (.reg 12) 0x40 (32 + 0x1000)
    let all : List (Instr × Word × Nat) := [(.ctr c, c, 0), (.ctrs cs, cs, 1), (.ctrsp cp, cp, 2)]
    let t := { th [(5, 64)] with cnt := { Counts.zero with tl := 62 } }
    let bad := { th [(4, 1), (5, 64), (8, 1)] with cnt := { Counts.zero with tl := 62 } }
    let b := accBlock t (idleSlot 0)
    let c9 := wd (.reg 0) (.reg 4) (.reg 8) 0x240 (24 + 0x1000)
    let fm (v : Nat) : Block := { b with fm := [(0, BitVec.ofNat 32 v)] }
    let held : Block := { b with threads := [t, { th [] with tidx := 1, wait := some (.closure 0 0 0) }] }
    let full : State := { st b with clusters := [(0, { Cluster.reset with passes := List.replicate 32 ⟨7, 0, 0, 0, 0⟩ })] }
    (∀ x ∈ all, ctrOf x.1 = some (x.2.1, x.2.2) ∧ issues (st b) x.1 x.2.1 b t ∧ issues full x.1 x.2.1 b t ∧
      issues (st (accBlock bad (idleSlot 0))) x.1 x.2.1 (accBlock bad (idleSlot 0)) bad ∧ b.joinMask 0 (immF x.2.1 20 3) = 1 ∧
      ((st b).resolve ⟨b, t⟩ (((⟨b, t⟩ : Env).tuple x.2.1.a 1).getD 0 0)).isOk = true ∧
      ((st b).resolve ⟨accBlock bad (idleSlot 0), bad⟩ (((⟨accBlock bad (idleSlot 0), bad⟩ : Env).tuple x.2.1.a 1).getD 0 0)).isOk = false ∧
      suits (paramsOf x.2.1 x.2.2) (idleSlot 0) = true ∧ suits (paramsOf x.2.1 x.2.2) (idleSlot 2) = false ∧
      (⟨b, t⟩ : Env).tile (immF x.2.1 23 4) = true ∧ (full.postPass b 0 1).isNone = true ∧ ((st b).postPass b 0 1).isSome = true) ∧
    ctrsFault ⟨b, t⟩ cs = none ∧
    (∀ arrived ∈ [[], [0]], ∀ p ∈ [paramsOf c 0, paramsOf cs 1],
      let b := accBlock t (openSlot p arrived); issues (st b) (.ctr c) c b t ∧
      ((st b).slot? 0 0).bind Slot.inst = some ⟨9, p, [0, 1], arrived, [], []⟩) ∧
    (let b : Block := { b with groups := [{ Group.start 1 0 with jm := [] }] }; issues (st b) (.ctr c) c b t ∧
      (b.joinMask 0 (immF c 20 3)).getLsbD 0 = false) ∧
    (let b : Block := { b with groups := [{ Group.start 1 0 with tq := 0 }] }; issues (st b) (.ctr cz) cz b t ∧
      (b.joinMask 0 (immF cz 20 3)).getLsbD 0 = true ∧ (⟨b, t⟩ : Env).tile (immF cz 23 4) = false) ∧
    (∀ v ∈ [0, 0x40734], issues (st (fm v)) (.ctr c9) c9 (fm v) t ∧ (paramsOf c9 0).fmt = 9 ∧ suits (paramsOf c9 0) (idleSlot 0) = true) ∧
    pnfOf 0 = none ∧ (pnfOf 0x40734).isSome = true ∧ (st b).heldAhead 0 0 (st b).seq false = false ∧
    (issues (st held) (.ctr c) c held t ∧ (st held).heldAhead 0 0 (st held).seq false = true) ∧ t.cnt.tl < 63 := by
  intro c cz cs cp all t bad b c9 fm held full
  refine ⟨fun x hx => ⟨?_, iss ?_, iss ?_, iss ?_, ?_⟩, by decide +kernel, fun a ha p hp => ⟨iss ?_, ?_⟩, ⟨iss (by decide +kernel),
    by decide +kernel⟩, ⟨iss (by decide +kernel), by decide +kernel, by decide +kernel⟩, fun v hv => ⟨iss ?_, by decide +kernel⟩,
    by decide +kernel, by decide +kernel, by decide +kernel, ⟨iss (by decide +kernel), by decide +kernel⟩, by decide⟩
  · revert x; decide +kernel
  · revert x; decide +kernel
  · revert x; decide +kernel
  · revert x; decide +kernel
  · revert x; decide +kernel
  · revert a p; decide +kernel
  · revert a p; decide +kernel
  · revert v; decide +kernel

/-- The words of a slot on one that is idle, expects the lane, is open, or drains; on a handle without a slot; AALLOC with and without a
free slot. -/
theorem witness_AccumulatorWordsComplete :
    let t := { th [] with cnt := { Counts.zero with tl := 62 } }
    let bad := { th [(4, 1)] with cnt := { Counts.zero with tl := 62 } }
    let n : Opd := .reg 0
    let h := wd n (.reg 4) n 0 0
    let hz := wd n (.reg 4) n 0 15
    let all : List (Instr × Word) := [(.cwd h, h), (.afree h, h), (.azero h, h), (.ald (w3 40 4 0), w3 40 4 0),
      (.ast (wd n (.reg 4) (.reg 5) 0 40), wd n (.reg 4) (.reg 5) 0 40), (.astat (w3 6 4 0), w3 6 4 0), (.astat (w3 6 4 0 1), w3 6 4 0 1)]
    let p := paramsOf h 0
    let away : Slot := { idleSlot 0 with state := .opened, inst := some ⟨9, p, [1], [], [], []⟩ }
    let drains : Slot := { idleSlot 0 with drains := 1 }
    let q (sl : Slot) : State := { withCmd (st (accBlock t sl)) (cmdOf (.drain 0 0 0x5000 4 0x3F800000 0 1 1 64) .queued) with seq := 5 }
    let held (frees : Bool) : Block :=
      { accBlock t (idleSlot 0) with threads := [t, { th [] with tidx := 1, wait := some (.acc 0 0 0 frees) }] }
    let low : Block := { accBlock t (idleSlot 0) with groups := [{ Group.start 1 0 with tq := 0 }] }
    (∀ sl ∈ [idleSlot 0, openSlot p [], away, drains], ∀ x ∈ all, issues (st (accBlock t sl)) x.1 x.2 (accBlock t sl) t ∧
      ((st (accBlock t sl)).resolve ⟨accBlock t sl, t⟩ 0).isOk = true) ∧
    (∀ x ∈ all, issues (st (accBlock bad (idleSlot 0))) x.1 x.2 (accBlock bad (idleSlot 0)) bad) ∧
    ((st (accBlock bad (idleSlot 0))).resolve ⟨accBlock bad (idleSlot 0), bad⟩ 1).isOk = false ∧
    (openSlot p []).expects 0 = true ∧ away.expects 0 = false ∧ (st (accBlock t away)).interlock 0 0 5 away = true ∧
    (∀ x ∈ all, issues (q drains) x.1 x.2 (accBlock t drains) t) ∧ (q drains).interlock 0 0 5 drains = true ∧
    (q drains).statusWait 0 0 5 drains = true ∧ (st (accBlock t (idleSlot 0))).interlock 0 0 5 (idleSlot 0) = false ∧
    (st (accBlock t (idleSlot 0))).statusWait 0 0 5 (idleSlot 0) = false ∧
    (∀ f, (st (held f)).interlock 0 0 5 (idleSlot 0) = true ∧ (st (held f)).statusWait 0 0 5 (idleSlot 0) = !f) ∧
    formSuits 0 0 = true ∧ (⟨accBlock t (idleSlot 0), t⟩ : Env).tile 0 = true ∧
    (issues (st low) (.azero hz) hz low t ∧ (⟨low, t⟩ : Env).tile 15 = false) ∧
    (∀ sl ∈ [Slot.start, idleSlot 0], issues (st (accBlock t sl)) (.aalloc (w3 6 0 0)) (w3 6 0 0) (accBlock t sl) t) ∧
    Slot.start.state = .free ∧ (idleSlot 0).state ≠ .free := by
  intro t bad n h hz all p away drains q held low
  refine ⟨fun sl hs x hx => ⟨iss ?_, ?_⟩, fun x hx => iss ?_, by decide +kernel, by decide +kernel, by decide +kernel, by decide +kernel,
    fun x hx => iss ?_, by decide +kernel, by decide +kernel, by decide +kernel, by decide +kernel, by decide +kernel, by decide +kernel,
    by decide +kernel, ⟨iss (by decide +kernel), by decide +kernel⟩,
    fun sl hs => iss ?_, rfl, by decide⟩
  · revert sl x; decide +kernel
  · revert sl x; decide +kernel
  · revert x; decide +kernel
  · revert x; decide +kernel
  · revert sl; decide +kernel

def levelBytes (ex ey ez d sc : Nat) : List Byte :=
  leBytes 4 ex ++ leBytes 2 ey ++ leBytes 2 ez ++ leBytes 1 d ++ leBytes 1 sc ++ List.replicate 6 0

/-- A record of four levels: one group of eight lanes a block, four blocks on the device (or in the pod), and its flags. -/
def recordBytes (flags : Nat) (top : Nat := 5) (start : Nat := 0) : List Byte :=
  leBytes 8 0x10000 ++ leBytes 4 3 ++ leBytes 1 4 ++ leBytes 1 1 ++ leBytes 2 flags ++
  levelBytes 1 1 1 0 0 ++ levelBytes 8 1 1 1 1 ++ levelBytes 1 1 1 2 2 ++ levelBytes 4 1 1 top top ++ List.replicate 64 0 ++
  leBytes 8 0x6000 ++ leBytes 2 64 ++ leBytes 2 32 ++ leBytes 2 0 ++ leBytes 1 16 ++ leBytes 1 1 ++ leBytes 2 1 ++ leBytes 2 1 ++
  leBytes 4 0 ++ leBytes 4 0 ++ leBytes 4 0 ++ leBytes 8 0 ++ leBytes 8 start ++ leBytes 8 0x5000 ++ leBytes 8 0x7000 ++
  List.replicate 48 0

def recordOf (flags : Nat) (top : Nat := 5) (start : Nat := 0) : LaunchRec := LaunchRec.ofBytes (recordBytes flags top start)

/-- An accepted launch of context 0. -/
def launchOf (lid : Nat) (r : LaunchRec) (state : LState) : Launch :=
  { Launch.make lid 0 1 (.queue 0) r 0x3000 [] [] 0 0 with state := state }

def proBlock (t : Thread) : Block :=
  { Block.lone 0 .prologue with decl := { Decl.lone with lid := 5, regs := 64, preds := 16 }, threads := [t] }
def proState (b : Block) : State := { st b with launches := [launchOf 5 (recordOf 0x10) .prologue] }

/-- LAUNCH with an answer, a refusal, a request under way, and on records of every kind; LCTL on a launch and on none; LPSET and LEND
in a prologue. -/
theorem witness_LaunchWordsComplete :
    let n : Opd := .reg 0
    let w := wd (.reg 4) (.reg 2) n 0 0
    let t (a : Nat) := th [(2, BitVec.ofNat 32 a)]
    let s (a : Nat) (d : List Byte) : State := withDescr (bk (t a)) d
    let mine (x : LaunchAns) : Bool := x.blk == 0 && x.tidx == 0 && x.pc == 0
    let ans (r : Nat) : State := { st (bk (t 0)) with answers := [⟨0, 0, 0, 7, r⟩] }
    let req : State := { st (bk (t 0)) with requests := [⟨0, 0, 0, 0, 0, 0x3000, recordOf 0, []⟩] }
    let podful (bs : List Byte) : State := { s 0x3000 bs with pod := { Pod.reset with inPod := true, members := [0, 1], ridge := some 0 } }
    let two : Block := { bk (t 0x3000) with threads := [{ t 0x3000 with tidx := 1 }, { pending (t 0) .st (.store []) with wait := some .written }] }
    (∀ r ∈ [0, 3], issues (ans r) (.launch w) w (bk (t 0)) (t 0) ∧ (ans r).answers.find? mine = some ⟨0, 0, 0, 7, r⟩) ∧
    (issues req (.launch w) w (bk (t 0)) (t 0) ∧ req.answers.find? mine = none ∧ req.submitted ⟨bk (t 0), t 0⟩ = true) ∧
    (issues (s 0x3020 []) (.launch w) w (bk (t 0x3020)) (t 0x3020) ∧ (s 0x3020 []).answers.find? mine = none ∧
      (s 0x3020 []).submitted ⟨bk (t 0x3020), t 0x3020⟩ = false ∧ (misaligned 0x3020 64).isSome = true) ∧
    (∀ f ∈ [0, 0x40], issues (s 0x3000 (recordBytes f)) (.launch w) w (bk (t 0x3000)) (t 0x3000) ∧
      (s 0x3000 (recordBytes f)).answers.find? mine = none ∧ (s 0x3000 (recordBytes f)).submitted ⟨bk (t 0x3000), t 0x3000⟩ = false ∧
      ((s 0x3000 (recordBytes f)).readLaunch ⟨bk (t 0x3000), t 0x3000⟩ 0x3000).toOption = some (recordBytes f) ∧
      ((s 0x3000 (recordBytes f)).readParams ⟨bk (t 0x3000), t 0x3000⟩ (recordOf f)).toOption = some (List.replicate 64 0) ∧
      (⟨bk (t 0x3000), t 0x3000⟩ : Env).laneAhead = false ∧ (⟨two, { t 0x3000 with tidx := 1 }⟩ : Env).laneAhead = true ∧
      (s 0x3000 (recordBytes f)).forPod (recordOf f) = false) ∧
    (∀ f ∈ [2, 0x42], issues (podful (recordBytes f 6)) (.launch w) w (bk (t 0x3000)) (t 0x3000) ∧
      (podful (recordBytes f 6)).answers.find? mine = none ∧ (podful (recordBytes f 6)).submitted ⟨bk (t 0x3000), t 0x3000⟩ = false ∧
      (podful (recordBytes f 6)).forPod (recordOf f 6) = true) ∧
    refusal (recordBytes 2 6) (dmapOf (recordBytes 2 6)) false true = 0 ∧ refusal (recordBytes 0x42 6) (dmapOf (recordBytes 0x42 6)) false true ≠ 0 ∧
    misaligned 0x3000 64 = none ∧ refusal (recordBytes 0) (dmapOf (recordBytes 0)) false false = 0 ∧
    refusal (recordBytes 0x40) (dmapOf (recordBytes 0x40)) false false = 1 ∧ (t 0).written = true ∧
    (let p := pending (t 0x3000) .st (.store []); issues (withDescr (bk p) (recordBytes 0)) (.launch w) w (bk p) p ∧ p.written = false) ∧
    (let l : State := { st (bk (t 5)) with launches := [launchOf 5 (recordOf 0) .dealing] };
      issues l (.lctlQuery (wd (.reg 4) (.reg 2) n 2 0)) (wd (.reg 4) (.reg 2) n 2 0) (bk (t 5)) (t 5) ∧
      issues l (.lctlKill (wd (.reg 4) (.reg 2) n 1 0)) (wd (.reg 4) (.reg 2) n 1 0) (bk (t 5)) (t 5) ∧
      issues (st (bk (t 5))) (.lctlCancel w) w (bk (t 5)) (t 5) ∧ (∀ l ∈ (st (bk (t 5))).launches, ¬ (l.lid = 5 ∧ l.ctx = 0))) ∧
    (∀ k ∈ [15, 16], let t := th [(2, BitVec.ofNat 32 k)]; let b := proBlock t; let w := wd n (.reg 2) (.reg 3) 0 0;
      issues (proState b) (.lpset w) w b t ∧ (proState b).launch? 5 = some (launchOf 5 (recordOf 0x10) .prologue) ∧
      (⟨b, t⟩ : Env).inPrologue w.a = true ∧ (⟨b, t⟩ : Env).inPrologue w.b = true ∧
      (⟨b, t⟩ : Env).inArray w.a = true ∧ (⟨b, t⟩ : Env).inArray w.b = true ∧ (⟨b, t⟩ : Env).inPrologue (.reg 64) = false ∧
      (⟨b, t⟩ : Env).inArray (.idx 0 (-1)) = false) ∧
    lpsetOk 0 15 (recordOf 0x10) = true ∧ lpsetOk 0 16 (recordOf 0x10) = false ∧ lpsetOk 1 3 (recordOf 0x10) = true ∧
    (∀ i ∈ [Instr.lendCancel (wd n n n 1 0), .lendLaunch (wd n n n 0 0), .lendRepeat (wd n (.reg 2) n 2 0)],
      issues (proState (proBlock (t 3))) i (((formOf i).map Prod.fst).getD w) (proBlock (t 3)) (t 3)) ∧
    (recordOf 0x10).gridReason [] = 0 := by
  intro n w t s mine ans req podful two
  refine ⟨fun r hr => ⟨iss ?_, ?_⟩, ⟨iss (by decide +kernel), by decide +kernel, by decide +kernel⟩, ⟨iss (by decide +kernel),
    by decide +kernel, by decide +kernel, by decide +kernel⟩, fun f hf => ⟨iss ?_, ?_⟩, fun f hf => ⟨iss ?_, ?_⟩, by decide +kernel,
    by decide +kernel, by decide +kernel, by decide +kernel, by decide +kernel,
    by decide +kernel, ⟨iss (by decide +kernel), by decide +kernel⟩, ⟨iss (by decide +kernel), iss (by decide +kernel), iss (by decide +kernel),
    by decide +kernel⟩, fun k hk => ⟨iss ?_, ?_⟩, by decide +kernel, by decide +kernel, by decide +kernel, fun i hi => iss ?_,
    by decide +kernel⟩
  · revert r; decide +kernel
  · revert r; decide +kernel
  · revert f; decide +kernel
  · revert f; decide +kernel
  · revert f; decide +kernel
  · revert f; decide +kernel
  · revert k; decide +kernel
  · revert k; decide +kernel
  · revert i; decide +kernel

/-- FXB with a free slot and with none, FXE and FXA outside a section and in one of each state. -/
theorem witness_SectionWordsComplete :
    let n : Opd := .reg 0
    let w := wd (.reg 3) n n 0 4
    let e := wd n n n 0 0
    let t := th []
    let b := bk t
    let full : State := withSec (st b) ((List.range 64).map (fun k => { sec with slot := k, blk := 7 }))
    let s (x : FxState) : State := withSec (st b) [{ sec with state := x }]
    issues (st b) (.fxb w) w b t ∧ (st b).sectionOf 0 0 = none ∧ (st b).fxAhead 0 (st b).seq = 0 ∧ ((st b).fxFree 0).head? = some 0 ∧
    issues full (.fxb w) w b t ∧ full.sectionOf 0 0 = none ∧ full.fxFree 0 = [] ∧
    issues (st b) (.fxe e) e b t ∧ issues (st b) (.fxa e) e b t ∧
    (∀ x ∈ [FxState.opened, .ended, .committed], issues (s x) (.fxe e) e b t ∧ issues (s x) (.fxa e) e b t ∧
      (s x).sectionOf 0 0 = some { sec with state := x }) ∧ sec.live = true ∧ (s .opened).section? 0 0 = some sec := by
  intro n w e t b full s
  refine ⟨iss (by decide +kernel), by decide +kernel, by decide +kernel, by decide +kernel, iss (by decide +kernel), by decide +kernel, by decide +kernel,
    iss (by decide +kernel), iss (by decide +kernel), fun x hx => ⟨iss ?_, iss ?_, ?_⟩, by decide, by decide +kernel⟩
  · revert x; decide +kernel
  · revert x; decide +kernel
  · revert x; decide +kernel

def one (p : Pend) : Thread := { th [] with cnt := Counts.zero.add p.ctr, pend := [p] }

/-- Operations of each kind, of memory and of the scratchpad at its end, with and without poison; gradients that go on; an append that
waits and one whose page is not mapped. -/
theorem witness_OperationsArePerformed :
    let ps : List Pend := [⟨3, .st, 0, .store [(.phys 0x5000, [1, 2, 3, 4])], none⟩,
      ⟨3, .ld, 0, .atom (.phys 0x5000) 0 (.int 0 6) 1 0 0 false [some 4], none⟩,
      ⟨3, .ld, 0, .load (.scratch 0 4092) 0 4 1 false true false [some 4], none⟩, ⟨3, .tl, 0, .done, none⟩]
    (∀ p ∈ ps, let t := one p; (st (bk t)).block? 0 = some (bk t) ∧ (bk t).thread? 0 = some t ∧
      t.pend.find? (fun q => q.op == p.op) = some p ∧ p.ctr ≠ .cp ∧ (bk t).held t p = false ∧ p.act.isCtrs = false ∧
      (st (bk t)).appendWaits (bk t) t p.act = false ∧ (st (bk t)).appendMiss (bk t) t p.act = none ∧
      (p.act.reads 0).find? (st (bk t)).poisoned = none ∧
      ((((st (bk t)).sawAll (bk t) t p).performAct (bk t) t p).carry (st (bk t)) (bk t) t p).leftOf 0 0 3 = none ∧
      (∀ x ∈ (bk t).threads, x.wait = none ∧ x.tokens = []) ∧ ((bk t).threads.map Thread.tidx).Nodup) ∧
    (let p : Pend := ⟨3, .ld, 0, .load (.phys 0x5000) 0x5000 4 1 false false false [some 4], none⟩
      let s : State := { st (bk (one p)) with poison := [0x5000 / 32] }
      s.block? 0 = some (bk (one p)) ∧ (bk (one p)).held (one p) p = false ∧ ((p.act.reads 0).find? s.poisoned).isSome = true) ∧
    (∀ n, let gs : List Grad := [⟨0x5000, 0x5000, 0, false⟩, ⟨0x5004, 0x5004, 0, false⟩]
      let t := one ⟨3, .st, 0, .gradients gs, none⟩
      ((st (bk t)).oneGrad (bk t) t 3 gs (n % 2) none).leftOf 0 0 3 ≠ none) ∧
    (∀ f, AtomKind.int 0 6 ≠ .flt 0 f) := by
  intro ps
  exact ⟨by decide +kernel, by decide +kernel, fun n => by
    rcases Nat.mod_two_eq_zero_or_one n with h | h <;> rw [h] <;> decide +kernel, fun f h => by cases h⟩

/-- A load and a store of a host page and of the last byte of a peer page. -/
theorem witness_PortEventsComplete :
    (∀ k ∈ [2 * 2 ^ 64, 4 * 2 ^ 64 - 4], ∀ p ∈ [(⟨3, .ld, 0, .load (.phys k) 0 4 1 false false false [some 4], none⟩ : Pend),
      ⟨3, .st, 0, .store [(.phys k, [0])], none⟩], let t := one p
      (st (bk t)).block? 0 = some (bk t) ∧ (bk t).thread? 0 = some t ∧ t.pend.find? (fun q => q.op == p.op) = some p ∧
      (bk t).held t p = false ∧ (Loc.phys k).remote = true ∧
      (∀ x ∈ (bk t).threads, x.wait = none ∧ x.tokens = []) ∧ ((bk t).threads.map Thread.tidx).Nodup) ∧
    (st (bk (th []))).msc = [] ∧ (st (bk (th []))).portAtoms (2 * 2 ^ 64) 4 = [] := by
  decide +kernel

/-- Partition 0 holds cluster 0 and runs context 0. -/
def runs0 (s : State) : State := { s with partitions := [(0, { mask := 1, ctl := 0x100, busy := false })] }

/-- The last scheduler of the last core, a yield that has run out, a token, a time that comes, a held trap, a walk for reading. -/
theorem witness_IssueAndWaitsComplete :
    let idle : State := { st (bk (th [])) with latch := none }
    let tok : Thread := { th [] with tokens := [⟨0, 0, 0, 64, .arrive 1 0, some 4, 0, false, some 9⟩] }
    let time : Thread := { th [] with wait := some (.time 5 false) }
    let trap : Thread := { th [] with trap := some (trap' 0x10) }
    (idle.latch = none ∧ 1 < 2 ∧ 257 < 258 ∧ idle.replaying = []) ∧
    (∀ t ∈ [th [], tok, time, trap], (runs0 (st (bk t))).block? 0 = some (bk t) ∧ (bk t).thread? 0 = some t) ∧
    ((th []).yieldBundles = 0 ∧ (runs0 (st (bk time))).canIssue (bk time) time = true ∧ (bk time).stepping = [] ∧ time.stepDue = false) ∧
    (handled 0x10 = true ∧ trap.cnt = Counts.zero ∧ trap.inTrap = false ∧ (st (bk trap)).sectionOf 0 0 = none) ∧
    ((st (bk (th []))).walk 0 (0x7FFF * 65536) = .ok (0xE3, 31) ∧ 3 / 4 % 2 = 0 ∧ (st (bk (th []))).xinv = none) := by
  decide +kernel

def shape : Shape := { base := 0x5000, fmt := 0, rank := 1, swz := 0, tier := 0, fill := 0, dims := [4], strs := [], boxes := [4] }
def copyOf (dir dst : Nat) (todo : List (Nat × Nat)) : Job := .copy dir shape [0] dst false false [⟨0, 0, 64, none, todo⟩]

/-- A copy that is accepted, one that starts at its time, pieces of a copy that are the last and that are not, and one whose page is not
mapped; a walk; a sub-region and the end of a replay; a forbidden access. -/
theorem witness_EngineCommandsProceed :
    let b := objBlock (one ⟨3, .cp, 0, .done, none⟩) 2 0
    let s (c : Cmd) : State := withCmd (st b) c
    let q := cmdOf (copyOf 0 0 [(0, 4)]) .queued
    let h : Cmd := { cmdOf (copyOf 0 0 [(0, 4)]) .held with start := some 9 }
    let r (dir dst : Nat) := cmdOf (copyOf dir dst [(0, 4)]) .running
    let g := cmdOf (.gleaner 0x6000 0x7000 1 0 1 false shape 0) .running
    let t : Target := ⟨0, 0, 64, some 2, [(0, 4)]⟩
    let lds : Pend := ⟨3, .ld, 0, .load (.scratch 0 0) 0 4 1 false true false [some 4], some 2⟩
    let sh (n : List Nat) (xs : List Replayed) := cmdOf (.sheaf binRegion 64 n xs) .running
    let x (todo : List (Nat × Nat)) : Replayed := ⟨0, 0x80000, [], [], todo, 0⟩
    ((s q).cmd? 0 = some q ∧ (s q).acceptable q = true ∧ q.job.over = false ∧ q.gone = false ∧
      (s q).thread? 0 0 = some (one ⟨3, .cp, 0, .done, none⟩) ∧ q.lanes = [0]) ∧
    ((s h).cmd? 0 = some h ∧ h.stage = .held ∧ h.start = some 9) ∧
    (∀ dir ∈ [0, 1, 2], (s (r dir 0x5100)).cmd? 0 = some (r dir 0x5100) ∧
      (s (r dir 0x5100)).slotPending ⟨0, 0, 64, none, [(0, 4)]⟩ 0 = false ∧
      ∀ n ∈ [3, 4], holdsRun 0 n [(0, 4)] = true ∧ ((s (r dir 0x5100)).movePiece (r dir 0x5100) dir shape [0] 0x5100 false
        ⟨0, 0, 64, none, [(0, 4)]⟩ ((List.range n).map (fun k => 0 + k))).isOk = true) ∧
    cutRun 0 3 [(0, 4)] ≠ [] ∧ cutRun 0 4 [(0, 4)] = [] ∧
    ((s (r 2 0x80000000)).movePiece (r 2 0x80000000) 2 shape [0] 0x80000000 false ⟨0, 0, 64, none, [(0, 4)]⟩ [0]).isOk = false ∧
    ((s g).cmd? 0 = some g ∧ 0 < (s g).seq ∧ (s g).block? 0 = some b ∧ ((s g).engineRead g 0x7000 4 4).toOption = some [0, 0, 0, 0] ∧
      ((s g).tableEntry g 0x6000 1 0).isOk = true) ∧
    (st (objBlock (one lds) 2 0)).slotPending t 4 = true ∧ (st (objBlock (one lds) 2 0)).slotPending t 3 = false ∧
    (∀ c ∈ [sh [0] [], sh [4] [], sh [4] [x []], sh [4] [x [(0x5000, 1)]]], (s c).cmd? 0 = some c ∧ (s c).regionBusy c binRegion = false) ∧
    sheafSteps binRegion [0] [] = [.inr 0] ∧ sheafSteps binRegion [4] [] = [] ∧ sheafSteps binRegion [4] [x []] = [.inl (x [])] ∧
    ((s (sh [0] [])).lockBin (sh [0] []) binRegion 0).isOk = true ∧
    ((s (sh [0] [])).lockBin (sh [0] []) { binRegion with binbase := 0x80000000 } 0).isOk = false ∧
    (let c := cmdOf (.gleaner 0x6000 (2 ^ 57) 1 0 1 false shape 0) .running;
      c.nextAccess = some (2 ^ 57, Need.load) ∧ failsWith ((s c).engineAt c (2 ^ 57) Need.load) (fun e => e.cause == 6) = true) := by
  decide +kernel

/-- A collective of devices 0 and 1 on sixteen elements. -/
def coll (kind : Nat) : CollRec :=
  { src := 0x5000, dst := 0x6000, count := 16, kind := kind, fmt := 1, rop := 0, arg := 0, cid := 1, members := 3, wgt := 0x7000, mst1 := 0x8000,
    mst2 := 0, pnd := 0x9000, c2 := 0, lr := 0, mu1 := 0, mu2 := 0, eps := 0, wd := 0, gscale := 0x3F800000, c1 := 0 }
def peerOf (kind count : Nat) : Peer :=
  { dev := 1, kind := kind, fmt := 1, rop := 0, arg := 0, count := count, members := 3, src := List.replicate 64 0, chunk := List.replicate 128 0,
    bad := false }
def collCmd (kind stage : Nat) (ps : List Peer) : Cmd := cmdOf (.winnow (coll kind) 0xA000 64 stage 0 ps) .running

/-- Each stage of a reduction and of an update. -/
theorem witness_CollectivesProceed :
    let b := objBlock (th []) 2 0
    let s (c : Cmd) : State := withCmd (st b) c
    (∀ k ∈ [0, 4], ∀ g ∈ [0, 1, 2, 3], let c := collCmd k g (if g = 0 then [] else [peerOf k 16])
      (s c).cmd? 0 = some c ∧ c.stage = .running) ∧
    ((s (collCmd 0 0 [])).collTurn (collCmd 0 0 []) 1 = true ∧ (coll 0).devices.filter (fun p => p != (s (collCmd 0 0 [])).pod.index) = [1] ∧
      (peerOf 0 16).kind = (coll 0).kind ∧ (peerOf 0 16).members = (coll 0).members ∧ (peerOf 0 32).count ≠ (coll 0).count) ∧
    (let c := collCmd 4 1 [peerOf 4 16]
      ∃ us, (s c).ownChunk c (coll 4) [peerOf 4 16] = .ok us ∧
        ((s c).writeSpan c 0x9000 ((coll 4).pending 0 us [peerOf 4 16])).isOk = true) ∧
    (let c := collCmd 0 1 [peerOf 0 16]
      ∃ srcs, (s c).sources c (coll 0) [peerOf 0 16] = .ok srcs ∧ ((s c).writeSpan c 0x6000 ((coll 0).results (s c).treePick srcs 0)).isOk = true) ∧
    (∃ s1, (s (collCmd 4 2 [peerOf 4 16])).commitUpdate (collCmd 4 2 [peerOf 4 16]) (coll 4) = .ok s1) ∧
    ∃ s1, (s (collCmd 0 3 [])).writeSpan (collCmd 0 3 []) 0xA000 (leBytes 8 (1 + 0 + (2 - 1) * 2 ^ 32)) = .ok s1 := by
  intro b s
  refine ⟨by decide +kernel, by decide +kernel, ?_, ?_, got (by decide +kernel), got (by decide +kernel)⟩
  · intro c
    have h : ((s c).ownChunk c (coll 4) [peerOf 4 16]).toOption.any
        (fun us => ((s c).writeSpan c 0x9000 ((coll 4).pending 0 us [peerOf 4 16])).isOk) = true := by decide +kernel
    obtain ⟨us, hu, hk⟩ := (Option.any_eq_true _ _).mp h
    exact ⟨us, okOf hu, hk⟩
  · intro c
    have h : ((s c).sources c (coll 0) [peerOf 0 16]).toOption.any
        (fun srcs => ((s c).writeSpan c 0x6000 ((coll 0).results (s c).treePick srcs 0)).isOk) = true := by decide +kernel
    obtain ⟨srcs, hu, hk⟩ := (Option.any_eq_true _ _).mp h
    exact ⟨srcs, okOf hu, hk⟩

/-- Two entries of one class, a closing instance of one row and column, a drain, and an arrival of CTRS that is due. -/
theorem witness_GranaryEventsComplete :
    let p : Pass := ⟨0, 0, 0, 1, 3⟩
    let q : Pass := ⟨0, 1, 0, 1, 4⟩
    let s0 : State := { st (bk (th [])) with clusters := [(0, { Cluster.reset with passes := [q, p] })] }
    let i : Inst := ⟨9, paramsOf (w3 0 4 8 0x40 24) 0, [0], [0], [⟨0, [0x3C00], [0x3C00], 0, 0, true⟩], []⟩
    let c : Slot := { idleSlot 0 with state := .closing, inst := some i }
    let b := accBlock (th []) c
    let d : Cmd := cmdOf (.drain 0 0 0x5000 4 0x3F800000 0 1 1 64) .running
    let b' := accBlock (th []) { idleSlot 0 with drains := 1 }
    let x : Pend := ⟨3, .tl, 0, .ctrs 0 0 true 0 0 64 9, none⟩
    let o := objBlock (one x) 2 0
    (p ∈ (s0.cluster 0).passes ∧ ∀ y ∈ (s0.cluster 0).passes, y ≠ p → y.cls < p.cls ∨ (y.cls = p.cls ∧ p.age < y.age)) ∧
    (s0.cluster 0).passes[1]? = some p ∧
    ((st b).block? 0 = some b ∧ b.slots[0]? = some c ∧ c.inst = some i ∧ (st b).closable b 0 c i = true) ∧
    ((withCmd (st b') d).cmd? 0 = some d ∧ (withCmd (st b') d).slot? 0 0 = some { idleSlot 0 with drains := 1 } ∧
      (withCmd (st b') d).drainTurn d 0 0 = true ∧
      (∀ op ∈ [0, 1], (eachOk ((withCmd (st b') d).drainAt d 0x5000 4 op) [(0, 0)]).isOk = true)) ∧
    ((st o).block? 0 = some o ∧ o.thread? 0 = some (one x) ∧ (one x).pend.find? (fun q => q.op == x.op) = some x ∧
      (one x).ctrsReady x = true ∧ (st o).poisoned ⟨2, 0, 4, 0⟩ = false ∧
      ((((st o).fillContrib o (one x) 0 0 0 0 9).mapThread 0 0 (fun y => { y with pend := y.pend.filter (fun q => q.op != x.op) })).block? 0).any
        (fun b2 => (b2.arrive (some 0) 64 1 0).isSome) = true) := by
  decide +kernel

/-- A section that has ended, one that has aborted, and a remote wait. -/
theorem witness_SectionEventsComplete :
    let e : Section := { sec with state := .ended, writes := [8] }
    let a : Section := { sec with state := .aborted, cause := 1 }
    let s (x : Section) : State := { withSec (runs0 (st (bk (th [])))) [x] with versions := [⟨0, 0, 8, 0, [(0x100, 7)]⟩] }
    let r : Thread := { th [] with wait := some (.fxRemote 0x100 4 true) }
    (s e).fxTurn 0 = some e ∧ NMap.lookup ((s e).fxBytes 0 0) 0x100 = some 7 ∧
    ((s a).sectionOf 0 0 = some a ∧ (s a).canIssue (bk (th [])) (th []) = true ∧ (th []).wait = none ∧ (th []).stepDue = false) ∧
    ((withSec (st (bk r)) [sec]).block? 0 = some (bk r) ∧ (withSec (st (bk r)) [sec]).sectionOf 0 0 = some sec) := by
  decide +kernel

/-- A block that may retire and one that has, a bit and a report of a pod grid, and its completion. -/
theorem witness_RetirementAndCompletion :
    let gone : Thread := { th [] with life := .exited }
    let b : Block := { bk gone with slots := [] }
    let d : Block := { bk gone with stage := .retired, decl := { Decl.lone with lid := 5 } }
    let l := { launchOf 5 (recordOf 0) .draining with passes := 2 }
    let p := launchOf 5 (recordOf 2 6) .draining
    let f : Launch := { p with src := .device 3 }
    let s (l : Launch) : State := { stx d with launches := [l] }
    let e (l : Launch) : State := { s l with blocks := [] }
    ((runs0 (st b)).block? 0 = some b ∧ (runs0 (st b)).retirable b = true) ∧
    ((s l).block? 0 = some d ∧ d.stage = .retired ∧ ((s l).oldestRetired 0).map Block.id = some 0 ∧ (s l).oldestFrom 0 = some d.order ∧ (s l).nextServed 0 = some 0 ∧
      ((s l).cluster 0).link.maySend false = true ∧ (s l).launch? 5 = some l ∧ l.ending = false ∧ l.accounted = false ∧
      l.record.blocks ≠ l.done + 1 + l.killed + l.never ∧ l.state ≠ .done) ∧
    (p.pod = true ∧ 3 < p.record.blocks ∧ p.record.bitmap ≠ 0 ∧
      ((s p).ctx p.ctx).requests = [] ∧ ((s p).xlate [] 0 (p.record.bitmap.toNat + 3 / 8) Need.store true ((s p).pick 901)).isOk = true) ∧
    ((e p).launch? 5 = some p ∧ (e p).reportable p = true ∧ (e p).isRidge = false) ∧
    ((e f).launch? 5 = some f ∧ f.pod = true ∧ f.forwarded = false ∧ (e f).isRidge = false ∧
      let s0 := ((e f).mapLaunch 5 (fun y => y.told emptyDone)).flushBits 5 none
      s0.launch? 5 = some (f.told emptyDone) ∧ s0.unaccounted (f.told emptyDone) = false ∧ (f.told emptyDone).whole 0 = true ∧
        (f.told emptyDone).src = .device 3) := by
  decide +kernel

/-- A descriptor of sixteen submissions and sixteen completions, enabled, of context 0. -/
def queueDesc : List Byte :=
  leBytes 8 0x6000 ++ leBytes 8 0x6800 ++ leBytes 1 4 ++ leBytes 1 4 ++ leBytes 1 0 ++ leBytes 1 1 ++ List.replicate 44 0
/-- Queue 255 with its descriptor, and an entry at its head. -/
def front (kind addr : Nat) : State :=
  { stx (bk (th [])) with
    qtbase := 0x8001,
    mem := putBytes (putBytes (stx (bk (th []))).mem (0x8000 + 64 * 255) queueDesc) 0x6000 (leBytes 8 addr ++ leBytes 4 kind ++ leBytes 4 0),
    queues := [(255, { Queue.reset with live := true, desc := queueDesc, tail := 1 })] }

/-- Doorbells at both ends of the ring, and an entry of each kind at the head of queue 255. -/
theorem witness_FrontEndServes :
    (let s := front 0 0;
      s.descBytes 255 = queueDesc ∧ s.qtbase.getLsbD 0 = true ∧ descOk queueDesc = true ∧ descEnable queueDesc = true ∧
      descHalted queueDesc = false ∧ descSqSize queueDesc = 16 ∧ descCqSize queueDesc = 16 ∧ s.devq 0 = none ∧
      ∃ s1, s.readDesc 255 = some s1 ∧ (s1.queue 255).pending = [] ∧ (s1.queue 255).desc = queueDesc ∧ (s1.queue 255).tail = 1 ∧
        (s1.queue 255).sqhead = 0 ∧ (s1.queue 255).cqtail = 0 ∧ (s1.queue 255).head = 0 ∧
        ¬ ((15 + 16 - 0 % 16) % 16 < (1 + 16 - 0 % 16) % 16) ∧ ¬ ((0 + 16 - 0 % 16) % 16 < (0 + 16 - 0 % 16) % 16)) ∧
    (∀ x ∈ [(3, 0), (1, 2 ^ 32 - 1), (2, 5), (0, 0x3000), (0, 0x3001)], let s := front x.1 x.2;
      descEnable (s.descBytes 255) = true ∧ s.qtbase.getLsbD 0 = true ∧ s.fw.down = false ∧ (s.queue 255).live = true ∧ (s.queue 255).blocked = false ∧ (s.queue 255).podWait = false ∧
      (s.queue 255).sqhead ≠ (s.queue 255).tail ∧ fieldOf (leBytes 8 x.2 ++ leBytes 4 x.1 ++ leBytes 4 0) 8 4 = x.1 ∧
      (match s.queueRead 255 0 [(0x6000, 16)] none with
        | .got bs => some bs
        | _ => none) = some (leBytes 8 x.2 ++ leBytes 4 x.1 ++ leBytes 4 0)) ∧
    descEnable ({ front 0 0 with mem := [] }.descBytes 255) = false := by
  refine ⟨?_, by decide +kernel, by decide +kernel⟩
  intro s
  refine ⟨by decide +kernel, by decide +kernel, by decide +kernel, by decide +kernel, by decide +kernel, by decide +kernel,
    by decide +kernel, by decide +kernel, ?_⟩
  have h : (s.readDesc 255).any (fun s1 => decide ((s1.queue 255).pending = [] ∧ (s1.queue 255).desc = queueDesc ∧ (s1.queue 255).tail = 1 ∧
        (s1.queue 255).sqhead = 0 ∧ (s1.queue 255).cqtail = 0 ∧ (s1.queue 255).head = 0)) = true := by decide +kernel
  obtain ⟨s1, h1, h2⟩ := (Option.any_eq_true _ _).mp h
  obtain ⟨a, b, c, d, e, f⟩ := of_decide_eq_true h2
  exact ⟨s1, h1, a, b, c, d, e, f, by decide, by decide⟩

/-- Two devices, whose Ridge is on one of them; and a launch on such a machine. -/
def podOf (r : Nat) : Pod := { Pod.reset with inPod := true, members := [0, 1], ridge := some r }
def inPod (r : Nat) (l : Launch) : State := { stx (bk (th [])) with pod := podOf r, launches := [l] }
def numbered (n : Nat) (bs : List Byte) : PodRec :=
  { id := 3, podSeq := n, ctx := 0, dev := 1, record := bs, params := [], src := some (.queue 0), pc := 0, addr := 0 }

/-- A prologue before it starts and at both sides of its budget, timed and untimed launches, records of either outcome, and a pod
grid at Ridge and elsewhere. -/
theorem witness_LaunchesReachDealing :
    let p := launchOf 5 (recordOf 0x10) .prologue
    let s (l : Launch) : State := { stx (bk (th [])) with launches := [l] }
    let b (n : Nat) : Block := { proBlock (th []) with issued := n }
    let held (t : Nat) := launchOf 5 (recordOf 8 5 t) .held
    let due (l : Launch) : State := runs0 (s l)
    let good := recordBytes 2 6
    let bad := recordBytes 0x42 6
    let out (bs : List Byte) : State := { inPod 0 p with pod := { podOf 0 with outbox := [numbered 0 bs] } }
    let grid := launchOf 5 (recordOf 2 6) .dealing
    let pro := { launchOf (podLid 3) (recordOf 0x12 6) .prologue with podSeq := 3 }
    let early : State := { inPod 1 pro with pod := { podOf 1 with expect := 4 } }
    ((s p).launch? 5 = some p ∧ (s p).prologueOf 5 = none ∧ (s p).dealsHere p = true) ∧
    (∀ n ∈ [2 ^ 24 - 1, 2 ^ 24], (proState (b n)).prologueOf 5 = some (b n)) ∧
    ((s (held 100)).launch? 5 = some (held 100) ∧ (held 100).record.timed = true ∧
      (s (held 100)).ptime.toNat < (held 100).record.start.toNat) ∧
    ((due (held 0)).launch? 5 = some (held 0) ∧ (held 0).record.start.toNat ≤ (due (held 0)).ptime.toNat ∧
      (due (held 0)).activeIn 0 = some 0 ∧ ∀ a ∈ (due (held 0)).launches, a.earlier (held 0) = false) ∧
    ({ p with order := 1 }.earlier { held 0 with order := 2 } = true ∧ p.state = .prologue ∧ (held 0).record.prio ≤ p.record.prio) ∧
    ((s (held 0)).activeIn 0 = none ∧ (s (held 0)).launch? 5 = some (held 0)) ∧
    ((inPod 0 p).podReason 1 0 none good = 0 ∧ (out good).podReason 0 0 (some (.queue 0)) good = 0 ∧
      (out bad).podReason 0 0 (some (.queue 0)) bad ≠ 0 ∧
      (inPod 0 p).pod.ridge = some (inPod 0 p).pod.index ∧ 1 ∈ (inPod 0 p).pod.members ∧
      ∀ bs ∈ [good, bad], ((out bs).takeOutbox (fun r => r.ctx == 0 && (out bs).podTurn r)).map Prod.fst = some (numbered 0 bs)) ∧
    ((podOf 1).expect = 0 ∧ (podOf 1).held = [] ∧ (podOf 1).index = 0 ∧ (podOf 1).ridge ≠ some (podOf 1).index ∧ early.pod.held = [] ∧ 3 < early.pod.expect) ∧
    (early.launch? (podLid 3) = some pro ∧ pro.state = .prologue ∧ pro.podSeq = 3 ∧ pro.lid = podLid 3 ∧ pro.deps = [] ∧
      (recordBytes 0x12 6 ++ leBytes 4 1).length = 260) ∧
    (∀ r ∈ [0, 1], (inPod r grid).launch? 5 = some grid ∧ grid.pod = true ∧ (inPod r grid).isRidge = (r == 0)) := by
  decide +kernel

/-- A launch with nothing dealt, a request that waits, a range that ends the grid, and units to split and to hand out. -/
theorem witness_RangesAndSplitsMoveUnits :
    let l := launchOf 5 (recordOf 0) .dealing
    let s (l : Launch) : State := runs0 { stx (bk (th [])) with launches := [l], blocks := [] }
    let g := launchOf 5 (recordOf 2 6) .dealing
    let asks := { g with wants := [(1, 3)] }
    let two := { g with runs := [(0, 1), (2, 1)] }
    let all := { g with runs := [(0, 4)], nextUnit := 4 }
    let mine := { l with runs := [(3, 1)] }
    ((s l).launch? 5 = some l ∧ (s l).dealsHere l = true ∧ l.wants = [] ∧ (s l).canHold l = true ∧
      ((s l).unplacedUnits l).length < (s l).freeClusters 0 * l.record.upc) ∧
    ((inPod 0 asks).dealsHere asks = true ∧ asks.returned = [] ∧ asks.nextUnit < asks.record.units ∧
      ∀ a ∈ (inPod 0 asks).launches, a.before asks = false) ∧
    ((inPod 1 g).dealsHere g = false ∧ NMap.lookup g.reports 0 = none ∧ 3 + 1 ≤ g.record.units) ∧
    (two.pod = true ∧ (inPod 1 two).unplacedUnits two = [0, 2] ∧ (inPod 1 two).dealsHere two = false) ∧
    ((inPod 0 all).launch? 5 = some all ∧ (inPod 0 all).dealsHere all = true ∧ all.left = 0 ∧ 1 ∈ (inPod 0 all).pod.members ∧
      (inPod 0 all).unplacedUnits all = [0, 1, 2, 3] ∧ NMap.lookup all.reports 1 = none ∧ all.splits = [] ∧ (inPod 0 all).donor all 1 = some 0) ∧
    ((s mine).ripe mine = some (0, 3) ∧ ∀ a ∈ (s mine).launches, a.before mine = false) := by
  decide +kernel

/-- A block that waits alone, a DIE gang that has been placed, starved gangs at both limits with a victim, and a block in each phase
of its pre-emption. -/
theorem witness_PlacementAndPreemption :
    let w : Block := { bk (th []) with stage := .pending }
    let s (b : Block) : State := { runs0 (stx b) with latch := none }
    let g (die : Bool) (n : Nat) (t : W64) := { Gang.fresh 7 5 1 0 die t with rounds := n }
    let top := { launchOf 5 (recordOf 0) .dealing with record := { recordOf 0 with prio := 9 } }
    let wait : Block := { Block.lone 1 .pending with gang := some 7, decl := { Decl.lone with lid := 5, prio := 9, slots := 768 } }
    let low : Block := { bk (th []) with decl := { Decl.lone with persistent := true, prio := 1 } }
    let ctx : Context := { Context.reset with root := 0x1001, handler := 0x9000, save := 0x100000, saveSz := 0x100000 }
    let gs (x : Gang) : State :=
      { s low with blocks := [(0, low), (1, wait)], gangs := [x], launches := [top], contexts := [(0, ctx)], ptime := 25600000 }
    let placed := { g true 0 0 with assigned := true }
    let said : State := { gs placed with clusters := [(0, { Cluster.reset with link := { Link.reset with back := [(5, .placed 1)] } })] }
    let starved := { g false 0 0 with starved := true }
    let b (st : Stage) (t : Thread) : Block := { bk t with stage := st, saveAddr := 0x100000, saveSize := (bk t).recordSize }
    let one (b : Block) : State := { s b with contexts := [(0, ctx)] }
    let gone : Thread := { th [] with life := .parked }
    let small : Block := { b .saving gone with decl := { Decl.lone with slots := 0 } }
    ((s w).partitionOf 0 = some 0 ∧ ((s w).partition 0).actx = some 0 ∧ ((s w).partition 0).halt = false ∧
      ((s w).partition 0).halted = false ∧ (s w).usable 0 = true ∧ (s w).gangs = [] ∧ (s w).replaying = [] ∧ (s w).unsent w = false ∧
      (s w).allBlocks.filter (fun x => x.decl.ctx == 0 && x.waits) = [w] ∧ w.cluster = 0 ∧ w.gang = none ∧
      ((s w).bays 0 0).core w.decl = some 0) ∧
    (said.gangs[0]? = some placed ∧ (said.cluster 0).link.back.head? = some (5, .placed 1) ∧ said.unacked 0 1 = some placed ∧
      said.hears 0 (some (.placed 1)) = true) ∧
    (∀ x ∈ [g false 1024 25600000, g false 1 0], (gs x).gangs[0]? = some x ∧ (gs x).topGang x = true ∧ x.starved = false ∧
      (1024 ≤ x.rounds ∨ (0 < x.rounds ∧ x.since.toNat + 25600000 ≤ (gs x).ptime.toNat))) ∧
    ((gs starved).gangs[0]? = some starved ∧ starved.starvedAt.toNat + 25600000 ≤ (gs starved).ptime.toNat ∧
      (gs starved).victims starved 2 [] = [0] ∧ starved.size ≤ (gs starved).gangFits starved [0] ∧
      (∀ x ∈ (gs starved).allBlocks, x.stage ≠ .stopping ∧ x.stage ≠ .saving ∧ x.chosen = false) ∧
      (gs starved).block? 0 = some low ∧ low.cluster < 64 ∧
      (gs starved).saveSpace 0 low.recordSize = some 0x100000) ∧
    ((one (b .stopping (th []))).block? 0 = some (b .stopping (th [])) ∧ (one (b .stopping (th []))).cmds = [] ∧
      (one (b .stopping (th []))).retirable (b .stopping (th [])) = false ∧ (one (b .stopping (th []))).sections = [] ∧ ((one (b .stopping (th []))).ctx 0).handler ≠ 0) ∧
    (small.id = 0 ∧ (one small).block? 0 = some small ∧ small.stage = .saving ∧ small.residueSize = 16384 ∧ small.saveAddr = 0x100000 ∧ small.parked = true ∧ (one small).retirable small = false ∧
      pageSpans 0x100000 16384 = [(0x100000, 16384)] ∧ (one small).launches = [] ∧ (one small).residueWaits small = false ∧
      ((one small).xlate [] 0 0x100000 Need.store true ((one small).pick 901)).isOk = true) := by
  decide +kernel

/-- Messages of every outcome and permits that are owed. -/
theorem witness_LinksAndClustersFail_messages :
    let s := stx (bk (th []))
    let m (dir : Bool) (type ret : Nat) : Msg := ⟨dir, type, ret, 0, 0, 0⟩
    let mine (dir : Bool) : Msg := ⟨dir, 1, 0, 0, Decl.lone.lid, 0⟩
    let link (l : Link) : State := { s with clusters := [(2, { Cluster.reset with link := l })] }
    let owes := link { Link.reset with owedFrom := 4, fromPermits := 12 }
    let owed := link { Link.reset with owedTo := 4, toPermits := 12 }
    let place : Msg := ⟨true, 1, 0, 1, 5, 0⟩
    let base : Block := { bk (th []) with cluster := 2, stage := .pending, gang := some 7, decl := { Decl.lone with lid := 5 } }
    let g := { Gang.fresh 7 5 1 0 true 0 with assigned := true }
    let told : State := { link { Link.reset with out := [(1, 0)] } with gangs := [g], blocks := [(0, base)] }.mapLink 2
      (fun l => (l.deliver place).shift place none)
    let patched : State := { link { Link.reset with back := [(5, .patched)] } with fw := { s.fw with state := .broadcast, told := [2] } }
    ((s.cluster 63).lost = false ∧ (s.cluster 63).link.maySend true = true ∧ (s.cluster 63).link.maySend false = true ∧
      (s.cluster 63).link.seen (m true 0 0) = false ∧ ({ Link.reset with toSeq := 0 } : Link).seen (m true 0 0) = true ∧
      (m true 0 0).ret ≤ 16 - (s.cluster 63).link.held true ∧ 16 - (s.cluster 63).link.held true < (m true 1 1).ret) ∧
    (s.hears 63 none = true ∧ s.hears 63 (some (.fault 0)) = true ∧ (link { Link.reset with back := [(5, .patched)] }).hears 2 none = false) ∧
    (({ Link.reset with out := [(1, 0)] } : Link).isNext place = true ∧ Link.reset.isNext place = false ∧
      told.unacked 2 0 = some g ∧ told.partUnsent 2 g = false) ∧
    (({ bk (th []) with saveSize := 64 } : Block).chosen = true ∧ (bk (th [])).chosen = false) ∧
    (patched.fw.state = .broadcast ∧ 2 ∈ patched.fw.told ∧ 2 ∉ patched.fw.acks ∧
      (patched.cluster 2).link.back.head? = some (5, .patched) ∧ patched.hears 2 (some .patched) = true ∧
      (patched.cluster 2).link.maySend false = true ∧ 3 ∉ patched.fw.told) ∧
    ((s.cluster 0).link.maySend true = true ∧ s.block? 0 = some (bk (th [])) ∧ (bk (th [])).cluster = 0 ∧
      (bk (th [])).decl.lid = (mine true).lid) ∧
    (0 < (owes.cluster 2).link.toPermits ∧ 0 < (owes.cluster 2).link.owedFrom ∧ (owes.cluster 2).link.out = []) ∧
    (0 < (owed.cluster 2).link.fromPermits ∧ 0 < (owed.cluster 2).link.owedTo ∧ owed.hears 2 none = true) := by
  decide +kernel

/-- A cluster with a spare and one without, ports at the limit, members of a pod, and the Massif with and without a standby. -/
theorem witness_LinksAndClustersFail :
    let s := stx (bk (th []))
    let fw (st : FwState) : State := { s with fw := { s.fw with state := st } }
    let spent : State := { s with spares := [(0, 1)] }
    let port (n : Nat) : State := { s with pod := { podOf 0 with links := [3], retries := [(3, List.replicate n 0)] } }
    let g := launchOf 5 (recordOf 2 6) .dealing
    let down : State := { s with fw := { s.fw with down := true, noStandby := true } }
    ((s.cluster 15).lost = false ∧ NMap.lookup s.spares (15 / 16) = none ∧ NMap.lookup spent.spares (15 / 16) = some 1 ∧
      s.fw.state ≠ .broadcast) ∧
    (3 ∈ (port 8).pod.links ∧ 8 ≤ ((port 8).ptime :: (port 7).portErrors 3).length ∧ (port 8).pod.inPod = true ∧
      (port 8).pod.index ∈ (port 8).pod.members ∧ (port 8).pod.failing = [] ∧ (port 8).cmds = []) ∧
    (∀ r ∈ [0, 1], (inPod r g).pod.inPod = true ∧ 0 ∈ (inPod r g).pod.members ∧ 1 ∈ (inPod r g).pod.members ∧
      (inPod r g).pod.index = 0 ∧ (inPod r g).isRidge = (r == 0)) ∧
    ((inPod 0 g).launch? 5 = some g ∧ g.pod = true ∧ g.completion = none ∧ NMap.lookup g.reports 1 = none) ∧
    (down.fw.noStandby = true ∧ down.fw.down = true ∧ s.fw.noStandby = false ∧ s.fw.down = false ∧
      ∀ b ∈ s.allBlocks, b.mode ≠ .prologue) ∧
    (∀ x ∈ [FwState.verify, .gating, .quiescing], (fw x).fw.state = x) := by
  decide +kernel

/-- Writes that take effect and that are dropped, a partition that can stop and one that has, a request and its answers, an XINV, a
context bound and one that is not, and a replay. -/
theorem witness_RegisterWritesTakeEffect :
    let s := stx (bk (th []))
    let halting : State := { runs0 s with partitions := [(0, { mask := 1, ctl := 0x500, busy := false })], latch := none }
    let halted : State := { s with partitions := [(0, { mask := 1, ctl := 0xD00, busy := false })] }
    let req : PageReq := { seq := 7, page := 1, perm := false, acc := 1, lid := 0, ptime := 0, posted := true, waiters := [.group 0 0] }
    let waits : Thread := { th [] with trap := some { cause := 5, detail := 1, faddr := 0x10000, pc := 0 } }
    let asked : State := { stx (bk waits) with contexts := [(0, { Context.reset with root := 0x1001, requests := [req] })] }
    let desc := leBytes 8 0x3000 ++ leBytes 8 0x5000 ++ leBytes 4 9 ++ leBytes 4 3 ++ leBytes 2 0 ++ leBytes 2 0 ++ leBytes 4 1 ++
      leBytes 8 0x8000 ++ leBytes 8 0x8100 ++ List.replicate 16 0
    let plan : State := { runs0 s with mem := putBytes (putBytes s.mem 0x3000 (recordBytes 0)) 0x9000 desc }
    (halted.partition 0).halted = true ∧ (3#64) &&& halted.otherMasks 0 = 0 ∧
    (∀ b ∈ halted.allBlocks, b.stands = true → (3#64).getLsbD b.cluster = true) ∧ (s.partition 0).halted = true ∧
    ((runs0 s).partition 0).halted = false ∧
    ((runs0 s).badCtl 0 0x500 = false ∧ (runs0 s).badCtl 0 0x2500 = true) ∧
    ((halting.partition 0).halt = true ∧ (halting.partition 0).halted = false ∧ halting.latch = none ∧
      (∀ b ∈ halting.activeBlocks 0, halting.stopped b = true) ∧ halting.activeBlocks 0 ≠ [] ∧ halting.sections = []) ∧
    ((halted.partition 0).busy = false) ∧
    (∀ n ∈ [7, 0x100000007], let v := BitVec.ofNat 64 n; v.extractLsb' 33 31 = 0 ∧ req.seq = (v.extractLsb' 0 32).toNat) ∧
    ((asked.ctx 0).requests = [req] ∧ req.posted = true ∧ asked.block? 0 = some (bk waits) ∧ waits ∈ (bk waits).threads ∧
      (bk waits).gidOf 0 = 0 ∧ req.holds waits = true ∧ (asked.failEntries 0 req).length = 1) ∧
    ((st (bk (th []))).xinv = none ∧ (0x10301#64).extractLsb' 57 7 = 0 ∧ (0x10301#64).extractLsb' 10 6 = 0 ∧
      (0x10301#64).extractLsb' 4 4 = 0 ∧ s.xinv = some 0) ∧
    ((0x2001#64).extractLsb' 5 3 = 0 ∧ (0x2001#64).extractLsb' 1 2 = 0 ∧ (runs0 s).bindingOf 0 = some 0 ∧
      (runs0 s).bindingOf 15 = none ∧ (0x7C#64).extractLsb' 7 57 = 0 ∧ (0x7C#64).extractLsb' 0 2 = 0 ∧
      (0xFFFFFFFF#64).extractLsb' 32 32 = 0 ∧ (3#64).extractLsb' 2 62 = 0) ∧
    ((0x9000#64).extractLsb' 0 6 = 0 ∧ plan.replaying = [] ∧ plan.readMany 0 0x9000 64 = some desc ∧
      (plan.replayPlan 0 desc).isSome = true ∧ (plan.activeIn 0).bind (fun n => (plan.clustersOf n).head?) = some 0) := by
  decide +kernel

/-- MINVER above the current one and not, doors that are free and busy, a patch before and after its time, one in broadcast, the last
leaf, and temperatures at each limit. -/
theorem witness_FirmwareProceeds :
    let s := stx (bk (th []))
    let fw (f : Firmware → Firmware) : State := s.mapFw f
    let image := leBytes 4 0 ++ leBytes 4 1 ++ leBytes 2 1 ++ leBytes 2 0 ++ leBytes 4 1 ++ leBytes 4 0 ++ List.replicate 44 0
    let at' (st : FwState) (t : W64) : State := { fw (fun f => { f with state := st, image := image }) with ptime := t }
    ((5#64).extractLsb' 32 32 = 0 ∧ (fw (fun f => { f with minVer := 4, version := 5 })).fw.minVer.toNat < (5#64).toNat ∧
      (5#64).toNat ≤ (fw (fun f => { f with minVer := 4, version := 5 })).fw.version.toNat ∧
      ¬ (5#64).toNat ≤ (fw (fun f => { f with minVer := 4, version := 4 })).fw.version.toNat) ∧
    ((0x40#64).extractLsb' 0 6 = 0 ∧ (0x41#64).extractLsb' 0 6 ≠ 0 ∧ s.fw.state = .idle ∧ (at' .gating 0).fw.state ≠ .idle ∧ s.fw.down = false) ∧
    ((at' .gating 255999).patchLate = false ∧ (at' .quiescing 256000).patchLate = true ∧ (at' .verify 0).fw.state = .verify) ∧
    (let b : State := (at' .broadcast 0).mapFw (fun f => { f with acks := List.range 64 });
      b.fw.state = .broadcast ∧ ∀ c, c < 64 → b.usable c = true → c ∈ b.fw.acks) ∧
    ((fw (fun f => { f with reports := 2 ^ 20 - 1 })).fw.reports < 2 ^ 20 ∧ 2 ^ 20 ≤ (fw (fun f => { f with reports := 2 ^ 20 })).fw.reports) ∧
    (95 < 96 ∧ 89 < 90 ∧ (90 : Nat) ≤ 90 ∧ (95 : Nat) ≤ 95) := by
  decide +kernel

/-- Memory is in its form at reset and with tables in it, and the machine steps from reset. -/
theorem witness_MemoryStaysCanonical :
    Memory.wf State.reset.mem ∧ Memory.wf (stx (bk (th []))).mem ∧ ∃ s, step State.reset = .next s :=
  ⟨by decide, by decide +kernel, by
    have h : State.reset.ownEvent = .resetEvent := by
      simp [State.ownEvent, show State.reset.ownEvents = [.resetEvent] from rfl, Nat.mod_one]
    exact ⟨_, (show step State.reset = exec State.reset.ownEvent State.reset from rfl).trans (by rw [h]; rfl)⟩⟩

/-! ### One step each, on the spec's own numbers -/

/-- The lone thread after the word that it fetches. -/
def ran (w : Nat) (t : Thread) : Option Thread :=
  match step { State.reset.withFetchWord 96 w with blocks := [(0, bk t)], xinv := some 0 } with
  | .next s => (s.block? 0).bind (fun b => b.thread? 0)
  | _ => none

/-- A register after the word, and the flags. -/
def reg (w : Nat) (t : Thread) (n : Nat) : Option W32 := (ran w t).map (fun t => NMap.read 0 t.regs n)
def flags (w : Nat) (t : Thread) : Option W32 := (ran w t).map Thread.fst

/-- The consequences that R153 lists, of 0x7FFF_FFFF + 1, 3 - 5, the absolute value of 0x8000_0000, and -1 times 1. -/
theorem test_r153 :
    let t := th [(2, 0x7FFFFFFF), (3, 1), (4, 5), (5, 3), (6, 0x80000000), (7, 0xFFFFFFFF)]
    reg 0x000000000080300801000010 t 1 = some 0x80000000 ∧ reg 0x000000000280300801000010 t 1 = some 0x7FFFFFFF ∧
    reg 0x000000000380401401000011 t 1 = some 0 ∧
    reg 0x000000000080001801000018 t 1 = some 0x80000000 ∧ reg 0x000000000280001801000018 t 1 = some 0x7FFFFFFF ∧
    reg 0x000000000080301C01000013 t 1 = some 0xFFFFFFFF := by
  decide +kernel

/-- The chain of chapter 08: each IADDC, with its carry. -/
theorem test_iaddc_chain :
    let t (p : NMap Bool) := th [(4, 0xFFFFFFFF), (5, 1), (8, 1)] p
    let after (w : Nat) (p : NMap Bool) (d k : Nat) :=
      (ran w (t p)).map (fun y => (NMap.read 0 y.regs d, NMap.read false y.preds k))
    after 0x000009800000801000000019 [] 0 9 = some (0, true) ∧ after 0x00000A090000901401000019 [(9, true)] 1 10 = some (2, false) := by
  decide +kernel

/-- IDIV.s32 and IREM.s32 of -7 and 2 (R154). -/
theorem test_division_truncates :
    let t := th [(2, 0xFFFFFFF9), (3, 2)]
    reg 0x00000000008030080100001D t 1 = some 0xFFFFFFFD ∧ reg 0x00000000008030080100001E t 1 = some 0xFFFFFFFF := by
  decide +kernel

/-- The BPRM word of chapter 08, and LUT3 with the table of the majority. -/
theorem test_bits :
    reg 0x000509000010000806000026 (th [(2, 0x00807F85)]) 6 = some 0xFF80FF85 ∧
    reg 0x0003A0040000300801000020 (th [(2, 0xF0F0F0F0), (3, 0xCCCCCCCC), (4, 0xAAAAAAAA)]) 1 = some 0xE8E8E8E8 := by
  decide +kernel

/-- The PACKN word of chapter 09, and its flags OF, UF and NX. -/
theorem test_packn :
    let t := th [(4, 0x3F800000), (5, 0xC0200000), (6, 0x43EB0000), (7, 0x3A83126F)]
    reg 0x000000040600001008000062 t 8 = some 0x017EC238 ∧ flags 0x000000040600001008000062 t = some 0x1C := by
  decide +kernel

/-- FADD of 1.0 and 2.0, and of 2^24 and 1.0, which rounds to even and sets NX. -/
theorem test_fadd :
    let w := 0x000000000000300801000040
    reg w (th [(2, 0x3F800000), (3, 0x40000000)]) 1 = some 0x40400000 ∧ flags w (th [(2, 0x3F800000), (3, 0x40000000)]) = some 0 ∧
    reg w (th [(2, 0x4B800000), (3, 0x3F800000)]) 1 = some 0x4B800000 ∧ flags w (th [(2, 0x4B800000), (3, 0x3F800000)]) = some 0x10 := by
  decide +kernel

/-- BRA back from word 7 to word 2 (chapter 04), and past its own word where the guard is false. -/
theorem test_bra :
    (ran 0xFFFFFFFB0000000000000001 (th [])).map Thread.pc = some 0xFFFFFFFB ∧
    (ran 0xFFFFFFFB0000000000008001 (th [])).map Thread.pc = some 1 := by
  decide +kernel

/-- Words of chapter 05 in a thread: TRN writes B1 alone, ZERO takes the sum to B1, a false guard leaves all as it was, and the word
with B = 0x301 is ILLEGAL even then, which kills the block. -/
theorem test_borderline_words :
    let t := th [(2, 37)]
    (ran 0x0000000501B0000801010010 t).map (fun y => (NMap.read 0 y.regs 1, y.b1)) = some (0, 42) ∧
    (ran 0x0000000501B0000900000010 t).map (fun y => (y.regs, y.b1)) = some (t.regs, 42) ∧
    (ran 0x0000000501B0000801008010 t).map (fun y => (y.regs, y.b1)) = some (t.regs, 0) ∧
    (ran 0x0000000501B0100801008010 t).isNone = true := by
  decide +kernel

/-- The pair of chapter 05 reads both halves before either writes: V9 + V10 and 1.5 times 2.0. -/
theorem test_pair :
    let t := th [(9, 40), (10, 2), (14, 0x3FC00000), (15, 0x40000000)] [(2, true)]
    (ran 0x0078383520050242000202F0 t).map (fun y => (NMap.read 0 y.regs 8, NMap.read 0 y.regs 13)) = some (42, 0x40400000) := by
  decide +kernel

/-- The positions of pattern 10 with N = 8 (chapter 11). -/
theorem test_ldxp_positions : positions 8 10 = [0, 1, 2, 3, 4, 5, 7, 9] := by decide +kernel

/-- The REDG of chapter 10: 2^24, 1.0, -, 1.0, -2^24, 1.0, -, 1.0 add up to 2.0 along the tree, inexact. -/
theorem test_redg_tree :
    redTree 8 (fun v => if v = 0 then some 0x4B800000 else if v = 4 then some 0xCB800000 else if v % 4 = 2 then none
      else some 0x3F800000) 3 0 = some (0x40000000, 0x10) := by
  decide +kernel

/-- The TOPK of chapter 10: 3.0, NaN, 5.0, 5.0, -1.0, +0, -0, 7.0 by lane rank as 7, 2, 3, 0, then 5, 6, 4, 1. -/
theorem test_topk_ranks :
    let vs : List W32 := [0x40400000, 0x7FC00000, 0x40A00000, 0x40A00000, 0xBF800000, 0, 0x80000000, 0x40E00000]
    let es := vs.zipIdx.map (fun e => (e.1, BitVec.ofNat 32 e.2, e.2))
    (List.range 8).map (fun i => (ranked false es i).map (fun e => e.2.2)) = [7, 2, 3, 0, 5, 6, 4, 1].map some := by
  decide +kernel

/-- The conversions of chapter 07 to e4m3, the e5m2 signalling NaN there and back, and the XF40 code of 1 + 2^-30. -/
theorem test_conversions :
    convert .rn false false (.flt .f32) (.flt .e4m3) 0x43EB0000 = (0x7E, 0x14) ∧
    convert .rz false false (.flt .f32) (.flt .e4m3) 0x43EB0000 = (0x7E, 0x10) ∧
    convert .rn false false (.flt .f32) (.flt .e4m3) 0xC47A0000 = (0xFE, 0x14) ∧
    convert .rn false false (.flt .f32) (.flt .e4m3) 0x7F800000 = (0x7E, 1) ∧
    convert .rn false false (.flt .f32) (.flt .e4m3) 0x3A83126F = (0x01, 0x18) ∧
    convert .rn false false (.flt .f32) (.flt .e4m3) 0x7FC00000 = (0x7F, 0) ∧
    convert .rn false false (.flt .f32) (.flt .e4m3) 0xFFA00000 = (0xFF, 1) ∧
    convert .rn false false (.flt .e5m2) (.flt .f32) 0x7D = (0x7FE00000, 1) ∧
    convert .rn false false (.flt .f32) (.flt .e5m2) 0x7FE00000 = (0x7F, 0) ∧
    convert .rn false false (.flt .xf40) (.flt .f32) 0x3F80000002 = (0x3F800000, 0x10) := by
  decide +kernel

/-- SHA-384 of the three bytes of abc, from the hash standard (log entry 41). -/
theorem test_sha384 :
    sha384 [0x61, 0x62, 0x63] =
      0xCB00753F45A35E8BB5A03D699AC65007272C32AB0EDED1631A8B605A43FF5BED8086072BA1E7CC2358BAECA134C825A7 := by
  decide +kernel

end Sys2Proof.Tests.Slice0
end

section
/-! SUPPORT. One lane of a word whose result follows from its operands: what its thread is after the word (R90, R110). -/

namespace Sys2Proof.Proofs

open Sys2Proof.Machine Sys2Proof.Laws

section
variable {s : State} {i : Instr} {w : Word} {b : Block} {t : Thread}

/-- A word that a lane issues passes every check of R108 that depends on the word alone. -/
theorem wf_of_issues (h : issues s i w b t) : i.wf = true := by
  obtain ⟨-, -, hd, -⟩ := h
  simp only [illegalDetail] at hd
  split at hd
  · cases hd
  · split at hd
    · contradiction
    · rename_i hc
      simpa [Instr.wf] using hc

theorem runPure_issues (g : Env → Res) (h : issues s i w b t) :
    runPure i w g s = .next (wentOn s b t w (fun x => x.apply w (g ⟨b, t⟩)) (t.pc + 1)) := by
  rw [runPure, runAlu, runWord_done s (fun x => x.apply w (g ⟨b, t⟩)) (t.pc + 1) h rfl (fun x => apply_tidx x w _)
    (fun x hx => (apply_stepDue x w _).trans (issues_quiet h rfl x hx))]
  rfl

theorem thread_wentOn {f : Thread → Thread} {pc : W32} (h : issues s i w b t) (hf : KeepsIndex f) :
    (wentOn s b t w f pc).thread? b.id t.tidx = some ((f t).passed pc w.hnt.yld) := by
  obtain ⟨-, hb, -, -, ⟨ht, -⟩, -⟩ := h
  have hm := state_thread_mapThread s b.id t.tidx b.id t.tidx (fun x => (f x).passed pc w.hnt.yld) hf
  rw [if_pos ⟨rfl, rfl⟩, thread_of_block hb, ht] at hm
  exact hm

end

/-! ### Registers and fields after a result (R97, R122) -/

theorem reg_setReg (t : Thread) (n r : Nat) (v : W32) : (t.setReg n v).reg r = if r = n then v else t.reg r :=
  read_put 0 t.regs n r v

theorem reg_setTuple_below (vs : List W32) : ∀ (t : Thread) (n r : Nat), r < n → (t.setTuple n vs).reg r = t.reg r := by
  induction vs with
  | nil => exact fun _ _ _ _ => rfl
  | cons v vs ih =>
    intro t n r h
    rw [Thread.setTuple, ih _ _ _ (by omega), reg_setReg, if_neg (by omega)]

theorem reg_setTuple (vs : List W32) : ∀ (t : Thread) (n k : Nat) (h : k < vs.length), (t.setTuple n vs).reg (n + k) = vs[k] := by
  induction vs with
  | nil => exact fun _ _ k h => absurd h (Nat.not_lt_zero k)
  | cons v vs ih =>
    intro t n k h
    rw [Thread.setTuple]
    cases k with
    | zero => simp [reg_setTuple_below, reg_setReg]
    | succ k => rw [show n + (k + 1) = n + 1 + k by omega, ih _ _ k (by simpa using h)]; rfl

theorem setTuple_fields (vs : List W32) : ∀ (t : Thread) (n : Nat), (t.setTuple n vs).b1 = t.b1 ∧
    (t.setTuple n vs).trap = t.trap ∧ (t.setTuple n vs).fst = t.fst := by
  induction vs with
  | nil => exact fun _ _ => ⟨rfl, rfl, rfl⟩
  | cons v vs ih => exact fun t n => ih (t.setReg n v) (n + 1)

theorem result_fields (t : Thread) (d : Opd) (trn : Bool) (vs : List W32) :
    (t.result d trn vs).b1 = BitVec.ofNat 64 (wordsNat (vs.take 2)) ∧ (t.result d trn vs).trap = t.trap ∧
      (t.result d trn vs).fst = t.fst := by
  simp only [Thread.result]
  split
  · split
    · exact ⟨rfl, rfl, rfl⟩
    · exact setTuple_fields vs _ _
  · exact ⟨rfl, rfl, rfl⟩

theorem reg_result {t : Thread} {d : Opd} {n : Nat} (hd : t.named d = some n) (vs : List W32) (k : Nat) (hk : k < vs.length) :
    (t.result d false vs).reg (n + k) = vs[k] := by
  simp only [Thread.result, hd]
  exact reg_setTuple vs _ n k hk

/-! ### Words of a number (R99) -/

theorem length_natWords : ∀ n v : Nat, (natWords n v).length = n
  | 0, _ => rfl
  | n + 1, v => congrArg (· + 1) (length_natWords n (v / 2 ^ 32))

theorem getElem_natWords : ∀ (n v k : Nat) (hk : k < (natWords n v).length), (natWords n v)[k] = BitVec.ofNat 32 (v / 2 ^ (32 * k))
  | 0, _, _, hk => absurd hk (Nat.not_lt_zero _)
  | n + 1, v, 0, _ => by simp [natWords]
  | n + 1, v, k + 1, hk => by
    simp only [natWords, List.getElem_cons_succ, getElem_natWords n, Nat.div_div_eq_div_mul, Nat.mul_add, Nat.mul_one, ← Nat.pow_add,
      Nat.add_comm]

theorem wordsNat_natWords : ∀ n v : Nat, wordsNat (natWords n v) = v % 2 ^ (32 * n)
  | 0, v => by simp [natWords, wordsNat, Nat.mod_one]
  | n + 1, v => by
    rw [natWords, wordsNat, wordsNat_natWords n, BitVec.toNat_ofNat, Nat.mul_add, Nat.add_comm (32 * n), Nat.pow_add, Nat.mod_mul]

/-! ### A lane that has taken a value -/

/-- The widths of a result that the bypass slots hold whole (R100, R122). -/
def SlotWidth (n : Nat) : Prop := n = 32 ∨ n = 64

/-- A thread has gone on with a value of n bits as its result: the value stands in B1 and in the registers that D names; no trap is
taken and no flag is set (R97, R122). -/
structure Took (t x : Thread) (w : Word) {n : Nat} (v : BitVec n) : Prop where
  pc : x.pc = t.pc + 1
  trap : x.trap = t.trap
  fst : x.fst = t.fst
  b1 : x.b1 = v.setWidth 64
  reg : ∀ d, t.named w.d = some d → w.hnt.trn = false → ∀ k < n / 32, x.reg (d + k) = v.extractLsb' (32 * k) 32

theorem slot_natWords {n : Nat} (hn : SlotWidth n) (v : BitVec n) :
    BitVec.ofNat 64 (wordsNat ((natWords (n / 32) v.toNat).take 2)) = v.setWidth 64 := by
  have hlen : n / 32 ≤ 2 ∧ 32 * (n / 32) = n := by rcases hn with rfl | rfl <;> decide
  rw [List.take_of_length_le (by rw [length_natWords]; exact hlen.1), wordsNat_natWords, hlen.2, Nat.mod_eq_of_lt v.isLt]
  exact BitVec.ofNat_toNat 64 v

theorem took_apply (t : Thread) (w : Word) {n : Nat} (hn : SlotWidth n) (v : BitVec n) :
    Took t ((t.apply w (resOf n v.toNat)).passed (t.pc + 1) w.hnt.yld) w v := by
  obtain ⟨hb, ht, hf⟩ := result_fields t w.d w.hnt.trn (natWords (n / 32) v.toNat)
  refine ⟨rfl, ht, BitVec.or_zero.trans hf, hb.trans (slot_natWords hn v), fun d hd htrn k hk => ?_⟩
  have hr := reg_result hd (natWords (n / 32) v.toNat) k (by rw [length_natWords]; exact hk)
  rw [getElem_natWords, ← htrn] at hr
  exact hr.trans (by rw [BitVec.extractLsb', Nat.shiftRight_eq_div_pow])

section
variable {t x : Thread} {w : Word} {n d : Nat} {y : Int} (h : Took t x w (BitVec.ofInt n y))
include h

theorem Took.b1_word (hn : n = 32) : x.b1 = (BitVec.ofInt 32 y).setWidth 64 := by
  subst hn; exact h.b1

theorem Took.b1_pair (hn : n = 64) : x.b1 = BitVec.ofInt 64 y := by
  subst hn; exact h.b1.trans (BitVec.setWidth_eq _)

theorem Took.reg_word (hd : t.named w.d = some d) (htrn : w.hnt.trn = false) (hn : n = 32) : x.reg d = BitVec.ofInt 32 y := by
  subst hn
  exact (h.reg d hd htrn 0 (by decide)).trans (field_all _)

theorem Took.reg_pair (hd : t.named w.d = some d) (htrn : w.hnt.trn = false) (hn : n = 64) :
    x.reg (d + 1) ++ x.reg d = BitVec.ofInt 64 y := by
  subst hn
  have h0 : x.reg d = (BitVec.ofInt 64 y).extractLsb' 0 32 := h.reg d hd htrn 0 (by decide)
  have h1 : x.reg (d + 1) = (BitVec.ofInt 64 y).extractLsb' 32 32 := h.reg d hd htrn 1 (by decide)
  rw [h0, h1]
  exact (BitVec.extractLsb'_append_extractLsb'_eq_extractLsb' rfl).trans (field_all _)

end

/-- A lane that issues a word whose result is a value of its operands takes that value. -/
theorem took_of_issues {s : State} {i : Instr} {w : Word} {b : Block} {t : Thread} {g : Env → Res} {n : Nat} {v : BitVec n}
    (h : issues s i w b t) (hx : exec i s = runPure i w g s) (hn : SlotWidth n) (hg : g ⟨b, t⟩ = resOf n v.toNat) :
    ∃ s' x, exec i s = .next s' ∧ s'.thread? b.id t.tidx = some x ∧ Took t x w v :=
  ⟨_, _, hx.trans (runPure_issues g h), thread_wentOn h (fun x => apply_tidx x w _), hg ▸ took_apply t w hn v⟩

end Sys2Proof.Proofs
end

section
/-! The two-source mould: IADD to IABS, IDIV and IREM (R152 to R154). -/

namespace Sys2Proof.Proofs

open Sys2Proof.Machine Sys2Proof.Laws

/-! ### Integer types (R93, R153) -/

theorem image_eq_ofInt (ty : ITy) (x : Int) : ty.image x = (BitVec.ofInt ty.w x).toNat := (BitVec.toNat_ofInt x).symm

/-- The integer of a code of the type's width. -/
theorem value_toNat (sg : Bool) {n : Nat} (v : BitVec n) : (ITy.mk sg n).value v.toNat = if sg then v.toInt else (v.toNat : Int) := by
  have hv := v.isLt
  cases sg with
  | false => simp [ITy.value]
  | true =>
    cases n with
    | zero => rw [Subsingleton.elim v 0]; rfl
    | succ n =>
      simp only [ITy.value, BitVec.toInt_eq_toNat_cond, Nat.mod_eq_of_lt hv, Nat.add_sub_cancel, Bool.true_and, decide_eq_true_eq,
        if_true]
      split <;> split <;> omega

theorem int_word (e : Env) (sg : Bool) (o : Opd) (imm : W32) :
    e.int ⟨sg, 32⟩ o imm = if sg then (e.word o imm).toInt else ((e.word o imm).toNat : Int) := by
  simp only [Env.int, Nat.reduceEqDiff, if_false, value_toNat]

theorem int_dword (e : Env) (sg : Bool) (o : Opd) (imm : W32) :
    e.int ⟨sg, 64⟩ o imm = if sg then (e.dword .signed o imm).toInt else ((e.dword .unsigned o imm).toNat : Int) := by
  simp only [Env.int, if_true, value_toNat]
  cases sg <;> simp [ITy.pos]

theorem min_le_max (ty : ITy) : ty.min ≤ ty.max := by
  have h := Nat.two_pow_pos ty.w
  have h' := Nat.two_pow_pos (ty.w - 1)
  simp only [ITy.min, ITy.max]
  split <;> omega

theorem clamp_eq_max_min (ty : ITy) (x : Int) : ty.clamp x = max ty.min (min ty.max x) := by
  have h := min_le_max ty
  simp only [ITy.clamp]
  split
  · omega
  · split <;> omega

/-! ### The result of the mould (R153) -/

/-- The exact integer of which D takes the low bits. -/
def mouldValue (op : ITy → Int → Int → Int) (w : Word) (e : Env) : Int :=
  let x := op (typeOf w) (e.int (typeOf w) w.a w.imm) (e.int (typeOf w) w.b w.imm)
  if modB w 3 then (typeOf w).clamp x else x

theorem arith_eq (op : ITy → Int → Int → Int) (w : Word) (e : Env) :
    arith op w e = resOf (typeOf w).w (BitVec.ofInt (typeOf w).w (mouldValue op w e)).toNat := by
  simp only [arith, intResult, image_eq_ofInt, mouldValue]

/-- A lane that issues a word of the mould takes the low bits of its value. -/
theorem took_mould {s : State} {i : Instr} {w : Word} {b : Block} {t : Thread} {op : ITy → Int → Int → Int} {sg : Bool} {n : Nat}
    (h : issues s i w b t) (hx : exec i s = runPure i w (arith op w) s) (ht : typeOf w = ⟨sg, n⟩) (hn : SlotWidth n) :
    ∃ s' x, exec i s = .next s' ∧ s'.thread? b.id t.tidx = some x ∧ Took t x w (BitVec.ofInt n (mouldValue op w ⟨b, t⟩)) :=
  took_of_issues h hx hn (by rw [arith_eq, ht])

/-- The types of the mould are 32 and 64 bits wide. -/
theorem typeOf_wide {w : Word} (h : wideTy (modF w 0 3) = true) :
    typeOf w = ⟨decide (modF w 0 3 < 4), if modF w 0 3 % 4 = 3 then 64 else 32⟩ := by
  have h' : 2 ≤ modF w 0 3 % 4 := by simpa [wideTy] using h
  have hc : modF w 0 3 % 4 = 2 ∨ modF w 0 3 % 4 = 3 := by omega
  rcases hc with hc | hc <;> simp [typeOf, ITy.ofCode, hc]

theorem slotWidth_ite (c : Prop) [Decidable c] : SlotWidth (if c then 64 else 32) := by
  by_cases hc : c
  · exact .inr (if_pos hc)
  · exact .inl (if_neg hc)

/-! ### IADD to IABS (R152, R153) -/

theorem mulHigh_eq : mulHigh = fun ty a b => a * b / 2 ^ ty.w := by
  funext ty a b
  rw [mulHigh, Nat.cast_pow, Nat.cast_ofNat]

theorem exec_mould {i : Instr} {w : Word} {op : Nat → Int → Int → Int} (h : mouldOf i = some (w, op)) (s : State) :
    exec i s = runPure i w (arith (fun ty => op ty.w) w) s := by
  unfold mouldOf at h
  split at h
  case h_4 =>
    cases h
    exact congrArg (fun f => runPure (.imulh w) w (arith f w) s) mulHigh_eq
  case h_8 => cases h
  all_goals
    cases h
    rfl

/-- The words of the mould have its types. -/
theorem wideTy_of_mould {i : Instr} {w : Word} {op : Nat → Int → Int → Int} (h : mouldOf i = some (w, op)) (hw : i.wf = true) :
    wideTy (modF w 0 3) = true := by
  unfold mouldOf at h
  split at h
  case h_8 => cases h
  all_goals
    cases h
    have hm := RoundTrip.modOk_of_wf rfl hw
    simp only [formArith, formIabs, Bool.and_eq_true] at hm
    tauto

/-- The value of the mould in the terms of R153. -/
theorem mouldValue_eq {op : Nat → Int → Int → Int} {w : Word} {e : Env} {sg : Prop} [Decidable sg] {n : Nat}
    (ht : typeOf w = ⟨decide sg, n⟩) (hn : SlotWidth n) :
    mouldValue (fun ty => op ty.w) w e =
      let int (o : Opd) : Int :=
        if n = 64 then (if sg then (e.dword .signed o w.imm).toInt else ((e.dword .unsigned o w.imm).toNat : Int))
        else (if sg then (e.word o w.imm).toInt else ((e.word o w.imm).toNat : Int))
      let x := op n (int w.a) (int w.b)
      if modB w 3 then max (if sg then -2 ^ (n - 1) else 0) (min (if sg then 2 ^ (n - 1) - 1 else 2 ^ n - 1) x) else x := by
  rcases hn with rfl | rfl <;>
    simp only [mouldValue, ht, int_word, int_dword, clamp_eq_max_min, ITy.min, ITy.max, decide_eq_true_eq, Nat.cast_pow, Nat.cast_ofNat,
      Nat.reduceEqDiff, if_true, if_false]

/-- Settles O11: the lane takes the low bits of the mould's value, and that value is the one R153 names. -/
theorem twoSourceArithmetic : Obligations.TwoSourceArithmetic := by
  intro i w op s b t hm h e code n lo hi int x y
  have ht := typeOf_wide (wideTy_of_mould hm (wf_of_issues h))
  have hn : SlotWidth n := slotWidth_ite _
  obtain ⟨s', x', hx, hx', took⟩ := took_mould h (exec_mould hm s) ht hn
  have hy : mouldValue (fun ty => op ty.w) w ⟨b, t⟩ = y := mouldValue_eq ht hn
  rw [hy] at took
  exact ⟨s', x', hx, hx', took.pc, took.b1_word, took.b1_pair, fun d hd htrn => ⟨took.reg_word hd htrn, took.reg_pair hd htrn⟩⟩

/-! ### IDIV and IREM (R154) -/

/-- What IDIV and IREM do to the integers. -/
def divideInts (rem : Bool) : ITy → Int → Int → Int := if rem then remainder else quotient

/-- What they do to signed codes. -/
def divideSigned (rem : Bool) {n : Nat} (p q : BitVec n) : BitVec n :=
  if q = 0 then (if rem then p else BitVec.allOnes n) else if rem then p.srem q else p.sdiv q

/-- What they do to unsigned codes. -/
def divideUnsigned (rem : Bool) {n : Nat} (p q : BitVec n) : BitVec n :=
  if q = 0 then (if rem then p else BitVec.allOnes n) else if rem then p.umod q else p.udiv q

theorem ofInt_divide_signed (rem : Bool) {n : Nat} (p q : BitVec n) :
    BitVec.ofInt n (divideInts rem ⟨true, n⟩ p.toInt q.toInt) = divideSigned rem p q := by
  by_cases hq : q = 0
  · cases rem
    · simp [divideInts, divideSigned, quotient, hq, ← BitVec.neg_one_eq_allOnes, BitVec.ofInt_neg]
    · simp [divideInts, divideSigned, remainder, hq, BitVec.ofInt_toInt]
  · have hq' : ¬ q.toInt = 0 := by simpa [← BitVec.toInt_inj] using hq
    apply BitVec.eq_of_toInt_eq
    cases rem
    · simp only [divideInts, divideSigned, quotient, hq, hq', if_false, Bool.false_eq_true, BitVec.toInt_sdiv, BitVec.toInt_ofInt]
    · simp only [divideInts, divideSigned, remainder, hq, hq', if_true, if_false, ← BitVec.toInt_srem, BitVec.ofInt_toInt]

theorem ofInt_divide_unsigned (rem : Bool) {n : Nat} (p q : BitVec n) :
    BitVec.ofInt n (divideInts rem ⟨false, n⟩ p.toNat q.toNat) = divideUnsigned rem p q := by
  by_cases hq : q = 0
  · cases rem
    · have hm : (ITy.mk false n).max = ((BitVec.allOnes n).toNat : Int) := by
        rw [BitVec.toNat_allOnes, Nat.cast_pred (Nat.two_pow_pos n)]; rfl
      simp [divideInts, divideUnsigned, quotient, hq, hm, -BitVec.toNat_allOnes]
    · simp [divideInts, divideUnsigned, remainder, hq]
  · have hq' : ¬ (q.toNat : Int) = 0 := by simpa [← BitVec.toNat_inj] using hq
    cases rem
    · simp only [divideInts, divideUnsigned, quotient, hq, hq', if_false, Bool.false_eq_true, ← Int.ofNat_tdiv, BitVec.ofInt_natCast]
      exact BitVec.udiv_def.symm
    · simp only [divideInts, divideUnsigned, remainder, hq, hq', if_true, if_false, ← Int.ofNat_tmod, BitVec.ofInt_natCast]
      exact BitVec.umod_def.symm

/-- IDIV and IREM have the types of the mould, and no SAT (R152). -/
theorem division_mod {w : Word} (h : (formArith w false).modOk = true) : wideTy (modF w 0 3) = true ∧ modB w 3 = false := by
  simp only [formArith, Bool.and_eq_true, Bool.false_eq_true, if_false, modOnly, beq_iff_eq] at h
  obtain ⟨ht, hm⟩ := h
  have hbit : w.mod.getLsbD 3 = false := by simpa using congrArg (fun x => x.getLsbD 3) hm
  exact ⟨ht, hbit⟩

theorem exec_division (rem : Bool) (w : Word) (s : State) :
    exec (if rem then .irem w else .idiv w) s = runPure (if rem then .irem w else .idiv w) w (arith (divideInts rem) w) s := by
  cases rem <;> rfl

theorem formOf_division (rem : Bool) (w : Word) : formOf (if rem then .irem w else .idiv w) = some (w, formArith w false) := by
  cases rem <;> rfl

section
variable (rem : Bool) {w : Word} (e : Env) {sg : Bool} (hs : modB w 3 = false)
include hs

/-- No SAT is there to clamp the value of a division. -/
theorem mouldValue_division {ty : ITy} (ht : typeOf w = ty) :
    mouldValue (divideInts rem) w e = divideInts rem ty (e.int ty w.a w.imm) (e.int ty w.b w.imm) := by
  simp only [mouldValue, ht, hs, Bool.false_eq_true, if_false]

theorem division_word (ht : typeOf w = ⟨sg, 32⟩) :
    BitVec.ofInt 32 (mouldValue (divideInts rem) w e) =
      if sg then divideSigned rem (e.word w.a w.imm) (e.word w.b w.imm)
      else divideUnsigned rem (e.word w.a w.imm) (e.word w.b w.imm) := by
  rw [mouldValue_division rem e hs ht, int_word, int_word]
  cases sg
  · exact ofInt_divide_unsigned rem _ _
  · exact ofInt_divide_signed rem _ _

theorem division_dword (ht : typeOf w = ⟨sg, 64⟩) :
    BitVec.ofInt 64 (mouldValue (divideInts rem) w e) =
      if sg then divideSigned rem (e.dword .signed w.a w.imm) (e.dword .signed w.b w.imm)
      else divideUnsigned rem (e.dword .unsigned w.a w.imm) (e.dword .unsigned w.b w.imm) := by
  rw [mouldValue_division rem e hs ht, int_dword, int_dword]
  cases sg
  · exact ofInt_divide_unsigned rem _ _
  · exact ofInt_divide_signed rem _ _

end

/-- Settles O12: the mould with the truncated operations, read back as the division of signed or unsigned codes. -/
theorem divisionTruncates : Obligations.DivisionTruncates := by
  intro w s b t rem i h e code
  obtain ⟨hwide, hsat⟩ := division_mod (RoundTrip.modOk_of_wf (formOf_division rem w) (wf_of_issues h))
  obtain ⟨s', x, hx, hx', took⟩ := took_mould h (exec_division rem w s) (typeOf_wide hwide) (slotWidth_ite _)
  refine ⟨s', x, hx, hx', took.pc, took.trap, took.fst, fun (hc : modF w 0 3 = 2) => ?_,
    fun (hc : modF w 0 3 = 6) => ?_, fun (hc : modF w 0 3 = 3) => ?_, fun (hc : modF w 0 3 = 7) => ?_⟩
  · rw [took.b1_word (if_neg (by omega)), division_word (sg := true) rem _ hsat (congrArg ITy.ofCode hc)]
    rfl
  · rw [took.b1_word (if_neg (by omega)), division_word (sg := false) rem _ hsat (congrArg ITy.ofCode hc)]
    rfl
  · rw [took.b1_pair (if_pos (by omega)), division_dword (sg := true) rem _ hsat (congrArg ITy.ofCode hc)]
    rfl
  · rw [took.b1_pair (if_pos (by omega)), division_dword (sg := false) rem _ hsat (congrArg ITy.ofCode hc)]
    rfl

end Sys2Proof.Proofs
end


section
/-! SUPPORT. The decoder and the encoder are inverse to each other on words and on instructions (R88 to R108). -/

namespace Sys2Proof.Proofs

open Sys2Proof Sys2Proof.Machine Sys2Proof.Laws

/-- Settles O1: each row that has a word by its own lemma of `Laws.RoundTrip`; an event has none. -/
theorem everyWordRoundTrips : Obligations.EveryWordRoundTrips := by
  intro i
  cases i with
  | nop w => exact RoundTrip.nop w
  | bra w => exact RoundTrip.bra w
  | brx w => exact RoundTrip.brx w
  | call w => exact RoundTrip.call w
  | callx w => exact RoundTrip.callx w
  | ret w => exact RoundTrip.ret w
  | exit w => exact RoundTrip.exit w
  | join w => exact RoundTrip.join w
  | jmset w => exact RoundTrip.jmset w
  | jmget w => exact RoundTrip.jmget w
  | yield w => exact RoundTrip.yield w
  | waitc w => exact RoundTrip.waitc w
  | waitt w => exact RoundTrip.waitt w
  | bpt w => exact RoundTrip.bpt w
  | trap w => exact RoundTrip.trap w
  | eret w => exact RoundTrip.eret w
  | iadd w => exact RoundTrip.iadd w
  | isub w => exact RoundTrip.isub w
  | imul w => exact RoundTrip.imul w
  | imulh w => exact RoundTrip.imulh w
  | imad w => exact RoundTrip.imad w
  | imadw w => exact RoundTrip.imadw w
  | imin w => exact RoundTrip.imin w
  | imax w => exact RoundTrip.imax w
  | iabs w => exact RoundTrip.iabs w
  | iaddc w => exact RoundTrip.iaddc w
  | lea w => exact RoundTrip.lea w
  | idot4 w => exact RoundTrip.idot4 w
  | isad w => exact RoundTrip.isad w
  | idiv w => exact RoundTrip.idiv w
  | irem w => exact RoundTrip.irem w
  | lut3 w => exact RoundTrip.lut3 w
  | shl w => exact RoundTrip.shl w
  | shr w => exact RoundTrip.shr w
  | sar w => exact RoundTrip.sar w
  | rotl w => exact RoundTrip.rotl w
  | funnel w => exact RoundTrip.funnel w
  | bprm w => exact RoundTrip.bprm w
  | bfx w => exact RoundTrip.bfx w
  | bfi w => exact RoundTrip.bfi w
  | popc w => exact RoundTrip.popc w
  | clz w => exact RoundTrip.clz w
  | brev w => exact RoundTrip.brev w
  | ffs w => exact RoundTrip.ffs w
  | mov w => exact RoundTrip.mov w
  | movw w => exact RoundTrip.movw w
  | sel w => exact RoundTrip.sel w
  | icmp w => exact RoundTrip.icmp w
  | fcmp w => exact RoundTrip.fcmp w
  | hcmp2 w => exact RoundTrip.hcmp2 w
  | dcmp w => exact RoundTrip.dcmp w
  | plop w => exact RoundTrip.plop w
  | p2v w => exact RoundTrip.p2v w
  | v2p w => exact RoundTrip.v2p w
  | fclass w => exact RoundTrip.fclass w
  | tqset w => exact RoundTrip.tqset w
  | tqget w => exact RoundTrip.tqget w
  | fadd w => exact RoundTrip.fadd w
  | fmul w => exact RoundTrip.fmul w
  | ffma w => exact RoundTrip.ffma w
  | fmin w => exact RoundTrip.fmin w
  | fmax w => exact RoundTrip.fmax w
  | frnd w => exact RoundTrip.frnd w
  | fscale w => exact RoundTrip.fscale w
  | fgetexp w => exact RoundTrip.fgetexp w
  | fset w => exact RoundTrip.fset w
  | fcpysgn w => exact RoundTrip.fcpysgn w
  | hadd2 w => exact RoundTrip.hadd2 w
  | hmul2 w => exact RoundTrip.hmul2 w
  | hfma2 w => exact RoundTrip.hfma2 w
  | hmin2 w => exact RoundTrip.hmin2 w
  | hmax2 w => exact RoundTrip.hmax2 w
  | hdot2 w => exact RoundTrip.hdot2 w
  | dadd w => exact RoundTrip.dadd w
  | dmul w => exact RoundTrip.dmul w
  | dfma w => exact RoundTrip.dfma w
  | dmin w => exact RoundTrip.dmin w
  | dmax w => exact RoundTrip.dmax w
  | cvt w => exact RoundTrip.cvt w
  | cvtsc w => exact RoundTrip.cvtsc w
  | packn w => exact RoundTrip.packn w
  | unpkn w => exact RoundTrip.unpkn w
  | fmset w => exact RoundTrip.fmset w
  | fmget w => exact RoundTrip.fmget w
  | rsqs w => exact RoundTrip.rsqs w
  | rcps w => exact RoundTrip.rcps w
  | sinr w => exact RoundTrip.sinr w
  | cosr w => exact RoundTrip.cosr w
  | ex2 w => exact RoundTrip.ex2 w
  | lg2 w => exact RoundTrip.lg2 w
  | tnh w => exact RoundTrip.tnh w
  | sigm w => exact RoundTrip.sigm w
  | shfl w => exact RoundTrip.shfl w
  | xbf w => exact RoundTrip.xbf w
  | vote w => exact RoundTrip.vote w
  | redg w => exact RoundTrip.redg w
  | scang w => exact RoundTrip.scang w
  | matchLanes w => exact RoundTrip.matchLanes w
  | elect w => exact RoundTrip.elect w
  | topk w => exact RoundTrip.topk w
  | ld w => exact RoundTrip.ld w
  | st w => exact RoundTrip.st w
  | lds w => exact RoundTrip.lds w
  | sts w => exact RoundTrip.sts w
  | ldp w => exact RoundTrip.ldp w
  | stw2 w => exact RoundTrip.stw2 w
  | ldxp w => exact RoundTrip.ldxp w
  | prf w => exact RoundTrip.prf w
  | cctlIvl w => exact RoundTrip.cctlIvl w
  | cctlIva w => exact RoundTrip.cctlIva w
  | cctlWbm w => exact RoundTrip.cctlWbm w
  | cctlWim w => exact RoundTrip.cctlWim w
  | ldsx w => exact RoundTrip.ldsx w
  | stsx w => exact RoundTrip.stsx w
  | tlk w => exact RoundTrip.tlk w
  | ttag w => exact RoundTrip.ttag w
  | tstat w => exact RoundTrip.tstat w
  | tinv w => exact RoundTrip.tinv w
  | hgl w => exact RoundTrip.hgl w
  | hga w => exact RoundTrip.hga w
  | hgw w => exact RoundTrip.hgw w
  | atom w => exact RoundTrip.atom w
  | atomc w => exact RoundTrip.atomc w
  | atomf w => exact RoundTrip.atomf w
  | red w => exact RoundTrip.red w
  | redf w => exact RoundTrip.redf w
  | atoms w => exact RoundTrip.atoms w
  | atomw w => exact RoundTrip.atomw w
  | sha w => exact RoundTrip.sha w
  | binit w => exact RoundTrip.binit w
  | arrv w => exact RoundTrip.arrv w
  | pwait w => exact RoundTrip.pwait w
  | ptest w => exact RoundTrip.ptest w
  | fence w => exact RoundTrip.fence w
  | xfence w => exact RoundTrip.xfence w
  | acq w => exact RoundTrip.acq w
  | rel w => exact RoundTrip.rel w
  | rbind w => exact RoundTrip.rbind w
  | bexp w => exact RoundTrip.bexp w
  | ctr w => exact RoundTrip.ctr w
  | ctrs w => exact RoundTrip.ctrs w
  | ctrsp w => exact RoundTrip.ctrsp w
  | cwd w => exact RoundTrip.cwd w
  | aalloc w => exact RoundTrip.aalloc w
  | afree w => exact RoundTrip.afree w
  | azero w => exact RoundTrip.azero w
  | ald w => exact RoundTrip.ald w
  | ast w => exact RoundTrip.ast w
  | adrn w => exact RoundTrip.adrn w
  | astat w => exact RoundTrip.astat w
  | cpy w => exact RoundTrip.cpy w
  | cpym w => exact RoundTrip.cpym w
  | shf w => exact RoundTrip.shf w
  | wnw w => exact RoundTrip.wnw w
  | gln w => exact RoundTrip.gln w
  | launch w => exact RoundTrip.launch w
  | lctlCancel w => exact RoundTrip.lctlCancel w
  | lctlKill w => exact RoundTrip.lctlKill w
  | lctlQuery w => exact RoundTrip.lctlQuery w
  | lpset w => exact RoundTrip.lpset w
  | lendLaunch w => exact RoundTrip.lendLaunch w
  | lendCancel w => exact RoundTrip.lendCancel w
  | lendRepeat w => exact RoundTrip.lendRepeat w
  | fxb w => exact RoundTrip.fxb w
  | fxe w => exact RoundTrip.fxe w
  | fxa w => exact RoundTrip.fxa w
  | fxs w => exact RoundTrip.fxs w
  | sread w => exact RoundTrip.sread w
  | swrite w => exact RoundTrip.swrite w
  | isync w => exact RoundTrip.isync w
  | dbgmBrk w => exact RoundTrip.dbgmBrk w
  | dbgmStepon w => exact RoundTrip.dbgmStepon w
  | dbgmStepoff w => exact RoundTrip.dbgmStepoff w
  | pairedWord p => exact RoundTrip.pairedWord p
  | _ => exact RoundTrip.of_event _ rfl

theorem opd_bits_ofBits (x : BitVec 10) : (Opd.ofBits x).bits = x := by
  revert x
  decide

theorem ofBool_getLsbD {n : Nat} (x : BitVec n) (k : Nat) : BitVec.ofBool (x.getLsbD k) = x.extractLsb' k 1 := by
  apply BitVec.eq_of_getLsbD_eq
  intro i hi
  obtain rfl : i = 0 := by omega
  simp

theorem word_bits_ofBits (x : W96) : (Word.ofBits x).bits (x.extractLsb' 0 8) = x := by
  simp (disch := decide) only [Word.ofBits, Word.bits, Guard.bits, Hints.bits, opd_bits_ofBits, ofBool_getLsbD,
    BitVec.extractLsb'_append_extractLsb'_eq_extractLsb']
  exact BitVec.extractLsb'_eq_self

theorem pair_bits_ofBits (x : W96) (h : x.extractLsb' 0 8 = 0xF0#8) : (Pair.ofBits x).bits = x := by
  rw [Pair.bits, ← h]
  simp (disch := decide) only [Pair.ofBits, Half.bits, Guard.bits, Hints.bits, ofBool_getLsbD,
    BitVec.extractLsb'_append_extractLsb'_eq_extractLsb']
  exact BitVec.extractLsb'_eq_self

/-- The instruction of an opcode keeps the opcode and the word. -/
theorem ofOpcode_some {op : Nat} {w : Word} {i : Instr} (h : ofOpcode op w = some i) :
    opcode i = some (BitVec.ofNat 8 op) ∧ ∃ f, formOf i = some (w, f) := by
  unfold ofOpcode at h
  split at h
  case h_165 => cases h
  all_goals repeat' split at h
  all_goals cases h; exact ⟨rfl, _, rfl⟩

theorem hasWord_of_form {i : Instr} {w : Word} {f : Form} (h : formOf i = some (w, f)) : i.hasWord = true := by
  unfold Instr.hasWord
  split
  · rfl
  · rw [h]; rfl

theorem encode_of_form {i : Instr} {w : Word} {f : Form} {op : BitVec 8} (ho : opcode i = some op)
    (h : formOf i = some (w, f)) : encode i = some (w.bits op) := by
  unfold encode
  split
  · simp [formOf] at h
  · rw [ho, h]

/-- Settles O2: the fields that the decoder reads are together the whole word, and the opcode map has one opcode for a row. -/
theorem decodedWordsEncodeBack : Obligations.DecodedWordsEncodeBack := by
  intro x i h
  unfold decode at h
  split at h
  · cases h
  rename_i j hj
  split at h
  · rename_i hc
    obtain rfl : j = i := by cases h; rfl
    have hwf : j.wf = true := by simp [Instr.wf, hc]
    unfold instrOf at hj
    split at hj
    · rename_i hop
      cases hj
      exact ⟨rfl, hwf, congrArg some (pair_bits_ofBits x (BitVec.eq_of_toNat_eq hop))⟩
    · obtain ⟨ho, f, hf⟩ := ofOpcode_some hj
      refine ⟨hasWord_of_form hf, hwf, ?_⟩
      rw [encode_of_form ho hf, opcodeOf, BitVec.ofNat_toNat, BitVec.setWidth_eq, word_bits_ofBits]
  · cases h

end Sys2Proof.Proofs
end


section
/-! SUPPORT. The step of the machine and its fetch, alignment of addresses, the words of the chapters, and reset (R89, R108, R207). -/

namespace Sys2Proof.Proofs

open Sys2Proof Sys2Proof.Machine Sys2Proof.Laws

/-! ### The fetch (R89, R343) -/

/-- Two states that differ in the instruction cache and the translation caches only. -/
def SameButCaches (s t : State) : Prop := { t with icache := s.icache, tlb := s.tlb } = s

theorem SameButCaches.trans {s t u : State} (h : SameButCaches s t) (g : SameButCaches t u) : SameButCaches s u := by
  unfold SameButCaches at *
  rw [← h, ← g]

theorem code4_frame (s : State) (core key k : Nat) : SameButCaches s (s.code4 core key k).2 := by
  unfold State.code4 SameButCaches
  simp only
  split
  · rfl
  · split_ifs <;> rfl

theorem cacheLeaf_sameButCaches (s : State) (cs : List Nat) (ctx va : Nat) (x : Xlat) :
    SameButCaches s (s.cacheLeaf cs ctx va x) := by
  unfold SameButCaches State.cacheLeaf
  split <;> rfl

/-- One of the three translated groups of a fetch. -/
def fetchGroup (core ctx va : Nat) (sup : Bool) (acc : Except (Nat × Nat × Nat) (List Byte × State)) (k : Nat) :
    Except (Nat × Nat × Nat) (List Byte × State) :=
  match acc with
  | .error e => .error e
  | .ok (bs, s) =>
    match s.xlate (coreCaches core) ctx (va + 4 * k) Need.fetch sup (s.pick (110 + k)) with
    | .error (c, d) => .error (if k = 0 then va else va + 4 * k, c, d)
    | .ok x =>
      let r := (s.cacheLeaf (coreCaches core) ctx (va + 4 * k) x).code4 core x.key k
      .ok (bs ++ r.1, r.2)

theorem fetchBytes_eq (s : State) (core ctx va : Nat) (sup : Bool) (h : ctx ≠ massifCtx) :
    s.fetchBytes core ctx va sup = (List.range 3).foldl (fetchGroup core ctx va sup) (.ok ([], s)) := by
  rw [State.fetchBytes, if_neg h]
  rfl

theorem fetchGroup_ok {core ctx va k : Nat} {sup : Bool} {acc : Except (Nat × Nat × Nat) (List Byte × State)}
    {bs : List Byte} {t : State} (h : fetchGroup core ctx va sup acc k = .ok (bs, t)) :
    ∃ bs0 s, acc = .ok (bs0, s) ∧ SameButCaches s t := by
  unfold fetchGroup at h
  split at h
  · cases h
  · rename_i bs0 s
    split at h
    · cases h
    · cases h
      exact ⟨bs0, s, rfl, (cacheLeaf_sameButCaches s _ _ _ _).trans (code4_frame _ _ _ _)⟩

theorem fetchBytes_frame {s t : State} {core ctx va : Nat} {sup : Bool} {bs : List Byte}
    (h : s.fetchBytes core ctx va sup = .ok (bs, t)) : SameButCaches s t := by
  by_cases hm : ctx = massifCtx
  · rw [State.fetchBytes, if_pos hm] at h
    cases h
    rfl
  · rw [fetchBytes_eq _ _ _ _ _ hm] at h
    obtain ⟨_, s2, h2, f2⟩ := fetchGroup_ok (k := 2) h
    obtain ⟨_, s1, h1, f1⟩ := fetchGroup_ok (k := 1) h2
    obtain ⟨_, s0, h0, f0⟩ := fetchGroup_ok (k := 0) h1
    cases h0
    exact (f0.trans f1).trans f2

theorem filter_all {α : Type} {p : α → Bool} {l : List α} (h : ∀ x ∈ l, p x = true) : l.filter p = l :=
  List.filter_eq_self.2 h

/-- A bundle of one privilege whose fetch succeeds is decoded where its block stands. -/
theorem fetch_one_privilege {s s' : State} {u : Bundle} {b : Block} {sup : Bool} {bs : List Byte}
    (hb : s.block? u.blk = some b) (hu : u.lanes ≠ []) (hp : ∀ k ∈ u.lanes, ((b.thread? k).map Thread.sup).getD false = sup)
    (hf : s.fetchBytes b.coreId b.decl.ctx (b.fetchVa u.pc) sup = .ok (bs, s')) :
    s.fetch u = s'.decodeFor u b.mode bs := by
  have huser : u.lanes.filter (fun t => !((b.thread? t).map Thread.sup).getD false) = if sup then [] else u.lanes := by
    rw [List.filter_congr (q := fun _ => !sup) (fun k hk => by rw [hp k hk])]
    cases sup <;> simp
  have hsup : u.lanes.filter (fun t => ((b.thread? t).map Thread.sup).getD false) = if sup then u.lanes else [] := by
    rw [List.filter_congr (q := fun _ => sup) (fun k hk => by rw [hp k hk])]
    cases sup <;> simp
  have hne : u.lanes.isEmpty = false := by simpa using hu
  simp only [State.fetch, hb, huser, hsup]
  cases sup <;> simp [hne, hf]

section
variable {s s' : State} {u : Bundle} (ha : s.alive = true) (hl : s.latch = some u)
include ha hl

theorem step_runs {i : Instr} (hf : s.fetch u = .runs i s') : step s = exec i s' := by
  simp only [State.alive, Bool.and_eq_true, Bool.not_eq_true', bne_iff_ne, ne_eq] at ha
  simp only [step, ha.1, Bool.false_eq_true, if_false, if_neg ha.2, hl, hf]

theorem step_ends (hf : s.fetch u = .ends s') : step s = .next s' := by
  simp only [State.alive, Bool.and_eq_true, Bool.not_eq_true', bne_iff_ne, ne_eq] at ha
  simp only [step, ha.1, Bool.false_eq_true, if_false, if_neg ha.2, hl, hf]

end

/-- Settles O4: the fetch of a bundle of one privilege, and what the decoder makes of its bytes. -/
theorem stepRunsTheFetchedWord : Obligations.StepRunsTheFetchedWord := by
  intro s s' u b sup bs ha hl hb hu hp hf
  have hd := fetch_one_privilege hb hu hp hf
  refine ⟨fetchBytes_frame hf, fun i hi => ?_, fun d hd' => ?_⟩
  · exact step_runs ha hl (hd.trans (by rw [State.decodeFor, hi]))
  · exact step_ends ha hl (hd.trans (by rw [State.decodeFor, hd']))

/-- Settles O6: the cases of the step without a bundle. -/
theorem stepsWithoutABundle : Obligations.StepsWithoutABundle := by
  have alive {s : State} (ha : s.alive = true) : s.off = false ∧ s.fw.state ≠ .bootRefused := by
    simpa [State.alive] using ha
  refine ⟨fun s i rest ha hl hg => ?_, fun s ha hl hg => ?_, ?_, fun s h => ?_, fun s h hb => ?_⟩
  · simp [step, alive ha, hl, hg]
  · simp [step, alive ha, hl, hg]
  · have : State.reset.ownEvents = [.resetEvent] := rfl
    have hown : State.reset.ownEvent = .resetEvent := by
      simp only [State.ownEvent, this, List.length_singleton, Nat.mod_one, List.getD_cons_zero]
    show exec State.reset.ownEvent State.reset = _
    rw [hown]
  · simp [step, h]
  · simp [step, h, hb]

/-- Settles O58: the decoder runs on each word. -/
theorem specWordsDecode : Obligations.SpecWordsDecode := by
  refine ⟨?_, ?_, ?_, ?_, ?_, ?_, ?_, ?_⟩ <;> decide

/-- Settles O59: every table is empty, so each entry is the entry at reset. -/
theorem resetHasTheStatedValues : Obligations.ResetHasTheStatedValues := by
  refine ⟨rfl, rfl, rfl, rfl, rfl, rfl, rfl, fun n => ?_, fun n => ?_, fun n => ?_, fun n => ?_, fun k => rfl, rfl, rfl, rfl,
    reset_wf, reset_byte⟩
  · rw [show State.reset.partition n = Partition.reset from rfl]
    decide
  · exact ⟨rfl, rfl, rfl, rfl, rfl, rfl, rfl, rfl, rfl⟩
  · exact ⟨rfl, rfl, rfl, rfl, rfl, rfl, rfl⟩
  · exact ⟨rfl, rfl, rfl, rfl, rfl⟩


/-! ### Alignment (R207) -/

theorem misaligned_beyond {a : W64} (n : Nat) (h : 2 ^ 57 ≤ a.toNat) : misaligned a n = some 2#32 := by
  have : a.extractLsb' 57 7 ≠ 0 := by
    intro he
    have := congrArg BitVec.toNat he
    simp [BitVec.extractLsb'_toNat] at this
    have := a.isLt
    omega
  rw [misaligned, if_pos this]

theorem misaligned_within {a : W64} (n : Nat) (h : a.toNat < 2 ^ 57) :
    misaligned a n = if n ∣ a.toNat then none else some 1#32 := by
  have : a.extractLsb' 57 7 = 0 := by
    apply BitVec.eq_of_toNat_eq
    simp [BitVec.extractLsb'_toNat]
    omega
  simp only [misaligned, this, ne_eq, not_true_eq_false, if_false, Nat.dvd_iff_mod_eq_zero]
  split <;> simp_all

theorem reach_misaligned {s : State} {e : Env} {addr : W64} {size : Nat} {n : Need} {k : Nat} {d : W32}
    (h : misaligned addr size = some d) :
    s.reach e addr size n k = .error { cause := 4, detail := d, faddr := addr, pc := e.th.pc, write := n.w } := by
  rw [State.reach, h]

theorem reach_aligned_error {s : State} {e : Env} {addr : W64} {size : Nat} {n : Need} {k : Nat} {tr : Trap}
    (hm : misaligned addr size = none) (h : s.reach e addr size n k = .error tr) : tr.cause = 5 ∨ tr.cause = 6 := by
  rw [State.reach, hm] at h
  simp only at h
  split at h
  · rename_i hx
    cases h
    obtain ⟨hc, -⟩ | ⟨hc, -⟩ := xlate_error hx
    · exact .inl hc
    · exact .inr hc
  · cases h

theorem reach_ok_aligned {s : State} {e : Env} {addr : W64} {size : Nat} {n : Need} {k : Nat} {x : Xlat}
    (h : s.reach e addr size n k = .ok x) : misaligned addr size = none := by
  unfold State.reach at h
  split at h
  · cases h
  · assumption

/-- An aligned access of a size that divides the line lies in one page. -/
theorem aligned_in_page {a size : Nat} (hs : size ∣ 128) (ha : size ∣ a) : a % 65536 + size ≤ 65536 := by
  have hp : size ∣ 65536 := hs.trans (by decide)
  obtain ⟨q, hq⟩ := (Nat.dvd_mod_iff hp).2 ha
  obtain ⟨r, hr⟩ := hp
  have hlt : size * q < size * r := by
    rw [← hq, ← hr]
    exact Nat.mod_lt _ (by decide)
  have : q + 1 ≤ r := Nat.lt_of_mul_lt_mul_left hlt
  calc a % 65536 + size = size * (q + 1) := by rw [hq, Nat.mul_succ]
    _ ≤ size * r := Nat.mul_le_mul_left _ this
    _ = 65536 := hr.symm

theorem accessBytes_line (w : Word) : accessBytes w ≤ 64 ∧ accessBytes w ∣ 128 := by
  have he : modF w 0 3 % 4 ≤ 3 := by omega
  have hc : modF w 4 2 ≤ 3 := by
    have : modF w 4 2 < 2 ^ 2 := Nat.mod_lt _ (by decide)
    omega
  rw [accessBytes, elemBytes, elemCount, ← Nat.pow_add]
  exact ⟨Nat.pow_le_pow_right (n := 2) (by decide) (show _ ≤ 6 by omega),
    Nat.pow_dvd_pow 2 (show _ ≤ 7 by omega)⟩

/-- Settles O19: which of the two faults an address has. -/
theorem misalignedAddressesTrap : Obligations.MisalignedAddressesTrap := by
  intro s e addr size n k
  refine ⟨fun h => ⟨_, reach_misaligned (misaligned_beyond size h), rfl, rfl, rfl, rfl⟩, fun h hd =>
    ⟨_, reach_misaligned ((misaligned_within size h).trans (if_neg hd)), rfl, rfl, rfl, rfl⟩, fun h hd tr htr =>
    reach_aligned_error ((misaligned_within size h).trans (if_pos hd)) htr, fun hs x hx => ?_, fun w => ?_⟩
  · exact aligned_in_page hs (Nat.dvd_of_mod_eq_zero ((misaligned_none addr size).1 (reach_ok_aligned hx)).2)
  · exact accessBytes_line w

end Sys2Proof.Proofs
end


section
/-! SUPPORT. Memory frame: the operations of the machine that write no byte leave memory as it is. -/

namespace Sys2Proof.Machine
/-- The state in which a lane leaves its word. -/
def LaneEnd.state : LaneEnd → State
  | .done s _ => s
  | .stay s => s
  | .trap s _ _ => s

end Sys2Proof.Machine

namespace Sys2Proof.Proofs
open Sys2Proof Sys2Proof.Machine Sys2Proof.Laws
@[simp] theorem state_done (s pc) : LaneEnd.state (.done s pc) = s := rfl
@[simp] theorem state_stay (s) : LaneEnd.state (.stay s) = s := rfl
@[simp] theorem state_trap (s tr a) : LaneEnd.state (.trap s tr a) = s := rfl

@[simp] theorem foldl_mem {α : Type} (f : State → α → State) (h : ∀ s x, (f s x).mem = s.mem) (l : List α) (s : State) :
    (l.foldl f s).mem = s.mem := by
  induction l generalizing s with
  | nil => rfl
  | cons x l ih => simp [ih, h]

@[simp] theorem portCount_mem (s : State) (lo width : Nat) : (s.portCount lo width).mem = s.mem := by
  simp [State.portCount]

@[simp] theorem writeBack_mem (s : State) (p : Nat → Bool) : (s.writeBack p).mem = s.mem := by simp [State.writeBack]

@[simp] theorem fillMsc_mem (s : State) (k cp pick : Nat) : (s.fillMsc k cp pick).mem = s.mem := by
  unfold State.fillMsc
  (repeat' split) <;> simp

@[simp] theorem renew_mem (s : State) (core : Nat) (es : List Stale) : (s.renew core es).mem = s.mem := by
  unfold State.renew
  dsimp only
  (repeat' split) <;> simp

@[simp] theorem observe_mem (s : State) (core blk tidx : Nat) (p : Stale → Bool) : (s.observe core blk tidx p).mem = s.mem := by
  simp [State.observe]

@[simp] theorem passPhase_mem (s : State) (core blk tidx off n : Nat) : (s.passPhase core blk tidx off n).mem = s.mem := by
  simp [State.passPhase]

@[simp] theorem takeOrder_mem (s : State) (core blk tidx scope inst at' : Nat) :
    (s.takeOrder core blk tidx scope inst at').mem = s.mem := by
  simp [State.takeOrder]

@[simp] theorem forgetScratch_mem (s : State) (blk : Nat) : (s.forgetScratch blk).mem = s.mem := by
  simp [State.forgetScratch]

@[simp] theorem forgetObject_mem (s : State) (blk off : Nat) : (s.forgetObject blk off).mem = s.mem := by
  simp [State.forgetObject]

@[simp] theorem cacheLeaf_mem (s : State) (cs : List Nat) (ctx va : Nat) (x : Xlat) :
    (s.cacheLeaf cs ctx va x).mem = s.mem := by
  unfold State.cacheLeaf
  (repeat' split) <;> simp

@[simp] theorem markAborted_mem (s : State) (x : Nat × Nat) (cause : Nat) (other : Option Nat) :
    (s.markAborted x cause other).mem = s.mem := by
  unfold State.markAborted
  (repeat' split) <;> simp

@[simp] theorem abortAll_mem (s : State) (xs : List (Nat × Nat)) (cause : Nat) (other : Option Nat) :
    (s.abortAll xs cause other).mem = s.mem :=
  (congrArg State.mem (abortAll_frame s xs cause other)).symm

@[simp] theorem abortSection_mem (s : State) (c k cause : Nat) (other : Option Nat) :
    (s.abortSection c k cause other).mem = s.mem := by
  simp [State.abortSection]

@[simp] theorem externalWrite_mem (s : State) (k n : Nat) : (s.externalWrite k n).mem = s.mem := by
  unfold State.externalWrite
  dsimp only
  (repeat' split) <;> simp

@[simp] theorem endSections_mem (s : State) (b : Nat) (who : Nat → Bool) : (s.endSections b who).mem = s.mem := by
  simp [State.endSections]

@[simp] theorem removeBlock_mem (s : State) (b : Nat) : (s.removeBlock b).mem = s.mem := by simp [State.removeBlock]

@[simp] theorem tell_mem (s : State) (c type blk : Nat) : (s.tell c type blk).mem = s.mem := by
  unfold State.tell
  (repeat' split) <;> simp

@[simp] theorem report_mem (s : State) (c : Nat) (m : CairnMsg) : (s.report c m).mem = s.mem := by
  unfold State.report
  (repeat' split) <;> simp

@[simp] theorem reportFault_mem (s : State) (b : Block) (members : List Block) : (s.reportFault b members).mem = s.mem := by
  simp [State.reportFault]

@[simp] theorem countKilled_mem (s : State) (lid n : Nat) : (s.countKilled lid n).mem = s.mem := by
  simp [State.countKilled]

@[simp] theorem countNever_mem (s : State) (lid n : Nat) : (s.countNever lid n).mem = s.mem := by
  simp [State.countNever]

@[simp] theorem kill_mem (s : State) (b : Block) : (s.kill b).mem = s.mem := by
  unfold State.kill
  (repeat' split) <;> simp

@[simp] theorem cancelLaunch_mem (s : State) (lid : Nat) (hard fault : Bool) : (s.cancelLaunch lid hard fault).mem = s.mem := by
  unfold State.cancelLaunch
  (repeat' split) <;> simp

@[simp] theorem faultGrid_mem (s : State) (lid : Nat) (e : FaultEntry) : (s.faultGrid lid e).mem = s.mem := by
  simp [State.faultGrid]

@[simp] theorem countFault_mem (s : State) (x : Block × FaultEntry) : (s.countFault x).mem = s.mem := by
  unfold State.countFault
  (repeat' split) <;> simp

@[simp] theorem deschedule_mem (s : State) (b g : Nat) : (s.deschedule b g).mem = s.mem := by simp [State.deschedule]

@[simp] theorem restoredTest_mem (s : State) (blk : Nat) : (s.restoredTest blk).mem = s.mem := by
  simp [State.restoredTest]

@[simp] theorem yieldAt_mem (s : State) (blk tidx : Nat) (w : Word) (tr : Trap) : (s.yieldAt blk tidx w tr).mem = s.mem := by
  unfold State.yieldAt
  (repeat' split) <;> simp

@[simp] theorem finishOp_mem (s : State) (b t op : Nat) : (s.finishOp b t op).mem = s.mem := by simp [State.finishOp]

@[simp] theorem clean_mem (s : State) (k n : Nat) : (s.clean k n).mem = s.mem := by simp [State.clean]

@[simp] theorem cleanAll_mem (s : State) (ws : List (Nat × Nat)) : (s.cleanAll ws).mem = s.mem := by
  unfold State.cleanAll
  (repeat' split) <;> simp

@[simp] theorem readyTiles_mem (s : State) (blk off : Nat) : (s.readyTiles blk off).mem = s.mem := by
  simp [State.readyTiles]

@[simp] theorem addVersion_mem (s : State) (x : Section) (key : Nat) (bs : List Byte) :
    (s.addVersion x key bs).mem = s.mem := by
  simp [State.addVersion]

@[simp] theorem fillLine_mem (s : State) (core ctx va key : Nat) : (s.fillLine core ctx va key).mem = s.mem := by
  simp [State.fillLine]

@[simp] theorem dropLine_mem (s : State) (core key : Nat) : (s.dropLine core key).mem = s.mem := by
  simp [State.dropLine]

@[simp] theorem dropLines_mem (s : State) (core : Nat) (p : Line → Bool) : (s.dropLines core p).mem = s.mem := by
  simp [State.dropLines]

@[simp] theorem issueLds_mem (e : Env) (s : State) (w : Word) (off : Nat) (slot : Option Nat) :
    (Env.issueLds e s w off slot).state.mem = s.mem := by
  simp [Env.issueLds]

@[simp] theorem issueSts_mem (e : Env) (s : State) (w : Word) (data : Opd) (off : Nat) (slot : Option Nat) :
    (Env.issueSts e s w data off slot).state.mem = s.mem := by
  simp [Env.issueSts]

@[simp] theorem issueTile_mem (e : Env) (s : State) (i : Nat) (f : Block → Block) :
    (Env.issueTile e s i f).state.mem = s.mem := by
  simp [Env.issueTile]

@[simp] theorem dropToken_mem (s : State) (blk tidx op : Nat) : (s.dropToken blk tidx op).mem = s.mem := by
  simp [State.dropToken]

@[simp] theorem enqueue_mem (s : State) (b : Block) (t : Thread) (off : Nat) (ev : ObjEvent) (dst : Option Nat) :
    (s.enqueue b t off ev dst).mem = s.mem := by
  simp [State.enqueue]

@[simp] theorem misuse_mem (s : State) (e : Env) : (misuse s e).state.mem = s.mem := by simp [misuse]

@[simp] theorem mapSlot_mem (s : State) (blk i : Nat) (f : Slot → Slot) : (s.mapSlot blk i f).mem = s.mem := by
  simp [State.mapSlot]

@[simp] theorem exitSlots_mem (s : State) (b : Block) (tidx : Nat) : (s.exitSlots b tidx).mem = s.mem := by
  unfold State.exitSlots
  apply foldl_mem
  intros
  rfl

@[simp] theorem holdAt_mem (s : State) (e : Env) (w : Wait) : (s.holdAt e w).state.mem = s.mem := by
  simp [State.holdAt]

@[simp] theorem openInst_mem (s : State) (ob : Block) (i : Nat) (sl : Slot) (p : InstParams) (jm : W64) :
    (s.openInst ob i sl p jm).mem = s.mem := by
  simp [State.openInst]

@[simp] theorem issueQuiet_mem (s : State) (b t : Nat) (pc : W32) (a : Act) : (s.issueQuiet b t pc a).mem = s.mem := by
  simp [State.issueQuiet]

@[simp] theorem recordArrival_mem (s : State) (e : Env) (w : Word) (kind : Nat) (ob : Block) (i si : Nat) (g con : Bool) :
    (s.recordArrival e w kind ob i si g con).mem = s.mem := by
  unfold State.recordArrival
  dsimp only
  (repeat' split) <;> simp

@[simp] theorem holdAt_mem' (s : State) (e : Env) (w : Wait) : (s.holdAt e w).state.mem = s.mem := by
  simp [State.holdAt]

theorem postPass_mem {s t : State} {ob : Block} {i fmt : Nat} (h : s.postPass ob i fmt = some t) : t.mem = s.mem := by
  unfold State.postPass at h
  dsimp only at h
  split at h
  · cases h; simp
  · split at h
    · cases h
    · cases h; simp

@[simp] theorem ctrLane_mem (w : Word) (kind : Nat) (g : Bool) (e : Env) (s : State) :
    (ctrLane w kind g e s).state.mem = s.mem := by
  unfold ctrLane
  dsimp only
  (repeat' split) <;> simp
  all_goals
    rename_i h
    simp [postPass_mem h]

@[simp] theorem rebind_mem (s : State) (ctx idx status : Nat) (r : Region) : (s.rebind ctx idx status r).mem = s.mem := by
  unfold State.rebind
  (repeat' split) <;> simp

@[simp] theorem touchTerms_mem (s : State) (e : Env) (size : Nat) (n : Need) (rows : List (List (Rat × W64))) :
    (s.touchTerms e size n rows).mem = s.mem := by
  unfold State.touchTerms
  apply foldl_mem
  intros
  split
  · exact touch_mem _ _ _ _
  · rfl

@[simp] theorem meetKnow_mem (s : State) (b : Block) (ts : List Nat) : (s.meetKnow b ts).mem = s.mem := by
  simp [State.meetKnow]

@[simp] theorem releaseCross_mem (s : State) (b : Block) (a : Arrival) (r : List Arrival) :
    (s.releaseCross b a r).mem = s.mem := by
  unfold State.releaseCross
  apply foldl_mem
  intros
  split <;> rfl

@[simp] theorem setJoin_mem (s : State) (b : Block) (g k : Nat) (v : W64) : (s.setJoin b g k v).mem = s.mem := by
  simp [State.setJoin]

@[simp] theorem dropOpen_mem (s : State) (core : Nat) : (s.dropOpen core).mem = s.mem := by simp [State.dropOpen]

@[simp] theorem scBefore_mem (s : State) (scope : Nat) : (s.scBefore scope).mem = s.mem := by
  unfold State.scBefore
  (repeat' split) <;> simp

@[simp] theorem scAfter_mem (s : State) (scope core : Nat) : (s.scAfter scope core).mem = s.mem := by
  unfold State.scAfter
  (repeat' split) <;> simp

@[simp] theorem acquireFlags_mem (s : State) (e : Env) (scope : Nat) : (s.acquireFlags e scope).mem = s.mem := by
  simp [State.acquireFlags]

@[simp] theorem releaseFlags_mem (s : State) (e : Env) (scope : Nat) : (s.releaseFlags e scope).mem = s.mem := by
  simp [State.releaseFlags]

@[simp] theorem orderSc_mem (s : State) (e : Env) (scope at' : Nat) : (s.orderSc e scope at').mem = s.mem := by
  simp [State.orderSc]

@[simp] theorem holdSeq_mem (s : State) (e : Env) (key : Nat) : (s.holdSeq e key).mem = s.mem := by
  simp [State.holdSeq]

@[simp] theorem deliverSection_mem (s : State) (x : Section) : (s.deliverSection x).mem = s.mem := by
  simp [State.deliverSection]

@[simp] theorem openSection_mem (s : State) (e : Env) (w : Word) (slot : Nat) : (s.openSection e w slot).mem = s.mem := by
  simp [State.openSection]

@[simp] theorem bitFault_mem (s : State) (l : Launch) (i va cause : Nat) : (s.bitFault l i va cause).mem = s.mem := by
  simp [State.bitFault]

@[simp] theorem advanceFs_mem (s : State) (ctx : Nat) : (s.advanceFs ctx).mem = s.mem := by simp [State.advanceFs]

@[simp] theorem enter_mem (s : State) (l : Launch) : (s.enter l).mem = s.mem := by simp [State.enter]

@[simp] theorem answer_mem (s : State) (blk tidx : Nat) (pc : W32) (lid reason : Nat) :
    (s.answer blk tidx pc lid reason).mem = s.mem := by
  simp [State.answer]

@[simp] theorem forward_mem (s : State) (ctx : Nat) (src : Source) (pc : W32) (addr : W64) (bs params : List Byte) :
    (s.forward ctx src pc addr bs params).mem = s.mem := by
  simp [State.forward]

@[simp] theorem handOn_mem (s : State) (k : Knower) (lid : Nat) : (s.handOn k lid).mem = s.mem := by
  simp [State.handOn]

@[simp] theorem accept_mem (s : State) (ctx : Nat) (src : Source) (r : LaunchRec) (lrec : W64) (deps : List Dep)
    (params : NMap Byte) : (s.accept ctx src r lrec deps params).2.mem = s.mem := by
  simp [State.accept]

@[simp] theorem takeRequest_mem (s : State) (q : LaunchReq) : (s.takeRequest q).mem = s.mem := by
  unfold State.takeRequest
  dsimp only
  split <;> simp

@[simp] theorem takeRequests_mem (s : State) (ctx : Nat) : (s.takeRequests ctx).mem = s.mem := by
  simp [State.takeRequests]

@[simp] theorem submit_mem (s : State) (e : Env) (addr : W64) (bs ps : List Byte) : (s.submit e addr bs ps).mem = s.mem := by
  unfold State.submit
  dsimp only
  (repeat' split) <;> simp

@[simp] theorem remap_mem (s : State) (c : Nat) : (s.remap c).mem = s.mem := by
  unfold State.remap
  (repeat' split) <;> simp

@[simp] theorem withdraw_mem (s : State) (l : Launch) (us : List Nat) : (s.withdraw l us).mem = s.mem := by
  simp [State.withdraw]

@[simp] theorem returnUnits_mem (s : State) (l : Launch) : (s.returnUnits l).mem = s.mem := by
  unfold State.returnUnits
  dsimp only
  (repeat' split) <;> simp

@[simp] theorem unassign_mem (s : State) (cs : List Nat) (ctx : Nat) : (s.unassign cs ctx).mem = s.mem := by
  simp [State.unassign]

/-- A block of an item moves to a cluster. -/
theorem moveBlocks_mem (item : List Block) (c : Nat) (s : State) :
    (item.foldl (fun s b =>
      let s1 := s.mapBlock b.id (fun b => { b with cluster := c })
      if s.inDieGang b then s1 else s1.tell c 1 b.id) s).mem = s.mem := by
  apply foldl_mem
  intros
  dsimp only
  split <;> simp

@[simp] theorem moveItem_mem (s : State) (item : List Block) (c : Nat) : (s.moveItem item c).mem = s.mem := by
  unfold State.moveItem
  extract_lets s1
  have h : s1.mem = s.mem := moveBlocks_mem item c s
  (repeat' split) <;> simp [h]

@[simp] theorem rehome_mem (s : State) (n ctx : Nat) : (s.rehome n ctx).mem = s.mem := by
  unfold State.rehome
  dsimp only
  rw [foldl_mem, foldl_mem _ returnUnits_mem]
  · simp
  · intros
    split <;> simp

@[simp] theorem settlePlaces_mem (s : State) : (s.settlePlaces).mem = s.mem := by
  unfold State.settlePlaces
  apply foldl_mem
  intros
  split <;> simp

@[simp] theorem faultOutgrown_mem (s : State) : (s.faultOutgrown).mem = s.mem := by simp [State.faultOutgrown]

@[simp] theorem replace_mem (s : State) (c : Nat) : (s.replace c).mem = s.mem := by simp [State.replace]

@[simp] theorem peek_mem (s : State) (bs : List Block) : (s.peek bs).mem = s.mem := by
  unfold State.peek
  apply foldl_mem
  intros
  apply foldl_mem
  intros
  split <;> simp

@[simp] theorem account_mem (s : State) (core sched : Nat) : (s.account core sched).mem = s.mem := by
  simp [State.account]

@[simp] theorem countYields_mem (s : State) (bs : List Block) (issued : Bool) : (s.countYields bs issued).mem = s.mem := by
  unfold State.countYields
  apply foldl_mem
  intros
  rfl

@[simp] theorem issueRun_mem (s : State) (b : Block) (core sched : Nat) (run : W32 × Nat × W32) :
    (s.issueRun b core sched run).mem = s.mem := by
  simp [State.issueRun]

@[simp] theorem expireYields_mem (s : State) (bs : List Block) : (s.expireYields bs).mem = s.mem := by
  unfold State.expireYields
  apply foldl_mem
  intros
  rfl

@[simp] theorem scEffect_mem (s : State) (b : Block) (tidx scope op : Nat) : (s.scEffect b tidx scope op).mem = s.mem := by
  unfold State.scEffect
  (repeat' split) <;> simp

@[simp] theorem mergeAway_mem (s : State) (rs : List Request) : (s.mergeAway rs).mem = s.mem := by
  unfold State.mergeAway
  dsimp only
  rw [foldl_mem _ (fun _ _ => mapThread_mem _ _ _ _)]
  apply foldl_mem
  intros
  split <;> simp

@[simp] theorem setAct_mem (s : State) (b t op : Nat) (a : Act) : (s.setAct b t op a).mem = s.mem := by
  simp [State.setAct]

@[simp] theorem saw_mem (s : State) (blk tidx op : Nat) (x : Nat × Nat × Nat) : (s.saw blk tidx op x).mem = s.mem := by
  unfold State.saw
  (repeat' split) <;> simp

@[simp] theorem sawAll_mem (s : State) (b : Block) (t : Thread) (p : Pend) : (s.sawAll b t p).mem = s.mem := by
  unfold State.sawAll
  (repeat' split) <;> simp

@[simp] theorem fillContrib_mem (s : State) (b : Block) (t : Thread) (sb sl : Nat) (aOff bOff inst : Nat) :
    (s.fillContrib b t sb sl aOff bOff inst).mem = s.mem := by
  simp [State.fillContrib]

@[simp] theorem creditCmd_mem (s : State) (after : Nat) (c : Cmd) : (s.creditCmd after c).mem = s.mem := by
  simp [State.creditCmd]

@[simp] theorem countLanding_mem (s : State) (blk off : Nat) (p : Stale → Bool) : (s.countLanding blk off p).mem = s.mem := by
  unfold State.countLanding
  (repeat' split) <;> simp

@[simp] theorem releaseSlot_mem (s : State) (t : Target) (evict : Bool) : (s.releaseSlot t evict).mem = s.mem := by
  unfold State.releaseSlot
  (repeat' split) <;> simp

@[simp] theorem handDown_mem (s : State) (b : Block) : (s.handDown b).mem = s.mem := by
  unfold State.handDown
  (repeat' split) <;> simp

@[simp] theorem retireBlock_mem (s : State) (b : Block) : (s.retireBlock b).mem = s.mem := by
  simp [State.retireBlock]

@[simp] theorem dropGangs_mem (s : State) : (s.dropGangs).mem = s.mem := by simp [State.dropGangs]

@[simp] theorem handInstance_mem (s : State) (l : Launch) (n : Nat) (ms : List Nat) : (s.handInstance l n ms).mem = s.mem := by
  unfold State.handInstance
  dsimp only
  (repeat' split) <;> simp

@[simp] theorem startKnowing_mem (s : State) (b : Block) : (s.startKnowing b).mem = s.mem := by
  unfold State.startKnowing
  (repeat' split) <;> simp

@[simp] theorem ensureGang_mem (s : State) (item : List Block) : (s.ensureGang item).mem = s.mem := by
  unfold State.ensureGang
  (repeat' split) <;> simp

@[simp] theorem assignDie_mem (s : State) (n ctx : Nat) (g : Gang) : (s.assignDie n ctx g).mem = s.mem := by
  unfold State.assignDie
  dsimp only
  (repeat' split) <;> simp

@[simp] theorem countRounds_mem (s : State) (c : Nat) : (s.countRounds c).mem = s.mem := by simp [State.countRounds]

@[simp] theorem stopBlock_mem (s : State) (b : Block) : (s.stopBlock b).mem = s.mem := by simp [State.stopBlock]

theorem reserveSave_mem (bs : List Block) : ∀ {s t : State}, s.reserveSave bs = some t → t.mem = s.mem := by
  induction bs with
  | nil => rintro s t ⟨⟩; rfl
  | cons b bs ih =>
    intro s t h
    unfold State.reserveSave at h
    split at h
    · cases h
    · exact (ih h).trans (mapBlock_mem _ _ _)

@[simp] theorem preempt_mem (s : State) (b : Block) : (s.preempt b).mem = s.mem := by
  unfold State.preempt
  dsimp only
  split
  · cases h : s.reserveSave (s.gangOf b) with
    | none => rfl
    | some t => exact (foldl_mem _ stopBlock_mem _ _).trans (reserveSave_mem _ h)
  · rfl

@[simp] theorem withdrawGroups_mem (s : State) (b : Block) : (s.withdrawGroups b).mem = s.mem := by
  simp [State.withdrawGroups]

@[simp] theorem abortBlock_mem (s : State) (blk : Nat) : (s.abortBlock blk).mem = s.mem := by simp [State.abortBlock]

@[simp] theorem joinPod_mem (s : State) (dev : Nat) : (s.joinPod dev).mem = s.mem := by simp [State.joinPod]

@[simp] theorem loseFrom_mem (s : State) (dev : Nat) (l : Launch) : (s.loseFrom dev l).mem = s.mem := by
  unfold State.loseFrom
  (repeat' split) <;> simp

@[simp] theorem writeMask_mem (s : State) (n : Nat) (v : W64) : (s.writeMask n v).mem = s.mem := by
  unfold State.writeMask
  dsimp only
  (repeat' split) <;> simp

@[simp] theorem stopThreads_mem (s : State) (n : Nat) (final : Bool) : (s.stopThreads n final).mem = s.mem := by
  simp [State.stopThreads]

@[simp] theorem writeCtl_mem (s : State) (n : Nat) (v : W64) : (s.writeCtl n v).mem = s.mem := by
  unfold State.writeCtl
  dsimp only
  (repeat' split) <;> simp

@[simp] theorem replayGroup_mem (s : State) (ctx : Nat) (q : PageReq) (blk gid : Nat) :
    (s.replayGroup ctx q blk gid).mem = s.mem := by
  simp [State.replayGroup]

@[simp] theorem whileUnbound_mem (s : State) (ctx : Nat) (f : Context → Context) : (s.whileUnbound ctx f).mem = s.mem := by
  unfold State.whileUnbound
  (repeat' split) <;> simp

@[simp] theorem writeContext_mem (s : State) (ctx reg : Nat) (v : W64) : (s.writeContext ctx reg v).mem = s.mem := by
  unfold State.writeContext
  (repeat' split) <;> simp

@[simp] theorem writeSummary_mem (s : State) (ctx reg : Nat) (v : W64) : (s.writeSummary ctx reg v).mem = s.mem := by
  unfold State.writeSummary
  (repeat' split) <;> simp

@[simp] theorem writeObs_mem (s : State) (ctx reg : Nat) (v : W64) : (s.writeObs ctx reg v).mem = s.mem := by
  unfold State.writeObs
  dsimp only
  (repeat' split) <;> simp

@[simp] theorem writeRegister_mem (s : State) (off : Nat) (v : W64) : (s.writeRegister off v).mem = s.mem := by
  unfold State.writeRegister
  (repeat' split) <;> simp

@[simp] theorem writeHctl_mem (s : State) (cluster sched : Nat) (v : W64) : (s.writeHctl cluster sched v).mem = s.mem := by
  unfold State.writeHctl
  (repeat' split) <;> simp

@[simp] theorem startMassif_mem (s : State) (core : Nat) : (s.startMassif core).mem = s.mem := by
  simp [State.startMassif]

@[simp] theorem stopMassif_mem (s : State) (core : Nat) : (s.stopMassif core).mem = s.mem := by
  simp [State.stopMassif]

@[simp] theorem replay_mem (s : State) (j : Journal) : (s.replay j).mem = s.mem := by simp [State.replay]

@[simp] theorem restartPrologue_mem (s : State) (b : Block) : (s.restartPrologue b).mem = s.mem := by
  simp [State.restartPrologue]

@[simp] theorem takeOver_mem (s : State) : (s.takeOver).mem = s.mem := by simp [State.takeOver]

@[simp] theorem coreFails_mem (s : State) : (s.coreFails).mem = s.mem := by
  unfold State.coreFails
  (repeat' split) <;> simp

@[simp] theorem holdCall_mem (s : State) : (s.holdCall).mem = s.mem := by
  unfold State.holdCall
  (repeat' split) <;> simp

@[simp] theorem countActive_mem (s : State) : (s.countActive).mem = s.mem := by simp [State.countActive]

@[simp] theorem tellPatch_mem (s : State) : (s.tellPatch).mem = s.mem := by simp [State.tellPatch]

@[simp] theorem stepGroup_mem (s : State) (e : Env) (on : Bool) : (s.stepGroup e on).mem = s.mem := by
  unfold State.stepGroup
  (repeat' split) <;> simp

@[simp] theorem sysWriteTo_mem (s : State) (e : Env) (n : Nat) (v : W32) : (s.sysWriteTo e n v).mem = s.mem := by
  unfold State.sysWriteTo
  (repeat' split) <;> simp

@[simp] theorem passLane_mem (s : State) (blk tidx : Nat) (pc : W32) (yld step : Bool) :
    (s.passLane blk tidx pc yld step).1.mem = s.mem := by
  unfold State.passLane
  dsimp only
  (repeat' split) <;> simp

theorem track_waits_mem {s t : State} {x : Section} {tier key n : Nat} {write : Bool} {w : Wait}
    (h : s.track x tier key n write = .waits w t) : t.mem = s.mem := by
  unfold State.track at h
  dsimp only at h
  repeat' split at h
  all_goals cases h
  all_goals simp

theorem track_runs_mem {s t : State} {x : Section} {tier key n : Nat} {write : Bool}
    (h : s.track x tier key n write = .runs t) : t.mem = s.mem := by
  unfold State.track at h
  dsimp only at h
  repeat' split at h
  all_goals cases h
  all_goals simp

@[simp] theorem queueCmd_mem (e : Env) (lanes : List Nat) (x : Issued) : (queueCmd e lanes x).mem = x.1.mem := by
  unfold queueCmd
  exact foldl_mem _ (fun _ _ => mapThread_mem _ _ _ _) _ _

theorem readDesc_mem {s t : State} {q : Nat} (h : s.readDesc q = some t) : t.mem = s.mem := by
  unfold State.readDesc at h
  dsimp only at h
  repeat' split at h
  all_goals cases h
  all_goals simp

@[simp] theorem handQueue_mem (s before : State) (q : Nat) (ordered : Bool) : (s.handQueue before q ordered).mem = s.mem := by
  unfold State.handQueue
  split
  · rfl
  · exact foldl_mem _ (fun _ _ => handOn_mem _ _ _) _ _

theorem takeOutbox_mem {s t : State} {p : PodRec → Bool} {r : PodRec} (h : s.takeOutbox p = some (r, t)) : t.mem = s.mem := by
  unfold State.takeOutbox at h
  split at h
  · cases h
  · obtain ⟨x, -, hx⟩ := Option.map_eq_some_iff.1 h
    cases hx
    rfl

@[simp] theorem loadCached_mem (s : State) (b : Block) (va key n k : Nat) (ev : Bool) :
    (s.loadCached b va key n k ev).2.mem = s.mem := by
  unfold State.loadCached
  dsimp only
  (repeat' split) <;> simp

@[simp] theorem loadBytes_mem (s : State) (b : Block) (src : Loc) (va n k : Nat) (nc ev : Bool) :
    (s.loadBytes b src va n k nc ev).2.mem = s.mem := by
  unfold State.loadBytes
  (repeat' split) <;> simp

@[simp] theorem loadPlace_mem (s : State) (b : Block) (p : Place) (n k : Nat) : (s.loadPlace b p n k).2.mem = s.mem := by
  unfold State.loadPlace
  (repeat' split) <;> simp

@[simp] theorem loadPlaces_mem (b : Block) (n : Nat) (ps : List Place) : ∀ (s : State) (k : Nat),
    (s.loadPlaces b n k ps).2.mem = s.mem := by
  induction ps with
  | nil => exact fun _ _ => rfl
  | cons p ps ih => exact fun s k => by simp [State.loadPlaces, ih]

@[simp] theorem combined_mem (s : State) (loc : Loc) (fmt old v op : Nat) : (s.combined loc fmt old v op).2.1.mem = s.mem := by
  simp [State.combined]

@[simp] theorem carry_mem (s before : State) (b : Block) (t : Thread) (p : Pend) : (s.carry before b t p).mem = s.mem := by
  unfold State.carry
  dsimp only
  split <;> rfl

@[simp] theorem takeAck_mem (s : State) (cluster : Nat) (m : CairnMsg) : (s.takeAck cluster m).mem = s.mem := by
  unfold State.takeAck
  (repeat' split) <;> simp

@[simp] theorem donate_mem (s : State) (l : Launch) : (s.donate l).2.mem = s.mem := by
  simp [State.donate]

theorem fetchBytes_mem {s t : State} {core ctx va : Nat} {sup : Bool} {bs : List Byte}
    (h : s.fetchBytes core ctx va sup = .ok (bs, t)) : t.mem = s.mem :=
  (congrArg State.mem (fetchBytes_frame h) :)

end Sys2Proof.Proofs
end


section
/-! SUPPORT. What writes memory keeps its canonical form (O60). A function of the model that writes bytes keeps `Memory.wf`; `Keeps` says it of the answer of a word or of an event. -/

namespace Sys2Proof.Proofs
open Sys2Proof Sys2Proof.Machine Sys2Proof.Laws

theorem foldl_wf {α : Type} (f : State → α → State) (hf : ∀ s x, Memory.wf s.mem → Memory.wf (f s x).mem) (l : List α)
    (s : State) (h : Memory.wf s.mem) : Memory.wf (l.foldl f s).mem := by
  induction l generalizing s with
  | nil => exact h
  | cons x l ih => exact ih _ (hf s x h)

theorem foldl_put_wf {α : Type} (key : α → Nat) (val : α → Byte) (l : List α) : ∀ m : List Host.Cell, Memory.wf m →
    Memory.wf (l.foldl (fun m e => NMap.put 0 m (key e) (val e)) m) := by
  induction l with
  | nil => exact fun _ h => h
  | cons e l ih => exact fun m h => ih _ (canonical_put 0 m _ _ h)

theorem dropMsc_wf (s : State) (p : Nat → Bool) (h : Memory.wf s.mem) : Memory.wf (s.dropMsc p).mem := by
  unfold State.dropMsc
  dsimp only
  rw [writeBack_mem]
  exact foldl_put_wf (fun e : Nat × (Byte × Bool) => e.1) (fun e => e.2.1) _ _ h

theorem hostWrite_wf (s : State) (k : Nat) (bs : List Byte) (h : Memory.wf s.mem) : Memory.wf (s.hostWrite k bs).mem := by
  unfold State.hostWrite
  refine foldl_wf _ (fun s e h => ?_) _ _ h
  dsimp only
  split
  · exact h
  · exact canonical_put 0 s.mem _ _ h

theorem rawWrite_wf (s : State) (core : Option Nat) (k : Nat) (bs : List Byte) (h : Memory.wf s.mem) :
    Memory.wf (s.rawWrite core k bs).mem :=
  putBytes_wf bs _ k h

theorem stopReplay_wf (s : State) (blk code index : Nat) (rrec : List Byte) (h : Memory.wf s.mem) :
    Memory.wf (s.stopReplay blk code index rrec).mem := by
  have put (s : State) (ctx va : Nat) (bs : List Byte) (h : Memory.wf s.mem) :
      Memory.wf (match s.writeVirt ctx va bs with
        | .ok s' => s'
        | .error _ => s).mem := by
    split
    · exact writeVirt_wf _ _ _ _ _ h (by assumption)
    · exact h
  unfold State.stopReplay
  split
  · exact h
  · rw [removeBlock_mem]
    exact put _ _ _ _ (put _ _ _ _ h)

theorem killAll_mem (bs : List Block) (s : State) : (bs.foldl (fun s x => s.kill x) s).mem = s.mem :=
  foldl_mem _ kill_mem _ _

theorem endBlock_wf (s : State) (b : Block) (h : Memory.wf s.mem) : Memory.wf (s.endBlock b).mem := by
  unfold State.endBlock
  grind [stopReplay_wf, killAll_mem, cancelLaunch_mem, reportFault_mem]

theorem countFaults_mem (es : List (Block × FaultEntry)) (s : State) : (es.foldl State.countFault s).mem = s.mem :=
  foldl_mem _ countFault_mem _ _

theorem fatalAll_wf (s : State) (es : List (Block × FaultEntry)) (h : Memory.wf s.mem) : Memory.wf (s.fatalAll es).mem :=
  foldl_wf _ endBlock_wf _ _ (by rwa [countFaults_mem])

theorem fatal_wf (s : State) (b : Block) (e : FaultEntry) (h : Memory.wf s.mem) : Memory.wf (s.fatal b e).mem := by
  exact fatalAll_wf _ _ h

theorem restartAll_mem (bs : List Block) (s : State) :
    (bs.foldl (fun s x =>
      let s' := s.removeBlock x.id
      { s' with blocks := NMap.insert s'.blocks x.id x.again }) s).mem = s.mem :=
  foldl_mem _ (fun s x => by simp) _ _

theorem failOperational_wf (s : State) (b : Block) (e : FaultEntry) (h : Memory.wf s.mem) :
    Memory.wf (s.failOperational b e).mem := by
  unfold State.failOperational
  grind [stopReplay_wf, killAll_mem, restartAll_mem, reportFault_mem, mapLaunch_mem, faultGrid_mem]

theorem postRequests_wf (n : Nat) : ∀ (s : State) (ctx : Nat), Memory.wf s.mem → Memory.wf (s.postRequests n ctx).mem := by
  induction n with
  | zero => exact fun _ _ h => h
  | succ n ih =>
    intro s ctx h
    unfold State.postRequests
    dsimp only
    repeat' split
    · exact h
    · exact h
    · exact h
    · exact ih _ _ (by rw [mapCtx_mem]; exact writeVirt_wf _ _ _ _ _ h (by assumption))

theorem pageRequest_wf {s t : State} {ctx va cause acc lid : Nat} {ws : List Waiter} (h : Memory.wf s.mem)
    (hp : s.pageRequest ctx va cause acc lid ws = some t) : Memory.wf t.mem := by
  unfold State.pageRequest at hp
  dsimp only at hp
  repeat' split at hp
  all_goals cases hp
  · simpa using h
  · exact postRequests_wf _ _ _ (by simpa using h)

theorem toOption_wf {ε : Type} {s : State} {o : Except ε State} (h : Memory.wf s.mem) (ho : ∀ t, o = .ok t → Memory.wf t.mem) :
    Memory.wf (o.toOption.getD s).mem := by
  cases o with
  | error e => exact h
  | ok t => exact ho t rfl

theorem getD_wf {s : State} {o : Option State} (h : Memory.wf s.mem) (ho : ∀ t, o = some t → Memory.wf t.mem) :
    Memory.wf (o.getD s).mem := by
  cases o with
  | none => exact h
  | some t => exact ho t rfl

theorem xlateFault_wf (s : State) (b : Block) (t : Thread) (tr : Trap) (acc : Nat) (with' : List Nat) (h : Memory.wf s.mem) :
    Memory.wf (s.xlateFault b t tr acc with').mem := by
  unfold State.xlateFault
  dsimp only
  split
  · exact fatal_wf _ _ _ h
  · simpa using pageRequest_wf h (by assumption)

theorem enterHandler_wf (s : State) (b : Block) (t : Thread) (tr : Trap) (h : Memory.wf s.mem) :
    Memory.wf (s.enterHandler b t tr).mem := by
  unfold State.enterHandler
  grind [fatal_wf, mapThread_mem]

theorem preemptAgain_wf (s : State) (b : Block) (t : Thread) (h : Memory.wf s.mem) : Memory.wf (s.preemptAgain b t).mem := by
  unfold State.preemptAgain
  grind [fatal_wf, mapThread_mem]

theorem takeTrap_wf (s : State) (blk tidx : Nat) (tr : Trap) (acc : Nat) (with' : List Nat) (h : Memory.wf s.mem) :
    Memory.wf (s.takeTrap blk tidx tr acc with').mem := by
  unfold State.takeTrap
  grind [xlateFault_wf, failOperational_wf, fatal_wf, enterHandler_wf, mapThread_mem]

theorem endTraps_wf (s : State) (blk : Nat) (ds : List (Nat × Trap × Nat)) (h : Memory.wf s.mem) :
    Memory.wf (s.endTraps blk ds).mem := by
  unfold State.endTraps
  split
  · exact h
  · simpa [countFaults_mem] using takeTrap_wf _ _ _ _ _ _ h

theorem serveTraps_wf (s : State) (blk : Nat) (ds : List (Nat × Trap × Nat)) (h : Memory.wf s.mem) :
    Memory.wf (s.serveTraps blk ds).mem :=
  foldl_wf _ (fun _ _ h => takeTrap_wf _ _ _ _ _ _ h) _ _ h

theorem takeTraps_wf (s : State) (blk : Nat) (ds : List (Nat × Trap × Nat)) (h : Memory.wf s.mem) :
    Memory.wf (s.takeTraps blk ds).mem := by
  unfold State.takeTraps
  grind [endTraps_wf, serveTraps_wf]

theorem completeLane_wf (s : State) (blk tidx : Nat) (pc : W32) (yld step : Bool) (h : Memory.wf s.mem) :
    Memory.wf (s.completeLane blk tidx pc yld step).mem := by
  have hp := passLane_mem s blk tidx pc yld step
  unfold State.completeLane
  split <;> rename_i he <;> rw [he] at hp
  · rwa [hp]
  · exact takeTrap_wf _ _ _ _ _ _ (by rwa [hp])

/-- What a word does to one lane keeps the canonical form. -/
def BodyKeeps (body : Bool → Env → State → LaneEnd) : Prop :=
  ∀ g e s, Memory.wf s.mem → Memory.wf (body g e s).state.mem

theorem laneOut_wf {body : Bool → Env → State → LaneEnd} (hb : BodyKeeps body) (p : Plan) (steps : List Nat) (blk : Nat)
    (s : State) (tidx : Nat) (h : Memory.wf s.mem) : Memory.wf (laneOut p body steps blk s tidx).1.mem := by
  unfold laneOut
  split
  · exact h
  rename_i b _
  split
  · exact h
  rename_i t _
  have hk := hb (t.guard p.w.grd) ⟨b, t⟩ s h
  dsimp only
  repeat' split
  any_goals simpa using h
  all_goals
    rename_i he
    rw [he] at hk
    simpa using hk

theorem runLanes_wf {body : Bool → Env → State → LaneEnd} (hb : BodyKeeps body) (p : Plan) (steps : List Nat) (blk : Nat)
    (ts : List Nat) : ∀ (ds : List (Nat × Trap × Nat)) (s : State), Memory.wf s.mem →
      Memory.wf (runLanes p body steps blk ts ds s).mem := by
  induction ts with
  | nil => exact fun ds s h => takeTraps_wf s blk ds h
  | cons t ts ih =>
    intro ds s h
    have hl := laneOut_wf hb p steps blk s t h
    unfold runLanes
    split <;> rename_i he <;> rw [he] at hl
    · exact ih _ _ hl
    · split
      · exact ih _ _ hl
      · exact ih _ _ (takeTrap_wf _ _ _ _ _ _ hl)

/-- An outcome is a next state, and its memory is in canonical form where that of the state before is. -/
def Keeps (s : State) (o : Host.Outcome State Fault Refusal) : Prop :=
  ∃ t, o = .next t ∧ (Memory.wf s.mem → Memory.wf t.mem)

theorem Keeps.next {s t : State} (h : Memory.wf s.mem → Memory.wf t.mem) : Keeps s (.next t) := ⟨t, rfl, h⟩

/-- What follows the lanes of a word keeps the canonical form. -/
def PostKeeps (post : Bundle → State → State → State) : Prop := ∀ u old s, Memory.wf s.mem → Memory.wf (post u old s).mem

theorem postKeeps_none : PostKeeps (fun _ _ s => s) := fun _ _ _ h => h

theorem runWord_keeps {p : Plan} {body : Bool → Env → State → LaneEnd} {post : Bundle → State → State → State}
    (hb : BodyKeeps body) (hp : PostKeeps post) (s : State) : Keeps s (runWord p body post s) := by
  unfold runWord
  dsimp only
  repeat' split
  · exact .next id
  · exact .next id
  · exact .next fun h => by simpa [State.endWord] using takeTraps_wf s _ _ h
  · exact .next fun h => by simpa [State.endWord] using hp _ s _ (runLanes_wf hb p _ _ _ _ s h)

theorem runAlu_keeps (i : Instr) (w : Word) (g : State → Env → Except (Nat × Nat) Res) (s : State) :
    Keeps s (runAlu i w g s) :=
  runWord_keeps (fun _ e s h => by split <;> simpa using h) postKeeps_none s

theorem runPure_keeps (i : Instr) (w : Word) (g : Env → Res) (s : State) : Keeps s (runPure i w g s) :=
  runAlu_keeps i w _ s

theorem compare_wf (s : State) (p : Replay) (b : Block) (r : TraceRec) (h : Memory.wf s.mem) :
    Memory.wf (s.compare p b r).mem := by
  unfold State.compare
  grind [stopReplay_wf, mapBlock_mem]

theorem traceWrite_wf (s : State) (ctx : Nat) (r : TraceRec) (h : Memory.wf s.mem) : Memory.wf (s.traceWrite ctx r).mem := by
  unfold State.traceWrite
  grind [writeVirt_wf, mapCtx_mem]

theorem traceRaw_wf (s : State) (blk g type : Nat) (pc : W32) (maskA maskB : W64) (obj : W32) (phase : BitVec 16) (h : Memory.wf s.mem) :
    Memory.wf (s.traceRaw blk g type pc maskA maskB obj phase).mem := by
  unfold State.traceRaw
  grind [compare_wf, traceWrite_wf]

theorem trace_wf (s : State) (blk g type : Nat) (pc : W32) (maskA maskB : W64) (obj : W32) (phase : BitVec 16) (h : Memory.wf s.mem) :
    Memory.wf (s.trace blk g type pc maskA maskB obj phase).mem := by
  unfold State.trace
  grind [traceRaw_wf]

theorem replayBranch_wf (s : State) (b : Block) (lanes : List Thread) (taken : Thread → Bool) (h : Memory.wf s.mem) :
    Memory.wf (s.replayBranch b lanes taken).mem := by
  unfold State.replayBranch
  grind [stopReplay_wf, mapBlock_mem]

theorem replayEnd_wf (s : State) (blk : Nat) (h : Memory.wf s.mem) : Memory.wf (s.replayEnd blk).mem := by
  unfold State.replayEnd
  grind [stopReplay_wf]

theorem replayStuck_wf (s : State) (blk : Nat) (held : State → Block → Thread → Bool) (h : Memory.wf s.mem) :
    Memory.wf (s.replayStuck blk held).mem := by
  unfold State.replayStuck
  grind [stopReplay_wf]

theorem releaseWaiters_wf (s : State) (blk off : Nat) (h : Memory.wf s.mem) : Memory.wf (s.releaseWaiters blk off).mem := by
  unfold State.releaseWaiters
  split
  · exact h
  · refine foldl_wf _ (fun s t h => ?_) _ _ h
    repeat' split
    · exact h
    · exact completeLane_wf _ _ _ _ _ _ (by simpa using h)
    · exact h

theorem phaseTest_wf (s : State) (blk off : Nat) (h : Memory.wf s.mem) : Memory.wf (s.phaseTest blk off).mem := by
  unfold State.phaseTest
  split
  · exact h
  dsimp only
  split
  · exact h
  · refine releaseWaiters_wf _ _ _ ?_
    rw [readyTiles_mem]
    refine foldl_wf _ (fun s g h => ?_) _ _ h
    split
    · exact trace_wf _ _ _ _ _ _ _ _ _ h
    · exact h

theorem landOn_wf (s : State) (blk off n : Nat) (h : Memory.wf s.mem) : Memory.wf (s.landOn blk off n).mem := by
  unfold State.landOn
  grind [phaseTest_wf, mapBlock_mem]

theorem exitDrops_wf (s : State) (blk tidx : Nat) (h : Memory.wf s.mem) : Memory.wf (s.exitDrops blk tidx).mem := by
  unfold State.exitDrops
  split
  · exact h
  · refine foldl_wf _ (fun s x h => ?_) _ _ h
    split
    · simpa using h
    · exact phaseTest_wf _ _ _ (by simpa using h)

theorem storeScratch_wf (s : State) (blk o : Nat) (bs : List Byte) (h : Memory.wf s.mem) :
    Memory.wf (s.storeScratch blk o bs).mem := by
  unfold State.storeScratch
  split
  · exact h
  · refine foldl_wf _ (fun s x h => ?_) _ _ (by simpa using h)
    exact releaseWaiters_wf _ _ _ (phaseTest_wf _ _ _ h)

theorem trackedFault_wf (s : State) (e : Env) (x : Section) (tr : Trap) (acc : Nat) (h : Memory.wf s.mem) :
    Memory.wf (s.trackedFault e x tr acc).mem := by
  unfold State.trackedFault
  simpa using getD_wf h (fun t ht => pageRequest_wf h ht)

theorem accessFault_wf (e : Env) (s : State) (tr : Trap) (n : Need) (h : Memory.wf s.mem) :
    Memory.wf (accessFault e s tr n).state.mem := by
  unfold accessFault
  split
  · split
    · simpa using trackedFault_wf s e _ tr _ h
    · exact h
  · exact h

theorem cctl_keeps (i : Instr) (w : Word) (n : Need) {act : State → Env → Xlat → State}
    (ha : ∀ s e x, Memory.wf s.mem → Memory.wf (act s e x).mem) (s : State) : Keeps s (cctl i w n act s) :=
  runWord_keeps (fun _ e s h => by
    dsimp only
    split
    · exact h
    · exact ha _ _ _ (by rwa [touch_mem])) postKeeps_none s

theorem atomGlobal_keeps (i : Instr) (w : Word) (c : Ctr) (kind : AtomKind) (offset : Bool) (b x : Env → Nat) (n : Nat)
    (s : State) : Keeps s (atomGlobal i w c kind offset b x n s) :=
  runWord_keeps (fun _ e s h => by
    dsimp only
    split
    · exact h
    · rwa [state_done, issueOp_mem, touch_mem]) postKeeps_none s

theorem flushRun_wf (s : State) (blk : Nat) (run : Option ArrRun) (h : Memory.wf s.mem) :
    Memory.wf (s.flushRun blk run).mem := by
  cases run with
  | none => exact h
  | some r => exact traceRaw_wf _ _ _ _ _ _ _ _ _ h

theorem applyArrive_wf (s : State) (b b1 : Block) (tidx : Nat) (k : Token) (run : Option ArrRun) (h : Memory.wf s.mem) :
    Memory.wf (s.applyArrive b b1 tidx k run).1.mem := by
  unfold State.applyArrive
  dsimp only
  split
  · exact phaseTest_wf _ _ _ (flushRun_wf _ _ _ (flushRun_wf _ _ _ (by simpa using h)))
  · exact flushRun_wf _ _ _ (by simpa using h)

theorem applyEvent_wf (s : State) (b : Block) (t : Thread) (k : Token) (run : Option ArrRun) (h : Memory.wf s.mem) :
    Memory.wf (s.applyEvent b t k run).1.mem := by
  have hf := flushRun_wf s b.id run h
  have hm := takeTrap_wf (s.flushRun b.id run) b.id t.tidx (mkTrap 0x15 0 k.pc) 0 [] hf
  have ht := flushRun_wf (s.tellAll (fun e => e.releasedBy b.id t.tidx k.op) (.phase b.id k.off (b.obj k.off).phase.toNat) 0)
    b.id run (by simpa using h)
  unfold State.applyEvent
  dsimp only
  repeat' split
  any_goals exact hm
  · exact applyArrive_wf _ _ _ _ _ _ (by simpa using h)
  · exact phaseTest_wf _ _ _ (by simpa using ht)
  · exact phaseTest_wf _ _ _ (by simpa using hf)
  · simpa using hf
  · simpa using hf
  · exact exitDrops_wf _ _ _ (by simpa using hf)

theorem applyEvents_wf (n : Nat) : ∀ (s : State) (blk : Nat) (run : Option ArrRun), Memory.wf s.mem →
    Memory.wf (State.applyEvents n s blk run).mem := by
  induction n with
  | zero => exact fun s blk run h => flushRun_wf s blk run h
  | succ n ih =>
    intro s blk run h
    unfold State.applyEvents
    dsimp only
    repeat' split
    · exact h
    · exact flushRun_wf _ _ _ h
    · exact ih _ _ _ (applyEvent_wf _ _ _ _ _ h)
    · exact flushRun_wf _ _ _ h

theorem settle_wf (s : State) (blk : Nat) (h : Memory.wf s.mem) : Memory.wf (s.settle blk).mem := by
  unfold State.settle
  grind [replayEnd_wf, applyEvents_wf]

theorem onObject_keeps (i : Instr) (w : Word) (ctr : Option Ctr) {body : Env → Nat → State → LaneEnd}
    {post : Bundle → State → State → State} (hb : ∀ e o s, Memory.wf s.mem → Memory.wf (body e o s).state.mem)
    (hp : PostKeeps post) (s : State) : Keeps s (onObject i w ctr body post s) :=
  runWord_keeps (fun _ e s h => by
    dsimp only
    split
    · exact h
    · exact hb _ _ _ h) hp s

theorem performBinit_wf (s : State) (blk tidx : Nat) (pc : W32) (off expa : Nat) (drop : Bool) (h : Memory.wf s.mem) :
    Memory.wf (s.performBinit blk tidx pc off expa drop).mem := by
  unfold State.performBinit
  grind [takeTrap_wf, mapBlock_mem, forgetObject_mem]

theorem settle_keeps : PostKeeps (fun u _ s => s.settle u.blk) := fun u _ s h => settle_wf s u.blk h

theorem ctrWord_keeps (i : Instr) (w : Word) (kind : Nat) (s : State) : Keeps s (ctrWord i w kind s) :=
  runWord_keeps (fun g e s h => by simpa using h) settle_keeps s

theorem onSlot_keeps (i : Instr) (w : Word) (ctr : Option Ctr) {body : Env → Block → Nat → Slot → State → LaneEnd}
    (hb : ∀ e ob k sl s, Memory.wf s.mem → Memory.wf (body e ob k sl s).state.mem) (s : State) :
    Keeps s (onSlot i w ctr body s) :=
  runWord_keeps (fun _ e s h => by
    split
    · exact h
    · exact hb _ _ _ _ _ h) postKeeps_none s

theorem zeroBins_wf (e : Env) (r : Region) (n : Nat) : ∀ {s t : State}, Memory.wf s.mem → s.zeroBins e r n = .ok t →
    Memory.wf t.mem := by
  induction n with
  | zero => rintro s t h ⟨⟩; exact h
  | succ n ih =>
    intro s t h ht
    unfold State.zeroBins at ht
    repeat' split at ht
    all_goals cases ht
    exact postWrite_wf _ _ _ _ _ (ih h (by assumption))

theorem coreWrite_wf (s : State) (core : Nat) (k : Nat) (bs : List Byte) (h : Memory.wf s.mem) :
    Memory.wf (s.coreWrite core k bs).mem := by
  unfold State.coreWrite
  grind [postWrite_wf]

theorem binWrite_wf (s : State) (k : Nat) (bs : List Byte) (h : Memory.wf s.mem) : Memory.wf (s.binWrite k bs).mem := by
  unfold State.binWrite
  grind [postWrite_wf]

theorem append_wf {s s' : State} {b : Block} {t : Thread} {ctx base cap : Nat} {record : List Byte} (h : Memory.wf s.mem)
    (ha : s.append b t ctx base cap record = .ok s') : Memory.wf s'.mem := by
  unfold State.append at ha
  dsimp only at ha
  repeat' split at ha
  all_goals cases ha
  · exact binWrite_wf _ _ _ h
  · exact binWrite_wf _ _ _ (binWrite_wf _ _ _ h)

theorem passAll_wf (s : State) (b : Block) (ts : List (Nat × W32 × Bool)) (h : Memory.wf s.mem) :
    Memory.wf (s.passAll b ts).mem :=
  foldl_wf _ (fun s _ h => completeLane_wf s _ _ _ _ _ h) _ _ h

theorem releaseJoin_wf (s : State) (b : Block) (g k : Nat) (h : Memory.wf s.mem) : Memory.wf (s.releaseJoin b g k).mem :=
  passAll_wf _ _ _ (by simpa using trace_wf s _ _ _ _ _ _ _ _ h)

/-- Whatever a computation answers satisfies a condition. -/
def Yields {ε α : Type} (P : α → Prop) (x : Except ε α) : Prop := ∀ a, x = .ok a → P a

theorem Yields.ok {ε α : Type} {P : α → Prop} {a : α} (h : P a) : Yields P (.ok a : Except ε α) := by
  rintro _ ⟨⟩
  exact h

theorem Yields.error {ε α : Type} {P : α → Prop} {e : ε} : Yields P (.error e : Except ε α) := by
  rintro _ ⟨⟩

theorem Yields.bind {ε α β : Type} {P : β → Prop} {x : Except ε α} {f : α → Except ε β} (h : ∀ a, Yields P (f a)) :
    Yields P (x >>= f) := by
  cases x with
  | error e => exact .error
  | ok a => exact h a

theorem Yields.map {ε α β : Type} {P : β → Prop} {Q : α → Prop} {x : Except ε α} {f : α → β} (h : Yields Q x)
    (hf : ∀ a, Q a → P (f a)) : Yields P (x.map f) := by
  cases x with
  | error e => exact .error
  | ok a => exact .ok (hf a (h a rfl))

/-- At most slots and tiles of blocks differ. -/
def SlotsOnly (s t : State) : Prop :=
  { t with blocks := s.blocks } = s ∧
    ∀ c, (t.block? c).map (fun b => (b.threads, b.decl)) = (s.block? c).map (fun b => (b.threads, b.decl))

theorem SlotsOnly.refl (s : State) : SlotsOnly s s := ⟨rfl, fun _ => rfl⟩

theorem SlotsOnly.mapBlock {s t : State} (h : SlotsOnly s t) (c : Nat) {f : Block → Block}
    (hf : ∀ b, (f b).threads = b.threads ∧ (f b).decl = b.decl) : SlotsOnly s (t.mapBlock c f) := by
  refine ⟨h.1, fun d => (Eq.trans ?_ (h.2 d))⟩
  rw [block_mapBlock]
  split
  · cases t.block? d with
    | none => rfl
    | some b => exact congrArg some (Prod.ext (hf b).1 (hf b).2)
  · rfl

theorem SlotsOnly.foldl {α : Type} {s : State} {f : State → α → State} (hf : ∀ t x, SlotsOnly s t → SlotsOnly s (f t x)) (l : List α) {t : State}
    (h : SlotsOnly s t) : SlotsOnly s (l.foldl f t) := by
  induction l generalizing t with
  | nil => exact h
  | cons x l ih => exact ih (hf t x h)

theorem SlotsOnly.claimSlot {s t : State} (h : SlotsOnly s t) (blk : Nat) (slot : Option Nat) (st : BitVec 2) :
    SlotsOnly s (t.claimSlot blk slot st) := by
  cases slot with
  | none => exact h
  | some k => exact h.mapBlock blk (fun _ => ⟨rfl, rfl⟩)

/-- What the elected lane issues changes slots and tiles alone. -/
def IssuedQuiet (s : State) (x : Issued) : Prop := SlotsOnly s x.1

theorem issueCpy_quiet (w : Word) (e : Env) (s : State) : Yields (IssuedQuiet s) (issueCpy w e s) := by
  unfold issueCpy
  iterate 4 refine .bind fun _ => ?_
  dsimp only
  split
  · iterate 2 refine .bind fun _ => ?_
    exact .ok (.refl s)
  · refine .bind fun _ => ?_
    exact .ok ((SlotsOnly.refl s).claimSlot _ _ _)

theorem issueCpym_quiet (w : Word) (e : Env) (s : State) : Yields (IssuedQuiet s) (issueCpym w e s) := by
  unfold issueCpym
  iterate 5 refine .bind fun _ => ?_
  exact .ok (SlotsOnly.foldl (fun _ _ h => h.claimSlot _ _ _) _ (.refl s))

theorem issueShf_quiet (w : Word) (e : Env) (s : State) : Yields (IssuedQuiet s) (issueShf w e s) := by
  unfold issueShf
  iterate 2 refine .bind fun _ => ?_
  dsimp only
  split
  · exact .error
  · iterate 3 refine .bind fun _ => ?_
    exact .ok (.refl s)

theorem issueWnw_quiet (w : Word) (e : Env) (s : State) : Yields (IssuedQuiet s) (issueWnw w e s) := by
  unfold issueWnw
  iterate 9 refine .bind fun _ => ?_
  exact .ok (.refl s)

theorem issueGln_quiet (w : Word) (e : Env) (s : State) : Yields (IssuedQuiet s) (issueGln w e s) := by
  unfold issueGln
  iterate 9 refine .bind fun _ => ?_
  exact .ok (SlotsOnly.foldl (fun _ _ h => by exact h.mapBlock _ (fun _ => ⟨rfl, rfl⟩)) _ (.refl s))

theorem issueAdrn_quiet (w : Word) (e : Env) (s : State) :
    Yields (fun o => ∀ x, o = some x → IssuedQuiet s x) (issueAdrn w e s) := by
  unfold issueAdrn
  iterate 3 refine .bind fun _ => ?_
  dsimp only
  split
  · exact .error
  · iterate 5 refine .bind fun _ => ?_
    split
    · exact .ok (fun _ h => by cases h)
    · refine .bind fun _ => .ok ?_
      rintro _ ⟨⟩
      exact (SlotsOnly.refl s).mapBlock _ (fun _ => ⟨rfl, rfl⟩)

theorem engineIssue_slots {m : Meet} {w : Word} {e : Env} {s : State} {y : Issued} (h : engineIssue m w e s = .ok (some y)) :
    SlotsOnly s y.1 := by
  have lift {x : Except Trap Issued} (hx : Yields (IssuedQuiet s) x) :
      Yields (fun o => ∀ y, o = some y → IssuedQuiet s y) (x.map some) :=
    hx.map (fun a ha y hy => by cases hy; exact ha)
  have hall : Yields (fun o => ∀ y, o = some y → IssuedQuiet s y) (engineIssue m w e s) := by
    cases m with
    | adrn => exact issueAdrn_quiet w e s
    | cpy => exact lift (issueCpy_quiet w e s)
    | cpym => exact lift (issueCpym_quiet w e s)
    | shf => exact lift (issueShf_quiet w e s)
    | wnw => exact lift (issueWnw_quiet w e s)
    | gln => exact lift (issueGln_quiet w e s)
    | _ => exact .ok (fun _ h => by cases h)
  exact hall _ h y rfl

theorem engineIssue_mem {m : Meet} {w : Word} {e : Env} {s : State} {y : Issued} (h : engineIssue m w e s = .ok (some y)) :
    y.1.mem = s.mem := (congrArg State.mem (engineIssue_slots h).1 :)

theorem releaseEngine_wf (s : State) (b : Block) (a : Arrival) (r : List Arrival) (h : Memory.wf s.mem) :
    Memory.wf (s.releaseEngine b a r).mem := by
  unfold State.releaseEngine
  dsimp only
  repeat' split
  · exact passAll_wf _ _ _ h
  · exact passAll_wf _ _ _ h
  · exact passAll_wf _ _ _ (by rw [queueCmd_mem, engineIssue_mem (by assumption)]; exact h)
  · exact takeTrap_wf _ _ _ _ _ _ h
  · exact takeTrap_wf _ _ _ _ _ _ (passAll_wf _ _ _ h)

theorem release_wf (s : State) (b : Block) (g : Nat) (r : List Arrival) (h : Memory.wf s.mem) :
    Memory.wf (s.release b g r).mem := by
  unfold State.release
  split
  · exact h
  · extract_lets mask s0 s1
    have h0 : Memory.wf s0.mem := by
      unfold s0
      split
      · exact trace_wf _ _ _ _ _ _ _ _ _ h
      · exact h
    have h1 : Memory.wf s1.mem := by simpa [s1] using h0
    split
    · exact passAll_wf _ _ _ (by simpa using h1)
    · exact releaseEngine_wf _ _ _ _ h1

theorem releaseOne_wf {s t : State} {b : Block} {g : Nat} (h : Memory.wf s.mem) (ht : s.releaseOne b g = some t) :
    Memory.wf t.mem := by
  unfold State.releaseOne at ht
  split at ht
  · cases ht
    exact releaseJoin_wf _ _ _ _ h
  · obtain ⟨r, -, rfl⟩ := Option.map_eq_some_iff.1 ht
    exact release_wf _ _ _ _ h

theorem reexamine_wf (n : Nat) : ∀ (s : State) (blk g : Nat), Memory.wf s.mem → Memory.wf (s.reexamine n blk g).mem := by
  induction n with
  | zero => exact fun _ _ _ h => h
  | succ n ih =>
    intro s blk g h
    unfold State.reexamine
    repeat' split
    · exact h
    · exact h
    · exact ih _ _ _ (releaseOne_wf h (by assumption))

theorem settled_wf (s : State) (blk tidx : Nat) (h : Memory.wf s.mem) : Memory.wf (s.settled blk tidx).mem := by
  unfold State.settled
  grind [reexamine_wf, settle_wf]

theorem reexamineAfter_keeps : PostKeeps reexamineAfter := by
  intro u old s h
  unfold reexamineAfter
  split
  · exact h
  · exact foldl_wf _ (fun s g h => reexamine_wf 64 s u.blk g h) _ _ h

theorem meetWord_keeps (m : Meet) (i : Instr) (w : Word) (s : State) : Keeps s (meetWord m i w s) :=
  runWord_keeps (fun _ e s h => by split <;> simpa using h) reexamineAfter_keeps s

theorem engineWord_keeps (m : Meet) (i : Instr) (w : Word) (s : State) : Keeps s (engineWord m i w s) :=
  runWord_keeps (fun _ e s h => by split <;> simpa using h) reexamineAfter_keeps s

theorem divTrace_keeps (i : Instr) (w : Word) (target : Target') : PostKeeps (divTrace i w target) := by
  intro u old s h
  unfold divTrace
  dsimp only
  repeat' split
  · exact h
  · exact replayBranch_wf _ _ _ _ h
  · refine foldl_wf _ (fun s g h => ?_) _ _ h
    split
    · exact h
    · exact traceRaw_wf _ _ _ _ _ _ _ _ _ h

theorem branch_keeps (i : Instr) (w : Word) (link : Bool) (target : Target') (s : State) : Keeps s (branch i w link target s) :=
  runWord_keeps (fun _ e s h => by
    dsimp only
    split <;> simpa using h) (divTrace_keeps i w target) s

theorem endThread_wf (s : State) (b : Block) (tidx : Nat) (h : Memory.wf s.mem) : Memory.wf (s.endThread b tidx).mem := by
  unfold State.endThread
  dsimp only
  refine reexamine_wf _ _ _ _ (settle_wf _ _ ?_)
  split <;> simpa using h

theorem eretLane_wf (s : State) (e : Env) (h : Memory.wf s.mem) : Memory.wf (s.eretLane e).state.mem := by
  unfold State.eretLane
  dsimp only
  repeat' split
  · exact h
  · exact preemptAgain_wf _ _ _ h
  · simpa using h
  · simpa using h

theorem acquireLines_wf (s : State) (core : Nat) (r : Region) (h : Memory.wf s.mem) :
    Memory.wf (s.acquireLines core r).mem := by
  unfold State.acquireLines
  grind [dropMsc_wf, dropLines_mem, dropOpen_mem]

theorem commitSection_wf (s : State) (x : Section) (h : Memory.wf s.mem) : Memory.wf (s.commitSection x).mem := by
  unfold State.commitSection
  refine foldl_wf _ (fun s x h => ?_) _ _ h
  grind [rawWrite_wf, note_mem, credit_mem]

theorem deliverAbort_wf (s : State) (b : Block) (t : Thread) (x : Section) (h : Memory.wf s.mem) :
    Memory.wf (s.deliverAbort b t x).mem := by
  unfold State.deliverAbort
  grind [takeTrap_wf, mapThread_mem, deliverSection_mem]

theorem descError_wf (s : State) (q bits : Nat) (h : Memory.wf s.mem) : Memory.wf (s.descError q bits).mem := by
  unfold State.descError
  grind [write_wf]

theorem haltQueue_wf (s : State) (q : Nat) (h : Memory.wf s.mem) : Memory.wf (s.haltQueue q).mem := by
  unfold State.haltQueue
  grind [descError_wf, mapQueue_mem]

theorem markDevqs_wf (s : State) (ctx : Nat) (h : Memory.wf s.mem) : Memory.wf (s.markDevqs ctx).mem := by
  unfold State.markDevqs
  split
  · exact h
  · refine foldl_wf _ (fun s x h => ?_) _ _ h
    grind [descError_wf]

theorem deviceWrite_wf {s : State} {ctx lid va : Nat} {bs : List Byte} {w : Waiter} {bad : Option Nat} (h : Memory.wf s.mem) :
    (∀ t, s.deviceWrite ctx lid va bs w bad = .made t → Memory.wf t.mem) ∧
    ∀ t, s.deviceWrite ctx lid va bs w bad = .waits t → Memory.wf t.mem := by
  unfold State.deviceWrite
  constructor <;> intro t ht <;> repeat' split at ht
  all_goals cases ht
  · exact writeVirt_wf _ _ _ _ _ h (by assumption)
  · exact h
  · exact pageRequest_wf h (by assumption)

theorem setBit_wf (s : State) (lid : Nat) (bad : Option Nat) (i : Nat) (h : Memory.wf s.mem) :
    Memory.wf (s.setBit lid bad i).mem := by
  unfold State.setBit
  dsimp only
  repeat' split
  · exact h
  · simpa using h
  · simpa using (deviceWrite_wf h).1 _ (by assumption)
  · exact (deviceWrite_wf h).2 _ (by assumption)
  · simpa using h

theorem flushBits_wf (s : State) (lid : Nat) (bad : Option Nat) (h : Memory.wf s.mem) :
    Memory.wf (s.flushBits lid bad).mem := by
  unfold State.flushBits
  split
  · exact h
  · exact foldl_wf _ (fun s i h => setBit_wf s lid bad i h) _ _ h

theorem flushQueue_wf (n : Nat) : ∀ (s : State) (q : Nat) (bad : Option Nat), Memory.wf s.mem →
    Memory.wf (s.flushQueue n q bad).mem := by
  induction n with
  | zero => exact fun _ _ _ h => h
  | succ n ih =>
    intro s q bad h
    unfold State.flushQueue
    dsimp only
    repeat' split
    · exact h
    · simpa using h
    · exact h
    · exact (deviceWrite_wf h).2 _ (by assumption)
    · simpa using haltQueue_wf s q h
    · exact ih _ _ _ (write_wf _ _ _ _ (by simpa using (deviceWrite_wf h).1 _ (by assumption)))

theorem flushRing_wf (s : State) (q : Nat) (bad : Option Nat) (h : Memory.wf s.mem) : Memory.wf (s.flushRing q bad).mem := by
  unfold State.flushRing
  grind [flushQueue_wf]

theorem ringRecord_wf (s : State) (q : Option Nat) (r : List Byte) (bad : Option Nat) (h : Memory.wf s.mem) :
    Memory.wf (s.ringRecord q r bad).mem := by
  unfold State.ringRecord
  split
  · exact h
  · refine flushRing_wf _ _ _ ?_
    rw [mapQueue_mem]
    split
    · exact getD_wf h (fun t ht => by rwa [readDesc_mem ht])
    · exact h

theorem summarise_wf (s : State) (r : Report) (bad : Option Nat) (h : Memory.wf s.mem) : Memory.wf (s.summarise r bad).mem := by
  unfold State.summarise
  dsimp only
  repeat' split
  · simpa using h
  · exact (deviceWrite_wf h).2 _ (by assumption)
  · simpa using h
  · simpa using (deviceWrite_wf h).1 _ (by assumption)

theorem reportRecord_wf (s : State) (r : Report) (bad : Option Nat) (h : Memory.wf s.mem) :
    Memory.wf (s.reportRecord r bad).mem := by
  unfold State.reportRecord
  dsimp only
  repeat' split
  · exact ringRecord_wf _ _ _ _ h
  · exact (deviceWrite_wf h).2 _ (by assumption)
  · exact ringRecord_wf _ _ _ _ h
  · rename_i hd _ s2 hw
    have h2 : Memory.wf s2.mem := writeVirt_wf _ _ _ _ _ ((deviceWrite_wf h).1 _ hd) hw
    exact h2
  · rename_i s1 hd _ _ _
    have h1 : Memory.wf s1.mem := (deviceWrite_wf h).1 _ hd
    exact h1

theorem advanceReport_wf (s : State) (id : Nat) (bad : Option Nat) (h : Memory.wf s.mem) :
    Memory.wf (s.advanceReport id bad).mem := by
  unfold State.advanceReport
  grind [summarise_wf, reportRecord_wf]

theorem refuseEntry_wf (s : State) (q ctx reason : Nat) (h : Memory.wf s.mem) : Memory.wf (s.refuseEntry q ctx reason).mem := by
  unfold State.refuseEntry
  grind [advanceReport_wf]

theorem finishLaunch_wf (s : State) (l : Launch) (writes : Bool) (h : Memory.wf s.mem) :
    Memory.wf (s.finishLaunch l writes).mem := by
  unfold State.finishLaunch
  grind [advanceReport_wf, mapLaunch_mem]

theorem decideEnd_wf (s : State) (lid : Nat) (h : Memory.wf s.mem) : Memory.wf (s.decideEnd lid).mem := by
  unfold State.decideEnd
  grind [finishLaunch_wf, mapLaunch_mem]

theorem settleLaunches_wf (s : State) (h : Memory.wf s.mem) : Memory.wf (s.settleLaunches).mem := by
  unfold State.settleLaunches
  refine foldl_wf _ (fun s x h => ?_) _ _ h
  grind [decideEnd_wf, flushBits_wf]

theorem cancelBy_wf (s : State) (ctx lid : Nat) (kill : Bool) (h : Memory.wf s.mem) :
    Memory.wf (s.cancelBy ctx lid kill).2.mem := by
  unfold State.cancelBy
  dsimp only
  repeat' split
  any_goals exact h
  exact decideEnd_wf _ _ (flushBits_wf _ _ _ (by simpa using h))

theorem queueRead_wf {s t : State} {q ctx : Nat} {ps : List (Nat × Nat)} {bad : Option Nat} (h : Memory.wf s.mem)
    (ht : s.queueRead q ctx ps bad = .waits t) : Memory.wf t.mem := by
  unfold State.queueRead at ht
  repeat' split at ht
  all_goals cases ht
  simpa using pageRequest_wf h (by assumption)

theorem advanceQueue_wf (s : State) (q : Nat) (h : Memory.wf s.mem) : Memory.wf (s.advanceQueue q).mem := by
  unfold State.advanceQueue
  grind [write_wf, mapQueue_mem]

theorem takeRecord_wf (s : State) (q ctx addr : Nat) (bad : Option Nat) (h : Memory.wf s.mem) :
    Memory.wf (s.takeRecord q ctx addr bad).mem := by
  unfold State.takeRecord
  grind [advanceQueue_wf, refuseEntry_wf, queueRead_wf, mapQueue_mem, forward_mem, accept_mem]

theorem serveEntry_wf (s : State) (q : Nat) (only bad : Option Nat) (h : Memory.wf s.mem) :
    Memory.wf (s.serveEntry q only bad).mem := by
  unfold State.serveEntry
  grind [queueRead_wf, haltQueue_wf, advanceQueue_wf, descError_wf, refuseEntry_wf, takeRecord_wf, cancelBy_wf, handQueue_mem]

theorem podAnswer_wf (s : State) (r : PodRec) (lid reason : Nat) (h : Memory.wf s.mem) :
    Memory.wf (s.podAnswer r lid reason).mem := by
  unfold State.podAnswer
  grind [refuseEntry_wf, advanceQueue_wf, mapQueue_mem, answer_mem, handOn_mem]

theorem acceptPod_wf (s : State) (x : PodRec) (h : Memory.wf s.mem) : Memory.wf (s.acceptPod x).mem := by
  unfold State.acceptPod
  dsimp only
  split
  · exact podAnswer_wf _ _ _ _ (by simpa [takeOutbox_mem (by assumption)] using h)
  · simpa using h

theorem acceptHeld_wf (n : Nat) : ∀ s : State, Memory.wf s.mem → Memory.wf (State.acceptHeld n s).mem := by
  induction n with
  | zero => exact fun _ h => h
  | succ n ih =>
    intro s h
    unfold State.acceptHeld
    repeat' split
    · exact h
    · exact h
    · exact ih _ (acceptPod_wf _ _ h)

theorem acceptPods_wf (s : State) (h : Memory.wf s.mem) : Memory.wf (s.acceptPods).mem := by
  exact acceptHeld_wf _ _ h

theorem receivePod_wf (s : State) (x : PodRec) (h : Memory.wf s.mem) : Memory.wf (s.receivePod x).mem := by
  unfold State.receivePod
  grind [acceptPods_wf]

theorem visitQueue_wf (s : State) (q : Nat) (h : Memory.wf s.mem) : Memory.wf (s.visitQueue q).mem := by
  unfold State.visitQueue
  grind [serveEntry_wf, takeRequests_mem]

theorem round_wf (s : State) (h : Memory.wf s.mem) : Memory.wf s.round.mem := by
  unfold State.round
  refine acceptPods_wf _ ?_
  rw [foldl_mem _ takeRequests_mem]
  exact foldl_wf _ visitQueue_wf _ _ h

theorem doorbell_wf (s : State) (q : Nat) (v : W64) (size : List Byte → Nat) {go : State → Nat → State}
    (hg : ∀ s n, Memory.wf s.mem → Memory.wf (go s n).mem) (h : Memory.wf s.mem) : Memory.wf (s.doorbell q v size go).mem := by
  unfold State.doorbell
  dsimp only
  repeat' split
  · exact h
  · exact h
  · exact haltQueue_wf _ _ h
  · exact haltQueue_wf _ _ (by rwa [readDesc_mem (by assumption)])
  · exact flushRing_wf _ _ _ (markDevqs_wf _ _ (hg _ _ (by rwa [readDesc_mem (by assumption)])))

theorem lctl_keeps (i : Instr) (w : Word) {op : State → Nat → Nat → Nat × State}
    (ho : ∀ s ctx n, Memory.wf s.mem → Memory.wf (op s ctx n).2.mem) (s : State) : Keeps s (lctl i w op s) :=
  runWord_keeps (fun _ e s h => by simpa using ho s _ _ h) postKeeps_none s

theorem endPrologue_wf (s : State) (blk lid passes : Nat) (h : Memory.wf s.mem) :
    Memory.wf (s.endPrologue blk lid passes).mem := by
  unfold State.endPrologue
  grind [decideEnd_wf, flushBits_wf, removeBlock_mem, cancelLaunch_mem, faultGrid_mem, mapLaunch_mem]

theorem lend_keeps (i : Instr) (w : Word) (passes : Env → Nat) (s : State) : Keeps s (lend i w passes s) :=
  runWord_keeps (fun _ e s h => by simpa using endPrologue_wf s _ _ _ h) postKeeps_none s

theorem addFaults_mem {f : State → Block → Launch → Launch} (lid : Nat) (bs : List Block) (s : State) :
    (bs.foldl (fun s x => s.mapLaunch lid (f s x)) s).mem = s.mem :=
  foldl_mem _ (fun _ _ => mapLaunch_mem _ _ _) _ _

theorem tellKills_mem (bs : List Block) (s : State) : (bs.foldl (fun s x => s.tell x.cluster 2 x.id) s).mem = s.mem :=
  foldl_mem _ (fun s x => tell_mem s _ _ _) _ _

theorem loseInstance_wf (s : State) (reason : Nat) (item : List Block) (h : Memory.wf s.mem) :
    Memory.wf (s.loseInstance reason item).mem := by
  unfold State.loseInstance
  dsimp only
  repeat' split
  · exact h
  · exact stopReplay_wf _ _ _ _ _ (by rwa [tellKills_mem])
  · rwa [foldl_mem _ (fun _ _ => mapLaunch_mem _ _ _), restartAll_mem, tellKills_mem]
  · rwa [foldl_mem _ (fun _ _ => mapLaunch_mem _ _ _), killAll_mem, tellKills_mem]
  · rwa [cancelLaunch_mem, foldl_mem _ (fun _ _ => mapLaunch_mem _ _ _), killAll_mem, tellKills_mem]

theorem failCluster_wf (s : State) (c reason : Nat) (h : Memory.wf s.mem) : Memory.wf (s.failCluster c reason).mem := by
  unfold State.failCluster
  split
  · exact h
  · extract_lets fw told items s1 s2
    have h1 : Memory.wf s1.mem := by
      unfold s1
      rw [remap_mem]
      exact foldl_wf _ (fun s x h => loseInstance_wf s reason x h) _ _ h
    have h2 : s2.mem = s1.mem := by
      unfold s2
      split <;> simp
    exact settleLaunches_wf _ (by rwa [settlePlaces_mem, h2])

theorem parityError_wf (s : State) (c : Nat) (h : Memory.wf s.mem) : Memory.wf (s.parityError c).mem := by
  unfold State.parityError
  grind [failCluster_wf, mapCluster_mem]

theorem linkError_wf (s : State) (c : Nat) (h : Memory.wf s.mem) : Memory.wf (s.linkError c).mem := by
  unfold State.linkError
  grind [failCluster_wf, mapCluster_mem]

theorem fetchFault_wf (s : State) (u : Bundle) (lanes : List Nat) (va cause detail : Nat) (h : Memory.wf s.mem) :
    Memory.wf (s.fetchFault u lanes va cause detail).mem := by
  unfold State.fetchFault
  grind [takeTraps_wf]

theorem parityUpset_wf (s : State) (u : Bundle) (b : Block) (h : Memory.wf s.mem) : Memory.wf (s.parityUpset u b).mem := by
  unfold State.parityUpset
  grind [takeTrap_wf, parityError_wf, mapCluster_mem]

theorem upset_wf (s : State) (u : Bundle) (b : Block) (h : Memory.wf s.mem) : Memory.wf (s.upset u b).mem := by
  unfold State.upset
  grind [parityUpset_wf, mapCluster_mem]

theorem steer_wf (s : State) (h : Memory.wf s.mem) : Memory.wf (s.steer).mem := by
  unfold State.steer
  refine foldl_wf _ (fun s x h => ?_) _ _ h
  grind [replayStuck_wf]

theorem evictMsc_wf (s : State) (h : Memory.wf s.mem) : Memory.wf (s.evictMsc).mem := by
  unfold State.evictMsc
  grind [dropMsc_wf]

theorem cycle_wf (s : State) (core sched : Nat) (h : Memory.wf s.mem) : Memory.wf (s.cycle core sched).mem := by
  unfold State.cycle
  grind [evictMsc_wf, steer_wf, upset_wf, account_mem, peek_mem, expireYields_mem, countYields_mem, issueRun_mem]

theorem walkFault_wf (s : State) (ctx page cause detail : Nat) (who : Block → Thread → Bool) (h : Memory.wf s.mem) :
    Memory.wf (s.walkFault ctx page cause detail who).mem := by
  unfold State.walkFault
  refine foldl_wf _ (fun s b h => ?_) _ _ h
  dsimp only
  split
  · exact h
  · refine foldl_wf _ (fun s t h => ?_) _ _ h
    split
    · exact takeTrap_wf _ _ _ _ _ _ h
    · exact h

theorem storeAt_wf (s : State) (core : Option Nat) (loc : Loc) (bs : List Byte) (h : Memory.wf s.mem) :
    Memory.wf (s.storeAt core loc bs).mem := by
  unfold State.storeAt
  grind [write_wf, storeScratch_wf, note_mem]

theorem performAtom_wf (s : State) (b : Block) (t : Thread) (op : Nat) (loc : Loc) (kind : AtomKind) (v c sc : Nat) (mrg : Bool) (dst : List (Option Nat)) (read : Option Nat) (h : Memory.wf s.mem) :
    Memory.wf (s.performAtom b t op loc kind v c sc mrg dst read).mem := by
  unfold State.performAtom
  grind [storeAt_wf, combined_mem, credit_mem, mapThread_mem, scEffect_mem]

theorem addGrad_wf (s : State) (b : Block) (tidx op : Nat) (g : Grad) (read : Option Nat) (h : Memory.wf s.mem) :
    Memory.wf (s.addGrad b tidx op g read).mem := by
  unfold State.addGrad
  grind [storeAt_wf, combined_mem, credit_mem]

theorem oneGrad_wf (s : State) (b : Block) (t : Thread) (op : Nat) (adds : List Grad) (i : Nat) (read : Option Nat) (h : Memory.wf s.mem) :
    Memory.wf (s.oneGrad b t op adds i read).mem := by
  unfold State.oneGrad
  grind [addGrad_wf, setAct_mem]

theorem foldl_snd_mem {α β : Type} (f : α × State → β → α × State) (hf : ∀ a x, (f a x).2.mem = a.2.mem) (l : List β) :
    ∀ a, (l.foldl f a).2.mem = a.2.mem := by
  induction l with
  | nil => exact fun _ => rfl
  | cons x l ih => exact fun a => (ih _).trans (hf a x)

theorem performAct_wf (s : State) (b : Block) (t : Thread) (p : Pend) (h : Memory.wf s.mem) :
    Memory.wf (s.performAct b t p).mem := by
  unfold State.performAct
  dsimp only
  split
  case h_1 => simpa using h
  case h_2 => simpa using h
  case h_3 =>
    rw [credit_mem, cleanAll_mem]
    exact foldl_wf _ (fun s x h => storeAt_wf s _ _ _ h) _ _ h
  case h_4 => exact performAtom_wf _ _ _ _ _ _ _ _ _ _ _ _ h
  case h_5 => exact oneGrad_wf _ _ _ _ _ _ _ h
  case h_6 => simpa using h
  case h_7 =>
    rw [mapThread_mem, foldl_snd_mem]
    · exact h
    · exact fun _ _ => loadPlaces_mem _ _ _ _ _
  case h_8 => exact performBinit_wf _ _ _ _ _ _ _ h
  case h_9 => exact toOption_wf h (fun t ht => append_wf h ht)
  all_goals exact h

theorem finishAct_wf (s : State) (b : Block) (t : Thread) (p : Pend) (left : Option Act) (h : Memory.wf s.mem) :
    Memory.wf (s.finishAct b t p left).mem := by
  unfold State.finishAct
  grind [settled_wf, setAct_mem, finishOp_mem]

theorem appendFault_wf (s : State) (b : Block) (t : Thread) (p : Pend) (va cause detail : Nat) (h : Memory.wf s.mem) :
    Memory.wf (s.appendFault b t p va cause detail).mem := by
  unfold State.appendFault
  grind [fatal_wf, pageRequest_wf, deschedule_mem]

theorem perform_wf (s : State) (b : Block) (t : Thread) (p : Pend) (h : Memory.wf s.mem) : Memory.wf (s.perform b t p).mem := by
  unfold State.perform
  grind [takeTrap_wf, appendFault_wf, performAct_wf, finishAct_wf, carry_mem, sawAll_mem]

theorem performEvent_keeps (kind : Pend → Bool) (blk tidx op : Nat) (s : State) :
    Keeps s (performEvent kind blk tidx op s) := by
  unfold performEvent
  split
  · exact .next fun h => perform_wf _ _ _ _ h
  · exact .next id

theorem portRead_keeps (lo blk tidx op : Nat) (s : State) : Keeps s (portRead lo blk tidx op s) := by
  unfold portRead
  split
  · split
    · refine .next fun h => ?_
      rw [tick_mem]
      split
      · exact perform_wf _ _ _ _ (by simpa using h)
      · simpa using h
    · exact .next id
  · exact .next id

theorem engineFault_wf (s : State) (c : Cmd) (e : EngErr) (h : Memory.wf s.mem) : Memory.wf (s.engineFault c e).mem := by
  unfold State.engineFault
  grind [failOperational_wf, fatal_wf, dropCmd_mem]

theorem engineMiss_wf {s t : State} {c : Cmd} {e : EngErr} (h : Memory.wf s.mem) (ht : s.engineMiss c e = some t) :
    Memory.wf t.mem :=
  pageRequest_wf h ht

theorem engineError_wf (s : State) (c : Cmd) (e : EngErr) (h : Memory.wf s.mem) : Memory.wf (s.engineError c e).mem := by
  have hf := engineFault_wf s c e h
  unfold State.engineError
  split
  · exact hf
  · exact getD_wf hf (fun t ht => engineMiss_wf h ht)

theorem engineByte_wf (s : State) (path : Path) (k : Nat) (bs : List Byte) (h : Memory.wf s.mem) :
    Memory.wf (s.engineByte path k bs).mem := by
  unfold State.engineByte
  grind [write_wf, postWrite_wf, note_mem]

theorem engineWrite_wf (s : State) (c : Cmd) (ws : List (Nat × List Byte)) (h : Memory.wf s.mem) :
    Memory.wf (s.engineWrite c ws).mem := by
  unfold State.engineWrite
  rw [creditCmd_mem, cleanAll_mem]
  exact foldl_wf _ (fun s w h => engineByte_wf s _ _ _ h) _ _ h

theorem engineArrive_wf (s : State) (c : Cmd) (bar : Nat) (h : Memory.wf s.mem) : Memory.wf (s.engineArrive c bar).mem := by
  unfold State.engineArrive
  grind [fatal_wf, phaseTest_wf, mapBlock_mem, countLanding_mem]

theorem landElem_wf (s : State) (blk off : Nat) (bs : List Byte) (h : Memory.wf s.mem) :
    Memory.wf (s.landElem blk off bs).mem := by
  unfold State.landElem
  grind [storeScratch_wf, note_mem]

theorem movePiece_wf {s t : State} {c : Cmd} {dir : Nat} {r : Shape} {org : List Int} {dst : Nat} {allFill : Bool} {g : Target}
    {is : List Nat} {out : List (List Byte)} (h : Memory.wf s.mem)
    (ht : s.movePiece c dir r org dst allFill g is = .ok (t, out)) : Memory.wf t.mem := by
  unfold State.movePiece at ht
  dsimp only at ht
  repeat' split at ht
  all_goals cases ht
  · exact engineWrite_wf _ _ _ h
  · simpa using foldl_wf _ (fun s e h => landElem_wf s _ _ _ h) _ _ h
  · exact engineWrite_wf _ _ _ h

theorem drainOne_wf (s : State) (c : Cmd) (sl : Slot) (op : Nat) (alpha : W32) (x : (Nat × Nat) × Nat) (h : Memory.wf s.mem) :
    Memory.wf (s.drainOne c sl op alpha x).1.mem :=
  engineWrite_wf _ _ _ h

theorem drainCells_wf (c : Cmd) (sl : Slot) (op : Nat) (alpha : W32) (xs : List ((Nat × Nat) × Nat)) :
    ∀ (s : State) (f : W32), Memory.wf s.mem → Memory.wf (State.drainCells c sl op alpha xs s f).1.mem := by
  induction xs with
  | nil => exact fun _ _ h => h
  | cons x xs ih => exact fun s f h => ih _ _ (drainOne_wf s c sl op alpha x h)

theorem writeRun_wf (s : State) (c : Cmd) (x : Replayed) (run : Nat × Nat) (h : Memory.wf s.mem) :
    Memory.wf (s.writeRun c x run).mem := by
  unfold State.writeRun
  grind [engineWrite_wf]

theorem resetBin_wf (s : State) (c : Cmd) (x : Replayed) (h : Memory.wf s.mem) : Memory.wf (s.resetBin c x).mem := by
  unfold State.resetBin
  grind [engineWrite_wf]

theorem writeSpan_wf {s t : State} {c : Cmd} {va : Nat} {bs : List Byte} (h : Memory.wf s.mem)
    (ht : s.writeSpan c va bs = .ok t) : Memory.wf t.mem := by
  unfold State.writeSpan at ht
  cases he : eachOk (fun (p : Nat × Nat) => (s.engineAt c p.1 Need.store).map (fun k => (k, (bs.drop (p.1 - va)).take p.2)))
    (pageSpans va bs.length) with
  | error e => rw [he] at ht; cases ht
  | ok ws => rw [he] at ht; cases ht; exact engineWrite_wf _ _ _ h

theorem writeSpans_wf (c : Cmd) (ws : List (Nat × List Byte)) : ∀ {s t : State}, Memory.wf s.mem →
    s.writeSpans c ws = .ok t → Memory.wf t.mem := by
  induction ws with
  | nil => rintro s t h ⟨⟩; exact h
  | cons w ws ih =>
    intro s t h ht
    unfold State.writeSpans at ht
    split at ht
    · cases ht
    · exact ih (writeSpan_wf h (by assumption)) ht

theorem collStatus_wf (s : State) (c : Cmd) (r : CollRec) (status : Nat) (e : EngErr) (h : Memory.wf s.mem) :
    Memory.wf (s.collStatus c r status e).mem :=
  toOption_wf h (fun _ ht => writeSpan_wf h ht)

theorem collFault_wf (s : State) (c : Cmd) (r : CollRec) (status : Nat) (e : EngErr) (h : Memory.wf s.mem) :
    Memory.wf (s.collFault c r status e).mem := by
  unfold State.collFault
  grind [engineFault_wf, collStatus_wf]

theorem commandFault_wf (s : State) (c : Cmd) (e : EngErr) (h : Memory.wf s.mem) : Memory.wf (s.commandFault c e).mem := by
  unfold State.commandFault
  grind [collFault_wf, engineFault_wf]

theorem stopCommand_wf (s : State) (c : Cmd) (e : EngErr) (h : Memory.wf s.mem) : Memory.wf (s.stopCommand c e).mem := by
  unfold State.stopCommand
  grind [collStatus_wf, dropCmd_mem]

theorem collError_wf (s : State) (c : Cmd) (e : EngErr) (h : Memory.wf s.mem) : Memory.wf (s.collError c e).mem := by
  have hf := commandFault_wf s c e h
  unfold State.collError
  split
  · exact hf
  · exact getD_wf hf (fun t ht => engineMiss_wf h ht)

theorem collDone_wf (s : State) (c : Cmd) (r : CollRec) (status bar flags : Nat) (h : Memory.wf s.mem) :
    Memory.wf (s.collDone c r status bar flags).mem := by
  cases hw : s.writeSpan c status (r.statusBytes flags) with
  | error e =>
    rw [State.collDone, hw]
    exact collError_wf _ _ _ h
  | ok t =>
    rw [State.collDone, hw]
    refine engineArrive_wf _ _ _ ?_
    rw [dropCmd_mem]
    exact writeSpan_wf h hw

theorem commitUpdate_wf {s t : State} {c : Cmd} {r : CollRec} (h : Memory.wf s.mem) (ht : s.commitUpdate c r = .ok t) :
    Memory.wf t.mem := by
  have hall : Yields (fun t => Memory.wf t.mem) (s.commitUpdate c r) := by
    unfold State.commitUpdate
    iterate 2 refine .bind fun _ => ?_
    dsimp only
    split
    all_goals exact .bind fun _ => fun t ht => writeSpans_wf c _ h ht
  exact hall t ht

theorem partialWrites_wf (s : State) (c : Cmd) (r : CollRec) (st : Nat) (peers : List Peer) (h : Memory.wf s.mem) :
    Memory.wf (s.partialWrites c r st peers).mem := by
  unfold State.partialWrites
  dsimp only
  split
  · exact h
  · split
    · exact h
    · exact toOption_wf h (fun t ht => writeSpan_wf h ht)

theorem abortCollectives_wf (s : State) (who : Nat → Bool) (h : Memory.wf s.mem) : Memory.wf (s.abortCollectives who).mem := by
  unfold State.abortCollectives
  refine foldl_wf _ (fun s x h => ?_) _ _ h
  grind [partialWrites_wf, mapCmd_mem]

theorem message_keeps (cluster : Nat) (m : Msg) (what : Option CairnMsg) {act : State → State}
    (ha : ∀ s, Memory.wf s.mem → Memory.wf (act s).mem) (s : State) : Keeps s (message cluster m what act s) := by
  obtain ⟨hm, -⟩ | ⟨hm, -⟩ | ⟨hm, -⟩ := message_cases cluster m what act s <;> rw [hm]
  · exact .next id
  · refine .next fun h => linkError_wf _ _ ?_
    split <;> simpa using h
  · refine .next fun h => ha _ ?_
    split <;> simpa using h

theorem takeRetire_wf (s : State) (b : Block) (h : Memory.wf s.mem) : Memory.wf (s.takeRetire b).mem := by
  unfold State.takeRetire
  grind [decideEnd_wf, flushBits_wf, mapLaunch_mem]

theorem startBlock_wf (s : State) (b : Block) (c core : Nat) (h : Memory.wf s.mem) : Memory.wf (s.startBlock b c core).mem := by
  unfold State.startBlock
  grind [fatal_wf, forgetScratch_mem, dropLines_mem, clean_mem, startKnowing_mem, restoredTest_mem]

theorem startAll_wf (s : State) (c : Nat) (bs : List Block) (cores : List Nat) (h : Memory.wf s.mem) :
    Memory.wf (s.startAll c bs cores).mem := by
  unfold State.startAll
  split <;> exact foldl_wf _ (fun s x h => startBlock_wf _ _ _ _ h) _ _ h

theorem tryItem_wf (s : State) (c ctx : Nat) (item : List Block) (h : Memory.wf s.mem) :
    Memory.wf (s.tryItem c ctx item).mem := by
  unfold State.tryItem
  grind [startAll_wf, ensureGang_mem]

theorem roundDie_wf (s : State) (n ctx : Nat) (g : Gang) (h : Memory.wf s.mem) : Memory.wf (s.roundDie n ctx g).mem := by
  unfold State.roundDie
  split
  · exact h
  split
  · simpa using h
  split
  · simpa using h
  split
  · exact foldl_wf _ (fun s x h => startBlock_wf _ _ _ _ h) _ _ (by simpa using h)
  · exact h

theorem roundItem_wf (s : State) (n c ctx : Nat) (item : List Block) (h : Memory.wf s.mem) :
    Memory.wf (s.roundItem n c ctx item).mem := by
  unfold State.roundItem
  grind [roundDie_wf, tryItem_wf]

theorem placementRound_wf (s : State) (c : Nat) (h : Memory.wf s.mem) : Memory.wf (s.placementRound c).mem := by
  unfold State.placementRound
  dsimp only
  repeat' split
  any_goals exact h
  rw [countRounds_mem]
  exact foldl_wf _ (fun s x h => roundItem_wf s _ _ _ _ h) _ _ (by rwa [foldl_mem _ ensureGang_mem])

theorem startSaving_wf (s : State) (b : Block) (h : Memory.wf s.mem) : Memory.wf (s.startSaving b).mem := by
  unfold State.startSaving
  grind [fatal_wf, withdrawGroups_mem, abortBlock_mem, mapBlock_mem]

theorem savedAway_wf (s : State) (b : Block) (h : Memory.wf s.mem) : Memory.wf (s.savedAway b).mem := by
  unfold State.savedAway
  grind [decideEnd_wf, mapBlock_mem, kill_mem]

theorem foldl_yields {ε α β : Type} {P : β → Prop} (f : Except ε β → α → Except ε β) (hf : ∀ r x, Yields P r → Yields P (f r x))
    (l : List α) : ∀ r, Yields P r → Yields P (l.foldl f r) := by
  induction l with
  | nil => exact fun _ h => h
  | cons x l ih => exact fun r h => ih _ (hf r x h)

theorem writeResidue_wf (s : State) (b : Block) (h : Memory.wf s.mem) : Memory.wf (s.writeResidue b).mem := by
  unfold State.writeResidue
  extract_lets refuse bytes step
  have hstep (r : Except (Nat × Nat × Nat) State) (p : Nat × Nat) (hr : Yields (fun t => Memory.wf t.mem) r) :
      Yields (fun t => Memory.wf t.mem) (step r p) := by
    unfold step
    repeat' split
    · exact .error
    · exact .error
    · exact .ok (postWrite_wf _ _ _ _ _ (hr _ rfl))
  have hall : Yields (fun t => Memory.wf t.mem) ((pageSpans b.saveAddr b.residueSize).foldl step (.ok s)) :=
    foldl_yields step hstep _ _ (.ok h)
  split
  · rename_i ht
    exact savedAway_wf _ _ (hall _ ht)
  · split
    · rename_i hp
      exact pageRequest_wf h hp
    · exact fatal_wf _ _ _ h
  · exact fatal_wf _ _ _ h

theorem decidePod_wf (s : State) (lid : Nat) (h : Memory.wf s.mem) : Memory.wf (s.decidePod lid).mem := by
  unfold State.decidePod
  grind [finishLaunch_wf, mapLaunch_mem]

theorem cancelPod_wf (s : State) (lid : Nat) (hard : Bool) (h : Memory.wf s.mem) : Memory.wf (s.cancelPod lid hard).mem := by
  unfold State.cancelPod
  grind [flushBits_wf, cancelLaunch_mem]

theorem writeCompletion_wf (s : State) (l : Launch) (h : Memory.wf s.mem) : Memory.wf (s.writeCompletion l).mem := by
  unfold State.writeCompletion
  grind [advanceReport_wf]

theorem leavePod_wf (s : State) (dev : Nat) (h : Memory.wf s.mem) : Memory.wf (s.leavePod dev).mem := by
  unfold State.leavePod
  split
  · exact h
  split
  · exact abortCollectives_wf _ _ h
  · extract_lets s1 s2 s3
    have h1 : Memory.wf s1.mem := abortCollectives_wf _ _ h
    have h2 : s2.mem = s1.mem := by
      unfold s2
      split
      · exact foldl_mem _ (fun s l => loseFrom_mem s _ _) _ _
      · rfl
    exact foldl_wf _ (fun s lid h => decidePod_wf _ _ (flushBits_wf _ _ _ h)) _ _ (h2 ▸ h1)

theorem tellAborted_wf (s : State) (bs : List Nat) (h : Memory.wf s.mem) : Memory.wf (s.tellAborted bs).mem := by
  unfold State.tellAborted
  refine foldl_wf _ (fun s x h => ?_) _ _ h
  grind [deliverAbort_wf, mapThread_mem, deliverSection_mem]

theorem completeHalt_wf (s : State) (n : Nat) (h : Memory.wf s.mem) : Memory.wf (s.completeHalt n).mem := by
  unfold State.completeHalt
  grind [tellAborted_wf, abortAll_mem, mapPartition_mem, stopThreads_mem]

theorem replayWaiter_wf (s : State) (ctx : Nat) (q : PageReq) (w : Waiter) (h : Memory.wf s.mem) :
    Memory.wf (s.replayWaiter ctx q w).mem := by
  cases w with
  | group b g => simpa [State.replayWaiter] using h
  | cmd id => exact h
  | queue k => simpa [State.replayWaiter] using h
  | bits lid => exact decideEnd_wf _ _ (flushBits_wf _ _ _ h)
  | report id => exact advanceReport_wf _ _ _ h
  | ring k => exact flushRing_wf _ _ _ h
  | residue k => exact h

theorem failCommand_wf (s : State) (ctx : Nat) (q : PageReq) (id : Nat) (h : Memory.wf s.mem) :
    Memory.wf (s.failCommand ctx q id).mem := by
  unfold State.failCommand
  grind [stopCommand_wf]

theorem failWaiter_wf (s : State) (ctx : Nat) (q : PageReq) (w : Waiter) (h : Memory.wf s.mem) :
    Memory.wf (s.failWaiter ctx q w).mem := by
  cases w with
  | group b g => exact h
  | cmd id => exact failCommand_wf _ _ _ _ h
  | queue k => exact serveEntry_wf _ _ _ _ (by simpa using h)
  | bits lid => exact decideEnd_wf _ _ (flushBits_wf _ _ _ h)
  | report id => exact advanceReport_wf _ _ _ h
  | ring k => exact flushRing_wf _ _ _ h
  | residue k => exact h

theorem resume_wf (s : State) (ctx : Nat) (v : W64) (h : Memory.wf s.mem) : Memory.wf (s.resume ctx v).mem := by
  unfold State.resume
  split
  · exact h
  split
  · exact h
  · refine settleLaunches_wf _ (postRequests_wf _ _ _ ?_)
    split
    · exact fatalAll_wf _ _ (foldl_wf _ (fun s w h => failWaiter_wf s _ _ w h) _ _ (by simpa using h))
    · exact foldl_wf _ (fun s w h => replayWaiter_wf s _ _ w h) _ _ (by simpa using h)

theorem startReplay_wf (s : State) (ctx : Nat) (v : W64) (h : Memory.wf s.mem) : Memory.wf (s.startReplay ctx v).mem := by
  rw [State.startReplay]
  split
  · exact h
  split
  · exact h
  split
  · exact h
  · exact toOption_wf h (fun t ht => writeVirt_wf _ _ _ _ _ h ht)

end Sys2Proof.Proofs
end


section
/-! SUPPORT. Every arm of `exec` answers a state and keeps the canonical form of memory (O60, O3). -/

namespace Sys2Proof.Proofs
open Sys2Proof Sys2Proof.Machine Sys2Proof.Laws

/-- A choice between two states that keep the canonical form. -/
theorem wf_ite {c : Prop} [Decidable c] {a b : State} (ha : Memory.wf a.mem) (hb : Memory.wf b.mem) :
    Memory.wf (if c then a else b).mem := by
  split <;> assumption

theorem Keeps.tick {s t : State} (h : Memory.wf s.mem → Memory.wf t.mem) : Keeps s (.next t.tick) := .next h

theorem Keeps.idle {s : State} : Keeps s (.next s.tick) := .next id

theorem accessGo_wf (e : Env) (s : State) (x : Xlat) (addr : W64) (size : Nat) (write : Bool) {tracked : State → Section → State}
    {aborted plain : State → State} (ht : ∀ t y, (tracked t y).mem = t.mem) (ha : ∀ t, (aborted t).mem = t.mem)
    (hp : ∀ t, (plain t).mem = t.mem) (h : Memory.wf s.mem) :
    Memory.wf (accessGo e s x addr size write tracked aborted plain).state.mem := by
  unfold accessGo
  dsimp only
  split
  · simpa [hp, touch_mem] using h
  split
  · simpa [hp, touch_mem] using h
  split
  · simpa [ha, touch_mem] using h
  split
  · simpa using h
  split
  · simpa using h
  · rename_i hr
    simpa [track_waits_mem hr] using h
  · rename_i hr
    split <;> simpa [ht, track_runs_mem hr] using h

theorem gated_wf (e : Env) (ob : Block) (k : Nat) (sl : Slot) (s : State) (go : LaneEnd) (frees : Bool) (h : Memory.wf s.mem)
    (hg : Memory.wf go.state.mem) : Memory.wf (gated e ob k sl s go frees).state.mem := by
  unfold gated
  dsimp only
  split
  · exact h
  split
  · simpa using h
  · exact hg

theorem tileAccess_wf (e : Env) (s : State) (w : Word) (write : Bool) {go : Nat → Nat → LaneEnd}
    (hg : ∀ i o, Memory.wf (go i o).state.mem) (h : Memory.wf s.mem) : Memory.wf (e.tileAccess s w write go).state.mem := by
  unfold Env.tileAccess
  dsimp only
  split
  · exact h
  split
  · simpa using h
  split
  · exact h
  split
  · exact h
  · exact hg _ _

theorem execNop_keeps (w : Word) (s : State) : Keeps s (execNop w s) := by
  unfold execNop
  refine runWord_keeps (fun g e s h => ?_) postKeeps_none s
  simpa using h

theorem execBra_keeps (w : Word) (s : State) : Keeps s (execBra w s) :=
  branch_keeps _ _ _ _ s

theorem execBrx_keeps (w : Word) (s : State) : Keeps s (execBrx w s) :=
  branch_keeps _ _ _ _ s

theorem execCall_keeps (w : Word) (s : State) : Keeps s (execCall w s) :=
  branch_keeps _ _ _ _ s

theorem execCallx_keeps (w : Word) (s : State) : Keeps s (execCallx w s) :=
  branch_keeps _ _ _ _ s

theorem execRet_keeps (w : Word) (s : State) : Keeps s (execRet w s) :=
  branch_keeps _ _ _ _ s

theorem execExit_keeps (w : Word) (s : State) : Keeps s (execExit w s) := by
  unfold execExit
  refine runWord_keeps (fun g e s h => ?_) (fun u _ s h => replayEnd_wf s _ h) s
  exact endThread_wf s _ _ h

theorem execJoin_keeps (w : Word) (s : State) : Keeps s (execJoin w s) := by
  unfold execJoin
  refine runWord_keeps (fun g e s h => ?_) reexamineAfter_keeps s
  dsimp only
  repeat' split
  all_goals simpa using h

theorem execJmset_keeps (w : Word) (s : State) : Keeps s (execJmset w s) := by
  unfold execJmset
  refine runWord_keeps (fun g e s h => ?_) postKeeps_none s
  exact reexamine_wf _ _ _ _ (by simpa using h)

theorem execJmget_keeps (w : Word) (s : State) : Keeps s (execJmget w s) :=
  runPure_keeps _ _ _ s

theorem execYield_keeps (w : Word) (s : State) : Keeps s (execYield w s) := by
  unfold execYield
  refine runWord_keeps (fun g e s h => ?_) postKeeps_none s
  simpa using h

theorem execWaitc_keeps (w : Word) (s : State) : Keeps s (execWaitc w s) := by
  unfold execWaitc
  refine runWord_keeps (fun g e s h => ?_) postKeeps_none s
  dsimp only
  repeat' split
  all_goals simpa using h

theorem execWaitt_keeps (w : Word) (s : State) : Keeps s (execWaitt w s) := by
  unfold execWaitt
  refine runWord_keeps (fun g e s h => ?_) postKeeps_none s
  dsimp only
  repeat' split
  all_goals simpa using h

theorem execBpt_keeps (w : Word) (s : State) : Keeps s (execBpt w s) := by
  unfold execBpt
  refine runWord_keeps (fun g e s h => ?_) postKeeps_none s
  simpa using h

theorem execTrap_keeps (w : Word) (s : State) : Keeps s (execTrap w s) := by
  unfold execTrap
  refine runWord_keeps (fun g e s h => ?_) postKeeps_none s
  simpa using h

theorem execEret_keeps (w : Word) (s : State) : Keeps s (execEret w s) := by
  unfold execEret
  refine runWord_keeps (fun g e s h => ?_) (fun u _ s h => by simpa using h) s
  exact eretLane_wf s e h

theorem execIadd_keeps (w : Word) (s : State) : Keeps s (execIadd w s) :=
  runPure_keeps _ _ _ s

theorem execIsub_keeps (w : Word) (s : State) : Keeps s (execIsub w s) :=
  runPure_keeps _ _ _ s

theorem execImul_keeps (w : Word) (s : State) : Keeps s (execImul w s) :=
  runPure_keeps _ _ _ s

theorem execImulh_keeps (w : Word) (s : State) : Keeps s (execImulh w s) :=
  runPure_keeps _ _ _ s

theorem execImad_keeps (w : Word) (s : State) : Keeps s (execImad w s) :=
  runPure_keeps _ _ _ s

theorem execImadw_keeps (w : Word) (s : State) : Keeps s (execImadw w s) :=
  runPure_keeps _ _ _ s

theorem execImin_keeps (w : Word) (s : State) : Keeps s (execImin w s) :=
  runPure_keeps _ _ _ s

theorem execImax_keeps (w : Word) (s : State) : Keeps s (execImax w s) :=
  runPure_keeps _ _ _ s

theorem execIabs_keeps (w : Word) (s : State) : Keeps s (execIabs w s) :=
  runPure_keeps _ _ _ s

theorem execIaddc_keeps (w : Word) (s : State) : Keeps s (execIaddc w s) :=
  runPure_keeps _ _ _ s

theorem execLea_keeps (w : Word) (s : State) : Keeps s (execLea w s) :=
  runPure_keeps _ _ _ s

theorem execIdot4_keeps (w : Word) (s : State) : Keeps s (execIdot4 w s) :=
  runPure_keeps _ _ _ s

theorem execIsad_keeps (w : Word) (s : State) : Keeps s (execIsad w s) :=
  runPure_keeps _ _ _ s

theorem execIdiv_keeps (w : Word) (s : State) : Keeps s (execIdiv w s) :=
  runPure_keeps _ _ _ s

theorem execIrem_keeps (w : Word) (s : State) : Keeps s (execIrem w s) :=
  runPure_keeps _ _ _ s

theorem execLut3_keeps (w : Word) (s : State) : Keeps s (execLut3 w s) :=
  runPure_keeps _ _ _ s

theorem execShl_keeps (w : Word) (s : State) : Keeps s (execShl w s) :=
  runPure_keeps _ _ _ s

theorem execShr_keeps (w : Word) (s : State) : Keeps s (execShr w s) :=
  runPure_keeps _ _ _ s

theorem execSar_keeps (w : Word) (s : State) : Keeps s (execSar w s) :=
  runPure_keeps _ _ _ s

theorem execRotl_keeps (w : Word) (s : State) : Keeps s (execRotl w s) :=
  runPure_keeps _ _ _ s

theorem execFunnel_keeps (w : Word) (s : State) : Keeps s (execFunnel w s) :=
  runPure_keeps _ _ _ s

theorem execBprm_keeps (w : Word) (s : State) : Keeps s (execBprm w s) :=
  runAlu_keeps _ _ _ s

theorem execBfx_keeps (w : Word) (s : State) : Keeps s (execBfx w s) :=
  runPure_keeps _ _ _ s

theorem execBfi_keeps (w : Word) (s : State) : Keeps s (execBfi w s) :=
  runPure_keeps _ _ _ s

theorem execPopc_keeps (w : Word) (s : State) : Keeps s (execPopc w s) :=
  runPure_keeps _ _ _ s

theorem execClz_keeps (w : Word) (s : State) : Keeps s (execClz w s) :=
  runPure_keeps _ _ _ s

theorem execBrev_keeps (w : Word) (s : State) : Keeps s (execBrev w s) :=
  runPure_keeps _ _ _ s

theorem execFfs_keeps (w : Word) (s : State) : Keeps s (execFfs w s) :=
  runPure_keeps _ _ _ s

theorem execMov_keeps (w : Word) (s : State) : Keeps s (execMov w s) :=
  runPure_keeps _ _ _ s

theorem execMovw_keeps (w : Word) (s : State) : Keeps s (execMovw w s) :=
  runPure_keeps _ _ _ s

theorem execSel_keeps (w : Word) (s : State) : Keeps s (execSel w s) :=
  runPure_keeps _ _ _ s

theorem execIcmp_keeps (w : Word) (s : State) : Keeps s (execIcmp w s) :=
  runPure_keeps _ _ _ s

theorem execFcmp_keeps (w : Word) (s : State) : Keeps s (execFcmp w s) :=
  runPure_keeps _ _ _ s

theorem execHcmp2_keeps (w : Word) (s : State) : Keeps s (execHcmp2 w s) :=
  runPure_keeps _ _ _ s

theorem execDcmp_keeps (w : Word) (s : State) : Keeps s (execDcmp w s) :=
  runPure_keeps _ _ _ s

theorem execPlop_keeps (w : Word) (s : State) : Keeps s (execPlop w s) :=
  runPure_keeps _ _ _ s

theorem execP2v_keeps (w : Word) (s : State) : Keeps s (execP2v w s) :=
  runPure_keeps _ _ _ s

theorem execV2p_keeps (w : Word) (s : State) : Keeps s (execV2p w s) :=
  runPure_keeps _ _ _ s

theorem execFclass_keeps (w : Word) (s : State) : Keeps s (execFclass w s) :=
  runPure_keeps _ _ _ s

theorem execTqset_keeps (w : Word) (s : State) : Keeps s (execTqset w s) := by
  unfold execTqset
  refine runWord_keeps (fun g e s h => ?_) postKeeps_none s
  simpa using h

theorem execTqget_keeps (w : Word) (s : State) : Keeps s (execTqget w s) :=
  runPure_keeps _ _ _ s

theorem execFadd_keeps (w : Word) (s : State) : Keeps s (execFadd w s) :=
  runPure_keeps _ _ _ s

theorem execFmul_keeps (w : Word) (s : State) : Keeps s (execFmul w s) :=
  runPure_keeps _ _ _ s

theorem execFfma_keeps (w : Word) (s : State) : Keeps s (execFfma w s) :=
  runPure_keeps _ _ _ s

theorem execFmin_keeps (w : Word) (s : State) : Keeps s (execFmin w s) :=
  runPure_keeps _ _ _ s

theorem execFmax_keeps (w : Word) (s : State) : Keeps s (execFmax w s) :=
  runPure_keeps _ _ _ s

theorem execFrnd_keeps (w : Word) (s : State) : Keeps s (execFrnd w s) :=
  runPure_keeps _ _ _ s

theorem execFscale_keeps (w : Word) (s : State) : Keeps s (execFscale w s) :=
  runPure_keeps _ _ _ s

theorem execFgetexp_keeps (w : Word) (s : State) : Keeps s (execFgetexp w s) :=
  runPure_keeps _ _ _ s

theorem execFset_keeps (w : Word) (s : State) : Keeps s (execFset w s) :=
  runPure_keeps _ _ _ s

theorem execFcpysgn_keeps (w : Word) (s : State) : Keeps s (execFcpysgn w s) :=
  runPure_keeps _ _ _ s

theorem execHadd2_keeps (w : Word) (s : State) : Keeps s (execHadd2 w s) :=
  runPure_keeps _ _ _ s

theorem execHmul2_keeps (w : Word) (s : State) : Keeps s (execHmul2 w s) :=
  runPure_keeps _ _ _ s

theorem execHfma2_keeps (w : Word) (s : State) : Keeps s (execHfma2 w s) :=
  runPure_keeps _ _ _ s

theorem execHmin2_keeps (w : Word) (s : State) : Keeps s (execHmin2 w s) :=
  runPure_keeps _ _ _ s

theorem execHmax2_keeps (w : Word) (s : State) : Keeps s (execHmax2 w s) :=
  runPure_keeps _ _ _ s

theorem execHdot2_keeps (w : Word) (s : State) : Keeps s (execHdot2 w s) :=
  runPure_keeps _ _ _ s

theorem execDadd_keeps (w : Word) (s : State) : Keeps s (execDadd w s) :=
  runPure_keeps _ _ _ s

theorem execDmul_keeps (w : Word) (s : State) : Keeps s (execDmul w s) :=
  runPure_keeps _ _ _ s

theorem execDfma_keeps (w : Word) (s : State) : Keeps s (execDfma w s) :=
  runPure_keeps _ _ _ s

theorem execDmin_keeps (w : Word) (s : State) : Keeps s (execDmin w s) :=
  runPure_keeps _ _ _ s

theorem execDmax_keeps (w : Word) (s : State) : Keeps s (execDmax w s) :=
  runPure_keeps _ _ _ s

theorem execCvt_keeps (w : Word) (s : State) : Keeps s (execCvt w s) :=
  runAlu_keeps _ _ _ s

theorem execCvtsc_keeps (w : Word) (s : State) : Keeps s (execCvtsc w s) :=
  runAlu_keeps _ _ _ s

theorem execPackn_keeps (w : Word) (s : State) : Keeps s (execPackn w s) :=
  runAlu_keeps _ _ _ s

theorem execUnpkn_keeps (w : Word) (s : State) : Keeps s (execUnpkn w s) :=
  runAlu_keeps _ _ _ s

theorem execFmset_keeps (w : Word) (s : State) : Keeps s (execFmset w s) := by
  unfold execFmset
  refine runWord_keeps (fun g e s h => ?_) postKeeps_none s
  simpa using h

theorem execFmget_keeps (w : Word) (s : State) : Keeps s (execFmget w s) :=
  runPure_keeps _ _ _ s

theorem execRsqs_keeps (w : Word) (s : State) : Keeps s (execRsqs w s) :=
  runAlu_keeps _ _ _ s

theorem execRcps_keeps (w : Word) (s : State) : Keeps s (execRcps w s) :=
  runAlu_keeps _ _ _ s

theorem execSinr_keeps (w : Word) (s : State) : Keeps s (execSinr w s) :=
  runAlu_keeps _ _ _ s

theorem execCosr_keeps (w : Word) (s : State) : Keeps s (execCosr w s) :=
  runAlu_keeps _ _ _ s

theorem execEx2_keeps (w : Word) (s : State) : Keeps s (execEx2 w s) :=
  runAlu_keeps _ _ _ s

theorem execLg2_keeps (w : Word) (s : State) : Keeps s (execLg2 w s) :=
  runAlu_keeps _ _ _ s

theorem execTnh_keeps (w : Word) (s : State) : Keeps s (execTnh w s) :=
  runAlu_keeps _ _ _ s

theorem execSigm_keeps (w : Word) (s : State) : Keeps s (execSigm w s) :=
  runAlu_keeps _ _ _ s

theorem execShfl_keeps (w : Word) (s : State) : Keeps s (execShfl w s) :=
  meetWord_keeps _ _ _ s

theorem execXbf_keeps (w : Word) (s : State) : Keeps s (execXbf w s) :=
  meetWord_keeps _ _ _ s

theorem execVote_keeps (w : Word) (s : State) : Keeps s (execVote w s) :=
  meetWord_keeps _ _ _ s

theorem execRedg_keeps (w : Word) (s : State) : Keeps s (execRedg w s) :=
  meetWord_keeps _ _ _ s

theorem execScang_keeps (w : Word) (s : State) : Keeps s (execScang w s) :=
  meetWord_keeps _ _ _ s

theorem execMatchLanes_keeps (w : Word) (s : State) : Keeps s (execMatchLanes w s) :=
  meetWord_keeps _ _ _ s

theorem execElect_keeps (w : Word) (s : State) : Keeps s (execElect w s) :=
  meetWord_keeps _ _ _ s

theorem execTopk_keeps (w : Word) (s : State) : Keeps s (execTopk w s) :=
  meetWord_keeps _ _ _ s

theorem execLd_keeps (w : Word) (s : State) : Keeps s (execLd w s) := by
  unfold execLd
  refine runWord_keeps (fun g e s h => ?_) postKeeps_none s
  dsimp only
  split
  · exact accessFault_wf _ _ _ _ h
  · exact accessGo_wf _ _ _ _ _ _ (fun t y => by simp) (fun t => by simp) (fun t => by simp) h

theorem execSt_keeps (w : Word) (s : State) : Keeps s (execSt w s) := by
  unfold execSt
  refine runWord_keeps (fun g e s h => ?_) postKeeps_none s
  dsimp only
  split
  · exact accessFault_wf _ _ _ _ h
  · exact accessGo_wf _ _ _ _ _ _ (fun t y => by simp) (fun t => rfl) (fun t => by simp) h

theorem execLds_keeps (w : Word) (s : State) : Keeps s (execLds w s) := by
  unfold execLds
  refine runWord_keeps (fun g e s h => ?_) postKeeps_none s
  split
  · exact h
  · simpa using h

theorem execSts_keeps (w : Word) (s : State) : Keeps s (execSts w s) := by
  unfold execSts
  refine runWord_keeps (fun g e s h => ?_) postKeeps_none s
  split
  · exact h
  · simpa using h

theorem execLdp_keeps (w : Word) (s : State) : Keeps s (execLdp w s) := by
  unfold execLdp
  refine runWord_keeps (fun g e s h => ?_) postKeeps_none s
  dsimp only
  repeat' split
  all_goals simpa using h

theorem execStw2_keeps (w : Word) (s : State) : Keeps s (execStw2 w s) := by
  unfold execStw2
  refine runWord_keeps (fun g e s h => ?_) postKeeps_none s
  dsimp only
  split
  · exact h
  · exact h
  split
  · exact h
  split
  · simpa [touch_mem] using h
  · simpa [touch_mem] using h

theorem execLdxp_keeps (w : Word) (s : State) : Keeps s (execLdxp w s) := by
  unfold execLdxp
  refine runWord_keeps (fun g e s h => ?_) postKeeps_none s
  dsimp only
  repeat' split
  all_goals simpa using h

theorem execPrf_keeps (w : Word) (s : State) : Keeps s (execPrf w s) := by
  unfold execPrf
  refine runWord_keeps (fun g e s h => ?_) postKeeps_none s
  dsimp only
  split
  · exact h
  · simp only [state_done]
    exact wf_ite (by simpa [touch_mem] using h) (by simpa [touch_mem] using h)

theorem execCctlIvl_keeps (w : Word) (s : State) : Keeps s (execCctlIvl w s) := by
  exact cctl_keeps _ w _ (fun s e x h => by simpa using h) s

theorem execCctlIva_keeps (w : Word) (s : State) : Keeps s (execCctlIva w s) := by
  unfold execCctlIva
  refine runWord_keeps (fun g e s h => ?_) postKeeps_none s
  simpa using h

theorem execCctlWbm_keeps (w : Word) (s : State) : Keeps s (execCctlWbm w s) := by
  exact cctl_keeps _ w _ (fun s e x h => by simpa using h) s

theorem execCctlWim_keeps (w : Word) (s : State) : Keeps s (execCctlWim w s) := by
  exact cctl_keeps _ w _ (fun s e x h => dropMsc_wf _ _ h) s

theorem execLdsx_keeps (w : Word) (s : State) : Keeps s (execLdsx w s) := by
  unfold execLdsx
  refine runWord_keeps (fun g e s h => ?_) postKeeps_none s
  exact tileAccess_wf _ _ _ _ (fun i o => by simpa using h) h

theorem execStsx_keeps (w : Word) (s : State) : Keeps s (execStsx w s) := by
  unfold execStsx
  refine runWord_keeps (fun g e s h => ?_) postKeeps_none s
  exact tileAccess_wf _ _ _ _ (fun i o => by simpa using h) h

theorem execTlk_keeps (w : Word) (s : State) : Keeps s (execTlk w s) := by
  unfold execTlk
  refine runWord_keeps (fun g e s h => ?_) postKeeps_none s
  simpa using h

theorem execTtag_keeps (w : Word) (s : State) : Keeps s (execTtag w s) := by
  unfold execTtag
  refine runWord_keeps (fun g e s h => ?_) postKeeps_none s
  dsimp only
  repeat' split
  all_goals simpa using h

theorem execTstat_keeps (w : Word) (s : State) : Keeps s (execTstat w s) := by
  unfold execTstat
  refine runWord_keeps (fun g e s h => ?_) postKeeps_none s
  dsimp only
  repeat' split
  all_goals simpa using h

theorem execTinv_keeps (w : Word) (s : State) : Keeps s (execTinv w s) := by
  unfold execTinv
  refine runWord_keeps (fun g e s h => ?_) postKeeps_none s
  dsimp only
  repeat' split
  all_goals simpa using h

theorem execHgl_keeps (w : Word) (s : State) : Keeps s (execHgl w s) := by
  unfold execHgl
  refine runWord_keeps (fun g e s h => ?_) postKeeps_none s
  dsimp only
  repeat' split
  all_goals simpa using h

theorem execHga_keeps (w : Word) (s : State) : Keeps s (execHga w s) := by
  unfold execHga
  refine runWord_keeps (fun g e s h => ?_) postKeeps_none s
  dsimp only
  repeat' split
  all_goals simpa using h

theorem execHgw_keeps (w : Word) (s : State) : Keeps s (execHgw w s) := by
  unfold execHgw
  refine runWord_keeps (fun g e s h => ?_) postKeeps_none s
  dsimp only
  repeat' split
  all_goals simpa using h

theorem execAtom_keeps (w : Word) (s : State) : Keeps s (execAtom w s) := by
  exact atomGlobal_keeps _ w _ _ _ _ _ _ s

theorem execAtomc_keeps (w : Word) (s : State) : Keeps s (execAtomc w s) := by
  exact atomGlobal_keeps _ w _ _ _ _ _ _ s

theorem execAtomf_keeps (w : Word) (s : State) : Keeps s (execAtomf w s) := by
  exact atomGlobal_keeps _ w _ _ _ _ _ _ s

theorem execRed_keeps (w : Word) (s : State) : Keeps s (execRed w s) := by
  exact atomGlobal_keeps _ w _ _ _ _ _ _ s

theorem execRedf_keeps (w : Word) (s : State) : Keeps s (execRedf w s) := by
  exact atomGlobal_keeps _ w _ _ _ _ _ _ s

theorem execAtoms_keeps (w : Word) (s : State) : Keeps s (execAtoms w s) := by
  unfold execAtoms
  refine runWord_keeps (fun g e s h => ?_) postKeeps_none s
  dsimp only
  repeat' split
  all_goals simpa using h

theorem execAtomw_keeps (w : Word) (s : State) : Keeps s (execAtomw w s) := by
  exact atomGlobal_keeps _ w _ _ _ _ _ _ s

theorem execSha_keeps (w : Word) (s : State) : Keeps s (execSha w s) := by
  unfold execSha
  refine runWord_keeps (fun g e s h => ?_) postKeeps_none s
  dsimp only
  split
  · exact h
  split
  · exact h
  split
  · split
    · exact fatal_wf _ _ _ h
    · exact h
  · simpa using h

theorem execBinit_keeps (w : Word) (s : State) : Keeps s (execBinit w s) := by
  unfold execBinit
  refine runWord_keeps (fun g e s h => ?_) postKeeps_none s
  dsimp only
  repeat' split
  all_goals simpa using h

theorem execArrv_keeps (w : Word) (s : State) : Keeps s (execArrv w s) := by
  refine onObject_keeps _ w _ (fun e o s h => ?_) settle_keeps s
  split <;> simpa using h

theorem execPwait_keeps (w : Word) (s : State) : Keeps s (execPwait w s) := by
  unfold execPwait
  refine runWord_keeps (fun g e s h => ?_) postKeeps_none s
  dsimp only
  repeat' split
  all_goals simpa using h

theorem execPtest_keeps (w : Word) (s : State) : Keeps s (execPtest w s) := by
  refine onObject_keeps _ w _ (fun e o s h => ?_) settle_keeps s
  dsimp only
  split
  · simpa using h
  split
  · simpa using h
  · rw [state_done, mapThread_mem]
    exact wf_ite (by simpa using h) h

theorem execFence_keeps (w : Word) (s : State) : Keeps s (execFence w s) := by
  unfold execFence
  refine runWord_keeps (fun g e s h => ?_) postKeeps_none s
  dsimp only
  repeat' split
  all_goals simpa using h

theorem execXfence_keeps (w : Word) (s : State) : Keeps s (execXfence w s) := by
  unfold execXfence
  refine runWord_keeps (fun g e s h => ?_) postKeeps_none s
  split <;> simpa using h

theorem execAcq_keeps (w : Word) (s : State) : Keeps s (execAcq w s) := by
  unfold execAcq
  refine runWord_keeps (fun g e s h => ?_) postKeeps_none s
  dsimp only
  split
  · exact h
  split
  · split <;> simpa using h
  split
  · simpa using h
  split
  · simpa using h
  · simp only [state_done, mapThread_mem, orderSc_mem]
    exact acquireLines_wf _ _ _ (by simpa using h)

theorem execRel_keeps (w : Word) (s : State) : Keeps s (execRel w s) := by
  unfold execRel
  refine runWord_keeps (fun g e s h => ?_) postKeeps_none s
  dsimp only
  split
  · exact h
  split
  · split <;> simpa using h
  split
  · simpa using h
  · simp only [state_done, orderSc_mem, scAfter_mem, credit_mem]
    exact coreWrite_wf _ _ _ _ (by simpa using h)

theorem execRbind_keeps (w : Word) (s : State) : Keeps s (execRbind w s) := by
  unfold execRbind
  refine runWord_keeps (fun g e s h => ?_) postKeeps_none s
  dsimp only
  split
  · exact h
  split
  · exact h
  split
  · exact h
  · rename_i hz
    simpa using zeroBins_wf _ _ _ h hz

theorem execBexp_keeps (w : Word) (s : State) : Keeps s (execBexp w s) := by
  refine onObject_keeps _ w _ (fun e o s h => ?_) settle_keeps s
  dsimp only
  split
  · simpa using h
  split
  · simpa using h
  · exact phaseTest_wf _ _ _ (by simpa using h)

theorem execCtr_keeps (w : Word) (s : State) : Keeps s (execCtr w s) :=
  ctrWord_keeps _ _ _ s

theorem execCtrs_keeps (w : Word) (s : State) : Keeps s (execCtrs w s) :=
  ctrWord_keeps _ _ _ s

theorem execCtrsp_keeps (w : Word) (s : State) : Keeps s (execCtrsp w s) :=
  ctrWord_keeps _ _ _ s

theorem execCwd_keeps (w : Word) (s : State) : Keeps s (execCwd w s) := by
  unfold execCwd
  refine runWord_keeps (fun g e s h => ?_) postKeeps_none s
  split <;> simpa using h

theorem execAalloc_keeps (w : Word) (s : State) : Keeps s (execAalloc w s) := by
  unfold execAalloc
  refine runWord_keeps (fun g e s h => ?_) postKeeps_none s
  split <;> simpa using h

theorem execAfree_keeps (w : Word) (s : State) : Keeps s (execAfree w s) := by
  exact onSlot_keeps _ w _ (fun e ob k sl s h => gated_wf _ _ _ _ _ _ _ h (by simpa using h)) s

theorem execAzero_keeps (w : Word) (s : State) : Keeps s (execAzero w s) := by
  refine onSlot_keeps _ w _ (fun e ob k sl s h => ?_) s
  dsimp only
  split
  · simpa using h
  · exact gated_wf _ _ _ _ _ _ _ h (by simpa using h)

theorem execAld_keeps (w : Word) (s : State) : Keeps s (execAld w s) := by
  refine onSlot_keeps _ w _ (fun e ob k sl s h => ?_) s
  dsimp only
  split
  · exact h
  · exact gated_wf _ _ _ _ _ _ _ h (by simpa using h)

theorem execAst_keeps (w : Word) (s : State) : Keeps s (execAst w s) := by
  refine onSlot_keeps _ w _ (fun e ob k sl s h => ?_) s
  dsimp only
  split
  · exact h
  · exact gated_wf _ _ _ _ _ _ _ h (by simpa using h)

theorem execAdrn_keeps (w : Word) (s : State) : Keeps s (execAdrn w s) :=
  engineWord_keeps _ _ _ s

theorem execAstat_keeps (w : Word) (s : State) : Keeps s (execAstat w s) := by
  unfold execAstat
  refine runWord_keeps (fun g e s h => ?_) postKeeps_none s
  dsimp only
  repeat' split
  all_goals simpa using h

theorem execCpy_keeps (w : Word) (s : State) : Keeps s (execCpy w s) :=
  engineWord_keeps _ _ _ s

theorem execCpym_keeps (w : Word) (s : State) : Keeps s (execCpym w s) :=
  engineWord_keeps _ _ _ s

theorem execShf_keeps (w : Word) (s : State) : Keeps s (execShf w s) :=
  engineWord_keeps _ _ _ s

theorem execWnw_keeps (w : Word) (s : State) : Keeps s (execWnw w s) :=
  engineWord_keeps _ _ _ s

theorem execGln_keeps (w : Word) (s : State) : Keeps s (execGln w s) :=
  engineWord_keeps _ _ _ s

theorem execLaunch_keeps (w : Word) (s : State) : Keeps s (execLaunch w s) := by
  unfold execLaunch
  refine runWord_keeps (fun g e s h => ?_) postKeeps_none s
  dsimp only
  repeat' split
  all_goals simpa using h

theorem execLctlCancel_keeps (w : Word) (s : State) : Keeps s (execLctlCancel w s) := by
  exact lctl_keeps _ w (fun s ctx lid h => cancelBy_wf s ctx lid _ h) s

theorem execLctlKill_keeps (w : Word) (s : State) : Keeps s (execLctlKill w s) := by
  exact lctl_keeps _ w (fun s ctx lid h => cancelBy_wf s ctx lid _ h) s

theorem execLctlQuery_keeps (w : Word) (s : State) : Keeps s (execLctlQuery w s) := by
  unfold execLctlQuery
  refine runWord_keeps (fun g e s h => ?_) postKeeps_none s
  simpa using h

theorem execLpset_keeps (w : Word) (s : State) : Keeps s (execLpset w s) := by
  unfold execLpset
  refine runWord_keeps (fun g e s h => ?_) postKeeps_none s
  dsimp only
  repeat' split
  all_goals simpa using h

theorem execLendLaunch_keeps (w : Word) (s : State) : Keeps s (execLendLaunch w s) := by
  exact lend_keeps _ w _ s

theorem execLendCancel_keeps (w : Word) (s : State) : Keeps s (execLendCancel w s) := by
  exact lend_keeps _ w _ s

theorem execLendRepeat_keeps (w : Word) (s : State) : Keeps s (execLendRepeat w s) := by
  exact lend_keeps _ w _ s

theorem execFxb_keeps (w : Word) (s : State) : Keeps s (execFxb w s) := by
  unfold execFxb
  refine runWord_keeps (fun g e s h => ?_) postKeeps_none s
  extract_lets s0 free stamp
  have h0 : Memory.wf s0.mem := by
    unfold s0
    split
    · exact wf_ite (by simpa using h) h
    · exact h
  clear_value s0
  split
  · exact h0
  split
  · simpa using h0
  · simpa using h0

theorem execFxe_keeps (w : Word) (s : State) : Keeps s (execFxe w s) := by
  unfold execFxe
  refine runWord_keeps (fun g e s h => ?_) postKeeps_none s
  split
  · exact h
  split <;> simpa using h

theorem execFxa_keeps (w : Word) (s : State) : Keeps s (execFxa w s) := by
  unfold execFxa
  refine runWord_keeps (fun g e s h => ?_) postKeeps_none s
  split
  · exact h
  split
  · exact h
  · exact h
  · simpa using h

theorem execFxs_keeps (w : Word) (s : State) : Keeps s (execFxs w s) :=
  runAlu_keeps _ _ _ s

theorem execSread_keeps (w : Word) (s : State) : Keeps s (execSread w s) :=
  runAlu_keeps _ _ _ s

theorem execSwrite_keeps (w : Word) (s : State) : Keeps s (execSwrite w s) := by
  unfold execSwrite
  refine runWord_keeps (fun g e s h => ?_) postKeeps_none s
  dsimp only
  repeat' split
  all_goals simpa using h

theorem execIsync_keeps (w : Word) (s : State) : Keeps s (execIsync w s) := by
  unfold execIsync
  refine runWord_keeps (fun g e s h => ?_) postKeeps_none s
  simpa using h

theorem execDbgmBrk_keeps (w : Word) (s : State) : Keeps s (execDbgmBrk w s) := by
  unfold execDbgmBrk
  refine runWord_keeps (fun g e s h => ?_) postKeeps_none s
  split <;> simpa using h

theorem execDbgmStepon_keeps (w : Word) (s : State) : Keeps s (execDbgmStepon w s) := by
  unfold execDbgmStepon
  refine runWord_keeps (fun g e s h => ?_) postKeeps_none s
  exact wf_ite (by simpa using h) h

theorem execDbgmStepoff_keeps (w : Word) (s : State) : Keeps s (execDbgmStepoff w s) := by
  unfold execDbgmStepoff
  refine runWord_keeps (fun g e s h => ?_) postKeeps_none s
  exact wf_ite (by simpa using h) h

theorem execPairedWord_keeps (p : Pair) (s : State) : Keeps s (execPairedWord p s) := by
  unfold execPairedWord
  refine runWord_keeps (fun g e s h => ?_) postKeeps_none s
  dsimp only
  repeat' split
  all_goals simpa using h

theorem execIssueCycle_keeps (core sched : Nat) (s : State) : Keeps s (execIssueCycle core sched s) := by
  unfold execIssueCycle
  exact .next (fun h => by grind [cycle_wf, tick_mem])

theorem execYieldExpiry_keeps (blk tidx : Nat) (s : State) : Keeps s (execYieldExpiry blk tidx s) :=
  .next id

theorem execResultWrite_keeps (blk tidx : Nat) (s : State) : Keeps s (execResultWrite blk tidx s) :=
  .next id

theorem execLoadReturn_keeps (blk tidx op : Nat) (s : State) : Keeps s (execLoadReturn blk tidx op s) :=
  performEvent_keeps _ _ _ _ s

theorem execStorePerformed_keeps (blk tidx op : Nat) (s : State) : Keeps s (execStorePerformed blk tidx op s) :=
  performEvent_keeps _ _ _ _ s

theorem execCommandAccept_keeps (cmd : Nat) (s : State) : Keeps s (execCommandAccept cmd s) := by
  unfold execCommandAccept
  repeat' split
  all_goals exact .next (fun h => by grind [foldl_wf, getD_wf, dropCmd_mem, foldl_mem, mapCmd_mem, mapThread_mem, tick_mem])

theorem execTileOpRetire_keeps (blk tidx op : Nat) (s : State) : Keeps s (execTileOpRetire blk tidx op s) :=
  performEvent_keeps _ _ _ _ s

theorem execTimeWaitExpiry_keeps (blk tidx : Nat) (s : State) : Keeps s (execTimeWaitExpiry blk tidx s) := by
  unfold execTimeWaitExpiry
  repeat' split
  all_goals exact .next (fun h => by grind [completeLane_wf, tick_mem])

theorem execTranslationWalk_keeps (ctx page acc : Nat) (s : State) : Keeps s (execTranslationWalk ctx page acc s) := by
  unfold execTranslationWalk
  dsimp only
  repeat' split
  all_goals exact .next (fun h => by grind [walkFault_wf, cacheLeaf_mem, tick_mem])

theorem execTrapEntry_keeps (blk tidx : Nat) (s : State) : Keeps s (execTrapEntry blk tidx s) := by
  unfold execTrapEntry
  split
  · exact .idle
  split
  · exact .idle
  split
  · exact .idle
  split
  · exact .idle
  split
  · exact .tick (preemptAgain_wf _ _ _)
  split
  · split
    · exact .tick fun h => enterHandler_wf _ _ _ _ (by simpa using h)
    · exact .tick (enterHandler_wf _ _ _ _)
  · exact .tick (enterHandler_wf _ _ _ _)

theorem execCopyLanding_keeps (cmd target first count : Nat) (s : State) :
    Keeps s (execCopyLanding cmd target first count s) := by
  unfold execCopyLanding
  dsimp only
  repeat' split
  all_goals exact .next (fun h => by grind [engineError_wf, foldl_wf, landOn_wf, movePiece_wf, countLanding_mem, dropCmd_mem,
    foldl_mem, mapCmd_mem, releaseSlot_mem, tick_mem])

theorem execTimedCommandStart_keeps (cmd : Nat) (s : State) : Keeps s (execTimedCommandStart cmd s) := by
  unfold execTimedCommandStart
  repeat' split
  all_goals exact .next (fun h => by simpa using h)

theorem execEngineFault_keeps (cmd : Nat) (ecc : Bool) (s : State) : Keeps s (execEngineFault cmd ecc s) := by
  unfold execEngineFault
  split
  · exact .idle
  split
  · exact .idle
  split
  · exact .tick (commandFault_wf _ _ _)
  split
  · exact .idle
  split
  · exact .idle
  · exact .tick fun h => wf_ite (commandFault_wf _ _ _ h) h

theorem execGleanerWalk_keeps (cmd : Nat) (s : State) : Keeps s (execGleanerWalk cmd s) := by
  unfold execGleanerWalk
  repeat' split
  all_goals exact .next (fun h => by grind [engineError_wf, dropCmd_mem, mapBlock_mem, mapCmd_mem, tick_mem])

theorem execSheafReplay_keeps (cmd : Nat) (s : State) : Keeps s (execSheafReplay cmd s) := by
  unfold execSheafReplay
  dsimp only
  repeat' split
  all_goals exact .next (fun h => by grind [engineArrive_wf, engineError_wf, resetBin_wf, writeRun_wf, dropCmd_mem,
    mapCmd_mem, tick_mem])

theorem execCollectiveExchange_keeps (cmd : Nat) (peers : List Peer) (s : State) :
    Keeps s (execCollectiveExchange cmd peers s) := by
  unfold execCollectiveExchange
  dsimp only
  repeat' split
  all_goals exact .next (fun h => by simpa using h)

theorem execFlagFlit_keeps (cmd : Nat) (bad : Bool) (s : State) : Keeps s (execFlagFlit cmd bad s) := by
  unfold execFlagFlit
  repeat' split
  all_goals exact .next (fun h => by grind [collError_wf, writeSpan_wf, mapCmd_mem, tick_mem])

theorem execCollectiveEnd_keeps (cmd : Nat) (lost : Bool) (s : State) : Keeps s (execCollectiveEnd cmd lost s) := by
  unfold execCollectiveEnd
  dsimp only
  repeat' split
  all_goals exact .next (fun h => by grind [collDone_wf, collError_wf, commitUpdate_wf, partialWrites_wf, writeSpan_wf,
    mapCmd_mem, tick_mem])

theorem execDrainExecute_keeps (cmd : Nat) (s : State) : Keeps s (execDrainExecute cmd s) := by
  unfold execDrainExecute
  dsimp only
  repeat' split
  all_goals exact .next (fun h => by grind [drainCells_wf, engineArrive_wf, engineError_wf, cleanAll_mem, dropCmd_mem,
    mapSlot_mem, tick_mem])

theorem execEnginePassGrant_keeps (cluster : Nat) (s : State) : Keeps s (execEnginePassGrant cluster s) := by
  unfold execEnginePassGrant
  dsimp only
  repeat' split
  all_goals exact .next (fun h => by simpa using h)

theorem execClassAgeing_keeps (cluster entry : Nat) (s : State) : Keeps s (execClassAgeing cluster entry s) :=
  .next id

theorem execCtrsBarrierArrival_keeps (blk tidx op : Nat) (s : State) : Keeps s (execCtrsBarrierArrival blk tidx op s) := by
  unfold execCtrsBarrierArrival
  dsimp only
  repeat' split
  all_goals exact .next (fun h => by grind [getD_wf, phaseTest_wf, settled_wf, takeTrap_wf, fillContrib_mem, mapBlock_mem,
    mapThread_mem, tick_mem])

theorem execInstanceClose_keeps (blk slot : Nat) (s : State) : Keeps s (execInstanceClose blk slot s) := by
  unfold execInstanceClose
  split
  · split
    · exact .tick fun h => wf_ite (by simpa using h) h
    · exact .idle
  · exact .idle

theorem execSectionCommit_keeps (cluster slot : Nat) (s : State) : Keeps s (execSectionCommit cluster slot s) := by
  unfold execSectionCommit
  split
  · exact .tick fun h => wf_ite (commitSection_wf _ _ h) h
  · exact .idle

theorem execAbortDelivery_keeps (blk tidx : Nat) (s : State) : Keeps s (execAbortDelivery blk tidx s) := by
  unfold execAbortDelivery
  split
  · exact .idle
  split
  · exact .idle
  split
  · exact .tick (deliverAbort_wf _ _ _ _)
  · exact .idle

theorem execRemotePatienceExpired_keeps (blk tidx : Nat) (s : State) : Keeps s (execRemotePatienceExpired blk tidx s) := by
  unfold execRemotePatienceExpired
  split
  · split
    · exact .tick fun h => by simpa using h
    · exact .idle
  · exact .idle

theorem execBlockRetire_keeps (blk : Nat) (s : State) : Keeps s (execBlockRetire blk s) := by
  unfold execBlockRetire
  split
  · exact .idle
  · exact .tick fun h => wf_ite (by simpa using h) h

theorem execRetireMsg_keeps (blk : Nat) (s : State) : Keeps s (execRetireMsg blk s) := by
  unfold execRetireMsg
  dsimp only
  repeat' split
  all_goals exact .next (fun h => by grind [takeRetire_wf, mapLink_mem, tick_mem])

theorem execCompletionBitMessage_keeps (lid bit : Nat) (s : State) : Keeps s (execCompletionBitMessage lid bit s) := by
  unfold execCompletionBitMessage
  split
  · exact .idle
  split
  · exact .idle
  · exact .tick fun h => setBit_wf _ _ _ _ (by simpa using h)

theorem execFinalReport_keeps (dev lid done killed never : Nat) (faults : List FaultEntry) (counts : FaultCounts) (s : State) :
    Keeps s (execFinalReport dev lid done killed never faults counts s) := by
  unfold execFinalReport
  split
  · exact .idle
  split
  · exact .idle
  split
  · split
    · exact .tick fun h => decidePod_wf _ _ (by simpa using h)
    · exact .idle
  split
  · exact .tick fun h => decidePod_wf _ _ (by simpa using h)
  · exact .idle

theorem execCompletionForward_keeps (lid : Nat) (sent : PodDone) (s : State) : Keeps s (execCompletionForward lid sent s) := by
  unfold execCompletionForward
  dsimp only
  repeat' split
  all_goals exact .next (fun h => by grind [decidePod_wf, flushBits_wf, writeCompletion_wf, mapLaunch_mem, tick_mem])

theorem execFrontEndRound_keeps (s : State) : Keeps s (execFrontEndRound s) := by
  unfold execFrontEndRound
  exact .next (fun h => by grind [round_wf, settleLaunches_wf, tick_mem])

theorem execSubmitLaunch_keeps (q : Nat) (s : State) : Keeps s (execSubmitLaunch q s) := by
  unfold execSubmitLaunch
  exact .next (fun h => by grind [serveEntry_wf, tick_mem])

theorem execSubmitCancel_keeps (q : Nat) (s : State) : Keeps s (execSubmitCancel q s) := by
  unfold execSubmitCancel
  exact .next (fun h => by grind [serveEntry_wf, tick_mem])

theorem execSubmitKill_keeps (q : Nat) (s : State) : Keeps s (execSubmitKill q s) := by
  unfold execSubmitKill
  exact .next (fun h => by grind [serveEntry_wf, tick_mem])

theorem execEntryReserved_keeps (q : Nat) (s : State) : Keeps s (execEntryReserved q s) := by
  unfold execEntryReserved
  exact .next (fun h => by grind [serveEntry_wf, tick_mem])

theorem execPrologueStart_keeps (lid : Nat) (s : State) : Keeps s (execPrologueStart lid s) := by
  unfold execPrologueStart
  repeat' split
  all_goals exact .next (fun h => by simpa using h)

theorem execPrologueBudgetExpired_keeps (lid : Nat) (s : State) : Keeps s (execPrologueBudgetExpired lid s) := by
  unfold execPrologueBudgetExpired
  split
  · exact .idle
  split
  · exact .idle
  · exact .tick fun h => decideEnd_wf _ _ (takeTrap_wf _ _ _ _ _ _ h)

theorem execStartTimeReached_keeps (lid : Nat) (s : State) : Keeps s (execStartTimeReached lid s) := by
  unfold execStartTimeReached
  split
  · exact .idle
  split
  · exact .tick id
  · exact .idle

theorem execLaunchRelease_keeps (lid : Nat) (s : State) : Keeps s (execLaunchRelease lid s) := by
  unfold execLaunchRelease
  split
  · exact .idle
  · exact .tick fun h => wf_ite (by simpa using h) h

theorem execPodSubmit_keeps (dev ctx : Nat) (record : Submission) (s : State) : Keeps s (execPodSubmit dev ctx record s) := by
  unfold execPodSubmit
  dsimp only
  repeat' split
  all_goals exact .next (fun h => by grind [podAnswer_wf, receivePod_wf, takeOutbox_mem, tick_mem])

theorem execPodRecordReceive_keeps (podSeq ctx dev : Nat) (record params : List Byte) (s : State) :
    Keeps s (execPodRecordReceive podSeq ctx dev record params s) := by
  unfold execPodRecordReceive
  split
  · exact .idle
  split
  · split
    · exact .idle
    split
    · exact .tick fun h => by simpa using h
    · exact .idle
  split
  · exact .tick (acceptPods_wf _)
  · exact .tick (receivePod_wf _ _)

theorem execRangeRequest_keeps (dev lid want : Nat) (s : State) : Keeps s (execRangeRequest dev lid want s) := by
  unfold execRangeRequest
  dsimp only
  repeat' split
  all_goals exact .next (fun h => by simpa using h)

theorem execRangeDeal_keeps (lid first count : Nat) (s : State) : Keeps s (execRangeDeal lid first count s) := by
  unfold execRangeDeal
  dsimp only
  repeat' split
  all_goals exact .next (fun h => by simpa using h)

theorem execSplitRequest_keeps (dev lid : Nat) (s : State) : Keeps s (execSplitRequest dev lid s) := by
  unfold execSplitRequest
  repeat' split
  all_goals exact .next (fun h => by grind [donate_mem, mapLaunch_mem, tick_mem])

theorem execSplitReturn_keeps (dev lid first count : Nat) (s : State) : Keeps s (execSplitReturn dev lid first count s) := by
  unfold execSplitReturn
  repeat' split
  all_goals exact .next (fun h => by grind [decidePod_wf, getD_wf, mapLaunch_mem, tick_mem])

theorem execPodCancel_keeps (lid : Nat) (hard : Bool) (s : State) : Keeps s (execPodCancel lid hard s) := by
  unfold execPodCancel
  split
  · exact .idle
  · exact .tick fun h => wf_ite (cancelPod_wf _ _ _ h) h

theorem execUnitHandoff_keeps (lid : Nat) (s : State) : Keeps s (execUnitHandoff lid s) := by
  unfold execUnitHandoff
  repeat' split
  all_goals exact .next (fun h => by simpa using h)

theorem execPlacementRound_keeps (cluster : Nat) (s : State) : Keeps s (execPlacementRound cluster s) := by
  unfold execPlacementRound
  exact .next (fun h => by grind [placementRound_wf, tick_mem])

theorem execPlacementTimer_keeps (cluster : Nat) (s : State) : Keeps s (execPlacementTimer cluster s) := by
  unfold execPlacementTimer
  exact .next (fun h => by grind [placementRound_wf, tick_mem])

theorem execDieGangAck_keeps (gang cluster : Nat) (s : State) : Keeps s (execDieGangAck gang cluster s) := by
  unfold execDieGangAck
  repeat' split
  all_goals exact .next (fun h => by simpa using h)

theorem execGangStarved_keeps (gang : Nat) (s : State) : Keeps s (execGangStarved gang s) := by
  unfold execGangStarved
  split
  · exact .idle
  split
  · exact .tick fun h => by simpa using h
  · exact .idle

theorem tellVictims_mem (bs : List Block) (s : State) : (bs.foldl (fun s b => s.tell b.cluster 3 b.id) s).mem = s.mem :=
  foldl_mem _ (fun s b => tell_mem s _ _ _) _ _

theorem execGangPreemptTrigger_keeps (gang : Nat) (s : State) : Keeps s (execGangPreemptTrigger gang s) := by
  unfold execGangPreemptTrigger
  split
  · exact .idle
  extract_lets busy out bs
  split
  · exact .idle
  split
  · exact .idle
  · refine .tick fun h => ?_
    rw [tellVictims_mem]
    exact getD_wf h (fun t ht => by rwa [reserveSave_mem _ ht])

theorem execResidueWrite_keeps (blk : Nat) (s : State) : Keeps s (execResidueWrite blk s) := by
  unfold execResidueWrite
  split
  · exact .idle
  split
  · exact .idle
  split
  · exact .tick (startSaving_wf _ _)
  split
  · exact .tick (writeResidue_wf _ _)
  · exact .idle

theorem execHaltComplete_keeps (n : Nat) (s : State) : Keeps s (execHaltComplete n s) := by
  unfold execHaltComplete
  exact .next (fun h => by grind [completeHalt_wf, tick_mem])

theorem execSwapDone_keeps (n : Nat) (s : State) : Keeps s (execSwapDone n s) := by
  unfold execSwapDone
  exact .next (fun h => by grind [mapPartition_mem, tick_mem])

theorem execLinkDown_keeps (port : Nat) (s : State) : Keeps s (execLinkDown port s) := by
  unfold execLinkDown
  repeat' split
  all_goals exact .next (fun h => by grind [leavePod_wf, tick_mem])

theorem execClusterFailure_keeps (cluster reason : Nat) (s : State) : Keeps s (execClusterFailure cluster reason s) := by
  unfold execClusterFailure
  exact .next (fun h => by grind [failCluster_wf, tick_mem])

theorem execCairnTimeout_keeps (cluster : Nat) (s : State) : Keeps s (execCairnTimeout cluster s) := by
  unfold execCairnTimeout
  exact .next (fun h => by grind [failCluster_wf, tick_mem])

theorem execPlaceMsg_keeps (cluster : Nat) (m : Msg) (s : State) : Keeps s (execPlaceMsg cluster m s) := by
  refine message_keeps _ m _ (fun t h => ?_) s
  split
  · exact h
  split
  · exact wf_ite h (by simpa using h)
  · exact h

theorem killGang_mem (bs : List Block) (s : State) : (bs.foldl State.kill s).mem = s.mem :=
  foldl_mem _ (fun s b => kill_mem s b) _ _

theorem execKillMsg_keeps (cluster : Nat) (m : Msg) (s : State) : Keeps s (execKillMsg cluster m s) := by
  refine message_keeps _ m _ (fun t h => ?_) s
  split
  · exact h
  split
  · exact h
  · exact decideEnd_wf _ _ (by rwa [dropGangs_mem, killGang_mem])

theorem execPreemptMsg_keeps (cluster : Nat) (m : Msg) (s : State) : Keeps s (execPreemptMsg cluster m s) := by
  refine message_keeps _ m _ (fun t h => ?_) s
  split
  · exact h
  · exact wf_ite (by simpa using h) (wf_ite (by simpa using h) h)

theorem execFaultMsg_keeps (cluster : Nat) (m : Msg) (s : State) : Keeps s (execFaultMsg cluster m s) := by
  exact message_keeps _ m _ (fun t h => h) s

theorem execPatchMsg_keeps (cluster : Nat) (m : Msg) (s : State) : Keeps s (execPatchMsg cluster m s) := by
  exact message_keeps _ m _ (fun t h => wf_ite (by simpa using h) h) s

theorem execPermitMsg_keeps (cluster : Nat) (m : Msg) (s : State) : Keeps s (execPermitMsg cluster m s) := by
  exact message_keeps _ m _ (fun t h => h) s

theorem execAckMsg_keeps (cluster : Nat) (m : Msg) (s : State) : Keeps s (execAckMsg cluster m s) := by
  unfold execAckMsg
  extract_lets what
  clear_value what
  exact message_keeps _ m _ (fun t h => wf_ite h (by simpa using h)) s

theorem execMessageUnknown_keeps (cluster : Nat) (m : Msg) (s : State) : Keeps s (execMessageUnknown cluster m s) := by
  unfold execMessageUnknown
  dsimp only
  repeat' split
  all_goals exact .next (fun h => by grind [linkError_wf, mapLink_mem, tick_mem])

theorem execPermitTimeout_keeps (cluster : Nat) (toCairn : Bool) (s : State) :
    Keeps s (execPermitTimeout cluster toCairn s) := by
  unfold execPermitTimeout
  dsimp only
  repeat' split
  all_goals exact .next (fun h => by simpa using h)

theorem execSubmissionDoorbell_keeps (q : Nat) (v : W64) (s : State) : Keeps s (execSubmissionDoorbell q v s) := by
  exact .tick fun h => doorbell_wf _ _ _ _ (fun t i h => wf_ite (haltQueue_wf _ _ h) (by simpa using h)) h

theorem execCompletionDoorbell_keeps (q : Nat) (v : W64) (s : State) : Keeps s (execCompletionDoorbell q v s) := by
  exact .tick fun h => doorbell_wf _ _ _ _ (fun t i h => wf_ite (haltQueue_wf _ _ h) (by simpa using h)) h

theorem execQtbaseWrite_keeps (v : W64) (s : State) : Keeps s (execQtbaseWrite v s) := by
  unfold execQtbaseWrite
  exact .next (fun h => by grind [tick_mem])

theorem execPmaskWrite_keeps (n : Nat) (v : W64) (s : State) : Keeps s (execPmaskWrite n v s) := by
  unfold execPmaskWrite
  exact .next (fun h => by simpa using h)

theorem execPctlBind_keeps (n : Nat) (v : W64) (s : State) : Keeps s (execPctlBind n v s) := by
  unfold execPctlBind
  exact .next (fun h => by simpa using h)

theorem execPctlHalt_keeps (n : Nat) (v : W64) (s : State) : Keeps s (execPctlHalt n v s) := by
  unfold execPctlHalt
  exact .next (fun h => by simpa using h)

theorem execPctlRun_keeps (n : Nat) (v : W64) (s : State) : Keeps s (execPctlRun n v s) := by
  unfold execPctlRun
  exact .next (fun h => by simpa using h)

theorem execShadowSwap_keeps (n : Nat) (v : W64) (s : State) : Keeps s (execShadowSwap n v s) := by
  unfold execShadowSwap
  dsimp only
  repeat' split
  all_goals exact .next (fun h => by simpa using h)

theorem execResumeReplay_keeps (ctx : Nat) (v : W64) (s : State) : Keeps s (execResumeReplay ctx v s) := by
  unfold execResumeReplay
  exact .next (fun h => by grind [resume_wf, tick_mem])

theorem execResumeFail_keeps (ctx : Nat) (v : W64) (s : State) : Keeps s (execResumeFail ctx v s) := by
  unfold execResumeFail
  exact .next (fun h => by grind [resume_wf, tick_mem])

theorem execTranslationInvalidate_keeps (v : W64) (s : State) : Keeps s (execTranslationInvalidate v s) := by
  unfold execTranslationInvalidate
  split
  · exact .idle
  · exact .tick id

theorem execXinvDone_keeps (s : State) : Keeps s (execXinvDone s) := by
  unfold execXinvDone
  split
  · exact .idle
  · exact .tick id

theorem execRegisterWrite_keeps (off : Nat) (v : W64) (s : State) : Keeps s (execRegisterWrite off v s) := by
  unfold execRegisterWrite
  exact .next (fun h => by simpa using h)

theorem execCounterClear_keeps (cluster sched : Nat) (v : W64) (s : State) : Keeps s (execCounterClear cluster sched v s) := by
  unfold execCounterClear
  exact .next (fun h => by simpa using h)

theorem execCounterFreeze_keeps (cluster sched : Nat) (v : W64) (s : State) :
    Keeps s (execCounterFreeze cluster sched v s) := by
  unfold execCounterFreeze
  exact .next (fun h => by simpa using h)

theorem execSampleLatch_keeps (cluster sched : Nat) (s : State) : Keeps s (execSampleLatch cluster sched s) := by
  unfold execSampleLatch
  exact .next (fun h => by grind [mapSched_mem, tick_mem])

theorem execHperrRead_keeps (s : State) : Keeps s (execHperrRead s) :=
  .next id

theorem execHealthRead_keeps (cluster : Nat) (s : State) : Keeps s (execHealthRead cluster s) := by
  unfold execHealthRead
  exact .next (fun h => by grind [mapCluster_mem, tick_mem])

theorem execTraceHeadWrite_keeps (ctx : Nat) (v : W64) (s : State) : Keeps s (execTraceHeadWrite ctx v s) := by
  unfold execTraceHeadWrite
  exact .next (fun h => by grind [mapCtx_mem, tick_mem])

theorem execReplayStart_keeps (ctx : Nat) (v : W64) (s : State) : Keeps s (execReplayStart ctx v s) := by
  unfold execReplayStart
  exact .next (fun h => by grind [startReplay_wf, tick_mem])

theorem execPeerWrite_keeps (addr : Nat) (bytes : List Byte) (s : State) : Keeps s (execPeerWrite addr bytes s) := by
  unfold execPeerWrite
  dsimp only
  repeat' split
  all_goals exact .next (fun h => by grind [finishAct_wf, getD_wf, hostWrite_wf, oneGrad_wf, performAtom_wf, write_wf,
    hold_mem, note_mem, tick_mem, write_mem])

theorem execPortReadError_keeps (blk tidx op : Nat) (s : State) : Keeps s (execPortReadError blk tidx op s) :=
  portRead_keeps _ _ _ _ s

theorem execPortReadTimeout_keeps (blk tidx op : Nat) (s : State) : Keeps s (execPortReadTimeout blk tidx op s) :=
  portRead_keeps _ _ _ _ s

theorem execPeerWriteRefused_keeps (blk tidx op : Nat) (s : State) : Keeps s (execPeerWriteRefused blk tidx op s) := by
  unfold execPeerWriteRefused
  repeat' split
  all_goals exact .next (fun h => by grind [finishAct_wf, mapThread_mem, portCount_mem, tick_mem])

theorem execFlitCrcError_keeps (port : Flit) (s : State) : Keeps s (execFlitCrcError port s) := by
  unfold execFlitCrcError
  dsimp only
  repeat' split
  all_goals exact .next (fun h => by simpa using h)

theorem execDeviceLeavesPod_keeps (dev : Nat) (s : State) : Keeps s (execDeviceLeavesPod dev s) := by
  unfold execDeviceLeavesPod
  exact .next (fun h => by grind [leavePod_wf, tick_mem])

theorem execHeartbeatMissed_keeps (s : State) : Keeps s (execHeartbeatMissed s) := by
  unfold execHeartbeatMissed
  exact .next (fun h => by simpa using h)

theorem execSelfTestPass_keeps (s : State) : Keeps s (execSelfTestPass s) := by
  unfold execSelfTestPass
  exact .next (fun h => by grind [mapFw_mem, startMassif_mem, stopMassif_mem, takeOver_mem, tick_mem])

theorem execResetEvent_keeps (s : State) : Keeps s (execResetEvent s) := by
  unfold execResetEvent
  exact .next (fun h => by grind [reset_wf, startMassif_mem, tick_mem])

theorem execMinverWrite_keeps (v : W64) (s : State) : Keeps s (execMinverWrite v s) :=
  .next id

theorem execPatchStart_keeps (v : W64) (s : State) : Keeps s (execPatchStart v s) := by
  unfold execPatchStart
  repeat' split
  all_goals exact .next (fun h => by simpa using h)

theorem execPatchVerify_keeps (s : State) : Keeps s (execPatchVerify s) := by
  unfold execPatchVerify
  exact .next (fun h => by grind [mapFw_mem, tick_mem])

theorem execPatchSwap_keeps (s : State) : Keeps s (execPatchSwap s) := by
  unfold execPatchSwap
  repeat' split
  all_goals exact .next (fun h => by grind [countActive_mem, holdCall_mem, mapFw_mem, tellPatch_mem, tick_mem])

theorem execPatchTimeout_keeps (s : State) : Keeps s (execPatchTimeout s) := by
  unfold execPatchTimeout
  exact .next (fun h => by grind [mapFw_mem, tick_mem])

theorem execPatchComplete_keeps (s : State) : Keeps s (execPatchComplete s) := by
  unfold execPatchComplete
  exact .next (fun h => by grind [mapFw_mem, tick_mem])

theorem execAttestRequest_keeps (v : W64) (s : State) : Keeps s (execAttestRequest v s) := by
  unfold execAttestRequest
  split
  · exact .idle
  split
  · exact .tick id
  · exact .tick fun h => write_wf _ _ _ _ h

theorem execCertificateRequest_keeps (v : W64) (s : State) : Keeps s (execCertificateRequest v s) := by
  unfold execCertificateRequest
  split
  · exact .idle
  · exact .tick fun h => write_wf _ _ _ _ h

theorem execThermalStep_keeps (temp : Nat) (s : State) : Keeps s (execThermalStep temp s) := by
  unfold execThermalStep
  exact .next (fun h => by grind [tick_mem])

theorem execThermalShutdown_keeps (s : State) : Keeps s (execThermalShutdown s) :=
  .next id

theorem execCancelBroadcastReceipt_keeps (lid : Nat) (hard : Bool) (s : State) :
    Keeps s (execCancelBroadcastReceipt lid hard s) := by
  unfold execCancelBroadcastReceipt
  exact .next (fun h => by grind [cancelPod_wf, tick_mem])

theorem execActiveCoreError_keeps (s : State) : Keeps s (execActiveCoreError s) := by
  unfold execActiveCoreError
  exact .next (fun h => by simpa using h)

theorem execRidgeActivation_keeps (dev : Nat) (s : State) : Keeps s (execRidgeActivation dev s) := by
  unfold execRidgeActivation
  repeat' split
  all_goals exact .next (fun h => by simpa using h)

theorem exec_keeps (i : Instr) (s : State) : Keeps s (exec i s) := by
  cases i with
  | nop w => exact execNop_keeps w s
  | bra w => exact execBra_keeps w s
  | brx w => exact execBrx_keeps w s
  | call w => exact execCall_keeps w s
  | callx w => exact execCallx_keeps w s
  | ret w => exact execRet_keeps w s
  | exit w => exact execExit_keeps w s
  | join w => exact execJoin_keeps w s
  | jmset w => exact execJmset_keeps w s
  | jmget w => exact execJmget_keeps w s
  | yield w => exact execYield_keeps w s
  | waitc w => exact execWaitc_keeps w s
  | waitt w => exact execWaitt_keeps w s
  | bpt w => exact execBpt_keeps w s
  | trap w => exact execTrap_keeps w s
  | eret w => exact execEret_keeps w s
  | iadd w => exact execIadd_keeps w s
  | isub w => exact execIsub_keeps w s
  | imul w => exact execImul_keeps w s
  | imulh w => exact execImulh_keeps w s
  | imad w => exact execImad_keeps w s
  | imadw w => exact execImadw_keeps w s
  | imin w => exact execImin_keeps w s
  | imax w => exact execImax_keeps w s
  | iabs w => exact execIabs_keeps w s
  | iaddc w => exact execIaddc_keeps w s
  | lea w => exact execLea_keeps w s
  | idot4 w => exact execIdot4_keeps w s
  | isad w => exact execIsad_keeps w s
  | idiv w => exact execIdiv_keeps w s
  | irem w => exact execIrem_keeps w s
  | lut3 w => exact execLut3_keeps w s
  | shl w => exact execShl_keeps w s
  | shr w => exact execShr_keeps w s
  | sar w => exact execSar_keeps w s
  | rotl w => exact execRotl_keeps w s
  | funnel w => exact execFunnel_keeps w s
  | bprm w => exact execBprm_keeps w s
  | bfx w => exact execBfx_keeps w s
  | bfi w => exact execBfi_keeps w s
  | popc w => exact execPopc_keeps w s
  | clz w => exact execClz_keeps w s
  | brev w => exact execBrev_keeps w s
  | ffs w => exact execFfs_keeps w s
  | mov w => exact execMov_keeps w s
  | movw w => exact execMovw_keeps w s
  | sel w => exact execSel_keeps w s
  | icmp w => exact execIcmp_keeps w s
  | fcmp w => exact execFcmp_keeps w s
  | hcmp2 w => exact execHcmp2_keeps w s
  | dcmp w => exact execDcmp_keeps w s
  | plop w => exact execPlop_keeps w s
  | p2v w => exact execP2v_keeps w s
  | v2p w => exact execV2p_keeps w s
  | fclass w => exact execFclass_keeps w s
  | tqset w => exact execTqset_keeps w s
  | tqget w => exact execTqget_keeps w s
  | fadd w => exact execFadd_keeps w s
  | fmul w => exact execFmul_keeps w s
  | ffma w => exact execFfma_keeps w s
  | fmin w => exact execFmin_keeps w s
  | fmax w => exact execFmax_keeps w s
  | frnd w => exact execFrnd_keeps w s
  | fscale w => exact execFscale_keeps w s
  | fgetexp w => exact execFgetexp_keeps w s
  | fset w => exact execFset_keeps w s
  | fcpysgn w => exact execFcpysgn_keeps w s
  | hadd2 w => exact execHadd2_keeps w s
  | hmul2 w => exact execHmul2_keeps w s
  | hfma2 w => exact execHfma2_keeps w s
  | hmin2 w => exact execHmin2_keeps w s
  | hmax2 w => exact execHmax2_keeps w s
  | hdot2 w => exact execHdot2_keeps w s
  | dadd w => exact execDadd_keeps w s
  | dmul w => exact execDmul_keeps w s
  | dfma w => exact execDfma_keeps w s
  | dmin w => exact execDmin_keeps w s
  | dmax w => exact execDmax_keeps w s
  | cvt w => exact execCvt_keeps w s
  | cvtsc w => exact execCvtsc_keeps w s
  | packn w => exact execPackn_keeps w s
  | unpkn w => exact execUnpkn_keeps w s
  | fmset w => exact execFmset_keeps w s
  | fmget w => exact execFmget_keeps w s
  | rsqs w => exact execRsqs_keeps w s
  | rcps w => exact execRcps_keeps w s
  | sinr w => exact execSinr_keeps w s
  | cosr w => exact execCosr_keeps w s
  | ex2 w => exact execEx2_keeps w s
  | lg2 w => exact execLg2_keeps w s
  | tnh w => exact execTnh_keeps w s
  | sigm w => exact execSigm_keeps w s
  | shfl w => exact execShfl_keeps w s
  | xbf w => exact execXbf_keeps w s
  | vote w => exact execVote_keeps w s
  | redg w => exact execRedg_keeps w s
  | scang w => exact execScang_keeps w s
  | matchLanes w => exact execMatchLanes_keeps w s
  | elect w => exact execElect_keeps w s
  | topk w => exact execTopk_keeps w s
  | ld w => exact execLd_keeps w s
  | st w => exact execSt_keeps w s
  | lds w => exact execLds_keeps w s
  | sts w => exact execSts_keeps w s
  | ldp w => exact execLdp_keeps w s
  | stw2 w => exact execStw2_keeps w s
  | ldxp w => exact execLdxp_keeps w s
  | prf w => exact execPrf_keeps w s
  | cctlIvl w => exact execCctlIvl_keeps w s
  | cctlIva w => exact execCctlIva_keeps w s
  | cctlWbm w => exact execCctlWbm_keeps w s
  | cctlWim w => exact execCctlWim_keeps w s
  | ldsx w => exact execLdsx_keeps w s
  | stsx w => exact execStsx_keeps w s
  | tlk w => exact execTlk_keeps w s
  | ttag w => exact execTtag_keeps w s
  | tstat w => exact execTstat_keeps w s
  | tinv w => exact execTinv_keeps w s
  | hgl w => exact execHgl_keeps w s
  | hga w => exact execHga_keeps w s
  | hgw w => exact execHgw_keeps w s
  | atom w => exact execAtom_keeps w s
  | atomc w => exact execAtomc_keeps w s
  | atomf w => exact execAtomf_keeps w s
  | red w => exact execRed_keeps w s
  | redf w => exact execRedf_keeps w s
  | atoms w => exact execAtoms_keeps w s
  | atomw w => exact execAtomw_keeps w s
  | sha w => exact execSha_keeps w s
  | binit w => exact execBinit_keeps w s
  | arrv w => exact execArrv_keeps w s
  | pwait w => exact execPwait_keeps w s
  | ptest w => exact execPtest_keeps w s
  | fence w => exact execFence_keeps w s
  | xfence w => exact execXfence_keeps w s
  | acq w => exact execAcq_keeps w s
  | rel w => exact execRel_keeps w s
  | rbind w => exact execRbind_keeps w s
  | bexp w => exact execBexp_keeps w s
  | ctr w => exact execCtr_keeps w s
  | ctrs w => exact execCtrs_keeps w s
  | ctrsp w => exact execCtrsp_keeps w s
  | cwd w => exact execCwd_keeps w s
  | aalloc w => exact execAalloc_keeps w s
  | afree w => exact execAfree_keeps w s
  | azero w => exact execAzero_keeps w s
  | ald w => exact execAld_keeps w s
  | ast w => exact execAst_keeps w s
  | adrn w => exact execAdrn_keeps w s
  | astat w => exact execAstat_keeps w s
  | cpy w => exact execCpy_keeps w s
  | cpym w => exact execCpym_keeps w s
  | shf w => exact execShf_keeps w s
  | wnw w => exact execWnw_keeps w s
  | gln w => exact execGln_keeps w s
  | launch w => exact execLaunch_keeps w s
  | lctlCancel w => exact execLctlCancel_keeps w s
  | lctlKill w => exact execLctlKill_keeps w s
  | lctlQuery w => exact execLctlQuery_keeps w s
  | lpset w => exact execLpset_keeps w s
  | lendLaunch w => exact execLendLaunch_keeps w s
  | lendCancel w => exact execLendCancel_keeps w s
  | lendRepeat w => exact execLendRepeat_keeps w s
  | fxb w => exact execFxb_keeps w s
  | fxe w => exact execFxe_keeps w s
  | fxa w => exact execFxa_keeps w s
  | fxs w => exact execFxs_keeps w s
  | sread w => exact execSread_keeps w s
  | swrite w => exact execSwrite_keeps w s
  | isync w => exact execIsync_keeps w s
  | dbgmBrk w => exact execDbgmBrk_keeps w s
  | dbgmStepon w => exact execDbgmStepon_keeps w s
  | dbgmStepoff w => exact execDbgmStepoff_keeps w s
  | pairedWord p => exact execPairedWord_keeps p s
  | issueCycle core sched => exact execIssueCycle_keeps core sched s
  | yieldExpiry blk tidx => exact execYieldExpiry_keeps blk tidx s
  | resultWrite blk tidx => exact execResultWrite_keeps blk tidx s
  | loadReturn blk tidx op => exact execLoadReturn_keeps blk tidx op s
  | storePerformed blk tidx op => exact execStorePerformed_keeps blk tidx op s
  | commandAccept cmd => exact execCommandAccept_keeps cmd s
  | tileOpRetire blk tidx op => exact execTileOpRetire_keeps blk tidx op s
  | timeWaitExpiry blk tidx => exact execTimeWaitExpiry_keeps blk tidx s
  | translationWalk ctx page acc => exact execTranslationWalk_keeps ctx page acc s
  | trapEntry blk tidx => exact execTrapEntry_keeps blk tidx s
  | copyLanding cmd target first count => exact execCopyLanding_keeps cmd target first count s
  | timedCommandStart cmd => exact execTimedCommandStart_keeps cmd s
  | engineFault cmd ecc => exact execEngineFault_keeps cmd ecc s
  | gleanerWalk cmd => exact execGleanerWalk_keeps cmd s
  | sheafReplay cmd => exact execSheafReplay_keeps cmd s
  | collectiveExchange cmd peers => exact execCollectiveExchange_keeps cmd peers s
  | flagFlit cmd bad => exact execFlagFlit_keeps cmd bad s
  | collectiveEnd cmd lost => exact execCollectiveEnd_keeps cmd lost s
  | drainExecute cmd => exact execDrainExecute_keeps cmd s
  | enginePassGrant cluster => exact execEnginePassGrant_keeps cluster s
  | classAgeing cluster entry => exact execClassAgeing_keeps cluster entry s
  | ctrsBarrierArrival blk tidx op => exact execCtrsBarrierArrival_keeps blk tidx op s
  | instanceClose blk slot => exact execInstanceClose_keeps blk slot s
  | sectionCommit cluster slot => exact execSectionCommit_keeps cluster slot s
  | abortDelivery blk tidx => exact execAbortDelivery_keeps blk tidx s
  | remotePatienceExpired blk tidx => exact execRemotePatienceExpired_keeps blk tidx s
  | blockRetire blk => exact execBlockRetire_keeps blk s
  | retireMsg blk => exact execRetireMsg_keeps blk s
  | completionBitMessage lid bit => exact execCompletionBitMessage_keeps lid bit s
  | finalReport dev lid done killed never faults counts => exact execFinalReport_keeps dev lid done killed never faults counts s
  | completionForward lid sent => exact execCompletionForward_keeps lid sent s
  | frontEndRound  => exact execFrontEndRound_keeps  s
  | submitLaunch q => exact execSubmitLaunch_keeps q s
  | submitCancel q => exact execSubmitCancel_keeps q s
  | submitKill q => exact execSubmitKill_keeps q s
  | entryReserved q => exact execEntryReserved_keeps q s
  | prologueStart lid => exact execPrologueStart_keeps lid s
  | prologueBudgetExpired lid => exact execPrologueBudgetExpired_keeps lid s
  | startTimeReached lid => exact execStartTimeReached_keeps lid s
  | launchRelease lid => exact execLaunchRelease_keeps lid s
  | podSubmit dev ctx record => exact execPodSubmit_keeps dev ctx record s
  | podRecordReceive podSeq ctx dev record params => exact execPodRecordReceive_keeps podSeq ctx dev record params s
  | rangeRequest dev lid want => exact execRangeRequest_keeps dev lid want s
  | rangeDeal lid first count => exact execRangeDeal_keeps lid first count s
  | splitRequest dev lid => exact execSplitRequest_keeps dev lid s
  | splitReturn dev lid first count => exact execSplitReturn_keeps dev lid first count s
  | podCancel lid hard => exact execPodCancel_keeps lid hard s
  | unitHandoff lid => exact execUnitHandoff_keeps lid s
  | placementRound cluster => exact execPlacementRound_keeps cluster s
  | placementTimer cluster => exact execPlacementTimer_keeps cluster s
  | dieGangAck gang cluster => exact execDieGangAck_keeps gang cluster s
  | gangStarved gang => exact execGangStarved_keeps gang s
  | gangPreemptTrigger gang => exact execGangPreemptTrigger_keeps gang s
  | residueWrite blk => exact execResidueWrite_keeps blk s
  | haltComplete n => exact execHaltComplete_keeps n s
  | swapDone n => exact execSwapDone_keeps n s
  | linkDown port => exact execLinkDown_keeps port s
  | clusterFailure cluster reason => exact execClusterFailure_keeps cluster reason s
  | cairnTimeout cluster => exact execCairnTimeout_keeps cluster s
  | placeMsg cluster m => exact execPlaceMsg_keeps cluster m s
  | killMsg cluster m => exact execKillMsg_keeps cluster m s
  | preemptMsg cluster m => exact execPreemptMsg_keeps cluster m s
  | faultMsg cluster m => exact execFaultMsg_keeps cluster m s
  | patchMsg cluster m => exact execPatchMsg_keeps cluster m s
  | permitMsg cluster m => exact execPermitMsg_keeps cluster m s
  | ackMsg cluster m => exact execAckMsg_keeps cluster m s
  | messageUnknown cluster m => exact execMessageUnknown_keeps cluster m s
  | permitTimeout cluster toCairn => exact execPermitTimeout_keeps cluster toCairn s
  | submissionDoorbell q v => exact execSubmissionDoorbell_keeps q v s
  | completionDoorbell q v => exact execCompletionDoorbell_keeps q v s
  | qtbaseWrite v => exact execQtbaseWrite_keeps v s
  | pmaskWrite n v => exact execPmaskWrite_keeps n v s
  | pctlBind n v => exact execPctlBind_keeps n v s
  | pctlHalt n v => exact execPctlHalt_keeps n v s
  | pctlRun n v => exact execPctlRun_keeps n v s
  | shadowSwap n v => exact execShadowSwap_keeps n v s
  | resumeReplay ctx v => exact execResumeReplay_keeps ctx v s
  | resumeFail ctx v => exact execResumeFail_keeps ctx v s
  | translationInvalidate v => exact execTranslationInvalidate_keeps v s
  | xinvDone  => exact execXinvDone_keeps  s
  | registerWrite off v => exact execRegisterWrite_keeps off v s
  | counterClear cluster sched v => exact execCounterClear_keeps cluster sched v s
  | counterFreeze cluster sched v => exact execCounterFreeze_keeps cluster sched v s
  | sampleLatch cluster sched => exact execSampleLatch_keeps cluster sched s
  | hperrRead  => exact execHperrRead_keeps  s
  | healthRead cluster => exact execHealthRead_keeps cluster s
  | traceHeadWrite ctx v => exact execTraceHeadWrite_keeps ctx v s
  | replayStart ctx v => exact execReplayStart_keeps ctx v s
  | peerWrite addr bytes => exact execPeerWrite_keeps addr bytes s
  | portReadError blk tidx op => exact execPortReadError_keeps blk tidx op s
  | portReadTimeout blk tidx op => exact execPortReadTimeout_keeps blk tidx op s
  | peerWriteRefused blk tidx op => exact execPeerWriteRefused_keeps blk tidx op s
  | flitCrcError port => exact execFlitCrcError_keeps port s
  | deviceLeavesPod dev => exact execDeviceLeavesPod_keeps dev s
  | heartbeatMissed  => exact execHeartbeatMissed_keeps  s
  | selfTestPass  => exact execSelfTestPass_keeps  s
  | resetEvent  => exact execResetEvent_keeps  s
  | minverWrite v => exact execMinverWrite_keeps v s
  | patchStart v => exact execPatchStart_keeps v s
  | patchVerify  => exact execPatchVerify_keeps  s
  | patchSwap  => exact execPatchSwap_keeps  s
  | patchTimeout  => exact execPatchTimeout_keeps  s
  | patchComplete  => exact execPatchComplete_keeps  s
  | attestRequest v => exact execAttestRequest_keeps v s
  | certificateRequest v => exact execCertificateRequest_keeps v s
  | thermalStep temp => exact execThermalStep_keeps temp s
  | thermalShutdown  => exact execThermalShutdown_keeps  s
  | cancelBroadcastReceipt lid hard => exact execCancelBroadcastReceipt_keeps lid hard s
  | activeCoreError  => exact execActiveCoreError_keeps  s
  | ridgeActivation dev => exact execRidgeActivation_keeps dev s

/-- What a fetch answers keeps the canonical form. -/
def FetchKeeps (s : State) : Fetched → Prop
  | .runs _ t => Memory.wf s.mem → Memory.wf t.mem
  | .ends t => Memory.wf s.mem → Memory.wf t.mem

theorem decodeFor_keeps {s t : State} (h : Memory.wf s.mem → Memory.wf t.mem) (u : Bundle) (m : Mode) (bs : List Byte) :
    FetchKeeps s (t.decodeFor u m bs) := by
  unfold State.decodeFor
  split
  · exact h
  · exact fun hs => takeTraps_wf _ _ _ (h hs)

theorem fetch_keeps (s : State) (u : Bundle) : FetchKeeps s (s.fetch u) := by
  have got {core ctx va : Nat} {sup : Bool} {bs : List Byte} {t : State} (ht : s.fetchBytes core ctx va sup = .ok (bs, t))
      (hs : Memory.wf s.mem) : Memory.wf t.mem := by rwa [fetchBytes_mem ht]
  unfold State.fetch
  split
  · exact id
  extract_lets va user sup try'
  split
  · split
    · rename_i ht
      exact decodeFor_keeps (got ht) _ _ _
    · exact fun h => fetchFault_wf _ _ _ _ _ _ h
  · split
    · rename_i ht
      exact decodeFor_keeps (got ht) _ _ _
    · exact fun h => fetchFault_wf _ _ _ _ _ _ h
  · split
    · rename_i ht
      exact decodeFor_keeps (got ht) _ _ _
    · rename_i ht
      dsimp only
      refine decodeFor_keeps ?_ _ _ _
      exact fun hs => fetchFault_wf _ _ _ _ _ _ (got ht hs)
    · exact fun h => fetchFault_wf _ _ _ _ _ _ h

theorem Keeps.wf {s t : State} {o : Host.Outcome State Fault Refusal} (h : Keeps s o) (ho : o = .next t) (hs : Memory.wf s.mem) :
    Memory.wf t.mem := by
  obtain ⟨t', rfl, ht⟩ := h
  cases ho
  exact ht hs

/-- A step of a machine that is alive answers a state and keeps the canonical form. -/
theorem step_keeps {s : State} (ha : s.alive = true) : Keeps s (step s) := by
  simp only [State.alive, Bool.and_eq_true, Bool.not_eq_true', bne_iff_ne, ne_eq] at ha
  obtain ⟨hoff, hboot⟩ := ha
  simp only [step, hoff, hboot, Bool.false_eq_true, if_false]
  split
  · rename_i u _
    have hk := fetch_keeps s u
    split
    · rename_i i t hf
      rw [hf] at hk
      obtain ⟨t', ht', hw⟩ := exec_keeps i t
      exact ⟨t', ht', hw ∘ hk⟩
    · rename_i t hf
      rw [hf] at hk
      exact .next hk
  · split
    · exact exec_keeps _ _
    · exact exec_keeps _ s

theorem step_dead {s : State} (ha : s.alive = false) : ¬ Answers s := by
  rintro ⟨t, ht⟩
  simp only [State.alive, Bool.and_eq_false_iff, Bool.not_eq_false', bne_eq_false_iff_eq] at ha
  by_cases hoff : s.off = true
  · simp [step, hoff] at ht
  · simp [step, hoff, ha.resolve_left hoff] at ht

/-- Settles O60: what each instruction, event and fetch writes keeps the canonical form (`exec_keeps`, `fetch_keeps`). -/
theorem memoryStaysCanonical : Obligations.MemoryStaysCanonical := by
  intro s t hs ht
  cases ha : s.alive with
  | true => exact (step_keeps ha).wf ht hs
  | false => exact absurd ⟨t, ht⟩ (step_dead ha)

/-- Settles O3: `exec_keeps` answers a state for every row, and a step only stops at power-off and a refused boot. -/
theorem everyInstructionAnswers : Obligations.EveryInstructionAnswers := by
  refine ⟨fun i s => ?_, fun s => ⟨fun h => ?_, fun h => ?_⟩⟩
  · obtain ⟨t, ht, -⟩ := exec_keeps i s
    exact ⟨t, ht⟩
  · by_contra ha
    exact step_dead (by simpa using ha) h
  · obtain ⟨t, ht, -⟩ := step_keeps h
    exact ⟨t, ht⟩

end Sys2Proof.Proofs
end


section
/-! The words that only compute: every bundle computes, and what their results do to the bypass slots (O7, O9, O16). -/

namespace Sys2Proof.Proofs

open Sys2Proof Sys2Proof.Machine Sys2Proof.Laws

/-- A word of `pureOf` runs its function. -/
theorem exec_pure {i : Instr} {w : Word} {g : Env → Res} (h : pureOf i = some (w, g)) (s : State) : exec i s = runPure i w g s := by
  unfold pureOf at h
  split at h
  case h_63 => cases h
  all_goals
    cases h
    rfl

/-- Its function reads the lane's own thread and no other thread of the block. -/
theorem pure_ignores_threads {i : Instr} {w : Word} {g : Env → Res} (h : pureOf i = some (w, g)) (b : Block) (ts : List Thread)
    (t : Thread) : g ⟨{ b with threads := ts }, t⟩ = g ⟨b, t⟩ := by
  unfold pureOf at h
  split at h
  case h_63 => cases h
  all_goals
    cases h
    rfl

theorem mem_of_sameBut {s t : State} (h : sameBut s t) : t.mem = s.mem := by
  unfold sameBut at h
  exact (congrArg State.mem h :)

theorem byte_of_sameBut {s t : State} (h : sameBut s t) (a : Nat) : t.byte a = s.byte a := by
  rw [State.byte, State.byte, mem_of_sameBut h]

/-- Settles O7: the lanes of a bundle one after the other, each of which reads its own thread only. -/
theorem plainWordsCompute : Obligations.PlainWordsCompute := by
  intro i w g s b u hi h
  obtain ⟨s', hs, hlanes, hsame⟩ := runPure_bundle h (pure_ignores_threads hi b)
  exact ⟨s', (exec_pure hi s).trans hs, hlanes, hsame, byte_of_sameBut hsame.1⟩

/-! ### The bypass slots (R122) -/

theorem setTuple_slots (vs : List W32) : ∀ (t : Thread) (n : Nat), (t.setTuple n vs).b1 = t.b1 ∧ (t.setTuple n vs).b2 = t.b2 ∧
    (t.setTuple n vs).b3 = t.b3 ∧ (t.setTuple n vs).tokens = t.tokens := by
  induction vs with
  | nil => exact fun _ _ => ⟨rfl, rfl, rfl, rfl⟩
  | cons v vs ih => exact fun t n => ih (t.setReg n v) (n + 1)

theorem result_slots (t : Thread) (d : Opd) (trn : Bool) (vs : List W32) :
    (t.result d trn vs).b1 = BitVec.ofNat 64 (wordsNat (vs.take 2)) ∧ (t.result d trn vs).b2 = t.b1 ∧
      (t.result d trn vs).b3 = t.b2 := by
  simp only [Thread.result]
  split
  · split
    · exact ⟨rfl, rfl, rfl⟩
    · obtain ⟨h1, h2, h3, -⟩ := setTuple_slots vs (t.shift (BitVec.ofNat 64 (wordsNat (vs.take 2))) trn) (by assumption)
      exact ⟨h1, h2, h3⟩
  · exact ⟨rfl, rfl, rfl⟩

theorem result_regs {t : Thread} {d : Opd} {trn : Bool} (h : d = .special 0 ∨ trn = true) (vs : List W32) :
    (t.result d trn vs).regs = t.regs := by
  simp only [Thread.result]
  obtain rfl | rfl := h
  · rfl
  · split <;> rfl

theorem setPreds_slots (ps : List (Nat × Bool)) : ∀ t : Thread, (t.setPreds ps).b1 = t.b1 ∧ (t.setPreds ps).b2 = t.b2 ∧
    (t.setPreds ps).b3 = t.b3 ∧ (t.setPreds ps).regs = t.regs := by
  induction ps with
  | nil => exact fun _ => ⟨rfl, rfl, rfl, rfl⟩
  | cons p ps ih =>
    intro t
    obtain ⟨h1, h2, h3, h4⟩ := ih (t.setPred p.1 p.2)
    have hp : (t.setPred p.1 p.2).b1 = t.b1 ∧ (t.setPred p.1 p.2).b2 = t.b2 ∧ (t.setPred p.1 p.2).b3 = t.b3 ∧
        (t.setPred p.1 p.2).regs = t.regs := by
      simp only [Thread.setPred]
      split <;> exact ⟨rfl, rfl, rfl, rfl⟩
    obtain ⟨p1, p2, p3, p4⟩ := hp
    exact ⟨h1.trans p1, h2.trans p2, h3.trans p3, h4.trans p4⟩

/-- The first two words of a result, as a bypass slot holds them. -/
theorem slot_words (v : W32) (vs : List W32) : BitVec.ofNat 64 (wordsNat ((v :: vs).take 2)) = vs.headD 0 ++ v := by
  have happ (x y : W32) : BitVec.ofNat 64 (y.toNat + 2 ^ 32 * x.toNat) = x ++ y := by
    apply BitVec.eq_of_toNat_eq
    rw [BitVec.toNat_ofNat, BitVec.toNat_append, ← Nat.shiftLeft_add_eq_or_of_lt y.isLt, Nat.shiftLeft_eq]
    have := x.isLt
    have := y.isLt
    omega
  cases vs with
  | nil => simpa [wordsNat] using happ 0 v
  | cons u us => simpa [wordsNat] using happ u v

theorem apply_some {t : Thread} {w : Word} {r : Res} {vs : List W32} (h : r.regs = some vs) :
    t.apply w r = ((t.result w.d w.hnt.trn vs).setPreds r.preds).flag r.flags := by rw [Thread.apply, h]

theorem apply_none {t : Thread} {w : Word} {r : Res} (h : r.regs = none) : t.apply w r = (t.setPreds r.preds).flag r.flags := by
  rw [Thread.apply, h]

/-- Settles O16: the slots after a result and after none. -/
theorem bypassSlotsShift : Obligations.BypassSlotsShift := by
  intro i w g s b t hi h
  refine ⟨_, _, (exec_pure hi s).trans (runPure_issues g h), thread_wentOn h (fun x => apply_tidx x w _), ?_⟩
  generalize g ⟨b, t⟩ = r
  refine ⟨fun v vs hr => ?_, fun hr => ?_, fun hd => ?_⟩
  · rw [apply_some hr]
    obtain ⟨p1, p2, p3, -⟩ := setPreds_slots r.preds (t.result w.d w.hnt.trn (v :: vs))
    obtain ⟨h1, h2, h3⟩ := result_slots t w.d w.hnt.trn (v :: vs)
    exact ⟨p3.trans h3, p2.trans h2, p1.trans (h1.trans (slot_words v vs))⟩
  · rw [apply_none hr]
    obtain ⟨p1, p2, p3, -⟩ := setPreds_slots r.preds t
    exact ⟨p1, p2, p3⟩
  · cases hr : r.regs with
    | none =>
      rw [apply_none hr]
      exact (setPreds_slots r.preds t).2.2.2
    | some vs =>
      rw [apply_some hr]
      exact (setPreds_slots r.preds _).2.2.2.trans (result_regs hd vs)

/-! ### A result moves the tokens of earlier arrivals down the slots (R237) -/

/-- IADD V1, V2, 5. -/
def addWord : Word := 
  { grd := ⟨false, 0⟩, hnt := ⟨0, false, false, false, false, false⟩, d := .reg 1, a := .reg 2, b := .imm 0, mod := 6, imm := 5 }

/-- A thread with an arrival of ARRV whose token is to come and stands in slot B1 by then. -/
def arriving : Thread :=
  { Thread.start 0 0 with tokens := [⟨0, 0, 0, 0, .arrive 1 0, none, 0, true, none⟩] }

/-- The block of one thread that `State.withLone` makes, with that thread, and the machine in which it issues. -/
def arrivingBlock : Block := { Block.lone 0 .running with threads := [arriving] }

def arrivingState : State :=
  { State.reset with blocks := [(0, arrivingBlock)], latch := some ⟨0, [0], 0⟩ }

theorem arriving_issues : bundleIssues arrivingState (.iadd addWord) addWord arrivingBlock ⟨0, [0], 0⟩ := by
  unfold bundleIssues laneReady unstepped
  refine ⟨rfl, rfl, by decide +kernel, by decide +kernel, by decide +kernel, fun k hk => ?_⟩
  obtain rfl : k = 0 := by simpa using hk
  exact ⟨arriving, by decide +kernel, rfl, by decide +kernel, by decide +kernel⟩

/-- A thread in the state that a word answers. -/
def threadAfter (o : Host.Outcome State Fault Refusal) (blk k : Nat) : Option Thread :=
  match o with
  | .next s => s.thread? blk k
  | _ => none

/-- Refutes O9: where the token of an earlier ARRV is still to come, the result of IADD moves it from slot B1 to B2, so the thread's
tokens change (R122, R237). -/
theorem not_plainWordsFrame : ¬ Obligations.PlainWordsFrame := by
  intro h
  obtain ⟨s', hs, -, -, hk⟩ := h (.iadd addWord) addWord _ arrivingState arrivingBlock ⟨0, [0], 0⟩ rfl arriving_issues
  obtain ⟨x, hx, -, -, -, -, -, -, -, -, -, -, -, -, -, -, htok, -⟩ := hk 0 (by simp) arriving rfl
  have hafter : (threadAfter (exec (.iadd addWord) arrivingState) 0 0).map Thread.tokens =
      some [⟨0, 0, 0, 0, .arrive 1 0, none, 1, true, none⟩] := by decide +kernel
  have hthread : threadAfter (exec (.iadd addWord) arrivingState) 0 0 = some x := by rw [hs]; exact hx
  rw [hthread, Option.map_some, htok] at hafter
  exact absurd hafter (by decide)

end Sys2Proof.Proofs
end


section
/-! Results of the words that compute: carries and addresses, shifts and fields, comparisons, conversions, special operands (O8, O13,
O14, O15, O17). -/

namespace Sys2Proof.Proofs

open Sys2Proof Sys2Proof.Machine Sys2Proof.Laws

/-! ### What a lane finds after a result (R97, R122, R151) -/

section
variable {s : State} {i : Instr} {w : Word} {b : Block} {t : Thread}

theorem pure_lands {g : Env → Res} (hi : pureOf i = some (w, g)) (h : issues s i w b t) :
    ∃ s', exec i s = .next s' ∧
      s'.thread? b.id t.tidx = some ((t.apply w (g ⟨b, t⟩)).passed (t.pc + 1) w.hnt.yld) :=
  ⟨_, (exec_pure hi s).trans (runPure_issues g h), thread_wentOn h (fun x => apply_tidx x w _)⟩

theorem took_pure {g : Env → Res} {n : Nat} {v : BitVec n} (hi : pureOf i = some (w, g)) (h : issues s i w b t)
    (hn : SlotWidth n) (hg : g ⟨b, t⟩ = resOf n v.toNat) :
    ∃ s' x, exec i s = .next s' ∧ s'.thread? b.id t.tidx = some x ∧ Took t x w v :=
  took_of_issues h (exec_pure hi s) hn hg

/-- A 32-bit result stands in B1. -/
theorem slot_pure {g : Env → Res} {v : W32} (hi : pureOf i = some (w, g)) (h : issues s i w b t)
    (hg : g ⟨b, t⟩ = resOf 32 v.toNat) :
    ∃ s' x, exec i s = .next s' ∧ s'.thread? b.id t.tidx = some x ∧ x.b1 = v.setWidth 64 := by
  obtain ⟨s', x, hs, hx, took⟩ := took_pure hi h (.inl rfl) hg
  exact ⟨s', x, hs, hx, took.b1⟩

end

theorem pred_setPred (t : Thread) (n p : Nat) (v : Bool) : (t.setPred n v).pred p = if p = n then p == 0 || v else t.pred p := by
  unfold Thread.setPred Thread.pred
  split
  · rename_i hn
    split
    · subst hn; simp_all
    · rfl
  · simp only [read_put]
    split <;> rfl

theorem pred_setTuple (vs : List W32) : ∀ (t : Thread) (n p : Nat), (t.setTuple n vs).pred p = t.pred p := by
  induction vs with
  | nil => exact fun _ _ _ => rfl
  | cons v vs ih => exact fun t n p => ih (t.setReg n v) (n + 1) p

theorem pred_result (t : Thread) (d : Opd) (trn : Bool) (vs : List W32) (p : Nat) : (t.result d trn vs).pred p = t.pred p := by
  simp only [Thread.result]
  split
  · split
    · rfl
    · exact pred_setTuple vs _ _ p
  · rfl

theorem reg_setPreds (ps : List (Nat × Bool)) (t : Thread) (r : Nat) : (t.setPreds ps).reg r = t.reg r := by
  rw [Thread.reg, Thread.reg, (setPreds_slots ps t).2.2.2]

theorem fst_setPred (t : Thread) (n : Nat) (v : Bool) : (t.setPred n v).fst = t.fst := by
  unfold Thread.setPred
  split <;> rfl

theorem setPreds_one (t : Thread) (n : Nat) (v : Bool) : t.setPreds [(n, v)] = t.setPred n v := rfl

/-- A result of one predicate and no register. -/
theorem apply_pred (t : Thread) (w : Word) (n : Nat) (v : Bool) (fl : W32) (pc : W32) (y : Bool) :
    let x := (t.apply w { preds := [(n, v)], flags := fl }).passed pc y
    (∀ p, x.pred p = if p = n then p == 0 || v else t.pred p) ∧ x.fst = t.fst ||| fl ∧ x.b1 = t.b1 ∧ x.regs = t.regs := by
  obtain ⟨h1, -, -, h4⟩ := setPreds_slots [(n, v)] t
  rw [apply_none rfl]
  exact ⟨fun p => pred_setPred t n p v, congrArg (· ||| fl) (fst_setPred t n v), h1, h4⟩

/-! ### IADDC and LEA (R156, R157) -/

theorem shiftLeft_eq_mul_pow (x : W64) (k : Nat) : x <<< k = x * BitVec.ofNat 64 (2 ^ k) := by
  apply BitVec.eq_of_toNat_eq
  simp [Nat.shiftLeft_eq, Nat.mul_mod]

/-- Settles O13: the sum and its carry, and the shifted offset, as registers and a predicate hold them. -/
theorem carriesAndAddresses : Obligations.CarriesAndAddresses := by
  refine ⟨?_, ?_⟩
  · intro w s b t d h hd htrn e cin q sum
    obtain ⟨s', hs, hx⟩ := pure_lands (g := iaddcRes w) rfl h
    have hsum : (e.word w.a 0).toNat + (if modB w 0 then ~~~(e.word w.b 0) else e.word w.b 0).toNat +
        (t.pred (immF w 0 7) != immB w 7).toNat = sum := by
      simp only [sum, q, cin]
      cases t.pred (immF w 0 7) != immB w 7 <;> rfl
    refine ⟨s', _, hs, hx, ?_, ?_⟩
    · rw [apply_some (vs := natWords 1 (sum % 2 ^ 32)) (by rw [← hsum]; rfl)]
      have hr := reg_result hd (natWords 1 (sum % 2 ^ 32)) 0 (by rw [length_natWords]; decide)
      rw [← htrn] at hr
      refine (reg_setPreds _ _ d).trans (hr.trans ?_)
      rw [getElem_natWords]
      apply BitVec.eq_of_toNat_eq
      simp
    · rw [apply_some (vs := natWords 1 (sum % 2 ^ 32)) (by rw [← hsum]; rfl)]
      refine (pred_setPred _ _ _ _).trans ?_
      rw [if_pos rfl, ← hsum]
  · intro w s b t d h hd htrn e off
    obtain ⟨s', x, hs, hx, took⟩ := took_pure (v := e.dword .unsigned w.a w.imm + off * BitVec.ofNat 64 (2 ^ modF w 0 3))
      (g := leaRes w) rfl h (.inr rfl) (by rw [← shiftLeft_eq_mul_pow]; rfl)
    refine ⟨s', x, hs, hx, ?_⟩
    have h0 := took.reg d hd htrn 0 (by decide)
    have h1 := took.reg d hd htrn 1 (by decide)
    rw [h1, ← Nat.add_zero d, h0]
    exact (BitVec.extractLsb'_append_extractLsb'_eq_extractLsb' rfl).trans (field_all _)

/-! ### Shifts and fields (R158 to R160) -/

theorem bitsOf_word (e : Env) (o : Opd) (imm : W32) : e.bitsOf 32 o imm = (e.word o imm).toNat := rfl

theorem shlN_eq (a : W32) (c : Nat) : shlN 32 a.toNat c = (a <<< c).toNat := by
  unfold shlN
  split
  · rename_i h
    rw [BitVec.shiftLeft_eq_zero h]
    rfl
  · exact (BitVec.toNat_shiftLeft).symm

theorem shrN_eq (a : W32) (c : Nat) : shrN 32 a.toNat c = (a >>> c).toNat := by
  unfold shrN
  split
  · rename_i h
    rw [BitVec.ushiftRight_eq_zero h]
    rfl
  · exact (BitVec.toNat_ushiftRight ..).symm

theorem sarN_eq (a : W32) (c : Nat) : sarN 32 a.toNat c = (a.sshiftRight c).toNat := by
  have hv : (ITy.mk true 32).value a.toNat = a.toInt := value_toNat true a
  rw [sarN, hv, image_eq_ofInt, BitVec.sshiftRight_eq, Int.shiftRight_eq_div_pow]
  congr 2
  obtain h | h := Nat.le_total c 32
  · rw [Nat.min_eq_left h]
  · rw [Nat.min_eq_right h]
    have h1 := a.toInt_lt
    have h2 := a.le_toInt
    have hp : (2 : Int) ^ 32 ≤ ((2 ^ c : Nat) : Int) := by exact_mod_cast Nat.pow_le_pow_right (by decide) h
    obtain hn | hn := Int.lt_or_le a.toInt 0
    · rw [Int.ediv_eq_neg_one_of_neg_of_le hn (by omega), Int.ediv_eq_neg_one_of_neg_of_le hn (by omega)]
    · rw [Int.ediv_eq_zero_of_lt hn (by omega), Int.ediv_eq_zero_of_lt hn (by omega)]

theorem rotlN_eq (a : W32) (c : Nat) : rotlN 32 a.toNat c = (a.rotateLeft (c % 32)).toNat := by
  have hlt : a.toNat >>> (32 - c % 32) < 2 ^ 32 := Nat.lt_of_le_of_lt (Nat.shiftRight_le ..) a.isLt
  rw [rotlN, BitVec.toNat_rotateLeft, Nat.or_mod_two_pow, Nat.mod_eq_of_lt hlt, Nat.mod_mod]

/-- FUNNEL clamped at 32 gives the other word. -/
theorem funnelRes_clamped {w : Word} (e : Env) (hclamp : modB w 1 = true) (hc : 32 ≤ (e.word w.c 0).toNat) :
    funnelRes w e = resOf 32 (if modB w 0 then e.word w.a 0 else e.word w.b 0).toNat := by
  simp only [funnelRes, hclamp, if_true, Nat.min_eq_right hc, Nat.shiftRight_eq_div_pow, Nat.shiftLeft_eq]
  refine congrArg (resOf 32) ?_
  have h1 := (e.word w.b 0).isLt
  have h2 := (e.word w.a 0).isLt
  split <;> omega

/-- BFX of no bits, or of bits beyond the width. -/
theorem bfxRes_empty {w : Word} (e : Env) (hty : modF w 0 3 % 4 = 2)
    (hk : (e.word w.b w.imm).toNat / 256 % 256 = 0 ∨ 32 ≤ (e.word w.b w.imm).toNat % 256) : bfxRes w e = resOf 32 0 := by
  have ht : (typeOf w).w = 32 := by simp [typeOf, ITy.ofCode, hty]
  have hk' : ((e.word w.b w.imm).extractLsb' 8 8).toNat = 0 ∨ 32 ≤ ((e.word w.b w.imm).extractLsb' 0 8).toNat := by
    simpa [BitVec.extractLsb'_toNat, Nat.shiftRight_eq_div_pow] using hk
  simp only [bfxRes, ht, if_pos hk']

/-- Settles O14: each result as a word of 32 bits. -/
theorem shiftsAndFields : Obligations.ShiftsAndFields := by
  intro i w s b t h hw e a c gives
  have hb : bitsW w = 32 := by simp [bitsW, hw]
  have lands {g : Env → Res} {v : W32} (hi : pureOf i = some (w, g)) (hg : g ⟨b, t⟩ = resOf 32 v.toNat) : gives v :=
    slot_pure hi h hg
  refine ⟨?_, ?_, ?_, ?_, ?_, ?_, ?_, ?_⟩
  · rintro rfl
    exact lands rfl (by rw [shiftRes, hb, bitsOf_word, shlN_eq])
  · rintro rfl
    exact lands rfl (by rw [shiftRes, hb, bitsOf_word, shrN_eq])
  · rintro rfl
    exact lands rfl (by rw [shiftRes, hb, bitsOf_word, sarN_eq])
  · rintro rfl
    exact lands rfl (by rw [shiftRes, hb, bitsOf_word, rotlN_eq])
  · rintro rfl
    exact lands rfl (by simp only [unaryRes, hb, bitsOf_word, Bool.false_eq_true, if_false]; rfl)
  · rintro rfl
    refine lands rfl ?_
    simp only [selRes, hb, bitsOf_word]
    exact congrArg (resOf 32) (by split <;> rfl)
  · rintro rfl hclamp hc
    exact lands rfl (funnelRes_clamped e hclamp hc)
  · rintro rfl hty hk
    exact lands rfl (bfxRes_empty e hty hk)

/-! ### Comparisons (R162, R163) -/

theorem combine_eq (c : Nat) (p r : Bool) : c < 4 →
    combine c p r = match c with
      | 0 => r
      | 1 => p && r
      | 2 => p || r
      | _ => p != r := by
  intro hc
  interval_cases c <;> rfl

theorem relation_compare (k : Nat) (x y : Int) : k < 6 →
    relation k (compare x y) = match k with
      | 0 => decide (x = y)
      | 1 => decide (x ≠ y)
      | 2 => decide (x < y)
      | 3 => decide (x ≤ y)
      | 4 => decide (y < x)
      | _ => decide (y ≤ x) := by
  intro hk
  obtain h | rfl | h := lt_trichotomy x y
  · rw [compare_lt_iff_lt.2 h]
    interval_cases k <;> simp [relation, h, h.ne, h.le, h.not_gt, h.not_ge]
  · rw [compare_eq_iff_eq.2 rfl]
    interval_cases k <;> simp [relation]
  · rw [compare_gt_iff_gt.2 h]
    interval_cases k <;> simp [relation, h, h.ne', h.le, h.not_gt, h.not_ge]

theorem typeOf_word {w : Word} (h : modF w 0 3 = 2 ∨ modF w 0 3 = 6) : typeOf w = ⟨decide (modF w 0 3 = 2), 32⟩ := by
  obtain h | h := h <;> simp [typeOf, ITy.ofCode, h]

theorem toNat_beq_zero (d : BitVec 8) : (d.toNat == 0) = (d == 0) := by
  rw [Bool.eq_iff_iff, beq_iff_eq, beq_iff_eq, ← BitVec.toNat_inj]
  rfl

/-- ICMP has one of the six relations (R162). -/
theorem icmp_relation {w : Word} (h : (Instr.icmp w).wf = true) : modF w 3 3 < 6 := by
  have hm := RoundTrip.modOk_of_wf (f := formIcmp w) rfl h
  simp only [formIcmp, formCmp, Bool.and_eq_true, decide_eq_true_eq] at hm
  exact hm.1.2

/-- The flags of FCMP where an operand is NaN (R163). -/
def nanFlags (w : Word) (p q : FVal) : W32 :=
  flagIf (p.isSnan || q.isSnan || (decide (2 ≤ modF w 3 3) && decide (modF w 3 3 ≤ 5))) flagNV

/-- What FCMP gives there, without CMB. -/
def nanRes (w : Word) (d : BitVec 8) (p q : FVal) : Res :=
  { preds := [(d.toNat, modF w 3 3 == 1 || modF w 3 3 == 7)], flags := nanFlags w p q }

/-- FTZ leaves a NaN as it is. -/
theorem readF_nan {f : Fmt} {ftz : Bool} {c : Nat} : (readF f ftz c).isNan = (f.value c).isNan ∧
    (readF f ftz c).isSnan = (f.value c).isSnan := by
  unfold readF
  dsimp only
  split
  · rename_i h
    simp only [Bool.and_eq_true, Fmt.subnormal, bne_iff_ne, beq_iff_eq] at h
    obtain ⟨-, ⟨he, hzero⟩, -⟩ := h
    have hone : (f.fields c).2.1 ≠ 2 ^ f.e - 1 := by
      have hp : 1 < 2 ^ f.e := Nat.one_lt_two_pow he
      rw [hzero]
      omega
    unfold Fmt.value
    cases hs : f.spec <;> simp [hone, FVal.isNan, FVal.isSnan]
  · exact ⟨rfl, rfl⟩

theorem fcmpRes_nan {w : Word} {d : BitVec 8} (e : Env) (hd : w.d = .reg d) (hc : modF w 8 2 = 0)
    (hnan : ((Fmt.f32.value (e.word w.a w.imm).toNat).isNan || (Fmt.f32.value (e.word w.b w.imm).toNat).isNan) = true) :
    fcmpRes w e = nanRes w d (Fmt.f32.value (e.word w.a w.imm).toNat) (Fmt.f32.value (e.word w.b w.imm).toNat) := by
  simp only [fcmpRes, compareF, readF_nan, hnan, if_true, cmpPred, hd, Thread.named, Option.getD_some, Nat.add_zero, hc, combine]
  rfl

/-- Settles O15: the predicate that each comparison gives, and the flags of FCMP. -/
theorem comparisonsSetPredicates : Obligations.ComparisonsSetPredicates := by
  refine ⟨?_, ?_⟩
  · intro w s b t d h hd hty e int x y r old v
    obtain ⟨s', hs, hx⟩ := pure_lands (g := icmpRes w) rfl h
    have hres : icmpRes w e = { preds := [(d.toNat, v)] } := by
      have hr : relation (modF w 3 3) (compare (e.int (typeOf w) w.a w.imm) (e.int (typeOf w) w.b w.imm)) = r := by
        simp only [typeOf_word hty, int_word, decide_eq_true_eq]
        exact relation_compare _ _ _ (icmp_relation (wf_of_issues h))
      simp only [icmpRes, cmpPred, hd, Thread.named, Option.getD_some, Nat.add_zero]
      rw [hr, combine_eq (modF w 8 2) _ _ (Nat.mod_lt _ (by decide))] <;> rfl
    refine ⟨s', _, hs, hx, ?_⟩
    obtain ⟨hp, hf, h1, hregs⟩ := apply_pred t w d.toNat v 0 (t.pc + 1) w.hnt.yld
    rw [show icmpRes w ⟨b, t⟩ = _ from hres]
    refine ⟨?_, hf.trans BitVec.or_zero, h1, hregs⟩
    rw [hp, if_pos rfl, toNat_beq_zero]
  · intro w s b t d h hd hne hc e p q hnan
    obtain ⟨s', hs, hx⟩ := pure_lands (g := fcmpRes w) rfl h
    have hres := fcmpRes_nan e hd hc hnan
    refine ⟨s', _, hs, hx, ?_⟩
    obtain ⟨hp, hf, -, -⟩ := apply_pred t w d.toNat (modF w 3 3 == 1 || modF w 3 3 == 7) (nanFlags w p q) (t.pc + 1) w.hnt.yld
    rw [show fcmpRes w ⟨b, t⟩ = _ from hres]
    refine ⟨(hp _).trans ?_, hf.trans ?_⟩
    · have hd0 : (d == 0) = false := by simpa using hne
      rw [if_pos rfl, toNat_beq_zero, hd0, Bool.false_or, Bool.decide_or, beq_eq_decide, beq_eq_decide]
    · simp [nanFlags, flagIf, flagNV, or_assoc]

/-! ### BPRM, conversions, special functions, FXS and SREAD (R135, R161) -/

section
variable {s : State} {i : Instr} {w : Word} {b : Block} {t : Thread} {g : State → Env → Except (Nat × Nat) Res}

/-- A word of `aluOf` runs its function. -/
theorem exec_alu (h : aluOf i = some (w, g)) (s : State) : exec i s = runAlu i w g s := by
  unfold aluOf at h
  split at h
  case h_16 => cases h
  case h_14 =>
    cases h
    show execFxs w s = _
    unfold execFxs
    congr 1
    funext s e
    cases s.sectionOf e.blk.id e.th.tidx <;> rfl
  all_goals
    cases h
    rfl

theorem runAlu_completes {r : Res} (h : issues s i w b t) (hr : g s ⟨b, t⟩ = .ok r) :
    runAlu i w g s = .next (wentOn s b t w (fun x => x.apply w r) (t.pc + 1)) := by
  rw [runAlu, runWord_done s (fun x => x.apply w r) (t.pc + 1) h (by dsimp only; rw [hr]) (fun x => apply_tidx x w _)
    (fun x hx => (apply_stepDue x w _).trans (issues_quiet h rfl x hx))]
  rfl

theorem runAlu_traps {c d : Nat} (h : issues s i w b t) (hr : g s ⟨b, t⟩ = .error (c, d)) :
    runAlu i w g s = .next (trapped s b t w (mkTrap c d t.pc)) := by
  rw [runAlu, runWord_trap s (mkTrap c d t.pc) 0 h (by dsimp only; rw [hr])]
  rfl

end

theorem bprm_answer {w : Word} {e : Env} :
    (aluFits (.bprm w) e → ∃ r, bprmRes w e = .ok r) ∧ (¬ aluFits (.bprm w) e → ∃ c d, bprmRes w e = .error (c, d)) := by
  have hany : (List.range 4).any (fun i => (if modB w 0 then (e.word w.c 0).toNat % 2 ^ 20 else immF w 0 20) / 32 ^ i % 32 / 8 == 3) =
      true ↔ ¬ aluFits (.bprm w) e := by
    simp only [aluFits, List.any_eq_true, List.mem_range, beq_iff_eq, not_forall, exists_prop]
    refine exists_congr fun k => and_congr_right fun _ => ?_
    omega
  unfold bprmRes
  dsimp only
  refine ⟨fun h => ?_, fun h => ?_⟩
  · rw [if_neg (fun hn => hany.1 hn h)]
    exact ⟨_, rfl⟩
  · rw [if_pos (hany.2 h)]
    exact ⟨_, _, rfl⟩

/-- A word that converts between two formats, or one, answers a result where they are valid (R135). -/
theorem cvt_answer {w : Word} {e : Env} :
    (aluFits (.cvt w) e → ∃ r, cvtRes w e = .ok r) ∧ (¬ aluFits (.cvt w) e → ∃ c d, cvtRes w e = .error (c, d)) := by
  unfold cvtRes aluFits
  dsimp only
  cases h1 : cfmtOf e.blk (immF w 16 3) (immF w 0 5) <;> cases h2 : cfmtOf e.blk (immF w 16 3) (immF w 8 5) <;>
    simp [formatReg]

theorem cvtsc_answer {w : Word} {e : Env} :
    (aluFits (.cvtsc w) e → ∃ r, cvtscRes w e = .ok r) ∧ (¬ aluFits (.cvtsc w) e → ∃ c d, cvtscRes w e = .error (c, d)) := by
  unfold cvtscRes aluFits
  dsimp only
  cases h1 : cfmtOf e.blk (immF w 16 3) (immF w 0 5)
  · simp [formatReg]
  · dsimp only
    split <;> simp

theorem packn_answer {w : Word} {e : Env} :
    (aluFits (.packn w) e → ∃ r, packnRes w e = .ok r) ∧ (¬ aluFits (.packn w) e → ∃ c d, packnRes w e = .error (c, d)) := by
  unfold packnRes aluFits
  dsimp only
  cases h1 : cfmtOf e.blk (immF w 16 3) (immF w 0 5) <;> simp [formatReg]

theorem unpkn_answer {w : Word} {e : Env} :
    (aluFits (.unpkn w) e → ∃ r, unpknRes w e = .ok r) ∧ (¬ aluFits (.unpkn w) e → ∃ c d, unpknRes w e = .error (c, d)) := by
  unfold unpknRes aluFits
  dsimp only
  cases h1 : cfmtOf e.blk (immF w 16 3) (immF w 0 5) <;> simp [formatReg]

/-- Each of these words computes exactly on the operands that it takes. -/
theorem alu_fits {i : Instr} {w : Word} {g : State → Env → Except (Nat × Nat) Res} (hi : aluOf i = some (w, g)) (s : State) (e : Env) :
    (aluFits i e → ∃ r, g s e = .ok r) ∧ (¬ aluFits i e → ∃ c d, g s e = .error (c, d)) := by
  unfold aluOf at hi
  split at hi
  case h_16 => cases hi
  all_goals cases hi
  case h_1 => exact bprm_answer
  case h_2 => exact cvt_answer
  case h_3 => exact packn_answer
  case h_4 => exact unpkn_answer
  case h_5 => exact cvtsc_answer
  all_goals exact ⟨fun _ => ⟨_, rfl⟩, fun h => absurd trivial h⟩

/-- Settles O8: a lane completes where the word's function gives a result, and takes the trap that it names where it gives none. -/
theorem convertersAndReadsCompute : Obligations.ConvertersAndReadsCompute := by
  intro i w g s b t hi h
  obtain ⟨hfit, hnot⟩ := alu_fits hi s ⟨b, t⟩
  refine ⟨fun hf => ?_, fun hf => ?_⟩
  · obtain ⟨r, hr⟩ := hfit hf
    exact ⟨r, hr, (exec_alu hi s).trans (runAlu_completes h hr)⟩
  · obtain ⟨c, d, hr⟩ := hnot hf
    exact ⟨c, d, hr, (exec_alu hi s).trans (runAlu_traps h hr)⟩

end Sys2Proof.Proofs
end


section
/-! Special operands of the floating words (O17). -/

namespace Sys2Proof.Proofs

open Sys2Proof Sys2Proof.Machine Sys2Proof.Laws

/-! ### A result of one register with flags -/

theorem fst_setTuple (vs : List W32) : ∀ (t : Thread) (n : Nat), (t.setTuple n vs).fst = t.fst := fun t n =>
  (setTuple_fields vs t n).2.2

theorem apply_fRes (t : Thread) (w : Word) (v : W32) (c : Nat) (fl : W32) (hc : BitVec.ofNat 32 c = v) (pc : W32) (y : Bool) :
    ((t.apply w (fRes 1 (c, fl))).passed pc y).b1 = v.setWidth 64 ∧ ((t.apply w (fRes 1 (c, fl))).passed pc y).fst = t.fst ||| fl := by
  obtain ⟨h1, -, h3⟩ := result_fields t w.d w.hnt.trn (natWords 1 c)
  rw [apply_some (r := fRes 1 (c, fl)) rfl]
  refine ⟨h1.trans ?_, congrArg (· ||| fl) h3⟩
  subst hc
  apply BitVec.eq_of_toNat_eq
  simp [natWords, wordsNat]

/-- FADD, FMUL, FMIN, FMAX and the special functions: one register with flags. -/
theorem float_gives {s : State} {i : Instr} {w : Word} {b : Block} {t : Thread} {g : State → Env → Except (Nat × Nat) Res}
    (hx : exec i s = runAlu i w g s) (h : issues s i w b t) {v fl : W32} {c : Nat} (hg : g s ⟨b, t⟩ = .ok (fRes 1 (c, fl)))
    (hc : BitVec.ofNat 32 c = v) :
    ∃ s' x, exec i s = .next s' ∧ s'.thread? b.id t.tidx = some x ∧ x.b1 = v.setWidth 64 ∧ x.fst = t.fst ||| fl := by
  obtain ⟨h1, h2⟩ := apply_fRes t w v c fl hc (t.pc + 1) w.hnt.yld
  exact ⟨_, _, hx.trans (runAlu_completes h hg), thread_wentOn h (fun x => apply_tidx x w _), h1, h2⟩

theorem pow2_pos (k : Int) : 0 < pow2 k := by
  cases k <;> simp [pow2]

theorem magnitude_eq_zero {e m : Nat} (h : Fmt.f32.magnitude e m = 0) : e = 0 ∧ m = 0 := by
  have hp (k : Int) : pow2 k ≠ 0 := (pow2_pos k).ne'
  simp only [Fmt.magnitude, Fmt.f32, Nat.reduceEqDiff, if_false] at h
  split at h
  · rename_i he
    obtain hm | hm := mul_eq_zero.1 h
    · exact ⟨he, by exact_mod_cast hm⟩
    · exact absurd hm (hp _)
  · obtain hm | hm := mul_eq_zero.1 h
    · exact absurd hm (by positivity)
    · exact absurd hm (hp _)

/-- The value of a binary32 code (R131). -/
theorem f32_value (c : Nat) : Fmt.f32.value c =
    if c / 2 ^ 23 % 2 ^ 8 = 2 ^ 8 - 1 then
      if c % 2 ^ 23 = 0 then .inf (c / 2 ^ 31 % 2 == 1)
      else .nan (c / 2 ^ 31 % 2 == 1) (decide (c % 2 ^ 23 < 2 ^ 22)) (c % 2 ^ 23 * 2 ^ 29)
    else .fin (c / 2 ^ 31 % 2 == 1) (Fmt.f32.magnitude (c / 2 ^ 23 % 2 ^ 8) (c % 2 ^ 23)) := rfl

/-- The codes of zero. -/
theorem f32_zero {c : W32} (h : (Fmt.f32.value c.toNat).isZero = true) : c = 0 ∨ c = 0x80000000#32 := by
  have hz : c.toNat / 2 ^ 23 % 2 ^ 8 = 0 ∧ c.toNat % 2 ^ 23 = 0 := by
    rw [f32_value] at h
    split_ifs at h
    · cases h
    · cases h
    · exact magnitude_eq_zero (by simpa [FVal.isZero] using h)
  have hlt := c.isLt
  have : c.toNat = 0 ∨ c.toNat = 0x80000000 := by omega
  exact this.imp (fun h => BitVec.eq_of_toNat_eq h) (fun h => BitVec.eq_of_toNat_eq h)

theorem value_zero : Fmt.f32.value 0 = .fin false 0 := by decide +kernel
theorem value_negZero : Fmt.f32.value 0x80000000 = .fin true 0 := by decide +kernel
theorem value_inf : Fmt.f32.value 0x7F800000 = .inf false := by decide +kernel
theorem value_negInf : Fmt.f32.value 0xFF800000 = .inf true := by decide +kernel

theorem readF_keep (f : Fmt) (c : Nat) : readF f false c = f.value c := rfl

theorem isInf_iff {v : FVal} : v.isInf = true ↔ ∃ n, v = .inf n := by
  cases v <;> simp [FVal.isInf]

theorem isZero_iff {v : FVal} : v.isZero = true ↔ ∃ n, v = .fin n 0 := by
  cases v <;> simp [FVal.isZero]

/-! ### The special functions at zero and at infinity (R184) -/

/-- The table's results at a zero of the given sign. -/
def specialAtZero (n : Bool) : SFun → Nat × W32
  | .rsqs | .rcps => (Fmt.f32.infCode n, flagDZ)
  | .sinr | .tnh => (Fmt.f32.signBit n, 0)
  | .cosr | .ex2 => (oneF32, 0)
  | .lg2 => (Fmt.f32.infCode true, flagDZ)
  | .sigm => (halfF32, 0)

/-- The table's results at an infinity of the given sign. -/
def specialAtInf (n : Bool) : SFun → Nat × W32
  | .rsqs => if n then (Fmt.f32.canon, flagNV) else (0, 0)
  | .rcps => (Fmt.f32.signBit n, 0)
  | .sinr | .cosr => (Fmt.f32.canon, flagNV)
  | .ex2 => if n then (0, 0) else (Fmt.f32.infCode false, 0)
  | .lg2 => if n then (Fmt.f32.canon, flagNV) else (Fmt.f32.infCode false, 0)
  | .tnh => (Fmt.f32.signBit n + oneF32, 0)
  | .sigm => if n then (0, 0) else (oneF32, 0)

theorem special_zero {c : Nat} {n : Bool} (h : Fmt.f32.value c = .fin n 0) (g : SFun) (fr : Nat) :
    special g false c fr = specialAtZero n g := by
  cases g <;> simp [special, readF_keep, h, specialAtZero]

theorem special_inf {c : Nat} {n : Bool} (h : Fmt.f32.value c = .inf n) (g : SFun) (fr : Nat) :
    special g false c fr = specialAtInf n g := by
  cases g <;> simp [special, readF_keep, h, specialAtInf]

/-! ### FADD, FMUL, FMIN and FMAX of special operands (R142, R171, R172) -/

theorem flipIf_isNan (n : Bool) (v : FVal) : (v.flipIf n).isNan = v.isNan ∧ (v.flipIf n).isSnan = v.isSnan := by
  cases n <;> cases v <;> exact ⟨rfl, rfl⟩

theorem finish_nan (f : Fmt) (r : Rnd) (ftz neg : Bool) (nv : Bool) :
    finish f r ftz ((invalid nv).flipIf neg) = (f.canon, flagIf nv flagNV) := by
  cases neg <;> rfl

theorem finish_invalid (f : Fmt) (r : Rnd) (ftz : Bool) (nv : Bool) : finish f r ftz (invalid nv) = (f.canon, flagIf nv flagNV) := rfl

theorem sumV_nan (r : Rnd) {vs : List FVal} (h : vs.any FVal.isNan = true) :
    sumV r vs = invalid (vs.any FVal.isSnan ||
      (vs.any (fun v => v.isInf && v.neg?) && vs.any (fun v => v.isInf && !v.neg?))) := by
  rw [sumV, if_pos h]

theorem addCode_nan {r : Rnd} {na nb : Bool} {x y : Nat}
    (h : ((Fmt.f32.value x).isNan || (Fmt.f32.value y).isNan) = true) :
    addCode .f32 r false na nb x y = (Fmt.f32.canon, flagIf ((Fmt.f32.value x).isSnan || (Fmt.f32.value y).isSnan) flagNV) := by
  rw [addCode, readF_keep, readF_keep]
  revert h
  generalize Fmt.f32.value x = a
  generalize Fmt.f32.value y = c
  intro h
  have hn : ([a.flipIf na, c.flipIf nb].any FVal.isNan) = true := by simpa [flipIf_isNan] using h
  rw [sumV_nan r hn, finish_invalid]
  congr 2
  cases a <;> cases c <;> cases na <;> cases nb <;> simp_all [FVal.isNan, FVal.isSnan, FVal.isInf, FVal.flipIf, FVal.flip]

theorem mulCode_nan {r : Rnd} {neg : Bool} {x y : Nat} (h : ((Fmt.f32.value x).isNan || (Fmt.f32.value y).isNan) = true) :
    mulCode .f32 r false neg x y = (Fmt.f32.canon, flagIf ((Fmt.f32.value x).isSnan || (Fmt.f32.value y).isSnan) flagNV) := by
  rw [mulCode, readF_keep, readF_keep, mulV, if_pos h, finish_nan]

theorem addCode_inf {r : Rnd} {na nb : Bool} {x y : Nat} (hx : (Fmt.f32.value x).isInf = true) (hy : (Fmt.f32.value y).isInf = true)
    (hn : ((Fmt.f32.value x).neg? != na) ≠ ((Fmt.f32.value y).neg? != nb)) :
    addCode .f32 r false na nb x y = (Fmt.f32.canon, flagNV) := by
  rw [addCode, readF_keep, readF_keep]
  obtain ⟨m, hm⟩ := isInf_iff.1 hx
  obtain ⟨n, hn'⟩ := isInf_iff.1 hy
  rw [hm, hn'] at hn ⊢
  cases m <;> cases n <;> cases na <;> cases nb <;> first | rfl | exact absurd rfl hn

theorem mulCode_inf_zero {r : Rnd} {neg : Bool} {x y : Nat} (hx : (Fmt.f32.value x).isInf = true)
    (hy : (Fmt.f32.value y).isZero = true) : mulCode .f32 r false neg x y = (Fmt.f32.canon, flagNV) := by
  rw [mulCode, readF_keep, readF_keep]
  obtain ⟨m, hm⟩ := isInf_iff.1 hx
  obtain ⟨n, hn⟩ := isZero_iff.1 hy
  rw [hm, hn, show mulV (.inf m) (.fin n 0) = invalid true by simp [mulV, FVal.isNan, FVal.isInf, FVal.isZero], finish_nan]
  rfl

theorem minMax_nan {greater : Bool} {x : Nat} {y : W32} (hx : (Fmt.f32.value x).isNan = true)
    (hy : (Fmt.f32.value y.toNat).isNan = false) :
    minMax .f32 false greater x y.toNat = (y.toNat, flagIf (Fmt.f32.value x).isSnan flagNV) := by
  have hs : (Fmt.f32.value y.toNat).isSnan = false := by
    revert hy
    cases Fmt.f32.value y.toNat <;> simp [FVal.isNan, FVal.isSnan]
  have hcode : (if (Fmt.f32.value y.toNat).isZero = true then Fmt.f32.signBit (Fmt.f32.value y.toNat).neg?
      else y.toNat % 2 ^ Fmt.f32.width) = y.toNat := by
    split
    · rename_i hz
      obtain rfl | rfl := f32_zero hz
      · rw [show BitVec.toNat (0 : W32) = 0 from rfl, value_zero]; rfl
      · rw [show (0x80000000#32).toNat = 0x80000000 from rfl, value_negZero]; rfl
    · exact Nat.mod_eq_of_lt y.isLt
  simp only [minMax, readF_keep, hx, hy, hs, Bool.and_false, Bool.false_eq_true, if_false, if_true, Bool.or_false]
  exact congrArg (·, _) hcode

/-- Settles O17: each special operand's result, as B1 and FST hold it. -/
theorem floatSpecialResults : Obligations.FloatSpecialResults := by
  intro i w s b t h hftz e ca cb a c gives nan
  have plain {g : Env → Res} {v fl : W32} {k : Nat} (hi : pureOf i = some (w, g)) (hg : g e = fRes 1 (k, fl))
      (hk : BitVec.ofNat 32 k = v) : gives v fl :=
    float_gives (g := fun _ e => .ok (g e)) (exec_pure hi s) h (congrArg Except.ok hg) hk
  have sfun {f : SFun} {v fl : W32} {k : Nat} (hx : exec i s = runAlu i w (fun s e => .ok (sfunRes f w s e)) s)
      (hg : special f false ca.toNat (s.pick t.tidx) = (k, fl)) (hk : BitVec.ofNat 32 k = v) : gives v fl :=
    float_gives hx h (congrArg Except.ok (by rw [sfunRes, ftzOf, hftz]; exact congrArg (fRes 1) hg)) hk
  have flag_if (p : Bool) : flagIf p flagNV = if p = true then 1 else 0 := rfl
  have zero_val (h0 : ca = 0) : Fmt.f32.value ca.toNat = .fin false 0 := by rw [h0]; exact value_zero
  have negZero_val (h0 : ca = 0x80000000#32) : Fmt.f32.value ca.toNat = .fin true 0 := by rw [h0]; exact value_negZero
  have inf_val (h0 : ca = 0x7F800000#32) : Fmt.f32.value ca.toNat = .inf false := by rw [h0]; exact value_inf
  have negInf_val (h0 : ca = 0xFF800000#32) : Fmt.f32.value ca.toNat = .inf true := by rw [h0]; exact value_negInf
  refine ⟨?_, ?_, ?_, ?_, ?_, ?_, ?_, ?_, ?_, ?_, ?_, ?_⟩
  · rintro (rfl | rfl) hn
    · rw [← flag_if]
      exact plain rfl (congrArg (fRes 1) (by rw [ftzOf, hftz]; exact addCode_nan hn)) (by decide)
    · rw [← flag_if]
      exact plain rfl (congrArg (fRes 1) (by rw [ftzOf, hftz]; exact mulCode_nan hn)) (by decide)
  · rintro rfl ha hc hn
    exact plain rfl (congrArg (fRes 1) (by rw [ftzOf, hftz]; exact addCode_inf ha hc hn)) (by decide)
  · rintro rfl ha hc
    exact plain rfl (congrArg (fRes 1) (by rw [ftzOf, hftz]; exact mulCode_inf_zero ha hc)) (by decide)
  · rintro (rfl | rfl) ha hc
    · rw [← flag_if]
      exact plain rfl (congrArg (fRes 1) (by rw [ftzOf, hftz]; exact minMax_nan ha hc)) (BitVec.ofNat_toNat _ _ |>.trans (BitVec.setWidth_eq _))
    · rw [← flag_if]
      exact plain rfl (congrArg (fRes 1) (by rw [ftzOf, hftz]; exact minMax_nan ha hc)) (BitVec.ofNat_toNat _ _ |>.trans (BitVec.setWidth_eq _))
  · rintro rfl
    refine ⟨fun h0 => ?_, fun h0 => ?_, fun h0 => ?_, fun h0 => ?_⟩
    · exact sfun rfl (special_zero (zero_val h0) _ _) (by decide)
    · exact sfun rfl (special_zero (negZero_val h0) _ _) (by decide)
    · exact sfun rfl (special_inf (inf_val h0) _ _) (by decide)
    · exact sfun rfl (special_inf (negInf_val h0) _ _) (by decide)
  · rintro rfl
    refine ⟨fun h0 => ?_, fun h0 => ?_, fun h0 => ?_, fun h0 => ?_⟩
    · exact sfun rfl (special_zero (zero_val h0) _ _) (by decide)
    · exact sfun rfl (special_zero (negZero_val h0) _ _) (by decide)
    · exact sfun rfl (special_inf (inf_val h0) _ _) (by decide)
    · exact sfun rfl (special_inf (negInf_val h0) _ _) (by decide)
  · rintro rfl
    refine ⟨fun h0 => ?_, fun h0 => ?_, fun h0 => ?_⟩
    · exact sfun rfl (special_zero (zero_val h0) _ _) (by decide)
    · exact sfun rfl (special_zero (negZero_val h0) _ _) (by decide)
    · obtain ⟨n, hn⟩ := isInf_iff.1 h0
      exact sfun rfl (special_inf hn _ _) (by decide)
  · rintro rfl
    refine ⟨fun h0 => ?_, fun h0 => ?_⟩
    · obtain ⟨n, hn⟩ := isZero_iff.1 h0
      exact sfun rfl (special_zero hn _ _) (by decide)
    · obtain ⟨n, hn⟩ := isInf_iff.1 h0
      exact sfun rfl (special_inf hn _ _) (by decide)
  · rintro rfl
    refine ⟨fun h0 => ?_, fun h0 => ?_, fun h0 => ?_⟩
    · obtain ⟨n, hn⟩ := isZero_iff.1 h0
      exact sfun rfl (special_zero hn _ _) (by decide)
    · exact sfun rfl (special_inf (inf_val h0) _ _) (by rw [h0]; decide)
    · exact sfun rfl (special_inf (negInf_val h0) _ _) (by decide)
  · rintro rfl
    refine ⟨fun h0 => ?_, fun h0 => ?_, fun h0 => ?_⟩
    · obtain ⟨n, hn⟩ := isZero_iff.1 h0
      exact sfun rfl (special_zero hn _ _) (by decide)
    · exact sfun rfl (special_inf (inf_val h0) _ _) (by rw [h0]; decide)
    · exact sfun rfl (special_inf (negInf_val h0) _ _) (by decide)
  · rintro rfl
    refine ⟨fun h0 => ?_, fun h0 => ?_, fun h0 => ?_⟩
    · obtain hz | hz := f32_zero h0
      · exact sfun rfl (special_zero (zero_val hz) _ _) (by rw [hz]; decide)
      · exact sfun rfl (special_zero (negZero_val hz) _ _) (by rw [hz]; decide)
    · exact sfun rfl (special_inf (inf_val h0) _ _) (by decide)
    · exact sfun rfl (special_inf (negInf_val h0) _ _) (by decide)
  · rintro rfl
    refine ⟨fun h0 => ?_, fun h0 => ?_, fun h0 => ?_⟩
    · obtain ⟨n, hn⟩ := isZero_iff.1 h0
      exact sfun rfl (special_zero hn _ _) (by decide)
    · exact sfun rfl (special_inf (inf_val h0) _ _) (by decide)
    · exact sfun rfl (special_inf (negInf_val h0) _ _) (by decide)

end Sys2Proof.Proofs
end


section
/-! A fetch with cold caches (O5): what the first groups of the fetch leave in the caches agrees with memory. -/

namespace Sys2Proof.Proofs

open Sys2Proof Sys2Proof.Machine Sys2Proof.Laws

theorem walk_sameButCaches {s t : State} (h : SameButCaches s t) (ctx va : Nat) : t.walk ctx va = s.walk ctx va := by
  have hw : ({ t with icache := s.icache, tlb := s.tlb } : State).walk ctx va = t.walk ctx va := rfl
  rw [← hw, h]

theorem bytes_sameButCaches {s t : State} (h : SameButCaches s t) (k n : Nat) : t.bytes k n = s.bytes k n := by
  have hb : ({ t with icache := s.icache, tlb := s.tlb } : State).bytes k n = t.bytes k n := rfl
  rw [← hb, h]

/-- A state of a fetch that began with cold caches: every leaf that the caches hold is the one of the page of the code, and every line
of the core holds what stands at home. -/
structure CodeSeen (s t : State) (core : Nat) (leaf : W64) (lo : Nat) : Prop where
  same : SameButCaches s t
  leaf : ∀ e ∈ t.tlb, e.leaf = leaf ∧ e.size = lo
  line : ∀ l bs, NMap.lookup (t.ilines core) l = some bs → bs = s.bytes l 128

theorem mem_tlbAdd {l : List Tlb} {e x : Tlb} {pick : Nat} (h : x ∈ tlbAdd l e pick) : x = e ∨ x ∈ l := by
  unfold tlbAdd at h
  dsimp only at h
  split at h
  · exact .inr h
  split at h
  · simpa using h
  split at h
  · exact (List.mem_cons.1 h).imp id List.mem_of_mem_erase
  · simpa using h

/-- A leaf that enters caches of its own page leaves no other one there. -/
theorem leaves_foldl {leaf : W64} {lo : Nat} {pick ctx page : Nat} {f : List Tlb → Nat → List Tlb}
    (hf : f = fun l c => tlbAdd l ⟨c, ctx, page, leaf, lo⟩ pick) (cs : List Nat) :
    ∀ l : List Tlb, (∀ e ∈ l, e.leaf = leaf ∧ e.size = lo) → ∀ e ∈ cs.foldl f l, e.leaf = leaf ∧ e.size = lo := by
  subst hf
  induction cs with
  | nil => exact fun l h => h
  | cons c cs ih =>
    intro l h
    refine ih _ fun e he => ?_
    obtain rfl | he := mem_tlbAdd he
    · exact ⟨rfl, rfl⟩
    · exact h e he

/-- Four bytes of a line of 128 that hold what stands at home. -/
theorem bytes_of_line (s : State) {key : Nat} (hk : key % 4 = 0) :
    ((s.bytes (lineOf key) 128).drop (key - lineOf key)).take 4 = s.bytes key 4 := by
  have hl : lineOf key = key / 128 * 128 := rfl
  apply List.ext_getElem
  · simp [State.bytes]
    omega
  · intro i h1 h2
    simp only [State.bytes, List.getElem_take, List.getElem_drop, List.getElem_map, List.getElem_range]
    congr 1
    omega

section
variable {s t : State} {core lo : Nat} {leaf : W64} (h : CodeSeen s t core leaf lo)
include h

theorem CodeSeen.leafFor {ctx va : Nat} (hw : s.walk ctx va = .ok (leaf, lo)) (cs : List Nat) (pick : Nat) :
    t.leafFor cs ctx va pick = .ok (leaf, lo) := by
  have hwalk : t.walk ctx va = .ok (leaf, lo) := (walk_sameButCaches h.same ctx va).trans hw
  unfold State.leafFor
  split
  · exact hwalk
  · split
    · rename_i e he
      obtain ⟨h1, h2⟩ := h.leaf e (List.mem_of_mem_filter (List.mem_of_getElem? he))
      rw [h1, h2]
    · exact hwalk

theorem CodeSeen.cacheLeaf (cs : List Nat) (ctx va key : Nat) : CodeSeen s (t.cacheLeaf cs ctx va ⟨key, leaf, lo⟩) core leaf lo := by
  refine ⟨h.same.trans (cacheLeaf_sameButCaches t cs ctx va _), ?_, ?_⟩
  · unfold State.cacheLeaf
    split
    · exact h.leaf
    · exact leaves_foldl rfl _ _ h.leaf
  · have hl : (t.cacheLeaf cs ctx va ⟨key, leaf, lo⟩).ilines core = t.ilines core := by
      unfold State.cacheLeaf
      split <;> rfl
    rw [hl]
    exact h.line

theorem CodeSeen.code4 {key : Nat} (hk : key % 4 = 0) (k : Nat) :
    (t.code4 core key k).1 = s.bytes key 4 ∧ CodeSeen s (t.code4 core key k).2 core leaf lo := by
  have hline : t.bytes (lineOf key) 128 = s.bytes (lineOf key) 128 := bytes_sameButCaches h.same _ _
  have hhome : t.bytes key 4 = s.bytes key 4 := bytes_sameButCaches h.same _ _
  have hfill : let lines := NMap.insert (t.ilines core) (lineOf key) (t.bytes (lineOf key) 128)
      CodeSeen s { t with icache := NMap.insert t.icache core lines } core leaf lo := by
    refine ⟨h.same, h.leaf, fun l bs hl => ?_⟩
    simp only [State.ilines, lookup_insert, if_true, Option.getD_some] at hl
    split at hl
    · rename_i hlk
      cases hl
      rw [hlk, hline]
    · exact h.line l bs hl
  unfold State.code4
  dsimp only
  split
  · exact ⟨hhome, hfill⟩
  · rename_i line hl
    have hold : (line.drop (key - lineOf key)).take 4 = t.bytes key 4 := by
      rw [h.line _ _ hl, bytes_of_line s hk, hhome]
    rw [if_pos hold]
    exact ⟨hhome, h⟩

/-- A group of the fetch whose page is that of the code brings the four bytes at home. -/
theorem CodeSeen.group {ctx va k : Nat} {sup : Bool} (hm : ctx ≠ massifCtx) (hw : s.walk ctx (va + 4 * k) = .ok (leaf, lo))
    (ha : leafAllows leaf Need.fetch sup = true) (hk : leafKey leaf lo (va + 4 * k) % 4 = 0) (bs : List Byte) :
    ∃ t', fetchGroup core ctx va sup (.ok (bs, t)) k = .ok (bs ++ s.bytes (leafKey leaf lo (va + 4 * k)) 4, t') ∧
      CodeSeen s t' core leaf lo := by
  have hx : t.xlate (coreCaches core) ctx (va + 4 * k) Need.fetch sup (t.pick (110 + k)) =
      .ok ⟨leafKey leaf lo (va + 4 * k), leaf, lo⟩ := by
    rw [State.xlate, if_neg hm, h.leafFor hw]
    exact if_pos ha
  obtain ⟨hb, hs⟩ := (h.cacheLeaf (coreCaches core) ctx (va + 4 * k) (leafKey leaf lo (va + 4 * k))).code4 hk k
  refine ⟨_, ?_, hs⟩
  unfold fetchGroup
  dsimp only
  rw [hx]
  dsimp only
  rw [hb]

end

theorem leafKey_add {leaf : W64} {lo va d : Nat} (h : va % 2 ^ lo + d < 2 ^ lo) : leafKey leaf lo (va + d) = leafKey leaf lo va + d := by
  have hm : (va + d) % 2 ^ lo = va % 2 ^ lo + d := by
    rw [← Nat.mod_add_mod, Nat.mod_eq_of_lt h]
  simp only [leafKey, physKey, hm]
  omega

theorem leafKey_mod_four {leaf : W64} {lo va : Nat} (hva : va % 4 = 0) (hlo : 4 ≤ 2 ^ lo) : leafKey leaf lo va % 4 = 0 := by
  have h4 : va % 2 ^ lo % 4 = 0 := by
    have : 4 ∣ 2 ^ lo := by
      have hl : 2 ≤ lo := by
        by_contra hn
        interval_cases lo <;> omega
      exact pow_dvd_pow 2 hl
    rw [Nat.mod_mod_of_dvd _ this, hva]
  simp only [leafKey, physKey]
  omega

theorem bytes_append (s : State) (k m n : Nat) : s.bytes k m ++ s.bytes (k + m) n = s.bytes k (m + n) := by
  simp [State.bytes, List.range_add, Function.comp_def, Nat.add_assoc]

/-- Settles O5: three groups of one page, each with cold or agreeing caches; the Massif's thread reads its image. -/
theorem fetchTakesTheBytesAtThePc : Obligations.FetchTakesTheBytesAtThePc := by
  refine ⟨?_, ?_⟩
  · intro s b pc sup leaf lo va ctx htlb hil hctx hw ha hpage hva
    have hm : ctx ≠ massifCtx := by unfold massifCtx; omega
    have h0 : CodeSeen s s b.coreId leaf lo :=
      ⟨rfl, by simp [htlb], by rw [hil]; exact fun _ _ h => by cases h⟩
    have hkey (k : Nat) (hk : k < 3) : leafKey leaf lo (va + 4 * k) = leafKey leaf lo va + 4 * k := leafKey_add (by omega)
    have hfour (k : Nat) : leafKey leaf lo (va + 4 * k) % 4 = 0 := leafKey_mod_four (by omega) (by omega)
    obtain ⟨s1, e1, c1⟩ := h0.group hm (hw 0 (by decide)) ha (hfour 0) []
    obtain ⟨s2, e2, c2⟩ := c1.group hm (hw 1 (by decide)) ha (hfour 1) _
    obtain ⟨s3, e3, -⟩ := c2.group hm (hw 2 (by decide)) ha (hfour 2) _
    refine ⟨s3, ?_⟩
    rw [fetchBytes_eq _ _ _ _ _ hm]
    show [0, 1, 2].foldl (fetchGroup b.coreId ctx va sup) (.ok ([], s)) = _
    simp only [List.foldl_cons, List.foldl_nil]
    rw [e1, e2, e3, hkey 0 (by decide), hkey 1 (by decide), hkey 2 (by decide)]
    simp only [List.nil_append, Nat.mul_zero, Nat.add_zero, Nat.mul_one, bytes_append]
  · intro s id core pc sup b
    have hva : b.fetchVa pc = 12 * pc.toNat := by
      have hpc := pc.isLt
      show (0#64 + BitVec.ofNat 64 (12 * pc.toNat)).toNat % 2 ^ 57 = 12 * pc.toNat
      rw [BitVec.zero_add, BitVec.toNat_ofNat]
      omega
    rw [State.fetchBytes, if_pos (show b.decl.ctx = massifCtx from rfl), hva]

end Sys2Proof.Proofs
end


section
/-! A false guard, and what the word does for its block behind the lane (O10). -/

namespace Sys2Proof.Proofs

open Sys2Proof Sys2Proof.Machine Sys2Proof.Laws

/-- (!P0) BEXP V0, V0. -/
def idleBexp : Word :=
  { grd := ⟨true, 0⟩, hnt := ⟨0, false, false, false, false, false⟩, d := .reg 0, a := .reg 0, b := .reg 0, mod := 0, imm := 0 }

theorem idleBexp_issues : issuesIdle arrivingState (.bexp idleBexp) idleBexp arrivingBlock arriving := by
  unfold issuesIdle unstepped
  decide +kernel

/-- Refutes O10: BEXP applies the object events of its block behind its lanes, with a false guard too. Here the arrival that the thread
has issued before meets an object that is not initialised, so BARRIER_MISUSE ends the block (R236). -/
theorem not_falseGuardChangesNothing : ¬ Obligations.FalseGuardChangesNothing := by
  rintro ⟨h, -⟩
  have hs := h (.bexp idleBexp) idleBexp arrivingState arrivingBlock arriving rfl idleBexp_issues
  have hgone : threadAfter (exec (.bexp idleBexp) arrivingState) 0 0 = none := by decide +kernel
  have hstays : (threadAfter (.next (wentOn arrivingState arrivingBlock arriving idleBexp id (arriving.pc + 1))) 0 0).isSome = true := by
    decide +kernel
  rw [hs] at hgone
  rw [hgone] at hstays
  cases hstays

end Sys2Proof.Proofs
end


section
/-! One lane that issues a word: what its body says, as the statements say it; LD and ST outside a section (O18). -/

namespace Sys2Proof.Proofs

open Sys2Proof Sys2Proof.Machine Sys2Proof.Laws

/-! ### Ends of a lane that issues (R125, R233) -/

section
variable {s s0 : State} {i : Instr} {w : Word} {b : Block} {t : Thread} {p : Plan} {body : Bool → Env → State → LaneEnd}

/-- No counter that the word uses stands at 63. -/
def HasRoom (p : Plan) (t : Thread) : Prop := (p.ctr.map (fun c => decide (63 ≤ t.cnt.get c))).getD false = false

theorem hasRoom_of_lt {c : Ctr} (hp : p.ctr = some c) (h : t.cnt.get c < 63) : HasRoom p t := by
  simp [HasRoom, hp, h]

theorem hasRoom_of_none (hp : p.ctr = none) : HasRoom p t := by
  simp [HasRoom, hp]

theorem issues_counted {c : Ctr} {a : Act} {slot : Option Nat} (h : issues s i w b t) (hr : HasRoom p t)
    (hb : body true ⟨b, t⟩ s = .done (s0.issueOp b.id t.tidx c t.pc a slot) (t.pc + 1)) (hs : s0.blocks = s.blocks)
    (hi : p.i = i := by rfl) (hw : p.w = w := by rfl) (hf : p.f = formIn i := by rfl) (hk : p.skip ⟨b, t⟩ = false := by rfl) :
    runWord p body (fun _ _ s => s) s = .next (counted s0 b t w c a slot) := by
  rw [runWord_one h hi hw hf hk hr, hb]
  exact congrArg Host.Outcome.next (counted_of_complete (issues_quiet h hs))

theorem issues_passes {pc : W32} (h : issues s i w b t) (hr : HasRoom p t) (hb : body true ⟨b, t⟩ s = .done s0 pc)
    (hq : ∀ x, s0.thread? b.id t.tidx = some x → x.stepDue = false)
    (hi : p.i = i := by rfl) (hw : p.w = w := by rfl) (hf : p.f = formIn i := by rfl) (hk : p.skip ⟨b, t⟩ = false := by rfl) :
    runWord p body (fun _ _ s => s) s = .next (wentOn s0 b t w id pc) := by
  rw [runWord_one h hi hw hf hk hr, hb]
  exact congrArg Host.Outcome.next (pass_of_complete hq)

theorem issues_does {pc : W32} {f : Thread → Thread} (h : issues s i w b t) (hr : HasRoom p t)
    (hb : body true ⟨b, t⟩ s = .done (s0.mapThread b.id t.tidx f) pc) (hs : s0.blocks = s.blocks) (hf' : KeepsIndex f)
    (hd : ∀ x, (f x).stepDue = x.stepDue)
    (hi : p.i = i := by rfl) (hw : p.w = w := by rfl) (hf : p.f = formIn i := by rfl) (hk : p.skip ⟨b, t⟩ = false := by rfl) :
    runWord p body (fun _ _ s => s) s = .next (wentOn s0 b t w f pc) := by
  rw [runWord_one h hi hw hf hk hr, hb]
  exact congrArg Host.Outcome.next (wentOn_of_complete hf' (fun x hx => (hd x).trans (issues_quiet h hs x hx)))

theorem issues_stays (h : issues s i w b t) (hr : HasRoom p t) (hb : body true ⟨b, t⟩ s = .stay s0)
    (hi : p.i = i := by rfl) (hw : p.w = w := by rfl) (hf : p.f = formIn i := by rfl) (hk : p.skip ⟨b, t⟩ = false := by rfl) :
    runWord p body (fun _ _ s => s) s = .next s0.endWord := by
  rw [runWord_one h hi hw hf hk hr, hb]

theorem issues_waits {k : Wait} (h : issues s i w b t) (hr : HasRoom p t) (hb : body true ⟨b, t⟩ s = .stay (s0.hold b.id t.tidx k))
    (hi : p.i = i := by rfl) (hw : p.w = w := by rfl) (hf : p.f = formIn i := by rfl) (hk : p.skip ⟨b, t⟩ = false := by rfl) :
    runWord p body (fun _ _ s => s) s = .next (waits s0 b t k) := issues_stays h hr hb hi hw hf hk

theorem issues_traps {tr : Trap} {acc : Nat} (h : issues s i w b t) (hr : HasRoom p t) (hb : body true ⟨b, t⟩ s = .trap s0 tr acc)
    (hi : p.i = i := by rfl) (hw : p.w = w := by rfl) (hf : p.f = formIn i := by rfl) (hk : p.skip ⟨b, t⟩ = false := by rfl) :
    runWord p body (fun _ _ s => s) s = .next (trapped s0 b t w tr acc) := by
  rw [runWord_one h hi hw hf hk hr, hb]
  rfl

theorem issues_full {c : Ctr} (h : issues s i w b t) (hp : p.ctr = some c) (hc : 63 ≤ t.cnt.get c)
    (hi : p.i = i := by rfl) (hw : p.w = w := by rfl) (hf : p.f = formIn i := by rfl) (hk : p.skip ⟨b, t⟩ = false := by rfl) :
    runWord p body (fun _ _ s => s) s = .next (waits s b t (.full c)) := stay_full h hi hw hf hk hp hc

end

/-! ### LD and ST (R211) -/

theorem accessGo_outside {e : Env} {s : State} {x : Xlat} {addr : W64} {size : Nat} {write : Bool} {tracked : State → Section → State}
    {aborted plain : State → State} (h : s.sectionOf e.blk.id e.th.tidx = none) :
    accessGo e s x addr size write tracked aborted plain = .done (plain (s.touch e addr x)) (e.th.pc + 1) := by
  rw [accessGo, h]

theorem accessFault_outside {e : Env} {s : State} {tr : Trap} {n : Need} (h : s.sectionOf e.blk.id e.th.tidx = none) :
    accessFault e s tr n = .trap s tr n.acc := by
  rw [accessFault, h]

/-- Settles O18: the checks of LD and ST, then the access outside a section. -/
theorem globalLoadsAndStoresIssue : Obligations.GlobalLoadsAndStoresIssue := by
  intro w s b t e addr n k hsec
  have reads {x : Except Trap Xlat} (hx : s.reach e addr (n * k) Need.load 0 = x) :
      s.reach ⟨b, t⟩ (Env.address ⟨b, t⟩ w) (accessBytes w) Need.load 0 = x := hx
  have writes {x : Except Trap Xlat} (hx : s.reach e addr (n * k) Need.store 0 = x) :
      s.reach ⟨b, t⟩ (Env.address ⟨b, t⟩ w) (accessBytes w) Need.store 0 = x := hx
  refine ⟨?_, ?_, ?_, ?_, ?_, ?_⟩
  · intro h hc x hx
    refine issues_counted (s0 := s.touch e addr x) h (hasRoom_of_lt rfl hc) ?_ (touch_blocks ..)
    dsimp only
    rw [reads hx]
    exact accessGo_outside hsec
  · intro h hc x hx
    refine issues_counted (s0 := s.touch e addr x) h (hasRoom_of_lt rfl hc) ?_ (touch_blocks ..)
    dsimp only
    rw [writes hx]
    exact accessGo_outside hsec
  · intro h hc tr hx
    refine issues_traps h (hasRoom_of_lt rfl hc) ?_
    dsimp only
    rw [reads hx]
    exact accessFault_outside hsec
  · intro h hc tr hx
    refine issues_traps h (hasRoom_of_lt rfl hc) ?_
    dsimp only
    rw [writes hx]
    exact accessFault_outside hsec
  · exact fun h hc => issues_full h rfl hc
  · exact fun h hc => issues_full h rfl hc

end Sys2Proof.Proofs
end


section
/-! LD and ST inside a section (O20). -/

namespace Sys2Proof.Proofs

open Sys2Proof Sys2Proof.Machine Sys2Proof.Laws

/-- What a tracked access that runs changes: the sections. -/
theorem track_runs_frame {s t : State} {x : Section} {tier key n : Nat} {write : Bool}
    (h : s.track x tier key n write = .runs t) : { t with sections := s.sections } = s := by
  unfold State.track at h
  dsimp only at h
  repeat' split at h
  all_goals cases h
  all_goals rfl

theorem track_runs_blocks {s t : State} {x : Section} {tier key n : Nat} {write : Bool}
    (h : s.track x tier key n write = .runs t) : t.blocks = s.blocks := (congrArg State.blocks (track_runs_frame h) :)

/-- A page of the host or of a peer is never tracked (R329). -/
theorem track_remote {s : State} {x : Section} {tier key n : Nat} {write : Bool} (h : 2 ≤ tier) :
    s.track x tier key n write = .aborts 7 none := by
  rw [State.track, if_pos h]

theorem cacheLeaf_blocks (s : State) (cs : List Nat) (ctx va : Nat) (x : Xlat) : (s.cacheLeaf cs ctx va x).blocks = s.blocks :=
  (congrArg State.blocks (cacheLeaf_frame s cs ctx va x) :)

/-- A tracked access that runs leaves which sectors are poisoned as it was. -/
theorem tracked_poisoned {s s1 : State} {e : Env} {sec : Section} {addr : W64} {x : Xlat} {n : Nat} {write : Bool} (span : Span)
    (h : (s.cacheLeaf (coreCaches e.blk.coreId) e.blk.decl.ctx (vaOf addr) x).track sec x.tier x.key n write = .runs s1) :
    s.poisoned span = s1.poisoned span := by
  have kept : s1.poison = s.poison :=
    (congrArg State.poison (track_runs_frame h) :).trans (congrArg State.poison (cacheLeaf_frame s _ _ _ x) :)
  rw [State.poisoned, State.poisoned, kept]

/-! ### The cases of an access inside a section (R212, R321 to R329) -/

theorem not_committed_of_live {x : Section} (h : x.live = true) : x.state ≠ .committed := by
  intro hc
  simp [Section.live, hc] at h

section
variable {e : Env} {s : State} {x : Xlat} {addr : W64} {size : Nat} {write : Bool} {tracked : State → Section → State}
  {aborted plain : State → State} {sec : Section} (h : s.sectionOf e.blk.id e.th.tidx = some sec)
include h

theorem accessGo_committed (hc : sec.state = .committed) :
    accessGo e s x addr size write tracked aborted plain = .done (plain (s.touch e addr x)) (e.th.pc + 1) := by
  rw [accessGo, h]
  exact if_pos hc

theorem accessGo_aborted (hc : sec.state ≠ .committed) (hl : sec.live = false) :
    accessGo e s x addr size write tracked aborted plain = .done (aborted (s.touch e addr x)) (e.th.pc + 1) := by
  rw [accessGo, h]
  dsimp only
  rw [if_neg hc, hl]
  rfl

variable (hl : sec.live = true)
include hl

theorem accessGo_ahead (ha : e.th.ahead e.blk.id ⟨0, x.key, size, vaOf addr⟩ = true) :
    accessGo e s x addr size write tracked aborted plain =
      .stay (s.cacheLeaf (coreCaches e.blk.coreId) e.blk.decl.ctx (vaOf addr) x) := by
  rw [accessGo, h]
  dsimp only
  rw [if_neg (not_committed_of_live hl), hl, if_neg (by decide), if_pos ha]

variable (ha : e.th.ahead e.blk.id ⟨0, x.key, size, vaOf addr⟩ = false)
include ha

theorem accessGo_runs {s1 : State}
    (ht : (s.cacheLeaf (coreCaches e.blk.coreId) e.blk.decl.ctx (vaOf addr) x).track sec x.tier x.key size write = .runs s1) :
    accessGo e s x addr size write tracked aborted plain =
      if !write && s1.poisoned ⟨0, x.key, size, vaOf addr⟩ then .trap s1 (memTrap 0xC 0 (vaOf addr) e.th.pc false) 0
      else .done (tracked s1 sec) (e.th.pc + 1) := by
  rw [accessGo, h]
  dsimp only
  rw [if_neg (not_committed_of_live hl), hl, if_neg (by decide), if_neg (by rw [ha]; decide), ht, ← tracked_poisoned _ ht]

theorem accessGo_aborts {c : Nat} {o : Option Nat}
    (ht : (s.cacheLeaf (coreCaches e.blk.coreId) e.blk.decl.ctx (vaOf addr) x).track sec x.tier x.key size write = .aborts c o) :
    accessGo e s x addr size write tracked aborted plain =
      .stay ((s.cacheLeaf (coreCaches e.blk.coreId) e.blk.decl.ctx (vaOf addr) x).abortSection sec.cluster sec.slot c o) := by
  rw [accessGo, h]
  dsimp only
  rw [if_neg (not_committed_of_live hl), hl, if_neg (by decide), if_neg (by rw [ha]; decide), ht]

theorem accessGo_waits {v : Wait} {s1 : State}
    (ht : (s.cacheLeaf (coreCaches e.blk.coreId) e.blk.decl.ctx (vaOf addr) x).track sec x.tier x.key size write = .waits v s1) :
    accessGo e s x addr size write tracked aborted plain = .stay (s1.hold e.blk.id e.th.tidx v) := by
  rw [accessGo, h]
  dsimp only
  rw [if_neg (not_committed_of_live hl), hl, if_neg (by decide), if_neg (by rw [ha]; decide), ht]

end

/-! ### LD and ST as one access (R211) -/

/-- What a tracked LD or ST does with the newest bytes of its cluster. -/
def trackedAccess (w : Word) (e : Env) (x : Xlat) (write : Bool) (s : State) (sec : Section) : State :=
  if write then (s.addVersion sec x.key (dataBytes (elemBytes w) (elemCount w)
      (e.words (dataPos w) w.b 0 (elemCount w * elemRegs (elemBytes w))))).issueOp e.blk.id e.th.tidx .st e.th.pc .done
  else s.issueOp e.blk.id e.th.tidx .ld e.th.pc (.deliver (e.th.dests w.d (elemCount w * elemRegs (elemBytes w)))
    (elements (elemBytes w) (elemCount w) (decide (modF w 0 3 < 4))
      ((List.range (accessBytes w)).map (fun i => s.trackedByte sec.cluster (x.key + i)))) [] 0)

/-- LD with its no-allocate bit. -/
def issueLoad (w : Word) (e : Env) (x : Xlat) (nc : Bool) (s : State) : State :=
  s.issueOp e.blk.id e.th.tidx .ld e.th.pc (.load (.phys x.key) (vaOf (e.address w)) (elemBytes w) (elemCount w)
    (decide (modF w 0 3 < 4)) nc (modF w 6 2 == 2) (e.th.dests w.d (elemCount w * elemRegs (elemBytes w))))

/-- A plain LD or ST. -/
def plainAccess (w : Word) (e : Env) (x : Xlat) (write : Bool) (s : State) : State :=
  if write then s.issueOp e.blk.id e.th.tidx .st e.th.pc (.store [(.phys x.key, dataBytes (elemBytes w) (elemCount w)
    (e.words (dataPos w) w.b 0 (elemCount w * elemRegs (elemBytes w))))])
  else issueLoad w e x (modF w 6 2 == 1 || x.cp != 0) s

/-- LD or ST behind an abort that is not delivered yet. -/
def abortedAccess (w : Word) (e : Env) (x : Xlat) (write : Bool) (s : State) : State :=
  if write then s else issueLoad w e x true s

/-- What LD and ST do with an address that is reached. -/
def accessEnd (w : Word) (e : Env) (s : State) (x : Xlat) (write : Bool) : LaneEnd :=
  accessGo e s x (e.address w) (accessBytes w) write (trackedAccess w e x write) (abortedAccess w e x write) (plainAccess w e x write)

/-- How a lane that issues leaves its word. -/
def laneFinish (b : Block) (t : Thread) (w : Word) : LaneEnd → State
  | .done s pc => (s.completeLane b.id t.tidx pc w.hnt.yld false).endWord
  | .stay s => s.endWord
  | .trap s tr acc => trapped s b t w tr acc

theorem runWord_finish {s : State} {i : Instr} {w : Word} {b : Block} {t : Thread} {p : Plan}
    {body : Bool → Env → State → LaneEnd} (h : issues s i w b t) (hr : HasRoom p t)
    (hi : p.i = i := by rfl) (hw : p.w = w := by rfl) (hf : p.f = formIn i := by rfl) (hk : p.skip ⟨b, t⟩ = false := by rfl) :
    runWord p body (fun _ _ s => s) s = .next (laneFinish b t w (body true ⟨b, t⟩ s)) := by
  rw [runWord_one h hi hw hf hk hr]
  cases body true ⟨b, t⟩ s <;> rfl

theorem exec_access {w : Word} {s : State} {b : Block} {t : Thread} {write : Bool} {x : Xlat}
    (h : issues s (if write then .st w else .ld w) w b t) (hld : t.cnt.ld < 63) (hst : t.cnt.st < 63)
    (hx : s.reach ⟨b, t⟩ (Env.address ⟨b, t⟩ w) (accessBytes w) (if write then Need.store else Need.load) 0 = .ok x) :
    exec (if write then .st w else .ld w) s = .next (laneFinish b t w (accessEnd w ⟨b, t⟩ s x write)) := by
  cases write
  · refine (runWord_finish (i := .ld w) h (hasRoom_of_lt (c := .ld) rfl hld)).trans (congrArg (fun r => Host.Outcome.next (laneFinish b t w r)) ?_)
    dsimp only
    rw [show s.reach ⟨b, t⟩ (Env.address ⟨b, t⟩ w) (accessBytes w) Need.load 0 = _ from hx]
    rfl
  · refine (runWord_finish (i := .st w) h (hasRoom_of_lt (c := .st) rfl hst)).trans (congrArg (fun r => Host.Outcome.next (laneFinish b t w r)) ?_)
    dsimp only
    rw [show s.reach ⟨b, t⟩ (Env.address ⟨b, t⟩ w) (accessBytes w) Need.store 0 = _ from hx]
    rfl

/-- A counted operation on a state that has kept the blocks. -/
theorem finish_counted {s s0 : State} {i : Instr} {w : Word} {b : Block} {t : Thread} {c : Ctr} {a : Act}
    (h : issues s i w b t) (hs : s0.blocks = s.blocks) :
    laneFinish b t w (.done (s0.issueOp b.id t.tidx c t.pc a) (t.pc + 1)) = counted s0 b t w c a :=
  counted_of_complete (issues_quiet h hs)

/-- The leaf of the access, kept, leaves the blocks as they were. -/
theorem tracked_blocks {s s1 : State} {e : Env} {sec : Section} {addr : W64} {x : Xlat} {n : Nat} {write : Bool}
    (h : (s.cacheLeaf (coreCaches e.blk.coreId) e.blk.decl.ctx (vaOf addr) x).track sec x.tier x.key n write = .runs s1) :
    s1.blocks = s.blocks := (track_runs_blocks h).trans (cacheLeaf_blocks ..)

/-- A lane that only goes on, from a state that has kept the blocks. -/
theorem finish_passes {s s0 : State} {i : Instr} {w : Word} {b : Block} {t : Thread} {pc : W32} (h : issues s i w b t)
    (hs : s0.blocks = s.blocks) : laneFinish b t w (.done s0 pc) = wentOn s0 b t w id pc :=
  pass_of_complete (issues_quiet h hs)

/-- Settles O20: the access is one of the cases of a section's access, and the lane leaves its word as that case says. -/
theorem sectionAccessesAreTracked : Obligations.SectionAccessesAreTracked := by
  intro w s b t sec write x e i n k s2 s0 va span h hld hst hsec hx load
  have go : exec i s = .next (laneFinish b t w (accessEnd w e s x write)) := exec_access h hld hst hx
  have touched : s2.blocks = s.blocks := touch_blocks ..
  rw [go]
  refine ⟨fun hc => ?_, fun hc hl => ?_, fun hl ha => ?_, fun hl ha => ⟨?_, ?_, ?_, ?_, ?_⟩⟩
  · rw [accessEnd, accessGo_committed hsec hc]
    cases write
    · exact congrArg Host.Outcome.next (finish_counted h touched)
    · exact congrArg Host.Outcome.next (finish_counted h touched)
  · rw [accessEnd, accessGo_aborted hsec hc hl]
    cases write
    · exact congrArg Host.Outcome.next (finish_counted h touched)
    · rw [show abortedAccess w e x true (s.touch e (e.address w) x) = s2 from rfl, finish_passes h touched]
      rfl
  · rw [accessEnd, accessGo_ahead hsec hl ha]
    rfl
  · intro s1 ht hw hp
    rw [accessEnd, accessGo_runs (e := e) (addr := e.address w) (size := accessBytes w) hsec hl ha ht, if_pos (by rw [hw, Bool.not_false, Bool.true_and]; exact hp)]
    rfl
  · intro s1 ht hp
    have kept : s1.blocks = s.blocks := tracked_blocks (e := e) (addr := e.address w) ht
    refine ⟨?_, (track_runs_mem ht).trans (cacheLeaf_mem ..)⟩
    rw [accessEnd, accessGo_runs (e := e) (addr := e.address w) (size := accessBytes w) hsec hl ha ht]
    cases write
    · have clean : s1.poisoned span = false := by simpa using hp
      rw [if_neg (by rw [Bool.not_false, Bool.true_and]; exact Bool.eq_false_iff.mp clean)]
      exact congrArg Host.Outcome.next (finish_counted h kept)
    · exact congrArg Host.Outcome.next (finish_counted h kept)
  · intro c o ht
    rw [accessEnd, accessGo_aborts (e := e) (addr := e.address w) (size := accessBytes w) hsec hl ha ht]
    rfl
  · intro v s1 ht
    rw [accessEnd, accessGo_waits (e := e) (addr := e.address w) (size := accessBytes w) hsec hl ha ht]
    rfl
  · intro ht
    rw [accessEnd, accessGo_aborts hsec hl ha (track_remote ht)]
    rfl

end Sys2Proof.Proofs
end


section
/-! Local accesses, tile-table words, wide and cache words, atomics (O21 to O24). -/

namespace Sys2Proof.Proofs

open Sys2Proof Sys2Proof.Machine Sys2Proof.Laws

/-! ### Scratchpad offsets (R211) -/

section
variable {e : Env} {off : Int} {size : Nat} {write : Bool}

theorem scratchAt_outside (h : off < 0 ∨ (e.blk.decl.scratch * 4096 : Nat) < off + size) :
    e.scratchAt off size write = .error (scratchTrap 7 0 off e.th.pc write) := by
  rw [Env.scratchAt]
  exact if_pos h

theorem scratchAt_fits (h0 : 0 ≤ off) (h1 : off + size ≤ e.blk.decl.scratch * 4096) :
    e.scratchAt off size write =
      if off % size ≠ 0 then .error (scratchTrap 4 1 off e.th.pc write) else .ok off.toNat := by
  rw [Env.scratchAt]
  refine if_neg ?_
  rw [Block.scratchBytes]
  push_cast
  omega

theorem scratchAt_inside (h0 : 0 ≤ off) (h1 : off + size ≤ e.blk.decl.scratch * 4096) (ha : off % size = 0) :
    e.scratchAt off size write = .ok off.toNat := by
  rw [scratchAt_fits h0 h1, if_neg (not_not.mpr ha)]

theorem scratchAt_misaligned (h0 : 0 ≤ off) (h1 : off + size ≤ e.blk.decl.scratch * 4096) (ha : off % size ≠ 0) :
    e.scratchAt off size write = .error (scratchTrap 4 1 off e.th.pc write) := by
  rw [scratchAt_fits h0 h1, if_pos ha]

end

/-! ### Tile slots (R214) -/

theorem tileState_eq {x : BitVec 128} {c : BitVec 2} : x.extractLsb' 78 2 = c ↔ tileState x = c.toNat :=
  BitVec.toNat_inj.symm

theorem tileIdle_iff {x : BitVec 128} : tileIdle x = true ↔ tileState x = 0 ∨ tileState x = 2 := by
  rw [tileIdle, Bool.or_eq_true, beq_iff_eq, beq_iff_eq, tileState_eq, tileState_eq]
  rfl

section
variable {e : Env} {s : State} {w : Word} {write : Bool} {go : Nat → Nat → LaneEnd}

theorem tileAccess_missing (h : e.blk.decl.tiles ≤ (e.word w.a 0).toNat) :
    e.tileAccess s w write go = .trap s { mkTrap 8 0 e.th.pc with write := write } 0 := by
  rw [Env.tileAccess]
  exact if_pos h

variable (h : (e.word w.a 0).toNat < e.blk.decl.tiles)
include h

theorem tileAccess_unready (hr : tileState (e.blk.tile (e.word w.a 0).toNat) ≠ 2) :
    e.tileAccess s w write go = .stay (s.hold e.blk.id e.th.tidx (.tile (e.word w.a 0).toNat false)) := by
  rw [Env.tileAccess]
  exact (if_neg (Nat.not_le.mpr h)).trans (if_pos (fun hx => hr (tileState_eq.mp hx)))

theorem tileAccess_ready (hr : tileState (e.blk.tile (e.word w.a 0).toNat) = 2) :
    e.tileAccess s w write go =
      let ent := e.blk.tile (e.word w.a 0).toNat
      let off := (e.word w.b w.imm).toNat
      if tileSize ent < off + accessBytes w then .trap s (scratchTrap 7 0 (tileBase ent + off) e.th.pc write) 0
      else if off % accessBytes w ≠ 0 then .trap s (scratchTrap 4 1 (tileBase ent + off) e.th.pc write) 0
      else go (e.word w.a 0).toNat (tileBase ent + off) := by
  rw [Env.tileAccess]
  exact (if_neg (Nat.not_le.mpr h)).trans (if_neg (not_not.mpr (tileState_eq.mpr hr)))

end

/-- Settles O21: where the offset lies says which way the word goes. -/
theorem localAccessesIssue : Obligations.LocalAccessesIssue := by
  intro w s b t hld hst e n k size sx dst data off fits inside
  have lands {write : Bool} (h : inside) : Env.scratchAt ⟨b, t⟩ (Env.offset ⟨b, t⟩ w) (accessBytes w) write = .ok off.toNat := by
    obtain ⟨⟨h0, h1⟩, ha⟩ := h
    exact scratchAt_inside (e := e) (off := off) (size := size) h0 h1 ha
  have outside {write : Bool} (h : off < 0 ∨ (b.decl.scratch * 4096 : Nat) < off + size) :
      Env.scratchAt ⟨b, t⟩ (Env.offset ⟨b, t⟩ w) (accessBytes w) write = .error (scratchTrap 7 0 off t.pc write) :=
    scratchAt_outside (e := e) (off := off) (size := size) h
  have odd {write : Bool} (h : fits) (ha : off % size ≠ 0) :
      Env.scratchAt ⟨b, t⟩ (Env.offset ⟨b, t⟩ w) (accessBytes w) write = .error (scratchTrap 4 1 off t.pc write) := by
    obtain ⟨h0, h1⟩ := h
    exact scratchAt_misaligned (e := e) (off := off) (size := size) h0 h1 ha
  refine ⟨?_, ?_, ?_, ?_, ?_, ?_, ?_, ?_⟩
  · intro h hin
    refine issues_counted h (hasRoom_of_lt rfl hld) ?_ rfl
    rw [lands hin]
    rfl
  · intro h hin
    refine issues_counted h (hasRoom_of_lt rfl hst) ?_ rfl
    rw [lands hin]
    rfl
  · intro h ho
    refine issues_traps h (hasRoom_of_lt rfl hld) ?_
    rw [outside ho]
  · intro h ho
    refine issues_traps h (hasRoom_of_lt rfl hst) ?_
    rw [outside ho]
  · intro h hin ha
    refine issues_traps h (hasRoom_of_lt rfl hld) ?_
    rw [odd hin ha]
  · intro h hin ha
    refine issues_traps h (hasRoom_of_lt rfl hst) ?_
    rw [odd hin ha]
  · intro h o
    refine ⟨fun ha => ?_, fun ha => ?_⟩
    · exact issues_counted h (hasRoom_of_lt rfl hld) (if_neg (not_not.mpr ha)) rfl
    · exact issues_traps h (hasRoom_of_lt rfl hld) (if_pos ha)
  · intro write i h j o at'
    have go : exec i s = .next (laneFinish b t w (e.tileAccess s w write (fun i off =>
        if write then e.issueSts s w w.c off (some i) else e.issueLds s w off (some i)))) := by
      cases write
      · exact runWord_finish (i := .ldsx w) h (hasRoom_of_lt (c := .ld) rfl hld)
      · exact runWord_finish (i := .stsx w) h (hasRoom_of_lt (c := .st) rfl hst)
    rw [go]
    refine ⟨fun hj => ?_, fun hj hr => ?_, fun hj hr hl => ?_, fun hj hr hl ha => ?_, fun hj hr hl ha => ?_⟩
    · rw [tileAccess_missing hj]
      rfl
    · rw [tileAccess_unready hj hr]
      rfl
    · rw [tileAccess_ready hj hr]
      exact congrArg (fun x => Host.Outcome.next (laneFinish b t w x)) (if_pos hl)
    · rw [tileAccess_ready hj hr]
      exact congrArg (fun x => Host.Outcome.next (laneFinish b t w x)) ((if_neg (Nat.not_lt.mpr hl)).trans (if_pos ha))
    · rw [tileAccess_ready hj hr]
      refine (congrArg (fun x => Host.Outcome.next (laneFinish b t w x))
        ((if_neg (Nat.not_lt.mpr hl)).trans (if_neg (not_not.mpr ha)))).trans (congrArg Host.Outcome.next ?_)
      cases write
      · exact counted_of_complete (issues_quiet h rfl)
      · exact counted_of_complete (issues_quiet h rfl)

/-! ### Tile-table words (R214 to R216) -/

/-- The slot holds the tag that TLK looks for. -/
def holdsTag (b : Block) (tag : W64) (i : Nat) : Bool := (b.tile i).extractLsb' 78 2 != tileEmpty && tileTag (b.tile i) == tag

/-- The slot that TLK finds. -/
def tagSlot (b : Block) (tag : W64) : Option Nat := (List.range b.decl.tiles).find? (holdsTag b tag)

theorem holdsTag_iff {b : Block} {tag : W64} {i : Nat} :
    holdsTag b tag i = true ↔ tileState (b.tile i) ≠ 0 ∧ tileTag (b.tile i) = tag := by
  rw [holdsTag, Bool.and_eq_true, bne_iff_ne, beq_iff_eq, ne_eq, tileState_eq]
  rfl

theorem tagSlot_holds {b : Block} {tag : W64} {k : Nat} (h : tagSlot b tag = some k) :
    k < b.decl.tiles ∧ tileState (b.tile k) ≠ 0 ∧ tileTag (b.tile k) = tag :=
  ⟨List.mem_range.mp (List.mem_of_find?_eq_some h), holdsTag_iff.mp (List.find?_some h)⟩

theorem tagSlot_lowest {b : Block} {tag : W64} {j : Nat} (hj : j < b.decl.tiles) (h : ∀ k, tagSlot b tag = some k → j < k) :
    tileState (b.tile j) = 0 ∨ tileTag (b.tile j) ≠ tag := by
  have free : holdsTag b tag j = false := by
    cases hs : tagSlot b tag with
    | none => exact Bool.eq_false_iff.mpr (List.find?_eq_none.mp hs j (List.mem_range.mpr hj))
    | some k =>
      obtain ⟨-, -, before⟩ := List.find?_range_eq_some.mp hs
      simpa using before j (h k hs)
  by_contra hc
  obtain ⟨hs, ht⟩ := not_or.mp hc
  rw [holdsTag_iff.mpr ⟨hs, not_not.mp ht⟩] at free
  cases free

/-- What TLK writes for the slot that it has found. -/
def slotWord (o : Option Nat) : W32 :=
  match o with
  | some i => BitVec.ofNat 32 i
  | none => 0xFFFFFFFF#32

theorem slotWord_eq (o : Option Nat) : slotWord o = o.elim 0xFFFFFFFF#32 (BitVec.ofNat 32) := by
  cases o <;> rfl

/-- A word that changes a tile entry and is counted on TLC (R216). -/
theorem issues_tile {s : State} {i : Instr} {w : Word} {b : Block} {t : Thread} {p : Plan} {body : Bool → Env → State → LaneEnd}
    {j : Nat} {f : Block → Block} (h : issues s i w b t) (hr : HasRoom p t) (hb : body true ⟨b, t⟩ s = Env.issueTile ⟨b, t⟩ s j f)
    (hf' : ∀ x, (f x).threads = x.threads)
    (hi : p.i = i := by rfl) (hw : p.w = w := by rfl) (hf : p.f = formIn i := by rfl) (hk : p.skip ⟨b, t⟩ = false := by rfl) :
    runWord p body (fun _ _ s => s) s = .next (counted (s.mapBlock b.id f) b t w .tl (.tile j)) := by
  rw [runWord_finish h hr hi hw hf hk, hb]
  exact congrArg Host.Outcome.next (counted_of_complete (quiet_block h f hf'))

/-- Settles O22: the search of TLK, and the checks of the words on one entry. -/
theorem tileTableWordsIssue : Obligations.TileTableWordsIssue := by
  intro w s b t htl e j idle
  refine ⟨?_, ?_, ?_, ?_, ?_, ?_, ?_, ?_⟩
  · intro h
    refine ⟨tagSlot b (e.dword .unsigned w.a 0), ?_, fun k hk => tagSlot_holds hk, fun j hj hk => tagSlot_lowest hj hk⟩
    refine issues_counted h (hasRoom_of_lt rfl htl) ?_ rfl
    exact congrArg (fun v => LaneEnd.done (s.issueOp b.id t.tidx .tl t.pc (.deliver (t.dests w.d 1) [v]
      [((t.named w.b).getD 0, (tagSlot b (e.dword .unsigned w.a 0)).isSome)] 0)) (t.pc + 1)) (slotWord_eq _)
  · intro h hj
    exact issues_counted h (hasRoom_of_lt rfl htl) (if_neg (Nat.not_le.mpr hj)) rfl
  · intro h hj hr
    refine issues_tile h (hasRoom_of_lt rfl htl) ((if_neg (Nat.not_le.mpr hj)).trans (if_neg ?_)) (fun _ => rfl)
    rw [Bool.not_eq_true', Bool.not_eq_false]
    exact tileIdle_iff.mpr hr
  · intro h hj v
    have fault {f : Option (Nat × Nat × Nat)} (hv : ttagFault b v = f) :
        ttagFault b (BitVec.ofNat 128 (wordsNat (Env.tuple ⟨b, t⟩ w.b 4))) = f := hv
    refine ⟨fun hv hr => ?_, fun hv hr => ?_, fun c d off hv => ?_⟩
    · refine issues_tile h (hasRoom_of_lt rfl htl) ((if_neg (Nat.not_le.mpr hj)).trans ?_) (fun _ => rfl)
      rw [fault hv]
      exact if_neg (by rw [tileIdle_iff.mpr hr]; decide)
    · refine issues_waits h (hasRoom_of_lt rfl htl) ((if_neg (Nat.not_le.mpr hj)).trans ?_)
      rw [fault hv]
      exact if_pos (by rw [Bool.eq_false_iff.mpr (fun hi => hr (tileIdle_iff.mp hi))]; rfl)
    · refine issues_traps h (hasRoom_of_lt rfl htl) ((if_neg (Nat.not_le.mpr hj)).trans ?_)
      rw [fault hv]
  · exact fun h hj => issues_traps h (hasRoom_of_lt rfl htl) (if_pos hj)
  · exact fun h hj => issues_traps h (hasRoom_of_lt rfl htl) (if_pos hj)
  · exact fun h hj => issues_traps h (hasRoom_of_lt rfl htl) (if_pos hj)
  · intro h hj hr
    refine issues_waits h (hasRoom_of_lt rfl htl) ((if_neg (Nat.not_le.mpr hj)).trans (if_pos ?_))
    rw [Bool.not_eq_true']
    exact Bool.eq_false_iff.mpr (fun hi => hr (tileIdle_iff.mp hi))

/-! ### Wide and cache words (R219, R221 to R223) -/

/-- A fold of steps that leave the blocks alone leaves them alone. -/
theorem foldl_blocks {α : Type} (f : State → α → State) (h : ∀ s x, (f s x).blocks = s.blocks) (l : List α) (s : State) :
    (l.foldl f s).blocks = s.blocks := by
  induction l generalizing s with
  | nil => rfl
  | cons x xs ih => exact (ih (f s x)).trans (h s x)

theorem writeBack_blocks (s : State) (p : Nat → Bool) : (s.writeBack p).blocks = s.blocks := by
  rw [State.writeBack]
  exact foldl_blocks (fun s _ => s.portCount 0 32) (fun _ _ => rfl) _ _

theorem dropMsc_blocks (s : State) (p : Nat → Bool) : (s.dropMsc p).blocks = s.blocks := writeBack_blocks s p

theorem misalignedAny_none {size : Nat} {pc : W32} {write : Bool} {l : List W64} (h : ∀ r ∈ l, misaligned r size = none) :
    misalignedAny size pc write l = none := by
  induction l with
  | nil => rfl
  | cons a as ih =>
    rw [misalignedAny, h a List.mem_cons_self]
    exact ih (fun r hr => h r (List.mem_cons_of_mem a hr))

theorem misaligned_of_reach {s : State} {e : Env} {a : W64} {size k : Nat} {n : Need} {x : Xlat} (h : s.reach e a size n k = .ok x) :
    misaligned a size = none := by
  cases hm : misaligned a size with
  | none => rfl
  | some d =>
    rw [State.reach, hm] at h
    cases h

/-- A cache word on an address that is reached. -/
theorem cctl_acts {i : Instr} {s : State} {w : Word} {b : Block} {t : Thread} {n : Need} {act : State → Env → Xlat → State} {x : Xlat}
    (h : issues s i w b t) (hx : s.reach ⟨b, t⟩ (Env.address ⟨b, t⟩ w) 1 n 0 = .ok x)
    (hb : (act (s.touch ⟨b, t⟩ (Env.address ⟨b, t⟩ w) x) ⟨b, t⟩ x).blocks = s.blocks) :
    cctl i w n act s = .next (wentOn (act (s.touch ⟨b, t⟩ (Env.address ⟨b, t⟩ w) x) ⟨b, t⟩ x) b t w id (t.pc + 1)) := by
  rw [cctl]
  refine issues_passes h (hasRoom_of_none rfl) ?_ (issues_quiet h hb)
  dsimp only
  rw [hx]

/-- Settles O23: each word's checks, in their order. -/
theorem wideAndCacheWordsIssue : Obligations.WideAndCacheWordsIssue := by
  intro w s b t hld hst e a addr
  have reads {x : Except Trap Xlat} (hx : s.reach e addr 1 Need.load 0 = x) :
      s.reach ⟨b, t⟩ (Env.address ⟨b, t⟩ w) 1 Need.load 0 = x := hx
  refine ⟨?_, ?_, ?_, ?_, ?_, ?_, ?_, ?_⟩
  · intro h size n data rows x ys hrows hx hys
    refine issues_counted (s0 := s.touch e a x) h (hasRoom_of_lt rfl hst) ?_ (touch_blocks ..)
    dsimp only
    rw [show misalignedAny (2 ^ modF w 3 3 * (if modB w 0 then 4 else 2)) t.pc true [Env.dword ⟨b, t⟩ .unsigned w.a 0] = none from
      misalignedAny_none (fun r hr => List.mem_singleton.mp hr ▸ misaligned_of_reach hx),
      show misalignedAny (if modB w 0 then 4 else 2) t.pc true ((List.range (2 ^ modF w 3 3)).map (fun j =>
        Env.dword ⟨b, t⟩ .unsigned w.c 0 + BitVec.ofNat 64 (immF w 10 22 * j))) = none from misalignedAny_none hrows,
      show s.reach ⟨b, t⟩ (Env.dword ⟨b, t⟩ .unsigned w.a 0) (2 ^ modF w 3 3 * (if modB w 0 then 4 else 2)) Need.store 0 = .ok x
        from hx]
    dsimp only
    rw [show State.reachAll (s.touch ⟨b, t⟩ (Env.dword ⟨b, t⟩ .unsigned w.a 0) x) ⟨b, t⟩ (if modB w 0 then 4 else 2) Need.store 1
      ((List.range (2 ^ modF w 3 3)).map (fun j =>
        Env.dword ⟨b, t⟩ .unsigned w.c 0 + BitVec.ofNat 64 (immF w 10 22 * j))) = .ok ys from hys]
  · intro h size n p
    refine ⟨?_, fun hp => issues_traps h (hasRoom_of_lt rfl hld) (if_pos hp)⟩
    intro xs hp addrs hx
    refine issues_counted h (hasRoom_of_lt rfl hld) ((if_neg (Nat.not_le.mpr hp)).trans ?_) rfl
    dsimp only
    rw [show s.reachAll ⟨b, t⟩ (2 ^ modF w 0 2) Need.load 0 ((List.range (8 * 2 ^ modF w 2 2)).map (fun i =>
      Env.dword ⟨b, t⟩ .unsigned w.a 0 + BitVec.ofNat 64 (2 ^ modF w 0 2 * i))) = .ok xs from hx]
  · intro h
    refine ⟨fun tr hx => ?_, fun x hx => ?_⟩
    · refine issues_passes h (hasRoom_of_none rfl) ?_ (issues_quiet h rfl)
      dsimp only
      rw [reads hx]
    · refine issues_passes h (hasRoom_of_none rfl) ?_ (issues_quiet h ?_)
      · dsimp only
        rw [reads hx]
        simp only [Bool.and_eq_true, decide_eq_true_eq, beq_iff_eq]
        rfl
      · split
        · exact touch_blocks ..
        · exact touch_blocks ..
  · intro h x hx
    exact cctl_acts (act := fun s e x => s.dropLine e.blk.coreId x.key) h hx (touch_blocks ..)
  · intro h
    exact issues_passes h (hasRoom_of_none rfl) rfl (issues_quiet h rfl)
  · intro h x hx
    exact cctl_acts (act := fun s _ x => s.writeBack (fun l => l == x.key / 128)) h hx ((writeBack_blocks ..).trans (touch_blocks ..))
  · intro h x hx
    exact cctl_acts (act := fun s _ x => s.dropMsc (fun l => l == x.key / 128)) h hx ((dropMsc_blocks ..).trans (touch_blocks ..))
  · intro h tr hx
    refine issues_traps h (hasRoom_of_none rfl) ?_
    dsimp only
    rw [reads hx]

/-! ### Atomics (R240) -/

section
variable {i : Instr} {s : State} {w : Word} {b : Block} {t : Thread} {c : Ctr} {kind : AtomKind} {offset : Bool} {vb vc : Env → Nat}
  {n : Nat} (h : issues s i w b t) (hc : t.cnt.get c < 63)
include h hc

/-- An atomic on an address that is reached stands pending. -/
theorem atomGlobal_issues {x : Xlat} {addr : W64}
    (ha : (if offset then Env.address ⟨b, t⟩ w else Env.dword ⟨b, t⟩ .unsigned w.a 0) = addr)
    (hx : s.reach ⟨b, t⟩ addr kind.size Need.both 0 = .ok x) :
    atomGlobal i w c kind offset vb vc n s = .next (counted (s.touch ⟨b, t⟩ addr x) b t w c
      (.atom (.phys x.key) (vaOf addr) kind (BitVec.ofNat 128 (vb ⟨b, t⟩)) (BitVec.ofNat 128 (vc ⟨b, t⟩)) (atomSc w) (x.leaf.getLsbD 8)
        (if c = .ld then t.dests w.d n else []))) := by
  rw [atomGlobal]
  refine issues_counted (s0 := s.touch ⟨b, t⟩ addr x) h (hasRoom_of_lt rfl hc) ?_ (touch_blocks ..)
  dsimp only
  rw [ha, hx]

/-- … and one that is not reached traps. -/
theorem atomGlobal_traps {tr : Trap} {addr : W64}
    (ha : (if offset then Env.address ⟨b, t⟩ w else Env.dword ⟨b, t⟩ .unsigned w.a 0) = addr)
    (hx : s.reach ⟨b, t⟩ addr kind.size Need.both 0 = .error tr) :
    atomGlobal i w c kind offset vb vc n s = .next (trapped s b t w tr Need.both.acc) := by
  rw [atomGlobal]
  refine issues_traps h (hasRoom_of_lt rfl hc) ?_
  dsimp only
  rw [ha, hx]

end

/-- Settles O24: the six words on memory are one shape, and ATOMS is an access of the scratchpad. -/
theorem atomicsIssue : Obligations.AtomicsIssue := by
  intro w s b t hld hst e ty op n fn plain issue
  refine ⟨?_, ?_, ?_, ?_, ?_, ?_, ?_⟩
  · exact fun h => ⟨fun x hx => atomGlobal_issues h (c := .ld) hld rfl hx, fun tr hx => atomGlobal_traps h (c := .ld) hld rfl hx⟩
  · exact fun h => ⟨fun x hx => atomGlobal_issues h (c := .ld) hld rfl hx, fun tr hx => atomGlobal_traps h (c := .ld) hld rfl hx⟩
  · exact fun h => ⟨fun x hx => atomGlobal_issues h (c := .ld) hld rfl hx, fun tr hx => atomGlobal_traps h (c := .ld) hld rfl hx⟩
  · exact fun h => ⟨fun x hx => atomGlobal_issues h (c := .st) hst rfl hx, fun tr hx => atomGlobal_traps h (c := .st) hst rfl hx⟩
  · exact fun h => ⟨fun x hx => atomGlobal_issues h (c := .st) hst rfl hx, fun tr hx => atomGlobal_traps h (c := .st) hst rfl hx⟩
  · exact fun h => ⟨fun x hx => atomGlobal_issues h (c := .ld) hld rfl hx, fun tr hx => atomGlobal_traps h (c := .ld) hld rfl hx⟩
  · intro h off size
    refine ⟨fun h0 h1 ha => ?_, fun ho => ?_⟩
    · refine issues_counted h (hasRoom_of_lt rfl hld) ?_ rfl
      dsimp only
      rw [scratchAt_inside (e := ⟨b, t⟩) (off := off) (size := (atomsKind w).size) h0 h1 ha]
    · refine issues_traps h (hasRoom_of_lt rfl hld) ?_
      dsimp only
      rw [scratchAt_outside (e := ⟨b, t⟩) (off := off) (size := (atomsKind w).size) ho]

end Sys2Proof.Proofs
end


section
/-! What a write of memory leaves of threads and registers; hash-grid and region words (O25, O26). -/

namespace Sys2Proof.Proofs

open Sys2Proof Sys2Proof.Machine Sys2Proof.Laws

/-! ### Writes may end waits of threads in sections, and nothing else of a thread (R326, R330) -/

/-- Every thread of the second state is one of the first, or that one with its wait withdrawn. -/
def Unwaits (s t : State) : Prop :=
  ∀ c k y, t.thread? c k = some y → ∃ x, s.thread? c k = some x ∧ (y = x ∨ y = x.unwait)

theorem Unwaits.refl (s : State) : Unwaits s s := fun _ _ y h => ⟨y, h, .inl rfl⟩

theorem Unwaits.of_blocks {s t : State} (h : t.blocks = s.blocks) : Unwaits s t := by
  intro c k y hy
  refine ⟨y, ?_, .inl rfl⟩
  rwa [State.thread?, State.block?, h] at hy

theorem Unwaits.trans {s t u : State} (h : Unwaits s t) (g : Unwaits t u) : Unwaits s u := by
  intro c k z hz
  obtain ⟨y, hy, hzy⟩ := g c k z hz
  obtain ⟨x, hx, hyx⟩ := h c k y hy
  refine ⟨x, hx, ?_⟩
  rcases hzy with rfl | rfl
  · exact hyx
  · rcases hyx with rfl | rfl
    · exact .inr rfl
    · exact .inr rfl

theorem Unwaits.foldl {α : Type} {f : State → α → State} (h : ∀ s x, Unwaits s (f s x)) (l : List α) (s : State) :
    Unwaits s (l.foldl f s) := by
  induction l generalizing s with
  | nil => exact .refl s
  | cons x xs ih => exact (h s x).trans (ih (f s x))

theorem Unwaits.stepDue {s t : State} (h : Unwaits s t) {c k : Nat} (hq : ∀ x, s.thread? c k = some x → x.stepDue = false) :
    ∀ y, t.thread? c k = some y → y.stepDue = false := by
  intro y hy
  obtain ⟨x, hx, hyx | hyx⟩ := h c k y hy
  · rw [hyx]; exact hq x hx
  · rw [hyx]; exact hq x hx

theorem unwaits_mapThread {s : State} {c k : Nat} {f : Thread → Thread} (h : ∀ x, f x = x ∨ f x = x.unwait) :
    Unwaits s (s.mapThread c k f) := by
  have hf : KeepsIndex f := by
    intro x
    rcases h x with hx | hx
    · rw [hx]
    · rw [hx]; rfl
  intro d j y hy
  rw [state_thread_mapThread _ _ _ _ _ _ hf] at hy
  split at hy
  · obtain ⟨x, hx, rfl⟩ := Option.map_eq_some_iff.mp hy
    exact ⟨x, hx, h x⟩
  · exact ⟨y, hy, .inl rfl⟩

theorem unwaits_markAborted (s : State) (x : Nat × Nat) (cause : Nat) (other : Option Nat) : Unwaits s (s.markAborted x cause other) := by
  unfold State.markAborted
  split
  · exact .refl s
  · split
    · exact .refl s
    · refine (Unwaits.of_blocks (s := s) rfl).trans (unwaits_mapThread (fun y => ?_))
      split
      · exact .inr rfl
      · exact .inl rfl

theorem unwaits_cascade (n : Nat) (s : State) (xs : List (Nat × Nat)) : Unwaits s (s.cascade n xs) := by
  induction n generalizing s xs with
  | zero => exact .refl s
  | succ n ih => exact (Unwaits.foldl (fun s (h : (Nat × Nat) × Nat) => unwaits_markAborted s h.1 4 (some h.2)) _ s).trans (ih _ _)

theorem unwaits_abortAll (s : State) (xs : List (Nat × Nat)) (cause : Nat) (other : Option Nat) : Unwaits s (s.abortAll xs cause other) :=
  (Unwaits.foldl (fun s x => unwaits_markAborted s x cause other) _ s).trans (unwaits_cascade _ _ _)

theorem unwaits_externalWrite (s : State) (k n : Nat) : Unwaits s (s.externalWrite k n) := by
  unfold State.externalWrite
  dsimp only
  split
  · exact unwaits_abortAll _ _ _ _
  · exact .refl s

theorem unwaits_write (s : State) (core : Option Nat) (k : Nat) (bs : List Byte) : Unwaits s (s.write core k bs) :=
  (Unwaits.of_blocks (s := s) (t := s.rawWrite core k bs) rfl).trans (unwaits_externalWrite _ _ _)

theorem unwaits_postWrite (s : State) (core : Option Nat) (src : Path) (k : Nat) (bs : List Byte) :
    Unwaits s (s.postWrite core src k bs) := by
  unfold State.postWrite
  split
  · exact .of_blocks rfl
  · exact (Unwaits.of_blocks (s := s) (t := s.note 0 k (s.bytes k bs.length) src) rfl).trans (unwaits_write _ _ _ _)

theorem write_regions (s : State) (core : Option Nat) (k : Nat) (bs : List Byte) : (s.write core k bs).regions = s.regions :=
  (congrArg State.regions (externalWrite_frame (s.rawWrite core k bs) k bs.length)).symm

/-- A posted write leaves the bound regions. -/
theorem postWrite_regions (s : State) (core : Option Nat) (src : Path) (k : Nat) (bs : List Byte) :
    (s.postWrite core src k bs).regions = s.regions := by
  unfold State.postWrite
  split
  · rfl
  · exact write_regions _ _ _ _

/-! ### Reads of a list of terms -/

theorem touchTerms_blocks (s : State) (e : Env) (size : Nat) (n : Need) (rows : List (List (Rat × W64))) :
    (s.touchTerms e size n rows).blocks = s.blocks := by
  unfold State.touchTerms
  refine foldl_blocks _ (fun s' a => ?_) _ s
  split
  · exact touch_blocks ..
  · rfl

theorem touchLevels_blocks (s : State) (e : Env) (n : Need) (ls : List (Nat × List (List (Rat × W64)))) :
    (ls.foldl (fun s' l => s'.touchTerms e l.1 n l.2) s).blocks = s.blocks :=
  foldl_blocks _ (fun s' l => touchTerms_blocks s' e l.1 n l.2) ls s

/-! ### HGL, HGA, HGW (R227 to R232) -/

theorem grid_bound {s : State} {e : Env} {w : Word} {r : Region} (h : s.region? e.blk.decl.ctx (e.word w.b 0).toNat = some r)
    (hc : r.cls = 1) : s.grid e w = some r := by
  rw [State.grid, h]
  exact if_pos hc

theorem not_spans {a c : Bool} (h : a = false ∨ c = false) : (!a || !c) = true := by
  rcases h with rfl | rfl
  · rfl
  · cases a <;> rfl

theorem spans_both {a c : Bool} (ha : a = true) (hc : c = true) : (!a || !c) = false := by
  rw [ha, hc]
  rfl

/-- Settles O25: the checks of each word in their order, and what stands pending behind them. -/
theorem hashGridWordsIssue : Obligations.HashGridWordsIssue := by
  intro w s b t r hld hst e xs
  refine ⟨?_, fun hr hc => ?_⟩
  · intro i hi h hg
    simp only [List.mem_cons, List.not_mem_nil, or_false] at hi
    rcases hi with rfl | rfl | rfl
    · refine issues_traps h (hasRoom_of_lt rfl hld) ?_
      dsimp only
      rw [show s.grid ⟨b, t⟩ w = none from hg]
    · refine issues_traps h (hasRoom_of_lt rfl hst) ?_
      dsimp only
      rw [show s.grid ⟨b, t⟩ w = none from hg]
    · refine issues_traps h (hasRoom_of_lt rfl hld) ?_
      dsimp only
      rw [show s.grid ⟨b, t⟩ w = none from hg]
  · have bound : s.grid ⟨b, t⟩ w = some r := grid_bound hr hc
    refine ⟨?_, ?_, ?_⟩
    · intro h mask ls n fmts asks act
      refine ⟨fun hs => ?_, fun ha hd hm => ?_, fun hm ha hd => ⟨fun hx => ?_, fun ps hx => ⟨fun ts ht => ?_, fun tr ht => ?_⟩⟩⟩
      · refine issues_traps h (hasRoom_of_lt rfl hld) ?_
        dsimp only
        rw [bound]
        exact if_pos (not_spans hs)
      · refine issues_traps h (hasRoom_of_lt rfl hld) ?_
        dsimp only
        rw [bound]
        exact (if_neg (by rw [spans_both ha hd]; decide)).trans (if_pos (by rw [hm]; rfl))
      · refine issues_counted h (hasRoom_of_lt rfl hld) ?_ rfl
        dsimp only
        rw [bound]
        refine (if_neg (by rw [spans_both ha hd]; decide)).trans ((if_neg (by rw [hm]; decide)).trans ?_)
        rw [show clampCoord (Env.tuple ⟨b, t⟩ w.a r.ndims) = none from hx]
      · refine issues_counted h (hasRoom_of_lt rfl hld) ?_ (touchLevels_blocks ..)
        dsimp only
        rw [bound]
        refine (if_neg (by rw [spans_both ha hd]; decide)).trans ((if_neg (by rw [hm]; decide)).trans ?_)
        rw [show clampCoord (Env.tuple ⟨b, t⟩ w.a r.ndims) = some ps from hx]
        dsimp only
        rw [show s.reachLevels ⟨b, t⟩ Need.load _ = .ok ts from ht]
      · refine issues_traps h (hasRoom_of_lt rfl hld) ?_
        dsimp only
        rw [bound]
        refine (if_neg (by rw [spans_both ha hd]; decide)).trans ((if_neg (by rw [hm]; decide)).trans ?_)
        rw [show clampCoord (Env.tuple ⟨b, t⟩ w.a r.ndims) = some ps from hx]
        dsimp only
        rw [show s.reachLevels ⟨b, t⟩ Need.load _ = .error tr from ht]
    · intro h mask ls n asks
      have direct (hs : w.c.isSpecial = false ∨ n ≤ 2) : ¬ (w.c.isSpecial && decide (2 < n)) = true := by
        rw [Bool.and_eq_true, decide_eq_true_eq]
        rintro ⟨h1, h2⟩
        rcases hs with hs | hs
        · rw [hs] at h1; cases h1
        · omega
      refine ⟨fun hs hn => ?_, fun hs => ⟨fun ho => ?_, fun ha hd => ⟨fun hm => ?_, fun hm hx => ?_, fun ps ts hm hx ht => ?_,
        fun ps tr hm hx ht => ?_⟩⟩⟩
      · refine issues_traps h (hasRoom_of_lt rfl hst) ?_
        dsimp only
        rw [bound]
        exact if_pos (by rw [hs]; exact decide_eq_true hn)
      · refine issues_traps h (hasRoom_of_lt rfl hst) ?_
        dsimp only
        rw [bound]
        exact (if_neg (direct hs)).trans (if_pos (not_spans ho))
      · refine issues_traps h (hasRoom_of_lt rfl hst) ?_
        dsimp only
        rw [bound]
        exact (if_neg (direct hs)).trans ((if_neg (by rw [spans_both ha hd]; decide)).trans (if_pos (by rw [hm]; rfl)))
      · refine issues_counted h (hasRoom_of_lt rfl hst) ?_ rfl
        dsimp only
        rw [bound]
        refine (if_neg (direct hs)).trans ((if_neg (by rw [spans_both ha hd]; decide)).trans ((if_neg (by rw [hm]; decide)).trans ?_))
        rw [show clampCoord (Env.tuple ⟨b, t⟩ w.a r.ndims) = none from hx]
      · refine issues_counted h (hasRoom_of_lt rfl hst) ?_ rfl
        dsimp only
        rw [bound]
        refine (if_neg (direct hs)).trans ((if_neg (by rw [spans_both ha hd]; decide)).trans ((if_neg (by rw [hm]; decide)).trans ?_))
        rw [show clampCoord (Env.tuple ⟨b, t⟩ w.a r.ndims) = some ps from hx]
        dsimp only
        rw [show s.reachGrads ⟨b, t⟩ _ = .ok ts from ht]
      · refine issues_traps h (hasRoom_of_lt rfl hst) ?_
        dsimp only
        rw [bound]
        refine (if_neg (direct hs)).trans ((if_neg (by rw [spans_both ha hd]; decide)).trans ((if_neg (by rw [hm]; decide)).trans ?_))
        rw [show clampCoord (Env.tuple ⟨b, t⟩ w.a r.ndims) = some ps from hx]
        dsimp only
        rw [show s.reachGrads ⟨b, t⟩ _ = .error tr from ht]
    · intro h first count
      refine ⟨fun ha => ?_, fun ha hf => ?_, fun l hf hl ha => ?_⟩
      · refine issues_traps h (hasRoom_of_lt rfl hld) ?_
        dsimp only
        rw [bound]
        exact if_pos (by rw [show Env.spans ⟨b, t⟩ w.a r.ndims = false from ha]; rfl)
      · refine issues_traps h (hasRoom_of_lt rfl hld) ?_
        dsimp only
        rw [bound]
        exact (if_neg (by rw [show Env.spans ⟨b, t⟩ w.a r.ndims = true from ha]; decide)).trans (if_pos hf)
      · refine issues_counted h (hasRoom_of_lt rfl hld) ?_ rfl
        dsimp only
        rw [bound]
        refine (if_neg (by rw [show Env.spans ⟨b, t⟩ w.a r.ndims = true from ha]; decide)).trans ((if_neg (Nat.not_lt.mpr hf)).trans ?_)
        rw [hl]

/-! ### RBIND and SHA (R225, R226, R286) -/

/-- The zeroed bins of a region being bound: threads keep what they are, and regions stay. -/
theorem zeroBins_keeps {s s1 : State} {e : Env} {r : Region} {k : Nat} (h : s.zeroBins e r k = .ok s1) :
    Unwaits s s1 ∧ s1.regions = s.regions := by
  induction k generalizing s1 with
  | zero =>
    cases h
    exact ⟨.refl s, rfl⟩
  | succ k ih =>
    rw [State.zeroBins] at h
    split at h
    · cases h
    · rename_i s' hs
      obtain ⟨hu, hreg⟩ := ih hs
      split at h
      · cases h
      · cases h
        exact ⟨hu.trans (unwaits_postWrite _ _ _ _ _), (postWrite_regions ..).trans hreg⟩

section
variable {s : State} {ctx idx st : Nat} {r : Region}

theorem rebind_blocks : (s.rebind ctx idx st r).blocks = s.blocks := by
  unfold State.rebind
  dsimp only
  split
  · rfl
  · split <;> rfl

/-- The entries of other indices stay. -/
theorem region_rebind_other {c j : Nat} (hr : r.ctx = ctx ∧ r.idx = idx) (h : c ≠ ctx ∨ j ≠ idx) :
    (s.rebind ctx idx st r).region? c j = s.region? c j := by
  have other (q : Region) : decide ((!(q.ctx == ctx && q.idx == idx)) = true ∧ (q.ctx == c && q.idx == j) = true) =
      (q.ctx == c && q.idx == j) := by
    cases hq : (q.ctx == c && q.idx == j) with
    | false => simp
    | true =>
      rw [Bool.and_eq_true, beq_iff_eq, beq_iff_eq] at hq
      obtain ⟨rfl, rfl⟩ := hq
      rcases h with h | h
      · simp [h]
      · simp [h]
  have rest : (s.regions.filter (fun q => !(q.ctx == ctx && q.idx == idx))).find? (fun q => q.ctx == c && q.idx == j) =
      s.region? c j := by
    rw [List.find?_filter, State.region?]
    exact congrArg (fun p => s.regions.find? p) (funext other)
  unfold State.rebind
  split
  · refine (List.find?_cons_of_neg ?_).trans rest
    obtain ⟨rfl, rfl⟩ := hr
    rcases h with h | h
    · simp [Ne.symm h]
    · simp [Ne.symm h]
  · split
    · exact rest
    · rfl

theorem region_rebind_bound (hr : r.ctx = ctx ∧ r.idx = idx) : (s.rebind ctx idx 0 r).region? ctx idx = some r := by
  obtain ⟨rfl, rfl⟩ := hr
  simp [State.rebind, State.region?]

theorem region_rebind_cleared : (s.rebind ctx idx 1 r).region? ctx idx = none := by
  refine List.find?_eq_none.mpr (fun q hq => ?_)
  obtain ⟨-, hn⟩ := List.mem_filter.mp hq
  rw [Bool.not_eq_true'] at hn
  rw [hn]
  decide

theorem rebind_refused (h : 2 ≤ st) : s.rebind ctx idx st r = s := by
  rw [State.rebind, if_neg (by omega), if_neg (by omega)]

end

/-- A word that writes a result on a state in which no STEP is due. -/
theorem issues_result {s s0 : State} {i : Instr} {w : Word} {b : Block} {t : Thread} {p : Plan} {body : Bool → Env → State → LaneEnd}
    {d : Opd} {trn : Bool} {vals : List W32} (h : issues s i w b t) (hr : HasRoom p t)
    (hb : body true ⟨b, t⟩ s = .done (s0.mapThread b.id t.tidx (fun x => x.result d trn vals)) (t.pc + 1))
    (hq : ∀ x, s0.thread? b.id t.tidx = some x → x.stepDue = false)
    (hi : p.i = i := by rfl) (hw : p.w = w := by rfl) (hf : p.f = formIn i := by rfl) (hk : p.skip ⟨b, t⟩ = false := by rfl) :
    runWord p body (fun _ _ s => s) s = .next (wentOn s0 b t w (fun x => x.result d trn vals) (t.pc + 1)) := by
  rw [runWord_one h hi hw hf hk hr, hb]
  exact congrArg Host.Outcome.next (wentOn_of_complete (fun x => result_tidx x d trn vals) (fun x hx => (result_stepDue x ..).trans (hq x hx)))

/-- Settles O26: the reads of RBIND and what it binds; the checks of SHA. -/
theorem regionWordsComplete : Obligations.RegionWordsComplete := by
  intro w s b t hst e
  refine ⟨?_, ?_⟩
  · intro h idx x levels s1 hx d r st hl hz s2
    obtain ⟨hu, hreg⟩ := zeroBins_keeps hz
    have own : r.ctx = b.decl.ctx ∧ r.idx = idx := ⟨rfl, rfl⟩
    refine ⟨?_, fun h0 => ?_, fun h1 => ?_, fun h2 => ?_, fun j c hj => ?_⟩
    · refine issues_result h (hasRoom_of_none rfl) ?_ ?_
      · dsimp only
        rw [show s.reach ⟨b, t⟩ (Env.dword ⟨b, t⟩ .unsigned w.a 0) 64 Need.load 0 = .ok x from hx]
        dsimp only
        rw [show s.readLevels ⟨b, t⟩ (s.bytes x.key 64) = .ok levels from hl]
        dsimp only
        rw [show s.zeroBins ⟨b, t⟩ r (if st = 0 ∧ r.cls = 2 then r.nsub else 0) = .ok s1 from hz]
      · exact (hu.trans (.of_blocks (t := s2) rebind_blocks)).stepDue (issues_quiet h rfl)
    · exact (congrArg (fun n => ((s1.credit _ _ _).rebind b.decl.ctx idx n r).region? b.decl.ctx idx) h0).trans (region_rebind_bound own)
    · exact (congrArg (fun n => ((s1.credit _ _ _).rebind b.decl.ctx idx n r).region? b.decl.ctx idx) h1).trans region_rebind_cleared
    · have kept : s1 = s := by
        rw [if_neg (by omega)] at hz
        cases hz
        rfl
      subst kept
      exact (congrArg (fun (x : State) => { x with stale := s1.stale }) (rebind_refused h2) :)
    · exact (region_rebind_other own hj).trans (congrArg (fun l => l.find? (fun q => q.ctx == c && q.idx == j)) hreg)
  · intro h addr n
    refine ⟨fun d hd => ?_, fun hm hr => ?_, ?_, ?_⟩
    · refine issues_traps h (hasRoom_of_lt rfl hst) ?_
      dsimp only
      rw [show misaligned (Env.address ⟨b, t⟩ w) (shaBytes (modF w 0 3)) = some d from hd]
    · refine issues_traps h (hasRoom_of_lt rfl hst) ?_
      dsimp only
      rw [show misaligned (Env.address ⟨b, t⟩ w) (shaBytes (modF w 0 3)) = none from hm]
      dsimp only
      rw [show s.binRegion b.decl.ctx (Env.address ⟨b, t⟩ w).toNat = none from hr]
    · intro r x hm hr k hx
      refine issues_counted h (hasRoom_of_lt rfl hst) ?_ rfl
      dsimp only
      rw [show misaligned (Env.address ⟨b, t⟩ w) (shaBytes (modF w 0 3)) = none from hm]
      dsimp only
      rw [show s.binRegion b.decl.ctx (Env.address ⟨b, t⟩ w).toNat = some r from hr]
      dsimp only
      rw [show s.reach ⟨b, t⟩ (BitVec.ofNat 64 (r.binAt (((Env.address ⟨b, t⟩ w).toNat - r.base) / 2 ^ r.sublog))) 16 Need.both 0 =
        .ok x from hx]
    · intro r tr hm hr hx hc
      refine issues_traps h (hasRoom_of_lt rfl hst) ?_
      dsimp only
      rw [show misaligned (Env.address ⟨b, t⟩ w) (shaBytes (modF w 0 3)) = none from hm]
      dsimp only
      rw [show s.binRegion b.decl.ctx (Env.address ⟨b, t⟩ w).toNat = some r from hr]
      dsimp only
      rw [show s.reach ⟨b, t⟩ (BitVec.ofNat 64 (r.binAt (((Env.address ⟨b, t⟩ w).toNat - r.base) / 2 ^ r.sublog))) 16 Need.both 0 =
        .error tr from hx]
      exact if_neg hc

end Sys2Proof.Proofs
end


section
/-! Barrier words (O27) and phases (O28). -/

namespace Sys2Proof.Proofs

open Sys2Proof Sys2Proof.Machine Sys2Proof.Laws

/-- ARRV V1, V0, 1. -/
def arriveOne : Word :=
  { grd := ⟨false, 0⟩, hnt := ⟨0, false, false, false, false, false⟩, d := .reg 1, a := .reg 0, b := .imm 0, mod := 0, imm := 1 }

/-- A thread with an applied arrival whose number is that which the next operation takes. -/
def arrived : Thread :=
  { Thread.start 0 0 with tokens := [⟨0, 0, 0, 0, .arrive 1 0, none, 0, true, some 7⟩] }

/-- Its block, with an object at offset 0 that expects two arrivals. -/
def arrivedBlock : Block :=
  ({ Block.lone 0 .running with threads := [arrived], objects := [0] } : Block).setObj 0
    { (Block.lone 0 .running).obj 0 with init := true, expa := 2 }

def arrivedState : State :=
  { State.reset with blocks := [(0, arrivedBlock)], latch := some ⟨0, [0], 0⟩ }

theorem arriveOne_issues : issues arrivedState (.arrv arriveOne) arriveOne arrivedBlock arrived := by
  unfold issues laneReady unstepped
  decide +kernel

/-- Refutes O27: the application of an arrival gives its phase to every token of the thread that bears its number. The statement
speaks of every state, and so of one in which an applied token bears the number that the new arrival takes; that token then changes its
value. -/
theorem not_barrierWordsComplete : ¬ Obligations.BarrierWordsComplete := by
  intro h
  obtain ⟨-, h⟩ := h arriveOne arrivedState arrivedBlock arrived
  obtain ⟨-, h, -⟩ := h (by decide +kernel) (by decide +kernel)
  obtain ⟨s', b', x, hs, -, hx, -, -, -, -, htok⟩ := h arriveOne_issues (by decide +kernel) (by decide +kernel) (by decide +kernel)
    (by decide +kernel) (by decide +kernel) (by decide +kernel) (by decide +kernel)
  have hafter : (threadAfter (exec (.arrv arriveOne) arrivedState) 0 0).map (fun x => x.tokens.map (fun k => (k.dst, k.val))) =
      some [(none, some 0), (some 1, some 0)] := by decide +kernel
  have hthread : threadAfter (exec (.arrv arriveOne) arrivedState) 0 0 = some x := by rw [hs]; exact hx
  rw [hthread, Option.map_some, htok] at hafter
  exact absurd hafter (by decide +kernel)

end Sys2Proof.Proofs
end


section
/-! The completion test of a barrier object (O28). -/

namespace Sys2Proof.Proofs

open Sys2Proof Sys2Proof.Machine Sys2Proof.Laws

/-! ### An object as the 16 bytes of its offset (R234) -/

theorem leNat_leBytes (n v : Nat) (h : v < 256 ^ n) : leNat (leBytes n v) = v := by
  induction n generalizing v with
  | zero => rw [leBytes, leNat]; omega
  | succ n ih =>
    rw [leBytes, leNat, ih _ (by rw [pow_succ] at h; omega), BitVec.toNat_ofNat]
    omega

theorem leNat_lt (l : List Byte) : leNat l < 256 ^ l.length := by
  induction l with
  | nil => decide
  | cons b bs ih =>
    rw [leNat, List.length_cons, pow_succ]
    have := b.isLt
    omega

theorem length_leBytes (n v : Nat) : (leBytes n v).length = n := by
  induction n generalizing v with
  | zero => rfl
  | succ n ih => rw [leBytes, List.length_cons, ih]

/-- The bytes just written. -/
theorem sbytes_sput (b : Block) (o : Nat) (bs : List Byte) : (b.sput o bs).sbytes o bs.length = bs := by
  refine List.ext_getElem (by rw [Block.sbytes, List.length_map, List.length_range]) (fun i h h' => ?_)
  simp only [Block.sbytes, List.getElem_map, List.getElem_range]
  exact (putBytes_read_inside bs b.scratch o i h').trans (List.getD_eq_getElem ..)

/-- An object's fields fit their places. -/
structure ObjFits (o : Obj) : Prop where
  expa : o.expa < 2 ^ 16
  arrd : o.arrd < 2 ^ 16
  expb : o.expb < 2 ^ 32
  land : o.land < 2 ^ 32
  resv : o.resv < 2 ^ 13

theorem split_div {n a m q : Nat} (h : n = a + m * q) (ha : a < m) : n / m = q := by
  rw [h, Nat.add_mul_div_left _ _ (by omega), Nat.div_eq_of_lt ha, Nat.zero_add]

theorem split_mod {n a m q : Nat} (h : n = a + m * q) (ha : a < m) : n % m = a := by
  rw [h, Nat.add_mul_mod_self_left, Nat.mod_eq_of_lt ha]

theorem toNat_lt_two (b : Bool) : b.toNat < 2 := by cases b <;> decide

theorem decide_toNat (b : Bool) : decide (b.toNat = 1) = b := by cases b <;> rfl

/-- The fields of an object come back from its number. -/
theorem obj_ofNat_toNat {o : Obj} (h : ObjFits o) : Obj.ofNat o.toNat = o := by
  obtain ⟨h1, h2, h3, h4, -⟩ := h
  obtain ⟨expa, arrd, expb, land, phase, init, exitdrop, ovf, resv⟩ := o
  let q7 := ovf.toNat + 2 * resv
  let q6 := exitdrop.toNat + 2 * q7
  let q5 := init.toNat + 2 * q6
  let q4 := phase.toNat + 2 ^ 16 * q5
  let q3 := land + 2 ^ 32 * q4
  let q2 := expb + 2 ^ 32 * q3
  let q1 := arrd + 2 ^ 16 * q2
  generalize hn : Obj.toNat ⟨expa, arrd, expb, land, phase, init, exitdrop, ovf, resv⟩ = n
  have e0 : n = expa + 2 ^ 16 * q1 := by
    rw [← hn, Obj.toNat]
    ring
  have d1 : n / 2 ^ 16 = q1 := split_div e0 h1
  have d2 : n / 2 ^ 32 = q2 := by
    rw [show 2 ^ 32 = 2 ^ 16 * 2 ^ 16 from rfl, ← Nat.div_div_eq_div_mul, d1]
    exact split_div rfl h2
  have d3 : n / 2 ^ 64 = q3 := by
    rw [show 2 ^ 64 = 2 ^ 32 * 2 ^ 32 from rfl, ← Nat.div_div_eq_div_mul, d2]
    exact split_div rfl h3
  have d4 : n / 2 ^ 96 = q4 := by
    rw [show 2 ^ 96 = 2 ^ 64 * 2 ^ 32 from rfl, ← Nat.div_div_eq_div_mul, d3]
    exact split_div rfl h4
  have d5 : n / 2 ^ 112 = q5 := by
    rw [show 2 ^ 112 = 2 ^ 96 * 2 ^ 16 from rfl, ← Nat.div_div_eq_div_mul, d4]
    exact split_div rfl phase.isLt
  have d6 : n / 2 ^ 113 = q6 := by
    rw [show 2 ^ 113 = 2 ^ 112 * 2 from rfl, ← Nat.div_div_eq_div_mul, d5]
    exact split_div rfl (toNat_lt_two init)
  have d7 : n / 2 ^ 114 = q7 := by
    rw [show 2 ^ 114 = 2 ^ 113 * 2 from rfl, ← Nat.div_div_eq_div_mul, d6]
    exact split_div rfl (toNat_lt_two exitdrop)
  have d8 : n / 2 ^ 115 = resv := by
    rw [show 2 ^ 115 = 2 ^ 114 * 2 from rfl, ← Nat.div_div_eq_div_mul, d7]
    exact split_div rfl (toNat_lt_two ovf)
  have hp : BitVec.ofNat 16 q4 = phase := by
    rw [← BitVec.toNat_inj, BitVec.toNat_ofNat]
    exact split_mod rfl phase.isLt
  rw [Obj.ofNat, split_mod e0 h1, d1, split_mod (n := q1) rfl h2, d2, split_mod (n := q2) rfl h3, d3, split_mod (n := q3) rfl h4, d4, hp,
    d8, Nat.testBit_eq_decide_div_mod_eq, Nat.testBit_eq_decide_div_mod_eq, Nat.testBit_eq_decide_div_mod_eq, d5, d6, d7,
    split_mod (n := q5) rfl (toNat_lt_two init), split_mod (n := q6) rfl (toNat_lt_two exitdrop),
    split_mod (n := q7) rfl (toNat_lt_two ovf), decide_toNat, decide_toNat, decide_toNat]

theorem split_lt {a m q k : Nat} (ha : a < m) (hq : q < k) : a + m * q < m * k :=
  calc a + m * q < m + m * q := Nat.add_lt_add_right ha _
    _ = m * (q + 1) := by ring
    _ ≤ m * k := Nat.mul_le_mul_left m hq

/-- … which has 128 bits. -/
theorem obj_toNat_lt {o : Obj} (h : ObjFits o) : o.toNat < 256 ^ 16 := by
  obtain ⟨h1, h2, h3, h4, h5⟩ := h
  have := split_lt h1 (split_lt h2 (split_lt h3 (split_lt h4 (split_lt o.phase.isLt (split_lt (toNat_lt_two o.init)
    (split_lt (toNat_lt_two o.exitdrop) (split_lt (toNat_lt_two o.ovf) h5)))))))
  refine lt_of_eq_of_lt ?_ (lt_of_lt_of_eq this (by norm_num))
  rw [Obj.toNat]
  ring

theorem objFits_obj (b : Block) (off : Nat) : ObjFits (b.obj off) := by
  have hn : leNat (b.sbytes off 16) < 256 ^ 16 := by
    have := leNat_lt (b.sbytes off 16)
    rwa [Block.sbytes, List.length_map, List.length_range] at this
  have fits : ObjFits (Obj.ofNat (leNat (b.sbytes off 16))) := by
    refine ⟨Nat.mod_lt _ (Nat.two_pow_pos _), Nat.mod_lt _ (Nat.two_pow_pos _), Nat.mod_lt _ (Nat.two_pow_pos _), Nat.mod_lt _ (Nat.two_pow_pos _), ?_⟩
    exact Nat.div_lt_of_lt_mul (lt_of_lt_of_eq hn (by norm_num))
  unfold Block.obj
  dsimp only
  split
  · exact fits
  · obtain ⟨h1, h2, h3, h4, h5⟩ := fits
    exact ⟨h1, h2, h3, h4, h5⟩

theorem sbytes_setObj (b : Block) (off : Nat) (o : Obj) : (b.setObj off o).sbytes off 16 = leBytes 16 o.toNat := by
  have := sbytes_sput b off (leBytes 16 o.toNat)
  rwa [length_leBytes] at this

theorem obj_bytes {o : Obj} (hf : ObjFits o) : Obj.ofNat (leNat (leBytes 16 o.toNat)) = o := by
  rw [leNat_leBytes 16 _ (obj_toNat_lt hf), obj_ofNat_toNat hf]

/-- A write of an object changes the scratchpad only. -/
theorem setObj_scratch (b : Block) (off : Nat) (o : Obj) : ∃ m, b.setObj off o = { b with scratch := m } := ⟨_, rfl⟩

theorem obj_setObj {b : Block} {off : Nat} {o : Obj} (hf : ObjFits o) (ho : b.isObject off = true) : (b.setObj off o).obj off = o := by
  have hobj : (b.setObj off o).isObject off = true := by
    obtain ⟨m, hm⟩ := setObj_scratch b off o
    rw [hm]
    exact ho
  have hread : Obj.ofNat (leNat ((b.setObj off o).sbytes off 16)) = o := by
    rw [sbytes_setObj]
    exact obj_bytes hf
  rw [Block.obj, if_pos hobj]
  exact hread

theorem isObject_of_init {b : Block} {off : Nat} (h : (b.obj off).init = true) : b.isObject off = true := by
  by_contra hc
  rw [Block.obj, if_neg hc] at h
  cases h

/-! ### The parts of a completed phase (R214, R237, R239) -/

theorem lookup_map_entries {α : Type} (m : NMap α) (g : Nat → α → α) (i : Nat) :
    NMap.lookup (m.map (fun (k, v) => (k, g k v))) i = (NMap.lookup m i).map (g i) := by
  induction m with
  | nil => rfl
  | cons p m ih =>
    obtain ⟨k, v⟩ := p
    rw [List.map_cons, NMap.lookup, NMap.lookup]
    split
    · rename_i hk
      rw [hk, Option.map_some]
    · exact ih

/-- A trace that the context does not ask for is not written (R378). -/
theorem trace_off {s : State} {b : Block} {g ty : Nat} {pc : W32} {x y : W64} {o : W32} {ph : BitVec 16} {blk : Nat}
    (hb : s.block? blk = some b) (ht : (s.ctx b.decl.ctx).traces ty = false) : s.trace blk g ty pc x y o ph = s := by
  unfold State.trace State.traceRaw
  rw [hb]
  exact if_pos (.inr ht)

/-- What a block's thread does at the end of a phase that it waits for. -/
def releasedThread (b : Block) (off : Nat) (t : Thread) : Thread :=
  match b.waitsWith t off with
  | some (tok, yld) => if (b.obj off).phase = tok then t else t.passed (t.pc + 1) yld
  | none => t

/-- One thread of the block after the other. -/
def releaseStep (b : Block) (off blk : Nat) (s : State) (t : Thread) : State :=
  match b.waitsWith t off with
  | some (tok, yld) =>
    if (b.obj off).phase = tok then s
    else (s.passPhase b.coreId blk t.tidx off tok.toNat).completeLane blk t.tidx (t.pc + 1) yld (b.stepping.contains (b.gidOf t.tidx))
  | none => s

theorem releaseWaiters_eq {s : State} {b : Block} {blk off : Nat} (hb : s.block? blk = some b) :
    s.releaseWaiters blk off = b.threads.foldl (releaseStep b off blk) s := by
  rw [State.releaseWaiters, hb]
  rfl

theorem passPhase_blocks (s : State) (core blk tidx off n : Nat) : (s.passPhase core blk tidx off n).blocks = s.blocks :=
  (congrArg State.blocks (passPhase_frame s core blk tidx off n) :)

theorem sameBut_trans {s t u : State} (h : sameBut s t) (g : sameBut t u) : sameBut s u := by
  unfold sameBut at h g ⊢
  rw [← h, ← g]

theorem thread_seen (s t : State) (blk k : Nat) : ({ t with stale := s.stale, lcache := s.lcache } : State).thread? blk k = t.thread? blk k :=
  rfl

theorem sameButSeen_trans {s t u : State} (h : sameButSeen s t) (g : sameButSeen t u) : sameButSeen s u := by
  unfold sameButSeen sameBut at h g ⊢
  rw [← h, ← g]

theorem sameButThreadsSeen_refl (s : State) (blk : Nat) (who : List Nat) : sameButThreadsSeen s s blk who := sameButThreads_refl s blk who

theorem sameButThreadsSeen_trans {s t u : State} {blk : Nat} {xs ys : List Nat} (h : sameButThreadsSeen s t blk xs)
    (g : sameButThreadsSeen t u blk ys) : sameButThreadsSeen s u blk (xs ++ ys) := by
  obtain ⟨h0, h1, h2, h3⟩ := h
  obtain ⟨g0, g1, g2, g3⟩ := g
  refine ⟨sameButSeen_trans h0 g0, fun c hc => (g1 c hc).trans (h1 c hc), fun b hb => ?_, fun k hk => ?_⟩
  · obtain ⟨ts, hts⟩ := h2 b hb
    exact g2 { b with threads := ts } hts
  · rw [List.mem_append, not_or] at hk
    exact (g3 k hk.2).trans (h3 k hk.1)

/-- Nothing of a block is stepped (R382). -/
def Unstepped (s : State) (blk : Nat) : Prop := ∀ k x, s.thread? blk k = some x → x.stepDue = false

/-- A thread that passes a wait of its block. -/
theorem passes_spec {s : State} {core blk off n k : Nat} {pc : W32} {yld : Bool} (hq : Unstepped s blk) :
    (s.passPhase core blk k off n).completeLane blk k pc yld false =
      (s.passPhase core blk k off n).mapThread blk k (fun x => x.passed pc yld) := by
  refine completeLane_quiet _ _ _ _ _ (fun x hx => hq k x ?_)
  rwa [State.thread?, State.block?, passPhase_blocks] at hx

theorem thread_passPhase (s : State) (core blk tidx off n c k : Nat) : (s.passPhase core blk tidx off n).thread? c k = s.thread? c k := by
  rw [State.thread?, State.block?, passPhase_blocks]
  rfl

theorem sameButThreadsSeen_passPhase (s : State) (core blk tidx off n : Nat) :
    sameButThreadsSeen s (s.passPhase core blk tidx off n) blk [] := by
  unfold sameButThreadsSeen
  rw [passPhase_frame]
  exact sameButThreads_refl s blk []

theorem sameButThreadsSeen_mapThread (s : State) (blk k : Nat) {f : Thread → Thread} (hf : KeepsIndex f) :
    sameButThreadsSeen s (s.mapThread blk k f) blk [k] := sameButThreads_mapThread hf (sameButThreads_refl s blk [])

/-- One thread's step of the release: it passes, and what else changes is what it observes. -/
theorem releaseStep_spec {s : State} {b : Block} {off blk : Nat} {t : Thread} (hs : b.stepping = []) (hq : Unstepped s blk) :
    sameButThreadsSeen s (releaseStep b off blk s t) blk [t.tidx] ∧ Unstepped (releaseStep b off blk s t) blk ∧
      (s.thread? blk t.tidx = some t → (releaseStep b off blk s t).thread? blk t.tidx = some (releasedThread b off t)) := by
  unfold releaseStep releasedThread
  split
  · rename_i tok yld hw
    split
    · exact ⟨sameButThreadsSeen_refl .., hq, id⟩
    · rw [hs, show List.contains [] (b.gidOf t.tidx) = false from rfl, passes_spec hq]
      refine ⟨sameButThreadsSeen_trans (sameButThreadsSeen_passPhase ..) (sameButThreadsSeen_mapThread _ _ _ (passed_keeps _ _)), ?_, ?_⟩
      · intro k x hx
        rw [state_thread_mapThread _ _ _ _ _ _ (passed_keeps _ _), thread_passPhase] at hx
        split at hx
        · obtain ⟨y, hy, rfl⟩ := Option.map_eq_some_iff.mp hx
          exact hq k y hy
        · exact hq k x hx
      · intro ht
        rw [state_thread_mapThread _ _ _ _ _ _ (passed_keeps _ _), thread_passPhase, if_pos ⟨rfl, rfl⟩, ht]
        rfl
  · exact ⟨sameButThreadsSeen_refl .., hq, id⟩

/-- The release of a list of threads. -/
theorem releaseSteps_spec {b : Block} {off blk : Nat} (hs : b.stepping = []) (l : List Thread) (hn : (l.map Thread.tidx).Nodup) {s : State}
    (hq : Unstepped s blk) (hl : ∀ t ∈ l, s.thread? blk t.tidx = some t) :
    sameButThreadsSeen s (l.foldl (releaseStep b off blk) s) blk (l.map Thread.tidx) ∧
      ∀ t ∈ l, (l.foldl (releaseStep b off blk) s).thread? blk t.tidx = some (releasedThread b off t) := by
  induction l generalizing s with
  | nil => exact ⟨sameButThreadsSeen_refl .., fun t ht => absurd ht List.not_mem_nil⟩
  | cons t l ih =>
    obtain ⟨hnot, hn⟩ := List.nodup_cons.mp hn
    obtain ⟨hframe, hq1, hthread⟩ := releaseStep_spec (off := off) (t := t) hs hq
    have apart {k : Nat} (hk : k ≠ t.tidx) : (releaseStep b off blk s t).thread? blk k = s.thread? blk k := by
      obtain ⟨-, -, -, h⟩ := hframe
      exact h k (by simpa using hk)
    have later : ∀ u ∈ l, u.tidx ≠ t.tidx := fun u hu he => hnot (he ▸ List.mem_map_of_mem hu)
    obtain ⟨hrest, hdone⟩ := ih hn hq1 (fun u hu => (apart (later u hu)).trans (hl u (List.mem_cons_of_mem t hu)))
    refine ⟨sameButThreadsSeen_trans hframe hrest, fun u hu => ?_⟩
    rcases List.mem_cons.mp hu with rfl | hu
    · obtain ⟨-, -, -, h⟩ := hrest
      exact (h _ hnot).trans (hthread (hl _ List.mem_cons_self))
    · exact hdone u hu

/-- An object at the start of its next phase, with `d` fewer arrivals expected. -/
def Advanced (o : Obj) (d : Nat) : Obj := { o with phase := o.phase + 1, arrd := 0, expb := 0, land := 0, expa := o.expa - d }

theorem advanced_init (o : Obj) (d : Nat) : (Advanced o d).init = o.init := rfl

theorem advanced_phase (o : Obj) (d : Nat) : (Advanced o d).phase = o.phase + 1 := rfl

theorem advanced_fits {o : Obj} (h : ObjFits o) (d : Nat) : ObjFits (Advanced o d) := by
  obtain ⟨h1, h2, h3, h4, h5⟩ := h
  exact ⟨lt_of_le_of_lt (Nat.sub_le ..) h1, Nat.two_pow_pos _, Nat.two_pow_pos _, Nat.two_pow_pos _, h5⟩

/-- The object of a completed phase. -/
def nextPhase (b : Block) (off : Nat) : Obj :=
  Advanced (b.obj off) (((b.xregs.find? (fun x => x.off == off)).map XReg.drops).getD 0)

theorem nextPhase_eq (b : Block) (off : Nat) : nextPhase b off =
    { b.obj off with
      phase := (b.obj off).phase + 1, arrd := 0, expb := 0, land := 0,
      expa := (b.obj off).expa - ((b.xregs.find? (fun x => x.off == off)).map XReg.drops).getD 0 } := rfl

/-- What a completed phase changes in a block at once. -/
def phased (b : Block) (off : Nat) (x : Block) : Block :=
  { (x.setObj off (nextPhase b off)) with xregs := x.xregs.map (fun x => if x.off = off then { x with arrived := [], drops := 0 } else x) }

/-- The entry of a slot linked to a completed phase. -/
def readied (s : State) (blk off i : Nat) (e : BitVec 128) : BitVec 128 :=
  if e.extractLsb' 78 2 == tileFilling && tileBarv e && tileBar e == off && !s.slotBusy blk i then withTileState e tileReady else e

theorem completes_iff {b : Block} {off : Nat} : b.completes off = true ↔ (b.obj off).init = true ∧ (b.obj off).ovf = false ∧
    (b.obj off).arrd = (b.obj off).expa ∧ (b.obj off).land = (b.obj off).expb := by
  simp [Block.completes, and_assoc]

/-- A completed phase changes scratchpad bytes and registrations. -/
theorem phased_fields (b : Block) (off : Nat) (x : Block) : ∃ m, phased b off x = { x with
    scratch := m, xregs := x.xregs.map (fun x => if x.off = off then { x with arrived := [], drops := 0 } else x) } := by
  obtain ⟨m, hm⟩ := setObj_scratch x off (nextPhase b off)
  exact ⟨m, by rw [phased, hm]⟩

section
variable {s : State} {b : Block} {off : Nat}

theorem phaseTest_idle (hb : s.block? b.id = some b)
    (h : ¬ (b.stage ≠ .restoring ∧ b.completes off = true)) : s.phaseTest b.id off = s := by
  rw [State.phaseTest, hb]
  refine if_pos ?_
  by_contra hc
  obtain ⟨h1, h2⟩ := not_or.mp hc
  exact h ⟨h1, completes_iff.mpr (by simpa using h2)⟩

theorem foldl_fixed {α β : Type} {f : β → α → β} {x : β} (h : ∀ a, f x a = x) (l : List α) : l.foldl f x = x := by
  induction l with
  | nil => rfl
  | cons a l ih => rw [List.foldl_cons, h a]; exact ih

theorem phaseTest_met (hb : s.block? b.id = some b) (hst : b.stage ≠ .restoring) (hm : b.completes off = true)
    (htr : (s.ctx b.decl.ctx).traces 4 = false) :
    s.phaseTest b.id off = ((s.mapBlock b.id (phased b off)).readyTiles b.id off).releaseWaiters b.id off := by
  rw [State.phaseTest, hb]
  refine (if_neg ?_).trans ?_
  · rw [not_or]
    exact ⟨hst, by simpa using completes_iff.mp hm⟩
  · have quiet (g : Nat) : (match (b.threads.filter (fun t => b.gidOf t.tidx = g && b.waitsOn t off)).head? with
        | some t => (s.mapBlock b.id (phased b off)).trace b.id g 4 t.pc (b.phaseMask g off) 0 (BitVec.ofNat 32 off) (b.obj off).phase
        | none => s.mapBlock b.id (phased b off)) = s.mapBlock b.id (phased b off) := by
      split
      · refine trace_off (b := phased b off b) (by rw [block_mapBlock, if_pos rfl, hb]; rfl) ?_
        obtain ⟨m, hm⟩ := phased_fields b off b
        rw [hm]
        exact htr
      · rfl
    exact congrArg (fun x => (State.readyTiles x b.id off).releaseWaiters b.id off) (foldl_fixed quiet _)

end

theorem find_thread_of_mem {l : List Thread} (hn : (l.map Thread.tidx).Nodup) {t : Thread} (ht : t ∈ l) :
    l.find? (fun x => x.tidx == t.tidx) = some t := by
  induction l with
  | nil => exact absurd ht List.not_mem_nil
  | cons u l ih =>
    obtain ⟨hnot, hn⟩ := List.nodup_cons.mp hn
    rcases List.mem_cons.mp ht with rfl | ht
    · exact List.find?_cons_of_pos (beq_self_eq_true _)
    · rw [List.find?_cons_of_neg, ih hn ht]
      intro he
      exact hnot (beq_iff_eq.mp he ▸ List.mem_map_of_mem ht)

theorem obj_congr {x y : Block} {off : Nat} (hs : x.scratch = y.scratch) (ho : x.objects = y.objects) : x.obj off = y.obj off := by
  unfold Block.obj Block.sbytes Block.sbyte Block.isObject
  rw [hs, ho]

theorem waitsWith_congr {x y : Block} {off : Nat} (ht : x.threads = y.threads) (hi : x.id = y.id) (ho : (x.obj off).init = (y.obj off).init)
    (t : Thread) : x.waitsWith t off = y.waitsWith t off := by
  unfold Block.waitsWith Block.objBefore
  rw [ht, hi, ho]

/-- The block of a completed phase, before its waiters pass. -/
def readyBlock (s : State) (b : Block) (off : Nat) : Block :=
  { phased b off b with tiles := (phased b off b).tiles.map (fun (i, e) => (i, readied s b.id off i e)) }

theorem readyBlock_fields (s : State) (b : Block) (off : Nat) : ∃ m, readyBlock s b off = { b with
    scratch := m, xregs := b.xregs.map (fun x => if x.off = off then { x with arrived := [], drops := 0 } else x),
    tiles := b.tiles.map (fun (i, e) => (i, readied s b.id off i e)) } := by
  obtain ⟨m, hm⟩ := phased_fields b off b
  exact ⟨m, by rw [readyBlock, hm]⟩

theorem objFits_nextPhase (b : Block) (off : Nat) : ObjFits (nextPhase b off) := advanced_fits (objFits_obj b off) _

theorem obj_readyBlock {s : State} {b : Block} {off : Nat} (hi : (b.obj off).init = true) :
    (readyBlock s b off).obj off = nextPhase b off := by
  rw [← obj_setObj (objFits_nextPhase b off) (isObject_of_init hi)]
  refine obj_congr ?_ ?_
  · rw [readyBlock, phased]
  · rw [readyBlock, phased]

theorem tile_readyBlock {s : State} {b : Block} {off i : Nat} (ht : tileState (b.tile i) = 1) :
    (readyBlock s b off).tile i = readied s b.id off i (b.tile i) := by
  obtain ⟨m, hm⟩ := readyBlock_fields s b off
  rw [hm]
  unfold Block.tile NMap.read at ht ⊢
  dsimp only
  rw [lookup_map_entries b.tiles (readied s b.id off)]
  cases hl : NMap.lookup b.tiles i with
  | none =>
    rw [hl] at ht
    exact absurd ht (by decide)
  | some e => rfl

theorem readied_mapBlock (s : State) (c : Nat) (f : Block → Block) (blk off : Nat) :
    readied (s.mapBlock c f) blk off = readied s blk off := rfl

theorem readyTiles_block {s : State} {b : Block} {blk off c : Nat} (hb : s.block? blk = some b) :
    (s.readyTiles blk off).block? c = if c = blk then some { b with tiles := b.tiles.map (fun (i, e) => (i, readied s blk off i e)) }
      else s.block? c := by
  rw [State.readyTiles, block_mapBlock]
  split
  · rename_i hc
    rw [hc, hb]
    rfl
  · rfl

/-- The block once its tiles are ready. -/
theorem block_ready {s : State} {b : Block} {off c : Nat} (hb : s.block? b.id = some b) :
    ((s.mapBlock b.id (phased b off)).readyTiles b.id off).block? c =
      if c = b.id then some (readyBlock s b off) else s.block? c := by
  have h1 : (s.mapBlock b.id (phased b off)).block? b.id = some (phased b off b) := by
    rw [block_mapBlock, if_pos rfl, hb, Option.map_some]
  rw [readyTiles_block h1, readied_mapBlock]
  split
  · rfl
  · rename_i hc
    rw [block_mapBlock, if_neg hc]

/-- A completed phase before its waiters pass: what the state and the block then are. -/
theorem phase_ready {s : State} {b : Block} {off : Nat} (hb : s.block? b.id = some b) (hst : b.stage ≠ .restoring)
    (hc : b.completes off = true) (htr : (s.ctx b.decl.ctx).traces 4 = false) : ∃ (s3 : State) (b3 : Block) (m : NMap Byte),
    s.phaseTest b.id off = s3.releaseWaiters b.id off ∧ sameButSeen s s3 ∧
      (∀ c, s3.block? c = if c = b.id then some b3 else s.block? c) ∧ b3.obj off = nextPhase b off ∧
      (∀ i, tileState (b.tile i) = 1 → b3.tile i = readied s b.id off i (b.tile i)) ∧ b3 = { b with
        scratch := m, xregs := b.xregs.map (fun x => if x.off = off then { x with arrived := [], drops := 0 } else x),
        tiles := b.tiles.map (fun (i, e) => (i, readied s b.id off i e)) } := by
  obtain ⟨hinit, -⟩ := completes_iff.mp hc
  obtain ⟨m, hm⟩ := readyBlock_fields s b off
  exact ⟨_, readyBlock s b off, m, phaseTest_met hb hst hc htr, rfl, fun _ => block_ready hb, obj_readyBlock hinit,
    fun _ => tile_readyBlock, hm⟩

/-- Settles O28: the block of a completed phase, and then the release of its threads one by one. -/
theorem phasesComplete : Obligations.PhasesComplete := by
  intro s b off
  dsimp only
  intro hb
  have met_iff : (b.stage ≠ .restoring ∧ (b.obj off).init = true ∧ (b.obj off).ovf = false ∧ (b.obj off).arrd = (b.obj off).expa ∧
      (b.obj off).land = (b.obj off).expb) ↔ b.stage ≠ .restoring ∧ b.completes off = true := by
    rw [completes_iff]
  refine ⟨fun hm => phaseTest_idle hb (fun h => hm (met_iff.mpr h)), fun hm hn htr hstep hdue => ?_⟩
  obtain ⟨hst, hc⟩ := met_iff.mp hm
  obtain ⟨s3, b3, m, hrun, hsame, hblocks, hobj, htile, hfields⟩ := phase_ready hb hst hc htr
  rw [hrun]
  have hb3 : s3.block? b.id = some b3 := (hblocks b.id).trans (if_pos rfl)
  have hthreads : b3.threads = b.threads := by rw [hfields]
  have hid : b3.id = b.id := by rw [hfields]
  have hstepping : b3.stepping = [] := by rw [hfields]; exact hstep
  have hlook (k : Nat) : s3.thread? b.id k = b.thread? k := by
    rw [State.thread?, hb3, Option.bind_some, Block.thread?, hthreads]
    rfl
  have hq : Unstepped s3 b.id := by
    intro k x hx
    rw [hlook] at hx
    exact hdue x (List.mem_of_find?_eq_some hx)
  obtain ⟨⟨hframe, hothers, hblock, -⟩, hdone⟩ := releaseSteps_spec (off := off) hstepping b.threads hn hq
    (fun t ht => (hlook t.tidx).trans (find_thread_of_mem hn ht))
  obtain ⟨ts, hts⟩ := hblock _ hb3
  rw [releaseWaiters_eq hb3, hthreads]
  refine ⟨{ b3 with threads := ts }, hts, (obj_congr rfl rfl).trans (hobj.trans (nextPhase_eq b off)), ?_, ?_, ?_, ?_, ?_⟩
  · intro x hx hoff
    have hx : x ∈ b.xregs.map (fun x => if x.off = off then { x with arrived := [], drops := 0 } else x) := by
      rw [hfields] at hx
      exact hx
    obtain ⟨y, -, rfl⟩ := List.mem_map.mp hx
    split
    · exact ⟨rfl, rfl⟩
    · rename_i hy
      rw [if_neg hy] at hoff
      exact absurd hoff hy
  · intro i h1 h2 h3 h4
    refine (htile i h1).trans (if_pos ?_)
    have h0 : (b.tile i).extractLsb' 78 2 = tileFilling := tileState_eq.mpr h1
    rw [h0, h2, h3, h4, beq_self_eq_true, beq_self_eq_true]
    rfl
  · intro t ht
    rw [hdone t ht, releasedThread, waitsWith_congr hthreads hid (by rw [hobj]; exact advanced_init ..) t, hobj, nextPhase, advanced_phase]
    cases b.waitsWith t off with
    | none => rfl
    | some p => exact congrArg some (if_congr eq_comm rfl rfl)
  · exact sameButSeen_trans hsame hframe
  · intro c hc
    exact (hothers c hc).trans ((hblocks c).trans (if_neg hc))

end Sys2Proof.Proofs
end


section
/-! Fences, ACQ and REL (O29). -/

namespace Sys2Proof.Proofs

open Sys2Proof Sys2Proof.Machine Sys2Proof.Laws

/-- REL of the region at index 1, which adds 0. -/
def relOne : Word :=
  { grd := ⟨false, 0⟩, hnt := ⟨0, false, false, false, false, false⟩, d := .reg 0, a := .imm 0, b := .reg 0, mod := 0, imm := 1 }

/-- A plain region with its counter at 0x500. -/
def counterRegion : Region := ⟨0, 1, 0x20000, 0x10000, 0, 2, 0x500, 0, 0, [], 0, 0, 0⟩

/-- A thread that is to issue, and one that waits for the commit of its section. -/
def committingBlock : Block :=
  { Block.lone 0 .running with threads := [Thread.start 0 0, { Thread.start 1 0 with wait := some .fxCommit }] }

/-- The machine of `State.withFetchWord` with that block; the section has read the sector of the region's counter. -/
def committingState : State :=
  { State.reset.withFetchWord 96 0 with
    blocks := [(0, committingBlock)], latch := some ⟨0, [0], 0⟩, xinv := some 0, regions := [counterRegion],
    sections := [⟨0, 0, 0, 1, .ended, 0, none, [], [], [], [0x28], [], 0, none, 0⟩] }

theorem relOne_issues : issues committingState (.rel relOne) relOne committingBlock (Thread.start 0 0) := by
  unfold issues laneReady unstepped
  decide +kernel

theorem seqHeld_committing (key stamp : Nat) : committingBlock.seqHeld (Thread.start 0 0) key stamp = false := rfl

theorem thread_wentOn_other {s : State} {b : Block} {t : Thread} {w : Word} {f : Thread → Thread} {pc : W32} {c k : Nat}
    (hf : KeepsIndex f) (h : k ≠ t.tidx) : (wentOn s b t w f pc).thread? c k = s.thread? c k := by
  refine (state_thread_mapThread s b.id t.tidx c k (fun x => (f x).passed pc w.hnt.yld) (fun x => hf x)).trans (if_neg ?_)
  rintro ⟨-, hk⟩
  exact h hk

/-- Refutes O29: REL writes SEQ, and the write aborts a section that has read its sector, whose thread then waits no longer for the
commit (R327, R330). So the blocks do not stay as they were. -/
theorem not_fencesComplete : ¬ Obligations.FencesComplete := by
  intro h
  obtain ⟨-, -, -, h, -⟩ := h relOne committingState committingBlock (Thread.start 0 0)
  have hok : (committingState.seqOf ⟨committingBlock, Thread.start 0 0⟩ counterRegion).toOption.isSome = true := by decide +kernel
  cases hseq : committingState.seqOf ⟨committingBlock, Thread.start 0 0⟩ counterRegion with
  | error tr =>
    rw [hseq] at hok
    cases hok
  | ok p =>
    obtain ⟨x, seq⟩ := p
    obtain ⟨-, h⟩ := h counterRegion x seq (by decide +kernel) hseq
    obtain ⟨-, -, h⟩ := h rfl (seqHeld_committing _ _)
    obtain ⟨s1, hs, -, hblocks, -⟩ := h relOne_issues
    have hfree : (threadAfter (exec (.rel relOne) committingState) 0 1).map Thread.wait = some none := by decide +kernel
    have hwaits : (s1.thread? 0 1).map Thread.wait = some (some .fxCommit) := by
      rw [State.thread?, State.block?, hblocks]
      decide +kernel
    rw [hs, threadAfter, thread_wentOn_other (f := id) (fun _ => rfl) (by decide), hwaits] at hfree
    cases hfree

end Sys2Proof.Proofs
end


section
/-! Control words (O30), JOIN (O31). -/

namespace Sys2Proof.Proofs

open Sys2Proof Sys2Proof.Machine Sys2Proof.Laws

/-! ### Branches (R187, R380) -/

theorem length_filter_lanes (b : Block) (k : Nat) (p : Thread → Bool) : (([k].filterMap (fun t => b.thread? t)).filter p).length ≤ 1 :=
  (List.length_filter_le ..).trans (List.length_filterMap_le ..)

/-- A bundle of one lane does not diverge. -/
theorem divTrace_one {i : Instr} {w : Word} {target : Target'} {b : Block} {k : Nat} {pc : W32} {s s' : State}
    (hr : s'.replays b.id = false) : divTrace i w target ⟨b.id, [k], pc⟩ s s' = s' := by
  unfold divTrace
  split
  · rfl
  · rename_i b' hb
    dsimp only
    rw [hr, if_neg (by decide)]
    refine foldl_fixed ?_ _
    intro g
    refine if_pos ?_
    exact (List.dedup_sublist _).length_le.trans (by
      rw [List.length_map]
      exact (List.length_filter_le ..).trans (length_filter_lanes ..))

section
variable {s : State} {i : Instr} {w : Word} {b : Block} {t : Thread} {target : Target'} (h : issues s i w b t)
  (hr : s.replays b.id = false)
include h hr

theorem branch_goes {pc : W32} (ht : target ⟨b, t⟩ = pc) : branch i w false target s = .next (wentOn s b t w id pc) := by
  rw [branch, runWord_one h rfl rfl rfl rfl rfl]
  dsimp only
  rw [ht, if_neg (by decide), completeLane_quiet _ _ _ _ _ (issues_quiet h rfl), divTrace_one (by exact hr)]
  rfl

theorem branch_links {pc : W32} (ht : target ⟨b, t⟩ = pc) : branch i w true target s =
    .next (wentOn s b t w (fun x => x.result w.d w.hnt.trn [t.pc + 1]) pc) := by
  have quiet : ∀ x, (s.mapThread b.id t.tidx (fun x => x.result w.d w.hnt.trn [t.pc + 1])).thread? b.id t.tidx = some x →
      x.stepDue = false := by
    intro x hx
    rw [state_thread_mapThread _ _ _ _ _ _ (fun x => result_tidx x ..), if_pos ⟨rfl, rfl⟩] at hx
    obtain ⟨y, hy, rfl⟩ := Option.map_eq_some_iff.mp hx
    exact (result_stepDue y ..).trans (issues_quiet h rfl y hy)
  rw [branch, runWord_one h rfl rfl rfl rfl rfl]
  dsimp only
  rw [ht, if_pos rfl, completeLane_quiet _ _ _ _ _ quiet, divTrace_one (by exact hr),
    state_mapThread_mapThread _ _ _ _ _ (fun x => result_tidx x ..)]
  rfl

end

/-! ### Rendezvous of a group in which no lane waits (R193, R197) -/

/-- No thread of the block waits. -/
def NoneWaits (b : Block) : Prop := ∀ x ∈ b.threads, x.wait = none

theorem joining_idle {b : Block} (h : NoneWaits b) (g k : Nat) : b.joining g k = [] := by
  refine List.filter_eq_nil_iff.mpr (fun x hx => ?_)
  rw [Thread.joins, h x hx]
  simp

theorem arrivals_idle {b : Block} (h : NoneWaits b) (g : Nat) : b.arrivals g = [] := by
  refine List.filterMap_eq_nil_iff.mpr (fun x hx => ?_)
  rw [h x hx]

theorem releaseOne_idle {b : Block} (h : NoneWaits b) (s : State) (g : Nat) : s.releaseOne b g = none := by
  have noJoin : (List.range 8).find? (b.joinMet g) = none := by
    refine List.find?_eq_none.mpr (fun k _ => ?_)
    rw [Block.joinMet, joining_idle h]
    exact Bool.false_ne_true
  rw [State.releaseOne, noJoin, Block.releasable, arrivals_idle h]
  rfl

theorem reexamine_idle {s : State} {blk : Nat} (h : ∀ b, s.block? blk = some b → NoneWaits b) (n g : Nat) :
    s.reexamine n blk g = s := by
  cases n with
  | zero => rfl
  | succ n =>
    rw [State.reexamine]
    split
    · rfl
    · rename_i b hb
      rw [releaseOne_idle (h b hb)]

theorem block_of_issues {s : State} {i : Instr} {w : Word} {b : Block} {t : Thread} (h : issues s i w b t) : s.block? b.id = some b := by
  obtain ⟨-, hb, -⟩ := h
  exact hb

/-- Settles O30: each word of the family in turn. -/
theorem controlWordsComplete : Obligations.ControlWordsComplete := by
  intro w s b t e g goes link
  refine ⟨fun h => ?_, fun h => ?_, fun h hr => ?_, fun h hr => ?_, fun h hr => ?_, fun h hr => ?_, fun h hr => ?_, ?_, ?_, ?_, ?_, ?_⟩
  · exact issues_passes h (hasRoom_of_none rfl) rfl (issues_quiet h rfl)
  · exact issues_passes (i := .yield w) (w := { w with hnt := { w.hnt with yld := true } }) h (hasRoom_of_none rfl) rfl (issues_quiet h rfl)
  · exact branch_goes h hr rfl
  · exact branch_goes h hr rfl
  · exact branch_goes h hr rfl
  · exact branch_links h hr rfl
  · exact branch_links h hr rfl
  · intro h c fits
    have within : t.cnt.within (immF w 0 6) (immF w 8 6) (immF w 16 6) (immF w 24 6) = true ↔ fits := by
      simp [Counts.within, fits, c, and_assoc]
    refine ⟨fun hf => ?_, fun hf => ?_⟩
    · exact issues_passes h (hasRoom_of_none rfl) (if_pos (within.mpr hf)) (issues_quiet h rfl)
    · exact issues_waits h (hasRoom_of_none rfl) (if_neg (fun hw => hf (within.mp hw)))
  · intro h v
    refine ⟨fun hv => ?_, fun hv => ?_⟩
    · exact issues_passes h (hasRoom_of_none rfl) (if_pos hv) (issues_quiet h rfl)
    · exact issues_waits h (hasRoom_of_none rfl) (if_neg (Nat.not_le.mpr hv))
  · intro h hwait k op v old new
    let s1 := s.mapGroup b.id g (fun x => { x with jm := NMap.put 0 x.jm k (b.clip g new) })
    have idle (c : Block) (hc : s1.block? b.id = some c) : NoneWaits c := by
      have hc : (s.mapBlock b.id _).block? b.id = some c := hc
      rw [block_mapBlock, if_pos rfl, block_of_issues h] at hc
      cases hc
      exact hwait
    refine issues_passes (s0 := s1) h (hasRoom_of_none rfl) ?_ (quiet_block h _ (fun _ => rfl))
    exact congrArg (fun x => LaneEnd.done x (t.pc + 1)) (reexamine_idle idle 64 g)
  · intro h k
    exact issues_passes h (hasRoom_of_none rfl) rfl (quiet_block h _ (fun _ => rfl))
  · intro h
    exact issues_passes h (hasRoom_of_none rfl) rfl (quiet_block h _ (fun _ => rfl))

end Sys2Proof.Proofs
end


section
/-! JOIN (O31): which masks are met, and what a release does. -/

namespace Sys2Proof.Proofs

open Sys2Proof Sys2Proof.Machine Sys2Proof.Laws

/-! ### Lanes that go on together -/

/-- The place of a thread in a list of lanes that go on. -/
def passing (l : List (Nat × W32 × Bool)) (t : Thread) : Thread :=
  match l.find? (fun e => e.1 == t.tidx) with
  | some e => t.passed (e.2.1 + 1) e.2.2
  | none => t

theorem passing_tidx (l : List (Nat × W32 × Bool)) (t : Thread) : (passing l t).tidx = t.tidx := by
  unfold passing
  split <;> rfl

theorem passing_stepDue (l : List (Nat × W32 × Bool)) (t : Thread) : (passing l t).stepDue = t.stepDue := by
  unfold passing
  split <;> rfl

theorem adjust_id {α : Type} (m : NMap α) (i : Nat) : NMap.adjust m i (fun x => x) = m := by
  induction m with
  | nil => rfl
  | cons e m ih =>
    rw [NMap.adjust, ih, ite_self]

theorem mapBlock_id (s : State) (c : Nat) : s.mapBlock c (fun x => x) = s := by
  rw [State.mapBlock, adjust_id]

/-- One lane and then others. -/
theorem passing_cons {e : Nat × W32 × Bool} {l : List (Nat × W32 × Bool)} (hn : e.1 ∉ l.map Prod.fst) (t : Thread) :
    passing l (if t.tidx = e.1 then t.passed (e.2.1 + 1) e.2.2 else t) = passing (e :: l) t := by
  by_cases ht : t.tidx = e.1
  · have later : l.find? (fun x => x.1 == t.tidx) = none := by
      refine List.find?_eq_none.mpr (fun x hx he => hn ?_)
      rw [← ht, ← beq_iff_eq.mp he]
      exact List.mem_map_of_mem hx
    rw [if_pos ht, passing, passing, List.find?_cons_of_pos (p := fun (x : Nat × W32 × Bool) => x.1 == t.tidx) (beq_iff_eq.mpr ht.symm),
      show l.find? (fun x => x.1 == (t.passed (e.2.1 + 1) e.2.2).tidx) = none from later]
  · rw [if_neg ht, passing, passing, List.find?_cons_of_neg (p := fun (x : Nat × W32 × Bool) => x.1 == t.tidx) (fun he => ht (beq_iff_eq.mp he).symm)]

/-- Lanes of one block that nothing steps go on together (R193, R197). -/
theorem passAll_spec {b : Block} (l : List (Nat × W32 × Bool)) (hn : (l.map Prod.fst).Nodup)
    (hs : ∀ e ∈ l, b.stepping.contains (b.gidOf e.1) = false) {s : State}
    (hq : ∀ e ∈ l, ∀ x, s.thread? b.id e.1 = some x → x.stepDue = false) :
    s.passAll b l = s.mapBlock b.id (fun x => x.mapThreads (passing l)) := by
  induction l generalizing s with
  | nil =>
    refine (mapBlock_id s b.id).symm.trans (congrArg (s.mapBlock b.id) (funext (fun x => ?_)))
    exact (congrArg (fun ts => { x with threads := ts }) (List.map_id'' (f := passing []) (fun _ => rfl) x.threads)).symm
  | cons e l ih =>
    obtain ⟨hnot, hn⟩ := List.nodup_cons.mp hn
    have step : s.completeLane b.id e.1 (e.2.1 + 1) e.2.2 (b.stepping.contains (b.gidOf e.1)) =
        s.mapThread b.id e.1 (fun x => x.passed (e.2.1 + 1) e.2.2) := by
      rw [hs e List.mem_cons_self]
      exact completeLane_quiet _ _ _ _ _ (hq e List.mem_cons_self)
    have later : ∀ x ∈ l, ∀ y, (s.mapThread b.id e.1 (fun x => x.passed (e.2.1 + 1) e.2.2)).thread? b.id x.1 = some y →
        y.stepDue = false := by
      intro x hx y hy
      rw [state_thread_mapThread _ _ _ _ _ _ (passed_keeps _ _)] at hy
      split at hy
      · obtain ⟨z, hz, rfl⟩ := Option.map_eq_some_iff.mp hy
        exact hq x (List.mem_cons_of_mem e hx) z hz
      · exact hq x (List.mem_cons_of_mem e hx) y hy
    have rest := ih hn (fun x hx => hs x (List.mem_cons_of_mem e hx)) later
    rw [State.passAll, List.foldl_cons, step]
    refine rest.trans ?_
    rw [State.mapThread, mapBlock_mapBlock]
    refine congrArg (s.mapBlock b.id) (funext (fun x => ?_))
    unfold Block.mapThreads Block.mapThread
    dsimp only
    rw [List.map_map]
    exact congrArg (fun ts => { x with threads := ts }) (List.map_congr_left (fun t _ => passing_cons hnot t))

theorem meetKnow_frame (s : State) (b : Block) (ts : List Nat) : { s.meetKnow b ts with stale := s.stale, lcache := s.lcache } = s := by
  unfold State.meetKnow State.renew
  dsimp only
  split <;> rfl

/-! ### Masks that are met (R193) -/

theorem getLsbD_bit (k : Nat) {n : Nat} (hn : n < 64) : (1#64 <<< k).getLsbD n = (k == n) := by
  rw [BitVec.getLsbD_shiftLeft, BitVec.getLsbD_one, Bool.eq_iff_iff]
  simp only [Bool.and_eq_true, decide_eq_true_eq, Bool.not_eq_true', decide_eq_false_iff_not, beq_iff_eq]
  omega

/-- The lanes of a list of threads as a mask. -/
theorem getLsbD_lanes (b : Block) (ts : List Thread) (m : W64) (n : Nat) (hn : n < 64) :
    (ts.foldl (fun m t => m ||| (1#64 <<< (t.tidx % b.decl.width))) m).getLsbD n =
      (m.getLsbD n || ts.any (fun t => t.tidx % b.decl.width == n)) := by
  induction ts generalizing m with
  | nil => rw [List.foldl_nil, List.any_nil, Bool.or_false]
  | cons t ts ih =>
    rw [List.foldl_cons, ih, List.any_cons, BitVec.getLsbD_or, getLsbD_bit _ hn, Bool.or_assoc]

theorem covered_iff (m f : W64) : (m &&& ~~~f == 0) = true ↔ ∀ n, n < 64 → m.getLsbD n = true → f.getLsbD n = true := by
  rw [beq_iff_eq]
  constructor
  · intro h n hn hm
    have := congrArg (fun x => x.getLsbD n) h
    simpa [hn, hm] using this
  · intro h
    refine BitVec.eq_of_getLsbD_eq (fun n hn => ?_)
    cases hm : m.getLsbD n with
    | false => simp [hm]
    | true => simp [h n hn hm]

theorem joinMet_iff (b : Block) (g k : Nat) : b.joinMet g k = true ↔ b.joining g k ≠ [] ∧
    ∀ n, n < 64 → (b.joinMask g k).getLsbD n = true → ∃ x ∈ b.joining g k, x.tidx % b.decl.width = n := by
  rw [Block.joinMet, Bool.and_eq_true, covered_iff]
  refine and_congr (by simp) ⟨fun h n hn hm => ?_, fun h n hn hm => ?_⟩
  · have := h n hn hm
    rw [getLsbD_lanes b _ _ n hn] at this
    simpa using this
  · rw [getLsbD_lanes b _ _ n hn]
    obtain ⟨x, hx, he⟩ := h n hn hm
    rw [Bool.or_eq_true, List.any_eq_true]
    exact .inr ⟨x, hx, beq_iff_eq.mpr he⟩

/-! ### A group whose lanes wait at one JOIN at most -/

/-- Every lane of the group waits for nothing, or at a JOIN on JMk. -/
def GroupJoins (b : Block) (g k : Nat) : Prop := ∀ x ∈ b.threads, b.gidOf x.tidx = g → x.wait = none ∨ x.joins k = true

theorem joins_iff (t : Thread) (k : Nat) : t.joins k = true ↔ ∃ y, t.wait = some (.join k y) := by
  rw [Thread.joins, Bool.or_eq_true, beq_iff_eq, beq_iff_eq]
  constructor
  · rintro (h | h)
    · exact ⟨false, h⟩
    · exact ⟨true, h⟩
  · rintro ⟨y, h⟩
    cases y
    · exact .inl h
    · exact .inr h

section
variable {b : Block} {g k : Nat} (h : GroupJoins b g k)
include h

theorem joining_other {j : Nat} (hj : j ≠ k) : b.joining g j = [] := by
  refine List.filter_eq_nil_iff.mpr (fun x hx => ?_)
  rw [Bool.and_eq_true, Bool.and_eq_true, beq_iff_eq]
  rintro ⟨⟨hg, hjoins⟩, -⟩
  obtain ⟨y, hy⟩ := (joins_iff x j).mp hjoins
  rcases h x hx hg with hn | hk
  · rw [hy] at hn; cases hn
  · obtain ⟨z, hz⟩ := (joins_iff x k).mp hk
    rw [hy] at hz
    cases hz
    exact hj rfl

theorem arrivals_joins : b.arrivals g = [] := by
  refine List.filterMap_eq_nil_iff.mpr (fun x hx => ?_)
  split
  · rename_i m w named guard hw
    refine if_neg ?_
    rintro ⟨hg, -⟩
    rcases h x hx hg with hn | hk
    · rw [hw] at hn; cases hn
    · obtain ⟨z, hz⟩ := (joins_iff x k).mp hk
      rw [hw] at hz
      cases hz
  · rfl

/-- Only the release of that JOIN can be due. -/
theorem releaseOne_joins (hk : k < 8) (s : State) : s.releaseOne b g = if b.joinMet g k then some (s.releaseJoin b g k) else none := by
  have others {j : Nat} (hj : j ≠ k) : ¬ b.joinMet g j = true := by
    rw [joinMet_iff]
    exact fun hm => hm.1 (joining_other h hj)
  unfold State.releaseOne
  by_cases hm : b.joinMet g k = true
  · have found : (List.range 8).find? (b.joinMet g) = some k := by
      rw [List.find?_range_eq_some]
      exact ⟨hm, List.mem_range.mpr hk, fun j hj => by simpa using others (Nat.ne_of_lt hj)⟩
    rw [found, if_pos hm]
  · have found : (List.range 8).find? (b.joinMet g) = none := by
      refine List.find?_eq_none.mpr (fun j _ => ?_)
      by_cases hj : j = k
      · rw [hj]; exact hm
      · exact others hj
    rw [found, if_neg hm, Block.releasable, arrivals_joins h]
    rfl

end

/-! ### The release of a JOIN -/

/-- What the release needs of a lane that waits at it. -/
def joinEntry (k : Nat) (t : Thread) : Nat × W32 × Bool := (t.tidx, t.pc, t.wait == some (.join k true))

theorem eq_of_tidx {l : List Thread} (hn : (l.map Thread.tidx).Nodup) {x y : Thread} (hx : x ∈ l) (hy : y ∈ l) (h : x.tidx = y.tidx) :
    x = y := List.inj_on_of_nodup_map hn hx hy h

theorem passing_joining {b : Block} {g k : Nat} (hn : (b.threads.map Thread.tidx).Nodup) {x : Thread} (hx : x ∈ b.threads) :
    passing ((b.joining g k).map (joinEntry k)) x =
      if x ∈ b.joining g k then x.passed (x.pc + 1) (x.wait == some (.join k true)) else x := by
  have mem {y : Thread} (hy : y ∈ b.joining g k) : y ∈ b.threads := List.mem_of_mem_filter hy
  by_cases hj : x ∈ b.joining g k
  · rw [if_pos hj, passing]
    cases hf : ((b.joining g k).map (joinEntry k)).find? (fun e => e.1 == x.tidx) with
    | none =>
      have := List.find?_eq_none.mp hf (joinEntry k x) (List.mem_map_of_mem hj)
      exact absurd (beq_self_eq_true _) this
    | some e =>
      obtain ⟨y, hy, rfl⟩ := List.mem_map.mp (List.mem_of_find?_eq_some hf)
      have hyx : y.tidx = x.tidx := beq_iff_eq.mp (List.find?_some (p := fun (e : Nat × W32 × Bool) => e.1 == x.tidx) hf)
      rw [eq_of_tidx hn (mem hy) hx hyx]
      rfl
  · rw [if_neg hj, passing]
    cases hf : ((b.joining g k).map (joinEntry k)).find? (fun e => e.1 == x.tidx) with
    | none => rfl
    | some e =>
      obtain ⟨y, hy, rfl⟩ := List.mem_map.mp (List.mem_of_find?_eq_some hf)
      have hyx : y.tidx = x.tidx := beq_iff_eq.mp (List.find?_some (p := fun (e : Nat × W32 × Bool) => e.1 == x.tidx) hf)
      exact absurd (eq_of_tidx hn (mem hy) hx hyx ▸ hy) hj

theorem mem_joining {b : Block} {g k : Nat} {x : Thread} :
    x ∈ b.joining g k ↔ x ∈ b.threads ∧ b.gidOf x.tidx = g ∧ x.joins k = true ∧ x.written = true := by
  rw [Block.joining, List.mem_filter, Bool.and_eq_true, Bool.and_eq_true, beq_iff_eq, and_assoc]

/-- The block after the release. -/
def joinedBlock (b : Block) (g k : Nat) : Block := b.mapThreads (passing ((b.joining g k).map (joinEntry k)))

theorem joining_joinedBlock {b : Block} {g k : Nat} (hn : (b.threads.map Thread.tidx).Nodup) : (joinedBlock b g k).joining g k = [] := by
  refine List.filter_eq_nil_iff.mpr (fun x hx hc => ?_)
  obtain ⟨y, hy, rfl⟩ := List.mem_map.mp hx
  rw [passing_joining hn hy] at hc
  split at hc
  · rw [Thread.joins, Thread.passed] at hc
    simp at hc
  · rename_i hj
    rw [Bool.and_eq_true, Bool.and_eq_true, beq_iff_eq, and_assoc] at hc
    exact hj (mem_joining.mpr ⟨hy, hc⟩)

theorem groupJoins_joinedBlock {b : Block} {g k : Nat} (hn : (b.threads.map Thread.tidx).Nodup) (h : GroupJoins b g k) :
    GroupJoins (joinedBlock b g k) g k := by
  intro x hx hg
  obtain ⟨y, hy, rfl⟩ := List.mem_map.mp hx
  rw [passing_tidx] at hg
  rw [passing_joining hn hy]
  split
  · exact .inl rfl
  · exact h y hy hg

/-- A group that is re-examined while its lanes wait at one JOIN at most. -/
theorem reexamine_joins {s : State} {b : Block} {g k : Nat} (hb : s.block? b.id = some b) (h : GroupJoins b g k) (hk : k < 8) (n : Nat) :
    s.reexamine (n + 1) b.id g = if b.joinMet g k then (s.releaseJoin b g k).reexamine n b.id g else s := by
  rw [State.reexamine, hb]
  dsimp only
  rw [releaseOne_joins h hk]
  by_cases hm : b.joinMet g k = true
  · rw [if_pos hm, if_pos hm]
  · rw [if_neg hm, if_neg hm]

/-- The release of a JOIN that its context does not trace. -/
theorem releaseJoin_spec {s : State} {b : Block} {g k : Nat} (hb : s.block? b.id = some b) (htr : (s.ctx b.decl.ctx).traces 2 = false)
    (hn : (b.threads.map Thread.tidx).Nodup) (hs : b.stepping.contains g = false) (hd : ∀ x ∈ b.threads, x.stepDue = false) :
    (s.releaseJoin b g k).block? b.id = some (joinedBlock b g k) ∧ sameButSeen s (s.releaseJoin b g k) ∧
      ∀ c, c ≠ b.id → (s.releaseJoin b g k).block? c = s.block? c := by
  let s1 := s.meetKnow b ((b.joining g k).map Thread.tidx)
  have hframe : { s1 with stale := s.stale, lcache := s.lcache } = s := meetKnow_frame ..
  have hblocks : s1.blocks = s.blocks := (congrArg State.blocks hframe :)
  have hb1 (c : Nat) : s1.block? c = s.block? c := by rw [State.block?, hblocks]; rfl
  have quiet : Unstepped s1 b.id := by
    intro j x hx
    rw [State.thread?, hb1, hb] at hx
    exact hd x (List.mem_of_find?_eq_some hx)
  have entries : ((b.joining g k).map (joinEntry k)).map Prod.fst = (b.joining g k).map Thread.tidx := by
    rw [List.map_map]
    rfl
  have pass := passAll_spec (b := b) ((b.joining g k).map (joinEntry k))
    (by rw [entries]; exact hn.sublist (List.filter_sublist.map _))
    (fun e he => by
      obtain ⟨y, hy, rfl⟩ := List.mem_map.mp he
      obtain ⟨-, hg, -⟩ := mem_joining.mp hy
      exact (congrArg b.stepping.contains hg).trans hs) (fun e _ => quiet e.1)
  have run : s.releaseJoin b g k = s1.mapBlock b.id (fun x => x.mapThreads (passing ((b.joining g k).map (joinEntry k)))) := by
    rw [State.releaseJoin, trace_off hb htr]
    exact pass
  rw [run]
  refine ⟨?_, ?_, ?_⟩
  · rw [block_mapBlock, if_pos rfl, hb1, hb]
    rfl
  · exact sameButSeen_trans (t := s1) (by unfold sameButSeen; rw [hframe]; rfl) rfl
  · intro c hc
    rw [block_mapBlock, if_neg hc, hb1]

/-! ### The word -/

theorem turn_live {s : State} {b : Block} (hr : s.replays b.id = false) (t : Thread) : s.turn b t = true := by
  rw [State.turn]
  cases h : s.replayOf b.id with
  | none => rfl
  | some p =>
    rw [State.replays, h] at hr
    cases hr

theorem reexamineAfter_one {s s' : State} {b : Block} {k : Nat} {pc : W32} (hb : s'.block? b.id = some b) :
    reexamineAfter ⟨b.id, [k], pc⟩ s s' = s'.reexamine 64 b.id (b.gidOf k) := by
  rw [reexamineAfter, hb]
  rfl

/-- A lane that waits at its word. -/
def Waiting (t : Thread) (v : Wait) : Thread := { t with wait := some v }

theorem thread_mem {b : Block} {k : Nat} {t : Thread} (h : b.thread? k = some t) : t ∈ b.threads ∧ t.tidx = k :=
  ⟨List.mem_of_find?_eq_some h, beq_iff_eq.mp (List.find?_some (p := fun (x : Thread) => x.tidx == k) h)⟩

theorem thread_mapThreads {b : Block} {k : Nat} {f : Thread → Thread} (hf : KeepsIndex f) :
    (b.mapThreads f).thread? k = (b.thread? k).map f := by
  rw [Block.thread?, Block.mapThreads, List.find?_map, Block.thread?]
  refine congrArg (fun p => (b.threads.find? p).map f) (funext (fun x => ?_))
  exact congrArg (fun n => n == k) (hf x)

/-- The threads of a block in which one has changed. -/
theorem mem_mapThread {b : Block} {t : Thread} {f : Thread → Thread} (hn : (b.threads.map Thread.tidx).Nodup)
    (ht : b.thread? t.tidx = some t) {x : Thread} :
    x ∈ (b.mapThread t.tidx f).threads ↔ x = f t ∨ x ∈ b.threads ∧ x.tidx ≠ t.tidx := by
  obtain ⟨htb, -⟩ := thread_mem ht
  constructor
  · intro hx
    obtain ⟨z, hz, rfl⟩ := List.mem_map.mp hx
    by_cases hzt : z.tidx = t.tidx
    · rw [if_pos hzt, eq_of_tidx hn hz htb hzt]
      exact .inl rfl
    · rw [if_neg hzt]
      exact .inr ⟨hz, hzt⟩
  · rintro (rfl | ⟨hx, hxt⟩)
    · exact List.mem_map.mpr ⟨t, htb, if_pos rfl⟩
    · exact List.mem_map.mpr ⟨x, hx, if_neg hxt⟩

theorem mapThread_indices (b : Block) (k : Nat) {f : Thread → Thread} (hf : KeepsIndex f) :
    (b.mapThread k f).threads.map Thread.tidx = b.threads.map Thread.tidx := by
  rw [Block.mapThread, List.map_map]
  refine List.map_congr_left (fun x _ => ?_)
  show (if x.tidx = k then f x else x).tidx = x.tidx
  split
  · exact hf x
  · rfl

/-- The block in which a lane waits at a JOIN. -/
def heldBlock (b : Block) (t : Thread) (k : Nat) (y : Bool) : Block := b.mapThread t.tidx (fun x => Waiting x (.join k y))

section
variable {b : Block} {t : Thread} {k : Nat} {y : Bool} (hn : (b.threads.map Thread.tidx).Nodup) (ht : b.thread? t.tidx = some t)
include hn ht

theorem mem_heldBlock {x : Thread} :
    x ∈ (heldBlock b t k y).threads ↔ x = Waiting t (.join k y) ∨ x ∈ b.threads ∧ x.tidx ≠ t.tidx := mem_mapThread hn ht

/-- The lanes that a JOIN of a lane meets: the lane itself, and those that wait already. -/
theorem mem_joining_heldBlock {x : Thread} : x ∈ (heldBlock b t k y).joining (b.gidOf t.tidx) k ↔
    x = Waiting t (.join k y) ∧ t.written = true ∨
      x ∈ b.threads.filter (fun x => b.gidOf x.tidx == b.gidOf t.tidx && x.tidx != t.tidx) ∧ x.joins k = true ∧ x.written = true := by
  rw [mem_joining, mem_heldBlock hn ht, List.mem_filter, Bool.and_eq_true, beq_iff_eq, bne_iff_ne]
  constructor
  · rintro ⟨rfl | ⟨hx, hxt⟩, hg, hj, hw⟩
    · exact .inl ⟨rfl, hw⟩
    · exact .inr ⟨⟨hx, hg, hxt⟩, hj, hw⟩
  · rintro (⟨rfl, hw⟩ | ⟨⟨hx, hg, hxt⟩, hj, hw⟩)
    · exact ⟨.inl rfl, rfl, (joins_iff _ _).mpr ⟨y, rfl⟩, hw⟩
    · exact ⟨.inr ⟨hx, hxt⟩, hg, hj, hw⟩

end

theorem join_beq (k : Nat) (y : Bool) : (some (Wait.join k y) == some (Wait.join k true)) = y := by
  cases y
  · exact beq_false_of_ne (by simp)
  · exact beq_self_eq_true _

/-- Settles O31: the lane waits or passes, and its group is looked at once more; a release leaves nothing to release. -/
theorem joinsRelease : Obligations.JoinsRelease := by
  intro w s b t k g lane mask others h hr htr hn hd hothers
  have hk : k < 8 := Nat.mod_lt _ (by decide)
  have hb := block_of_issues h
  obtain ⟨-, -, -, -, ⟨ht, -⟩, hstep, -⟩ := id h
  let s1 : State := s.hold b.id t.tidx (.join k w.hnt.yld)
  let b1 : Block := heldBlock b t k w.hnt.yld
  have hb1 : s1.block? b.id = some b1 := by
    show (s.mapBlock b.id _).block? b.id = some b1
    rw [block_mapBlock, if_pos rfl, hb]
    rfl
  have waits_run (hm : mask.getLsbD (lane t) = true) : exec (.join w) s = .next (s1.reexamine 64 b.id g).endWord := by
    refine (runWord_one h rfl rfl rfl rfl rfl).trans (congrArg (fun x => Host.Outcome.next (State.endWord x)) ?_)
    dsimp only
    rw [turn_live hr, if_neg (by decide)]
    rw [show (b.joinMask (Env.gid ⟨b, t⟩) (modF w 0 3)).getLsbD (Env.lane ⟨b, t⟩) = true from hm, if_pos rfl]
    exact reexamineAfter_one (b := b1) hb1
  have members {x : Thread} : x ∈ b1.joining g k ↔ x = Waiting t (.join k w.hnt.yld) ∧ t.written = true ∨
      x ∈ others ∧ x.joins k = true ∧ x.written = true := mem_joining_heldBlock hn ht
  have groups : GroupJoins b1 g k := by
    intro x hx hg
    rcases (mem_heldBlock hn ht).mp hx with rfl | ⟨hx, hxt⟩
    · exact .inr ((joins_iff _ _).mpr ⟨_, rfl⟩)
    · exact hothers x (List.mem_filter.mpr ⟨hx, by rw [Bool.and_eq_true, beq_iff_eq, bne_iff_ne]; exact ⟨hg, hxt⟩⟩)
  have loop : s1.reexamine 64 b.id g = if b1.joinMet g k then (s1.releaseJoin b1 g k).reexamine 63 b.id g else s1 :=
    reexamine_joins (b := b1) hb1 groups hk 63
  refine ⟨fun hm hidle => ?_, fun hm hw => ?_, fun hm hw hidle => ?_⟩
  · let b2 : Block := b.mapThread t.tidx (fun x => x.passed (t.pc + 1) w.hnt.yld)
    let s2 : State := s.mapThread b.id t.tidx (fun x => x.passed (t.pc + 1) w.hnt.yld)
    have hb2 : s2.block? b.id = some b2 := by
      show (s.mapBlock b.id _).block? b.id = some b2
      rw [block_mapBlock, if_pos rfl, hb]
      rfl
    have idle : ∀ x ∈ b2.threads, b2.gidOf x.tidx = g → x.wait = none := by
      intro x hx hg
      rcases (mem_mapThread hn ht).mp hx with rfl | ⟨hx, hxt⟩
      · rfl
      · exact hidle x (List.mem_filter.mpr ⟨hx, by rw [Bool.and_eq_true, beq_iff_eq, bne_iff_ne]; exact ⟨hg, hxt⟩⟩)
    have unmet : ¬ b2.joinMet g k = true := by
      rw [joinMet_iff]
      rintro ⟨hne, -⟩
      obtain ⟨x, hx⟩ := List.exists_mem_of_ne_nil _ hne
      obtain ⟨hx, hg, hj, -⟩ := mem_joining.mp hx
      obtain ⟨y, hy⟩ := (joins_iff x k).mp hj
      rw [idle x hx hg] at hy
      cases hy
    refine (runWord_one h rfl rfl rfl rfl rfl).trans (congrArg Host.Outcome.next ?_)
    dsimp only
    rw [turn_live hr, if_neg (by decide)]
    rw [show (b.joinMask (Env.gid ⟨b, t⟩) (modF w 0 3)).getLsbD (Env.lane ⟨b, t⟩) = false from hm, if_neg (by decide)]
    dsimp only
    rw [completeLane_quiet _ _ _ _ _ (issues_quiet h rfl)]
    refine congrArg State.endWord ((reexamineAfter_one (b := b2) hb2).trans ?_)
    exact (reexamine_joins (b := b2) hb2 (fun x hx hg => .inl (idle x hx hg)) hk 63).trans (if_neg unmet)
  · intro met
    have met_iff : b1.joinMet g k = true ↔ met := by
      rw [joinMet_iff]
      constructor
      · rintro ⟨-, hc⟩ n hn64 hbit
        obtain ⟨x, hx, hl⟩ := hc n hn64 hbit
        rcases members.mp hx with ⟨rfl, -⟩ | ⟨hx, hj, hxw⟩
        · exact .inl hl.symm
        · exact .inr ⟨x, hx, hj, hxw, hl⟩
      · intro hc
        have own : Waiting t (.join k w.hnt.yld) ∈ b1.joining g k := members.mpr (.inl ⟨rfl, hw⟩)
        refine ⟨List.ne_nil_of_mem own, fun n hn64 hbit => ?_⟩
        rcases hc n hn64 hbit with rfl | ⟨x, hx, hj, hxw, hl⟩
        · exact ⟨_, own, rfl⟩
        · exact ⟨x, members.mpr (.inr ⟨hx, hj, hxw⟩), hl⟩
    refine ⟨fun hmet => ?_, fun hmet => ?_⟩
    · rw [waits_run hm, loop, if_neg (fun hc => hmet (met_iff.mp hc))]
      rfl
    · have hn1 : (b1.threads.map Thread.tidx).Nodup := by
        rw [show b1.threads.map Thread.tidx = b.threads.map Thread.tidx from mapThread_indices b t.tidx (fun _ => rfl)]
        exact hn
      have hd1 : ∀ x ∈ b1.threads, x.stepDue = false := by
        intro x hx
        rcases (mem_heldBlock hn ht).mp hx with rfl | ⟨hx, -⟩
        · exact hd t (thread_mem ht).1
        · exact hd x hx
      obtain ⟨hb2, hframe, hblocks⟩ := releaseJoin_spec (s := s1) (b := b1) (g := g) (k := k) hb1 htr hn1 hstep hd1
      have done : ¬ (joinedBlock b1 g k).joinMet g k = true := by
        rw [joinMet_iff, joining_joinedBlock hn1]
        exact fun hc => hc.1 rfl
      have last : (s1.releaseJoin b1 g k).reexamine 63 b.id g = s1.releaseJoin b1 g k :=
        (reexamine_joins (b := joinedBlock b1 g k) hb2 (groupJoins_joinedBlock hn1 groups) hk 62).trans (if_neg done)
      have look (j : Nat) : (s1.releaseJoin b1 g k).thread? b.id j = (b1.thread? j).map (passing ((b1.joining g k).map (joinEntry k))) := by
        rw [State.thread?, show (s1.releaseJoin b1 g k).block? b.id = _ from hb2, Option.bind_some]
        exact thread_mapThreads (passing_tidx _)
      have lane1 {x : Thread} (hx : x ∈ b1.threads) : (s1.releaseJoin b1 g k).thread? b.id x.tidx =
          some (if x ∈ b1.joining g k then x.passed (x.pc + 1) (x.wait == some (.join k true)) else x) := by
        rw [look, Block.thread?, find_thread_of_mem hn1 hx, Option.map_some, passing_joining hn1 hx]
      refine ⟨(s1.releaseJoin b1 g k).endWord, ?_, ?_, fun x hx => ?_, sameButSeen_trans (t := s1) rfl hframe, fun c hc => ?_⟩
      · rw [waits_run hm, loop, if_pos (met_iff.mpr hmet), last]
      · refine (lane1 ((mem_heldBlock hn ht).mpr (.inl rfl))).trans ?_
        rw [if_pos (members.mpr (.inl ⟨rfl, hw⟩)), show (Waiting t (.join k w.hnt.yld)).wait = some (.join k w.hnt.yld) from rfl,
          join_beq]
        rfl
      · obtain ⟨hxb, hc⟩ := List.mem_filter.mp hx
        rw [Bool.and_eq_true, bne_iff_ne] at hc
        refine (lane1 ((mem_heldBlock hn ht).mpr (.inr ⟨hxb, hc.2⟩))).trans (congrArg some (if_congr ?_ rfl rfl))
        rw [members]
        refine ⟨?_, fun hj => .inr ⟨hx, hj⟩⟩
        rintro (⟨rfl, -⟩ | ⟨-, hj⟩)
        · exact absurd rfl hc.2
        · exact hj
      · refine (hblocks c hc).trans ?_
        show (s.mapBlock b.id _).block? c = _
        rw [block_mapBlock, if_neg hc]
  · rw [waits_run hm, loop, if_neg]
    · rfl
    · rw [joinMet_iff]
      rintro ⟨hne, -⟩
      obtain ⟨x, hx⟩ := List.exists_mem_of_ne_nil _ hne
      rcases members.mp hx with ⟨-, hc⟩ | ⟨hx, hj, -⟩
      · rw [hw] at hc; cases hc
      · obtain ⟨y, hy⟩ := (joins_iff x k).mp hj
        rw [hidle x hx] at hy
        cases hy

end Sys2Proof.Proofs
end


section
/-! EXIT (O32). -/

namespace Sys2Proof.Proofs

open Sys2Proof Sys2Proof.Machine Sys2Proof.Laws

/-! ### What an exit leaves of the sections and slots -/

theorem cascade_nil (n : Nat) (s : State) : s.cascade n [] = s := by
  induction n with
  | zero => rfl
  | succ n ih => exact ih

theorem abortAll_nil (s : State) (cause : Nat) (other : Option Nat) : s.abortAll [] cause other = s := by
  rw [State.abortAll, List.filter_nil, List.foldl_nil, cascade_nil]

theorem endSections_none {s : State} {b : Nat} {who : Nat → Bool} (h : ∀ x ∈ s.sections, ¬ (x.blk = b ∧ who x.tidx = true)) :
    s.endSections b who = s := by
  have apart {x : Section} (hx : x ∈ s.sections) : (x.blk == b && who x.tidx) = false := by
    rw [Bool.eq_false_iff, ne_eq, Bool.and_eq_true, beq_iff_eq]
    exact h x hx
  have mine : s.sections.filter (fun x => x.blk == b && who x.tidx) = [] :=
    List.filter_eq_nil_iff.mpr (fun x hx => by rw [apart hx]; decide)
  have all : s.sections.filter (fun x => !(x.blk == b && who x.tidx)) = s.sections :=
    List.filter_eq_self.mpr (fun x hx => by rw [apart hx]; rfl)
  rw [State.endSections, mine, List.map_nil, abortAll_nil, all]

theorem replayEnd_live {s : State} {blk : Nat} (h : s.replays blk = false) : s.replayEnd blk = s := by
  have none : s.replayOf blk = none := by
    rwa [State.replays, Option.isSome_eq_false_iff, Option.isNone_iff_eq_none] at h
  rw [State.replayEnd, none]

theorem applyEvents_none {s : State} {b : Block} {blk : Nat} (hb : s.block? blk = some b) (h : b.nextEvent = none) (n : Nat) :
    s.applyEvents n blk none = s := by
  cases n with
  | zero => rfl
  | succ n =>
    rw [State.applyEvents, hb]
    dsimp only
    rw [h]
    rfl

/-! ### The thread that ends (R126, R189) -/

/-- The exit of a thread as an event of its block's objects. -/
def exitToken (s : State) (b : Block) (t : Thread) : Token :=
  { op := s.seq, bundle := b.issued, pc := t.pc, off := 0, ev := .exit, dst := none, shifts := 0, quiet := t.inTrap, val := none }

/-- A thread that has exited, with its exit as an event. -/
def ended (k : Token) (t : Thread) : Thread :=
  { t with
    life := .exited, wait := none,
    pend := t.pend.map (fun p => { p with act := p.act.dropResults }),
    tokens := t.tokens.map (fun k => { k with dst := none }) ++ [k] }

/-- The block in which a thread has ended. -/
def endedBlock (b : Block) (t : Thread) (k : Token) : Block :=
  (b.mapGroup (b.gidOf t.tidx) (fun g => g.clearLane (t.tidx % b.decl.width))).mapThread t.tidx (ended k)

theorem isCtrs_dropResults (a : Act) : a.dropResults.isCtrs = a.isCtrs := by
  cases a <;> rfl

theorem meetsObj_dropResults (a : Act) (blk off : Nat) : a.dropResults.meetsObj blk off = a.meetsObj blk off := by
  cases a with
  | atom loc va kind b c sc mrg dst => cases loc <;> rfl
  | _ => rfl

/-- The BINIT offsets among a thread's earlier operations. -/
def madeBy (op : Nat) (t : Thread) : List Nat :=
  t.pend.filterMap (fun q => match q.act with
    | .binit off _ _ => if q.op < op then some (off / 16) else none
    | _ => none)

theorem madeBy_ended (k : Token) (op : Nat) (t : Thread) : madeBy op (ended k t) = madeBy op t := by
  unfold madeBy ended
  dsimp only
  rw [List.filterMap_map]
  refine congrArg (fun f => t.pend.filterMap f) (funext (fun q => ?_))
  dsimp only [Function.comp]
  cases q.act <;> rfl

/-- An operation that makes an object, or writes one of those given. -/
def writesObject (a : Act) (gs : List Nat) (blk : Nat) : Bool :=
  match a with
  | .binit _ _ _ => true
  | a => gs.any (fun g => a.meetsObj blk (16 * g))

theorem objWrite_eq (b : Block) (p : Pend) :
    b.objWrite p = writesObject p.act (b.objects ++ (b.threads.map (madeBy p.op)).flatten) b.id := rfl

theorem writesObject_dropResults (a : Act) (gs : List Nat) (blk : Nat) :
    writesObject a.dropResults gs blk = writesObject a gs blk := by
  cases a with
  | binit off n d => rfl
  | atom loc va kind b c sc mrg dst => exact congrArg gs.any (funext (fun g => meetsObj_dropResults _ _ _))
  | _ => rfl

section
variable {b : Block} {t : Thread} {k : Token} (hn : (b.threads.map Thread.tidx).Nodup) (ht : b.thread? t.tidx = some t)
include hn ht

theorem mem_endedBlock {x : Thread} : x ∈ (endedBlock b t k).threads ↔ x = ended k t ∨ x ∈ b.threads ∧ x.tidx ≠ t.tidx :=
  mem_mapThread (b := b.mapGroup (b.gidOf t.tidx) (fun g => g.clearLane (t.tidx % b.decl.width))) hn ht

end

theorem made_endedBlock (b : Block) (t : Thread) (k : Token) (op : Nat) :
    (endedBlock b t k).threads.map (madeBy op) = b.threads.map (madeBy op) := by
  unfold endedBlock Block.mapThread Block.mapGroup
  dsimp only
  rw [List.map_map]
  refine List.map_congr_left (fun x _ => ?_)
  show madeBy op (if x.tidx = t.tidx then ended k x else x) = madeBy op x
  split
  · exact madeBy_ended k op x
  · rfl

theorem objWrite_endedBlock (b : Block) (t : Thread) (k : Token) (p : Pend) : (endedBlock b t k).objWrite p = b.objWrite p := by
  rw [objWrite_eq, objWrite_eq, made_endedBlock]
  rfl

theorem objWrite_dropResults (b : Block) (p : Pend) : b.objWrite { p with act := p.act.dropResults } = b.objWrite p := by
  rw [objWrite_eq, objWrite_eq]
  exact writesObject_dropResults _ _ _

/-- With no event of the block outstanding, the exit is applied at once. -/
theorem applies_ended {s : State} {b : Block} {t : Thread} (hn : (b.threads.map Thread.tidx).Nodup) (ht : b.thread? t.tidx = some t)
    (hq : b.quietBank t = true) :
    (endedBlock b t (exitToken s b t)).applies (ended (exitToken s b t) t) (exitToken s b t) = true := by
  obtain ⟨hall, hctrs⟩ := Bool.and_eq_true_iff.mp hq
  have calm {u : Thread} (hu : u ∈ b.threads) {p : Pend} (hp : p ∈ u.pend) : b.objWrite p = false := by
    obtain ⟨-, h⟩ := Bool.and_eq_true_iff.mp (List.all_eq_true.mp hall u hu)
    simpa using List.all_eq_true.mp h p hp
  rw [Block.applies, Bool.and_eq_true, Bool.and_eq_true]
  refine ⟨⟨List.all_eq_true.mpr (fun u hu => List.all_eq_true.mpr (fun p hp => ?_)), List.all_eq_true.mpr (fun p hp => ?_)⟩, rfl⟩
  · rw [objWrite_endedBlock]
    rcases (mem_endedBlock hn ht).mp hu with rfl | ⟨hu, -⟩
    · obtain ⟨q, hq, rfl⟩ := List.mem_map.mp hp
      rw [objWrite_dropResults, calm (thread_mem ht).1 hq, Bool.not_false, Bool.or_true]
    · rw [calm hu hp, Bool.not_false, Bool.or_true]
  · obtain ⟨q, hq, rfl⟩ := List.mem_map.mp hp
    have := List.all_eq_true.mp hctrs q hq
    rw [isCtrs_dropResults, this, Bool.true_or]

/-- The only event of a block whose other threads have none. -/
theorem flatten_single {α : Type} {l : List Thread} (hn : (l.map Thread.tidx).Nodup) {t : Thread} (ht : t ∈ l) {f : Thread → List α}
    {a : α} (hf : f t = [a]) (ho : ∀ x ∈ l, x.tidx ≠ t.tidx → f x = []) : (l.map f).flatten = [a] := by
  induction l with
  | nil => exact absurd ht List.not_mem_nil
  | cons x l ih =>
    obtain ⟨hnot, hn⟩ := List.nodup_cons.mp hn
    rw [List.map_cons, List.flatten_cons]
    rcases List.mem_cons.mp ht with rfl | ht
    · have rest : (l.map f).flatten = [] := by
        refine List.flatten_eq_nil_iff.mpr (fun y hy => ?_)
        obtain ⟨z, hz, rfl⟩ := List.mem_map.mp hy
        exact ho z (List.mem_cons_of_mem _ hz) (fun he => hnot (he ▸ List.mem_map_of_mem hz))
      rw [hf, rest, List.append_nil]
    · rw [ho x List.mem_cons_self (fun he => hnot (he ▸ List.mem_map_of_mem ht)), List.nil_append]
      exact ih hn ht (fun z hz => ho z (List.mem_cons_of_mem _ hz))

theorem endedBlock_indices (b : Block) (t : Thread) (k : Token) :
    (endedBlock b t k).threads.map Thread.tidx = b.threads.map Thread.tidx :=
  mapThread_indices (b.mapGroup (b.gidOf t.tidx) (fun g => g.clearLane (t.tidx % b.decl.width))) t.tidx (f := ended k) (fun _ => rfl)

/-- The block's one event. -/
theorem nextEvent_ended {b : Block} {t : Thread} {k : Token} (hn : (b.threads.map Thread.tidx).Nodup) (ht : b.thread? t.tidx = some t)
    (hk : k.val = none) (hq : ∀ x ∈ b.threads, x.tokens = []) : (endedBlock b t k).nextEvent = some (ended k t, k) := by
  have hn1 : ((endedBlock b t k).threads.map Thread.tidx).Nodup := by
    rw [endedBlock_indices]
    exact hn
  have events : ((endedBlock b t k).threads.map (fun t => (t.tokens.filter (fun k => k.val.isNone)).map (fun k => (t, k)))).flatten =
      [(ended k t, k)] := by
    refine flatten_single hn1 ((mem_endedBlock hn ht).mpr (.inl rfl)) ?_ (fun x hx hxt => ?_)
    · rw [ended, hq t (thread_mem ht).1, List.map_nil, List.nil_append, List.filter_cons_of_pos (by rw [hk]; rfl)]
      rfl
    · rcases (mem_endedBlock hn ht).mp hx with rfl | ⟨hx, -⟩
      · exact absurd rfl hxt
      · rw [hq x hx]
        rfl
  rw [Block.nextEvent, events]
  rfl

theorem nextEvent_none {b : Block} (h : ∀ x ∈ b.threads, x.tokens = []) : b.nextEvent = none := by
  have events : (b.threads.map (fun t => (t.tokens.filter (fun k => k.val.isNone)).map (fun k => (t, k)))).flatten = [] := by
    refine List.flatten_eq_nil_iff.mpr (fun y hy => ?_)
    obtain ⟨x, hx, rfl⟩ := List.mem_map.mp hy
    rw [h x hx]
    rfl
  rw [Block.nextEvent, events]
  rfl

/-- The exit has been applied. -/
def leftThread (k : Token) (t : Thread) : Thread := { ended k t with tokens := (ended k t).tokens.filter (fun x => x.op != k.op) }

theorem flushRun_none (s : State) (blk : Nat) : s.flushRun blk none = s := rfl

theorem exitDrops_none {s : State} {b : Block} {blk tidx : Nat} (hb : s.block? blk = some b) (hx : b.xregs = []) :
    s.exitDrops blk tidx = s := by
  rw [State.exitDrops, hb]
  dsimp only
  rw [hx]
  rfl

theorem applyEvent_exit {s : State} {b : Block} {t : Thread} {k : Token} {c : Nat} (hk : k.ev = .exit) (hid : b.id = c) :
    s.applyEvent b t k none = (((s.mapBlock c (fun _ => b)).dropToken c t.tidx k.op).exitDrops c t.tidx, none) := by
  subst hid
  unfold State.applyEvent
  dsimp only
  rw [hk]
  rfl

/-- The exit as an event: it is applied where it may be, and waits otherwise. -/
theorem settle_ended {s : State} {b b5 : Block} {t : Thread} {k : Token} (hb : s.block? b.id = some b5) (hid : b5.id = b.id)
    (hx : b5.xregs = []) (hr : s.replays b.id = false) (he : b5.nextEvent = some (t, k)) (hk : k.ev = .exit)
    (hmem : t ∈ b5.threads) (htok : t.tokens = [k])
    (hafter : (b5.mapThread t.tidx (fun x => { x with tokens := x.tokens.filter (fun y => y.op != k.op) })).nextEvent = none) :
    s.settle b.id = if b5.applies t k then (s.mapBlock b.id (fun _ => b5)).dropToken b.id t.tidx k.op else s := by
  have some_token : ∃ n, (b5.threads.map (fun t => t.tokens.length)).sum = n + 1 := by
    have : t.tokens.length ≤ (b5.threads.map (fun t => t.tokens.length)).sum :=
      List.single_le_sum (fun _ _ => Nat.zero_le _) _ (List.mem_map_of_mem hmem)
    rw [htok, List.length_singleton] at this
    exact Nat.exists_eq_succ_of_ne_zero (by omega)
  have hdropped : ((s.mapBlock b.id (fun _ => b5)).dropToken b.id t.tidx k.op).block? b.id =
      some (b5.mapThread t.tidx (fun x => { x with tokens := x.tokens.filter (fun y => y.op != k.op) })) := by
    rw [State.dropToken, State.mapThread, block_mapBlock, if_pos rfl, block_mapBlock, if_pos rfl, hb]
    rfl
  obtain ⟨n, hn⟩ := some_token
  rw [State.settle, hb]
  dsimp only
  rw [hn, State.applyEvents, hb]
  dsimp only
  rw [he]
  dsimp only
  split
  · rw [applyEvent_exit hk hid, exitDrops_none hdropped hx]
    dsimp only
    rw [applyEvents_none hdropped hafter]
    exact replayEnd_live hr
  · exact replayEnd_live hr

/-! ### The word -/

theorem exitSlots_lone {s : State} {b c : Block} {tidx : Nat} (ht : b.decl.team = 0) (hb : s.block? b.id = some c) (hs : c.slots = []) :
    (s.exitSlots b tidx).block? b.id = some c ∧ (∀ d, d ≠ b.id → (s.exitSlots b tidx).block? d = s.block? d) ∧
      sameBut s (s.exitSlots b tidx) := by
  rw [State.exitSlots, State.teamBlocks, if_pos ht, List.foldl_cons, List.foldl_nil]
  refine ⟨?_, fun d hd => ?_, rfl⟩
  · rw [block_mapBlock, if_pos rfl, hb, Option.map_some]
    cases c
    cases hs
    rfl
  · rw [block_mapBlock, if_neg hd]

/-- What `State.endThread` comes to for a thread without sections, in a block without slots. -/
theorem endThread_lone {s : State} {b : Block} {t : Thread} (hb : s.block? b.id = some b) (ht : b.thread? t.tidx = some t)
    (hslots : b.slots = []) (hteam : b.decl.team = 0) (hsec : ∀ x ∈ s.sections, ¬ (x.blk = b.id ∧ x.tidx = t.tidx)) :
    ∃ s5, s.endThread b t.tidx = (s5.settle b.id).reexamine 64 b.id (b.gidOf t.tidx) ∧
      s5.block? b.id = some (endedBlock b t (exitToken s b t)) ∧ (∀ d, d ≠ b.id → s5.block? d = s.block? d) ∧
      sameBut { s with seq := s.seq + 1 } s5 := by
  have hs1 : s.endSections b.id (fun x => x == t.tidx) = s :=
    endSections_none (fun x hx hc => hsec x hx ⟨hc.1, beq_iff_eq.mp hc.2⟩)
  let lane : Group → Group := fun g => g.clearLane (t.tidx % b.decl.width)
  let f : Thread → Thread := fun t => { t with
    life := .exited, wait := none,
    pend := t.pend.map (fun p => { p with act := p.act.dropResults }),
    tokens := t.tokens.map (fun k => { k with dst := none }) }
  let s4 := ((s.mapGroup b.id (b.gidOf t.tidx) lane).mapThread b.id t.tidx f).enqueue b t 0 .exit none
  have hb4 : s4.block? b.id = some (endedBlock b t (exitToken s b t)) := by
    show ((((s.mapBlock b.id _).mapBlock b.id _) : State).mapBlock b.id _).block? b.id = _
    rw [block_mapBlock, if_pos rfl, block_mapBlock, if_pos rfl, block_mapBlock, if_pos rfl, hb]
    exact congrArg some (mapThread_mapThread _ _ _ _ (fun _ => rfl))
  have others4 (d : Nat) (hd : d ≠ b.id) : s4.block? d = s.block? d := by
    show ((((s.mapBlock b.id _).mapBlock b.id _) : State).mapBlock b.id _).block? d = _
    rw [block_mapBlock, if_neg hd, block_mapBlock, if_neg hd, block_mapBlock, if_neg hd]
  obtain ⟨hb5, others5, frame5⟩ := exitSlots_lone (tidx := t.tidx) hteam hb4 hslots
  refine ⟨s4.exitSlots b t.tidx, by rw [State.endThread, hs1, ht], hb5, fun d hd => (others5 d hd).trans (others4 d hd), ?_⟩
  exact sameBut_trans (t := s4) rfl frame5

theorem thread_endedBlock {b : Block} {t : Thread} (k : Token) (ht : b.thread? t.tidx = some t) (j : Nat) :
    (endedBlock b t k).thread? j = if j = t.tidx then some (ended k t) else b.thread? j := by
  refine (thread_mapThread (b.mapGroup (b.gidOf t.tidx) _) t.tidx j (ended k) (fun _ => rfl)).trans ?_
  by_cases hj : j = t.tidx
  · rw [if_pos hj, if_pos hj, hj, show (b.mapGroup (b.gidOf t.tidx) _).thread? t.tidx = some t from ht]
    rfl
  · rw [if_neg hj, if_neg hj]
    rfl

/-- The groups of a block whose thread has ended. -/
theorem group_endedBlock (b : Block) (t : Thread) (k : Token) (g : Nat) : (endedBlock b t k).group? g =
    (b.group? g).map (fun x => if x.gid = b.gidOf t.tidx then x.clearLane (t.tidx % b.decl.width) else x) := by
  show (b.groups.map _).find? _ = _
  rw [List.find?_map, Block.group?]
  refine congrArg (fun p => (b.groups.find? p).map _) (funext (fun x => ?_))
  show ((if x.gid = b.gidOf t.tidx then x.clearLane (t.tidx % b.decl.width) else x).gid == g) = (x.gid == g)
  split <;> rfl

theorem joinMask_endedBlock (b : Block) (t : Thread) (k : Token) (j : Nat) : (endedBlock b t k).joinMask (b.gidOf t.tidx) j =
    b.joinMask (b.gidOf t.tidx) j &&& ~~~(1#64 <<< (t.tidx % b.decl.width)) := by
  rw [Block.joinMask, group_endedBlock, Block.joinMask]
  cases hg : b.group? (b.gidOf t.tidx) with
  | none => exact BitVec.zero_and.symm
  | some x =>
    have hx : x.gid = b.gidOf t.tidx := beq_iff_eq.mp (List.find?_some (p := fun (x : Group) => x.gid == b.gidOf t.tidx) hg)
    rw [Option.map_some, if_pos hx]
    show NMap.read 0 (x.jm.map (fun (k, m) => (k, m &&& ~~~(1#64 <<< (t.tidx % b.decl.width))))) j = _
    rw [NMap.read, lookup_map_entries x.jm (fun _ m => m &&& ~~~(1#64 <<< (t.tidx % b.decl.width)))]
    show _ = (NMap.lookup x.jm j).getD 0 &&& _
    cases NMap.lookup x.jm j with
    | none => exact BitVec.zero_and.symm
    | some m => rfl

/-- Settles O32: the exit as an event of its block, applied at once where nothing stands before it. -/
theorem threadsExit : Obligations.ThreadsExit := by
  intro w s b t h hr hx hslots hteam hq hsec hn g
  have hb := block_of_issues h
  obtain ⟨-, -, -, -, ⟨ht, -⟩, -⟩ := id h
  obtain ⟨s5, hend, hb5, hothers, hsame⟩ := endThread_lone hb ht hslots hteam hsec
  let k := exitToken s b t
  let b5 := endedBlock b t k
  have hr5 : s5.replays b.id = false := by
    rw [State.replays, State.replayOf, show s5.replaying = s.replaying from (congrArg State.replaying hsame :)]
    exact hr
  have ended_mem : ended k t ∈ b5.threads := (mem_endedBlock hn ht).mpr (.inl rfl)
  have own : t.tokens = [] := (hq t (thread_mem ht).1).2
  have ended_tokens : (ended k t).tokens = [k] := by
    rw [ended, own]
    rfl
  have idle : NoneWaits b5 := by
    intro x hx
    rcases (mem_endedBlock hn ht).mp hx with rfl | ⟨hx, -⟩
    · rfl
    · exact (hq x hx).1
  have hn5 : (b5.threads.map Thread.tidx).Nodup := by
    rw [show b5.threads.map Thread.tidx = b.threads.map Thread.tidx from endedBlock_indices ..]
    exact hn
  have ht5 : b5.thread? t.tidx = some (ended k t) := (thread_endedBlock k ht t.tidx).trans (if_pos rfl)
  let drop : Thread → Thread := fun x => { x with tokens := x.tokens.filter (fun y => y.op != k.op) }
  have left_mem {x : Thread} : x ∈ (b5.mapThread t.tidx drop).threads → x = leftThread k t ∨ x ∈ b5.threads ∧ x.tidx ≠ t.tidx :=
    (mem_mapThread (t := ended k t) hn5 ht5).mp
  have left_tokens : (leftThread k t).tokens = [] := by
    rw [leftThread, ended_tokens]
    exact List.filter_cons_of_neg (p := fun (y : Token) => y.op != k.op) (by simp)
  have hafter : (b5.mapThread t.tidx drop).nextEvent = none := by
    refine nextEvent_none (fun x hx => ?_)
    rcases left_mem hx with rfl | ⟨hx, hxt⟩
    · exact left_tokens
    · rcases (mem_endedBlock hn ht).mp hx with rfl | ⟨hx, -⟩
      · exact absurd rfl hxt
      · exact (hq x hx).2
  have settles := settle_ended (b5 := b5) hb5 rfl hx hr5 (nextEvent_ended hn ht rfl (fun x hx => (hq x hx).2)) rfl ended_mem ended_tokens hafter
  have finish {s6 : State} {b6 : Block} {x : Thread} (hs6 : s5.settle b.id = s6) (hb6 : s6.block? b.id = some b6)
      (ho6 : ∀ d, d ≠ b.id → s6.block? d = s5.block? d) (hsame6 : sameBut s5 s6) (hidle : NoneWaits b6)
      (hx6 : b6.thread? t.tidx = some x) (hj6 : ∀ j, j ≠ t.tidx → b6.thread? j = b5.thread? j) (hg6 : b6.groups = b5.groups)
      (hxe : x = { ended k t with tokens := x.tokens }) (hxt : b.quietBank t = true → x.tokens = []) :
      ∃ s' x, exec (.exit w) s = .next s' ∧ s'.thread? b.id t.tidx = some x ∧ x.life = .exited ∧ x.wait = none ∧ x.regs = t.regs ∧
        x.pend.map (fun p => (p.op, p.ctr)) = t.pend.map (fun p => (p.op, p.ctr)) ∧ (b.quietBank t = true → x.tokens = []) ∧
        (∀ k, k ≠ t.tidx → s'.thread? b.id k = s.thread? b.id k) ∧ sameBut { s with seq := s.seq + 1 } s' ∧
        (∀ c, c ≠ b.id → s'.block? c = s.block? c) ∧
        ∃ b', s'.block? b.id = some b' ∧ (∀ h, h ≠ g → b'.group? h = b.group? h) ∧
          ∀ k, b'.joinMask g k = b.joinMask g k &&& ~~~(1#64 <<< (t.tidx % b.decl.width)) := by
    have group6 (j : Nat) : b6.group? j = b5.group? j := by rw [Block.group?, hg6]; rfl
    have run : s.endThread b t.tidx = s6 := by
      rw [hend, hs6]
      exact reexamine_idle (fun c hc => by rw [hb6] at hc; cases hc; exact hidle) 64 _
    have hr6 : s6.replays b.id = false := by
      rw [State.replays, State.replayOf, show s6.replaying = s5.replaying from (congrArg State.replaying hsame6 :)]
      exact hr5
    refine ⟨s6.endWord, x, ?_, ?_, ?_, ?_, ?_, ?_, hxt, fun j hj => ?_, sameBut_trans hsame (sameBut_trans hsame6 rfl), fun c hc => ?_,
      b6, hb6, fun j hj => ?_, fun j => ?_⟩
    · show execExit w s = _
      rw [execExit, runWord_one h rfl rfl rfl rfl rfl]
      dsimp only
      rw [run, replayEnd_live hr6]
    · exact (congrArg (fun o => o.bind (fun x => x.thread? t.tidx)) hb6).trans hx6
    · rw [hxe]; rfl
    · rw [hxe]; rfl
    · rw [hxe]; rfl
    · rw [hxe]
      show (t.pend.map _).map _ = _
      rw [List.map_map]
      rfl
    · refine (congrArg (fun o => o.bind (fun x => x.thread? j)) hb6).trans ?_
      rw [thread_of_block hb]
      exact (hj6 j hj).trans ((thread_endedBlock k ht j).trans (if_neg hj))
    · exact (ho6 c hc).trans (hothers c hc)
    · rw [group6, group_endedBlock]
      cases hg : b.group? j with
      | none => rfl
      | some y =>
        have hy : y.gid = j := beq_iff_eq.mp (List.find?_some (p := fun (x : Group) => x.gid == j) hg)
        rw [Option.map_some, if_neg (fun he => hj (hy.symm.trans he))]
    · rw [Block.joinMask, group6]
      exact joinMask_endedBlock b t k j
  by_cases happ : b5.applies (ended k t) k = true
  · rw [if_pos happ] at settles
    refine finish (b6 := b5.mapThread t.tidx drop) (x := leftThread k t) settles ?_ (fun d hd => ?_) rfl (fun x hx => ?_) ?_ (fun j hj => ?_) rfl
      rfl (fun _ => left_tokens)
    · rw [State.dropToken, State.mapThread, block_mapBlock, if_pos rfl, block_mapBlock, if_pos rfl, hb5]
      rfl
    · rw [State.dropToken, State.mapThread, block_mapBlock, if_neg hd, block_mapBlock, if_neg hd]
    · rcases left_mem hx with rfl | ⟨hx, -⟩
      · rfl
      · exact idle x hx
    · rw [thread_mapThread _ _ _ drop (fun _ => rfl), if_pos rfl, ht5]
      rfl
    · rw [thread_mapThread _ _ _ drop (fun _ => rfl), if_neg hj]
  · rw [if_neg happ] at settles
    exact finish settles hb5 (fun _ _ => rfl) rfl idle ht5 (fun _ _ => rfl) rfl rfl (fun hquiet => absurd (applies_ended hn ht hquiet) happ)

end Sys2Proof.Proofs
end


section
/-! TRAP, BPT, the entry of the handler (O33) and ERET (O34). -/

namespace Sys2Proof.Proofs

open Sys2Proof Sys2Proof.Machine Sys2Proof.Laws

/-! ### The entry of the handler (R336) -/

theorem handled_cause {c : Nat} (h : handled c = true) : c < 256 ∧ replayable c = false ∧ failOp c = false := by
  simp only [handled, Bool.or_eq_true, beq_iff_eq, decide_eq_true_eq] at h
  refine ⟨by omega, ?_, ?_⟩
  · simp only [replayable, Bool.or_eq_false_iff, beq_eq_false_iff_ne, ne_eq]
    omega
  · simp only [failOp, Bool.or_eq_false_iff, beq_eq_false_iff_ne, ne_eq]
    omega

theorem handlerPc_of_word {c : Context} {codebase : W64} {pc : Nat} (hc : c.handler ≠ 0)
    (h : c.handler.toNat = codebase.toNat + 12 * pc) (hp : pc < 2 ^ 32) : handlerPc c codebase = some (BitVec.ofNat 32 pc) := by
  have hd : (c.handler.toNat : Int) - codebase.toNat = 12 * pc := by omega
  have hq : ((12 * pc : Int) / 12).toNat = pc := by omega
  rw [handlerPc, hd, if_pos ⟨hc, by omega, by omega, by omega⟩, hq]

theorem counts_none_iff (c : Counts) : c.none = true ↔ c = Counts.zero := by
  simp [Counts.none]

theorem tidx_foldl {α : Type} {f : Thread → α → Thread} (h : ∀ t x, (f t x).tidx = t.tidx) (l : List α) (t : Thread) :
    (l.foldl f t).tidx = t.tidx := by
  induction l generalizing t with
  | nil => rfl
  | cons x l ih => exact (ih (f t x)).trans (h t x)

theorem writeTokens_tidx (t : Thread) : t.writeTokens.tidx = t.tidx := by
  refine tidx_foldl (fun t k => ?_) _ _
  have slot (t : Thread) (k : Nat) (v : W64) : (t.fillSlot k v).tidx = t.tidx := by
    rw [Thread.fillSlot]
    repeat' split
    all_goals rfl
  have reg (t : Thread) (op n : Nat) (v : W32) : (t.landReg op n v).tidx = t.tidx := rfl
  dsimp only
  split
  · exact (reg _ _ _ _).trans (slot _ _ _)
  · exact slot _ _ _

theorem writeTokens_none {t : Thread} (h : t.tokens = []) : t.writeTokens = t := by
  cases t
  cases h
  rfl

/-- A thread as it enters its handler. -/
def entered (b : Block) (tr : Trap) (pc : W32) (t : Thread) : Thread :=
  { t.writeTokens with
    frame := trapFrame b t.writeTokens tr, sup := true, inTrap := true, trap := none, wait := none, pc := pc }

theorem entered_tidx (b : Block) (tr : Trap) (pc : W32) : KeepsIndex (entered b tr pc) := writeTokens_tidx

/-- The words of a frame, by index. -/
theorem trapFrame_words (b : Block) (t : Thread) (tr : Trap) :
    let word (i : Nat) : W32 := NMap.read 0 (trapFrame b t tr) i
    word 0 = tr.pc ∧ word 1 = tr.image ∧ word 2 = tr.detail ∧ word 3 = tr.faddr.extractLsb' 0 32 ∧
      word 4 = tr.faddr.extractLsb' 32 32 ∧ word 5 = t.fst ∧ (∀ k < 4, word (6 + k) = t.xreg k) ∧
      word 10 = t.b1.extractLsb' 0 32 ∧ word 11 = t.b1.extractLsb' 32 32 ∧ word 12 = t.b2.extractLsb' 0 32 ∧
      word 13 = t.b2.extractLsb' 32 32 ∧ word 14 = t.b3.extractLsb' 0 32 ∧ word 15 = t.b3.extractLsb' 32 32 ∧
      word 16 = gstate t (b.group? (b.gidOf t.tidx)) := by
  have four (P : Nat → Prop) : (∀ k < 4, P k) ↔ P 0 ∧ P 1 ∧ P 2 ∧ P 3 := by
    refine ⟨fun h => ⟨h 0 (by omega), h 1 (by omega), h 2 (by omega), h 3 (by omega)⟩, fun ⟨h0, h1, h2, h3⟩ k hk => ?_⟩
    match k, hk with
    | 0, _ => exact h0
    | 1, _ => exact h1
    | 2, _ => exact h2
    | 3, _ => exact h3
  simp only [trapFrame, List.zipIdx_cons, List.zipIdx_nil, List.foldl_cons, List.foldl_nil, read_put, four, Nat.reduceAdd, Nat.reduceEqDiff,
    if_true, if_false, and_self]

theorem halves (x : W64) : x.extractLsb' 32 32 ++ x.extractLsb' 0 32 = x := by
  ext i
  simp only [BitVec.getElem_append]
  grind

theorem image_cause {tr : Trap} (h : tr.cause < 256) : tr.image.toNat % 256 = tr.cause := by
  have := toNat_lt_two tr.fetch
  simp only [Trap.image, BitVec.toNat_ofNat]
  omega

/-- Settles O33: TRAP and BPT end in their trap; a handled one is held, or enters the handler with its frame. -/
theorem trapsEnterTheHandler : Obligations.TrapsEnterTheHandler := by
  refine ⟨fun w s b t => ⟨fun h => issues_traps h (hasRoom_of_none rfl) rfl, fun h => issues_traps h (hasRoom_of_none rfl) rfl⟩, ?_⟩
  intro s b t tr hb ht hh hs hc hi s' pc hpc hlt
  obtain ⟨hcause, hr, hf⟩ := handled_cause hh
  have found (f : Thread → Thread) (hf : KeepsIndex f) : (s.mapThread b.id t.tidx f).thread? b.id t.tidx = some (f t) := by
    rw [state_thread_mapThread _ _ _ _ _ _ hf, if_pos ⟨rfl, rfl⟩, thread_of_block hb, ht]
    rfl
  by_cases hn : t.cnt = Counts.zero
  · have hs' : s' = s.mapThread b.id t.tidx (entered b tr (BitVec.ofNat 32 pc)) := by
      refine (takeTrap_enters hb ht hh hr hf hs hc hi ((counts_none_iff _).mpr hn)).trans ?_
      rw [State.enterHandler, handlerPc_of_word hc hpc hlt]
      rfl
    rw [hs']
    refine ⟨sameButThreads_mapThread (entered_tidx _ _ _) (sameButThreads_refl s b.id []), fun h => absurd hn h, fun _ htok => ?_⟩
    refine ⟨_, found _ (entered_tidx _ _ _), ?_⟩
    rw [entered, writeTokens_none htok]
    obtain ⟨h0, h1, h2, h3, h4, h5, h6, h10, h11, h12, h13, h14, h15, h16⟩ := trapFrame_words b t tr
    refine ⟨rfl, rfl, rfl, rfl, rfl, rfl, rfl, rfl, rfl, rfl, rfl, rfl, rfl, h0, ?_, h2, ?_, h5, h6, ?_, ?_, ?_, h16⟩
    · exact (congrArg (fun v : W32 => v.toNat % 256) h1).trans (image_cause hcause)
    · exact (congrArg₂ _ h4 h3).trans (halves _)
    · exact (congrArg₂ _ h11 h10).trans (halves _)
    · exact (congrArg₂ _ h13 h12).trans (halves _)
    · exact (congrArg₂ _ h15 h14).trans (halves _)
  · have hs' : s' = s.mapThread b.id t.tidx (fun t => { t with trap := some tr, wait := none }) :=
      takeTrap_drains hb ht hh hr hf hs hc hi (by simpa using fun h => hn ((counts_none_iff _).mp h))
    rw [hs']
    exact ⟨sameButThreads_mapThread (fun _ => rfl) (sameButThreads_refl s b.id []), fun _ => found _ (fun _ => rfl),
      fun h => absurd h hn⟩

/-! ### A handler that is entered again (R342) -/

/-- A word whose operands are not read. -/
def bareWord : Word :=
  { grd := ⟨false, 0⟩, hnt := ⟨0, false, false, false, false, false⟩, d := .reg 0, a := .reg 0, b := .reg 0, mod := 0, imm := 0 }

/-- A thread in its handler, with a PREEMPT held. -/
def returning : Thread := { Thread.start 0 0 with sup := true, inTrap := true, ppend := true }

/-- Its block, whose code begins at address 0. -/
def returningBlock : Block :=
  { Block.lone 0 .running with threads := [returning], decl := { (Block.lone 0 .running).decl with codebase := 0 } }

/-- Its machine, in which CTXHANDLER is 0. -/
def returningState : State := { State.reset with blocks := [(0, returningBlock)], latch := some ⟨0, [0], 0⟩ }

theorem bareWord_issues : issues returningState (.eret bareWord) bareWord returningBlock returning := by
  unfold issues laneReady unstepped
  decide +kernel

/-- Refutes O34: where CTXHANDLER and CODEBASE are both 0, CTXHANDLER is the address of word 0, and yet the context has no handler
(R335). An ERET with a PREEMPT held is then the end of the block. -/
theorem not_returnsFromTheHandler : ¬ Obligations.ReturnsFromTheHandler := by
  intro h
  obtain ⟨h, -⟩ := h bareWord returningState returningBlock returning
  obtain ⟨-, -, h⟩ := h bareWord_issues (by decide +kernel)
  obtain ⟨s', x, hs, hx, -⟩ := h rfl rfl rfl rfl 0 (by decide) (by decide +kernel)
  have hgone : threadAfter (exec (.eret bareWord) returningState) 0 0 = none := by decide +kernel
  have hthread : threadAfter (exec (.eret bareWord) returningState) 0 0 = some x := by rw [hs]; exact hx
  rw [hthread] at hgone
  cases hgone

end Sys2Proof.Proofs
end


section
/-! SWRITE, ISYNC, DBGM and the step bit (O35). -/

namespace Sys2Proof.Proofs

open Sys2Proof Sys2Proof.Machine Sys2Proof.Laws

/-! ### The step bit of a group (R343, R383) -/

/-- A wait for other lanes of the group. -/
def meetsLanes (v : Option Wait) : Bool :=
  match v with
  | some (.join _ _) => true
  | some (.meet _ _ _ _) => true
  | _ => false

/-- A thread of a group whose step bit is set. -/
def withdrawn (b : Block) (g : Nat) (t : Thread) : Thread :=
  if b.gidOf t.tidx == g && meetsLanes t.wait then { t with wait := none } else t

theorem withdrawn_tidx (b : Block) (g : Nat) : KeepsIndex (withdrawn b g) := by
  intro t
  rw [withdrawn]
  split <;> rfl

theorem withdrawn_stepDue (b : Block) (g : Nat) (t : Thread) : (withdrawn b g t).stepDue = t.stepDue := by
  rw [withdrawn]
  split <;> rfl

/-- A block with the step bit of a group set or cleared. -/
def steppedBlock (g : Nat) (on : Bool) (b : Block) : Block :=
  let b1 := b.mapGroup g (fun x => { x with step := on })
  if on then b1.mapThreads (withdrawn b g) else b1

theorem stepGroup_eq (s : State) (e : Env) (on : Bool) : s.stepGroup e on = s.mapBlock e.blk.id (steppedBlock e.gid on) := by
  cases on
  · rfl
  · refine (mapBlock_mapBlock s e.blk.id _ _).trans ?_
    refine congrArg (s.mapBlock e.blk.id) (funext fun b => ?_)
    refine congrArg (fun f => (b.mapGroup e.gid (fun x => { x with step := true })).mapThreads f) (funext fun t => ?_)
    have hg : (b.mapGroup e.gid (fun x => { x with step := true })).gidOf t.tidx = b.gidOf t.tidx := rfl
    rw [hg, withdrawn]
    cases hw : t.wait with
    | none => simp [meetsLanes]
    | some v => cases v <;> simp [meetsLanes, Thread.unwait]

theorem group_mapGroup (b : Block) (g h : Nat) (f : Group → Group) (hf : ∀ x, (f x).gid = x.gid) :
    (b.mapGroup g f).group? h = if h = g then (b.group? h).map f else b.group? h := by
  have inner : (fun y : Group => y.gid == h) ∘ (fun x => if x.gid = g then f x else x) = fun x => x.gid == h := by
    funext x
    dsimp only [Function.comp_apply]
    split
    · rw [hf]
    · rfl
  rw [Block.group?, Block.mapGroup, List.find?_map, inner, Block.group?]
  cases hx : b.groups.find? (fun x => x.gid == h) with
  | none => simp
  | some x =>
    have : x.gid = h := by simpa using List.find?_some hx
    by_cases hh : h = g <;> simp [this, hh]

theorem thread_steppedBlock (b : Block) (g : Nat) (on : Bool) (k : Nat) :
    (steppedBlock g on b).thread? k = (b.thread? k).map (fun x => if on then withdrawn b g x else x) := by
  cases on
  · exact Option.map_id'.symm
  · exact thread_mapThreads (withdrawn_tidx b g)

theorem group_steppedBlock (b : Block) (g h : Nat) (on : Bool) :
    (steppedBlock g on b).group? h = if h = g then (b.group? h).map (fun x => { x with step := on }) else b.group? h := by
  cases on <;> exact group_mapGroup b g h _ (fun _ => rfl)

theorem quiet_stepGroup {s : State} {i : Instr} {w : Word} {b : Block} {t : Thread} (h : issues s i w b t) (on : Bool) :
    ∀ x, (s.stepGroup ⟨b, t⟩ on).thread? b.id t.tidx = some x → x.stepDue = false := by
  intro x hx
  have hb := block_of_issues h
  rw [stepGroup_eq, State.thread?, block_mapBlock, if_pos rfl, hb] at hx
  rw [Option.map_some, Option.bind_some, thread_steppedBlock] at hx
  obtain ⟨y, hy, rfl⟩ := Option.map_eq_some_iff.mp hx
  have := issues_quiet h (s' := s) rfl y (by rw [thread_of_block hb, hy])
  cases on
  · exact this
  · exact (withdrawn_stepDue b _ y).trans this

theorem quiet_stepped {s : State} {i : Instr} {w : Word} {b : Block} {t : Thread} (h : issues s i w b t) (debug on : Bool) :
    ∀ x, (if debug then s.stepGroup ⟨b, t⟩ on else s).thread? b.id t.tidx = some x → x.stepDue = false := by
  cases debug
  · exact issues_quiet h rfl
  · exact quiet_stepGroup h on

/-! ### SWRITE (R343) -/

theorem sysRefused_iff (n : Nat) (v : W32) : sysRefused n v = true ↔
    (n = 0 ∧ 32 ≤ v.toNat) ∨ (1 ≤ n ∧ n ≤ 4 ∧ ixOk v = false) ∨ (n = 0x11 ∧ 2 ≤ v.toNat) := by
  have high (k m : Nat) (hk : k + m = 32) : v.extractLsb' k m ≠ 0 ↔ 2 ^ k ≤ v.toNat := by
    have hv := v.isLt
    have hpow : 2 ^ 32 = 2 ^ k * 2 ^ m := by rw [← hk, Nat.pow_add]
    rw [ne_eq, ← BitVec.toNat_inj, BitVec.extractLsb'_toNat, Nat.shiftRight_eq_div_pow, Nat.mod_eq_of_lt]
    · rw [show (0 : BitVec m).toNat = 0 from BitVec.toNat_zero, Nat.div_eq_zero_iff]
      have := Nat.two_pow_pos k
      omega
    · rw [Nat.div_lt_iff_lt_mul (Nat.two_pow_pos k), Nat.mul_comm, ← hpow]
      exact hv
  have h5 := high 5 27 rfl
  have h1 := high 1 31 rfl
  simp only [sysRefused, Bool.or_eq_true, Bool.and_eq_true, beq_iff_eq, bne_iff_ne, decide_eq_true_eq, Bool.not_eq_true', h5, h1,
    and_assoc, or_assoc]
  rfl

/-! ### ISYNC (R194) -/

theorem lookup_filter {α : Type} (m : NMap α) (p : Nat → Bool) (c : Nat) :
    NMap.lookup (m.filter (fun x => p x.1)) c = if p c then NMap.lookup m c else none := by
  induction m with
  | nil => simp [NMap.lookup]
  | cons e m ih =>
    obtain ⟨k, v⟩ := e
    by_cases hk : p k <;> by_cases hc : k = c <;> grind [NMap.lookup]

theorem ilines_filter (s : State) (p : Nat → Bool) (c : Nat) :
    ({ s with icache := s.icache.filter (fun x => !p x.1) } : State).ilines c = if p c then [] else s.ilines c := by
  rw [State.ilines, lookup_filter s.icache (fun k => !p k), State.ilines]
  cases p c <;> rfl

/-- Settles O35: each word in turn, then what the step bit does. -/
theorem systemWordsComplete : Obligations.SystemWordsComplete := by
  intro w s b t e next g debug
  refine ⟨?_, ?_, ?_, ?_, ?_, ?_⟩
  · intro h n v refused
    have hr : sysRefused n v = true ↔ refused := sysRefused_iff n v
    refine ⟨fun hf => ?_, fun hf => ⟨fun hn => ?_, fun h1 h4 => ?_, fun hn => ?_, fun hn => ?_⟩⟩
    · exact issues_traps h (hasRoom_of_none rfl) (if_pos (hr.mpr hf))
    · have hw : s.sysWriteTo e n v = s.mapThread b.id t.tidx (fun x => { x with fst := v }) := if_pos hn
      exact issues_does h (hasRoom_of_none rfl) ((if_neg (fun x => hf (hr.mp x))).trans (congrArg (LaneEnd.done · next) hw)) rfl
        (fun _ => rfl) (fun _ => rfl)
    · have hw : s.sysWriteTo e n v = s.mapThread b.id t.tidx (fun x => { x with ix := NMap.put 0 x.ix (n - 1) v }) :=
        (if_neg (by omega)).trans (if_pos h4)
      exact issues_does h (hasRoom_of_none rfl) ((if_neg (fun x => hf (hr.mp x))).trans (congrArg (LaneEnd.done · next) hw)) rfl
        (fun _ => rfl) (fun _ => rfl)
    · have hw : s.sysWriteTo e n v = s.stepGroup e (v.getLsbD 0) :=
        (if_neg (by omega)).trans ((if_neg (by omega)).trans (if_pos hn))
      exact issues_passes h (hasRoom_of_none rfl) ((if_neg (fun x => hf (hr.mp x))).trans (congrArg (LaneEnd.done · next) hw))
        (quiet_stepGroup h _)
    · have hw : s.sysWriteTo e n v = s.mapThread b.id t.tidx (fun x => { x with frame := NMap.put 0 x.frame (n - 0x100) v }) :=
        (if_neg (by omega)).trans ((if_neg (by omega)).trans (if_neg (by omega)))
      exact issues_does h (hasRoom_of_none rfl) ((if_neg (fun x => hf (hr.mp x))).trans (congrArg (LaneEnd.done · next) hw)) rfl
        (fun _ => rfl) (fun _ => rfl)
  · intro h
    exact ⟨_, issues_passes h (hasRoom_of_none rfl) rfl (issues_quiet h rfl), rfl, ilines_filter s _⟩
  · intro h
    refine ⟨fun hd => ?_, fun hd => ?_⟩
    · exact issues_passes h (hasRoom_of_none rfl) (if_neg (by rw [show s.debugging ⟨b, t⟩ = false from hd]; exact Bool.false_ne_true))
        (issues_quiet h rfl)
    · exact issues_traps h (hasRoom_of_none rfl) (if_pos hd)
  · exact fun h => issues_passes h (hasRoom_of_none rfl) rfl (quiet_stepped h debug true)
  · exact fun h => issues_passes h (hasRoom_of_none rfl) rfl (quiet_stepped h debug false)
  · intro hb on
    have hs : s.stepGroup e on = s.mapBlock b.id (steppedBlock g on) := stepGroup_eq s e on
    dsimp only
    rw [hs]
    refine ⟨rfl, fun c hc => by rw [block_mapBlock, if_neg hc], steppedBlock g on b, by rw [block_mapBlock, if_pos rfl, hb]; rfl, ?_, ?_, ?_⟩
    · exact fun h hh => (group_steppedBlock b g h on).trans (if_neg hh)
    · exact (group_steppedBlock b g g on).trans (if_pos rfl)
    · intro k x hx
      obtain ⟨-, rfl⟩ := thread_mem hx
      rw [thread_steppedBlock, hx]
      cases on <;> rfl

end Sys2Proof.Proofs
end


section
/-! Paired words (O36). -/

namespace Sys2Proof.Proofs

open Sys2Proof Sys2Proof.Machine Sys2Proof.Laws

/-- A one-word result in a register: the slots shift and the register takes it. -/
theorem result_one (t : Thread) (d : BitVec 8) (v : W32) :
    t.result (.reg d) false [v] = (t.shift (v.setWidth 64) false).setReg d.toNat v := by
  have hv : BitVec.ofNat 64 (wordsNat ([v].take 2)) = v.setWidth 64 := by
    rw [slot_words, BitVec.append_def]
    ext i
    simp
  rw [Thread.result, hv]
  rfl

/-- A thread that has taken both results of a paired word. -/
def paired (p : Pair) (r0 r1 : W32 × W32) (t : Thread) : Thread :=
  ((t.result (halfWord p p.h0).d false [r0.1]).result (halfWord p p.h1).d false [r1.1]).flag (r0.2 ||| r1.2)

theorem paired_eq (p : Pair) (r0 r1 : W32 × W32) (t : Thread) : paired p r0 r1 t =
    ((((t.shift (r0.1.setWidth 64) false).setReg p.h0.d.toNat r0.1).shift (r1.1.setWidth 64) false).setReg p.h1.d.toNat r1.1).flag
      (r0.2 ||| r1.2) := by
  have h0 : (halfWord p p.h0).d = .reg p.h0.d := rfl
  have h1 : (halfWord p p.h1).d = .reg p.h1.d := rfl
  rw [paired, h0, h1, result_one, result_one]

theorem paired_tidx (p : Pair) (r0 r1 : W32 × W32) : KeepsIndex (paired p r0 r1) := fun t => by rw [paired_eq]; rfl

theorem paired_stepDue (p : Pair) (r0 r1 : W32 × W32) (t : Thread) : (paired p r0 r1 t).stepDue = t.stepDue := by rw [paired_eq]; rfl

theorem reg_paired (p : Pair) (r0 r1 : W32 × W32) (t : Thread) (n : Nat) : (paired p r0 r1 t).reg n =
    if n = p.h1.d.toNat then r1.1 else if n = p.h0.d.toNat then r0.1 else t.reg n := by
  rw [paired_eq]
  exact (reg_setReg _ _ _ _).trans (if_congr Iff.rfl rfl (reg_setReg _ _ _ _))

/-- Settles O36: the checks of both halves, then both results. -/
theorem pairedHalvesReadFirst : Obligations.PairedHalvesReadFirst := by
  intro p s b t i w w1 e f0 f1 r h
  refine ⟨fun ha => ?_, fun h0 h1 => ⟨fun hr => ?_, fun hr0 hr1 => ?_⟩⟩
  · exact issues_waits h (hasRoom_of_none rfl) (if_pos ((Bool.or_eq_true _ _).mpr ha))
  · have pass : ¬ (t.awaits f0 w || t.awaits f1 w1) = true := by simp [h0, h1]
    have out : (!(t.rangesOk b.decl f0 w && t.rangesOk b.decl f1 w1)) = true := by
      rcases hr with hr | hr <;> simp [hr]
    exact issues_traps h (hasRoom_of_none rfl) ((if_neg pass).trans (if_pos out))
  · have pass : ¬ (t.awaits f0 w || t.awaits f1 w1) = true := by simp [h0, h1]
    have fits : ¬ (!(t.rangesOk b.decl f0 w && t.rangesOk b.decl f1 w1)) = true := by simp [hr0, hr1]
    have hex : exec i s = .next (wentOn s b t w (paired p (r p.h0) (r p.h1)) (t.pc + 1)) :=
      issues_does h (hasRoom_of_none rfl) ((if_neg pass).trans (if_neg fits)) rfl (paired_tidx _ _ _) (paired_stepDue _ _ _)
    have keeps : KeepsIndex (fun x => (paired p (r p.h0) (r p.h1) x).passed (t.pc + 1) w.hnt.yld) := paired_tidx p (r p.h0) (r p.h1)
    obtain ⟨-, hb, -, -, ⟨ht, -⟩, -⟩ := h
    have found : (wentOn s b t w (paired p (r p.h0) (r p.h1)) (t.pc + 1)).thread? b.id t.tidx =
        some ((paired p (r p.h0) (r p.h1) t).passed (t.pc + 1) w.hnt.yld) := by
      refine (state_thread_mapThread s _ _ _ _ _ keeps).trans ?_
      rw [if_pos ⟨rfl, rfl⟩, thread_of_block hb, ht]
      rfl
    refine ⟨_, _, hex, found, ?_, rfl, ?_⟩
    · exact sameButThreads_mapThread keeps (sameButThreads_refl s b.id [])
    · have slots : (paired p (r p.h0) (r p.h1) t).b1 = (r p.h1).1.setWidth 64 ∧
          (paired p (r p.h0) (r p.h1) t).b2 = (r p.h0).1.setWidth 64 ∧ (paired p (r p.h0) (r p.h1) t).b3 = t.b1 ∧
          (paired p (r p.h0) (r p.h1) t).fst = t.fst ||| ((r p.h0).2 ||| (r p.h1).2) ∧
          (paired p (r p.h0) (r p.h1) t).preds = t.preds := by
        rw [paired_eq]
        exact ⟨rfl, rfl, rfl, rfl, rfl⟩
      obtain ⟨hb1, hb2, hb3, hfst, hpreds⟩ := slots
      refine ⟨hb1, hb2, hb3, hfst.trans (BitVec.or_assoc _ _ _).symm, ?_, fun hd => ?_, fun n hn0 hn1 => ?_, hpreds⟩
      · exact (reg_paired p _ _ t _).trans (if_pos rfl)
      · have hne : p.h0.d.toNat ≠ p.h1.d.toNat := fun x => hd (BitVec.eq_of_toNat_eq x)
        exact (reg_paired p _ _ t _).trans ((if_neg hne).trans (if_pos rfl))
      · exact (reg_paired p _ _ t n).trans ((if_neg hn1).trans (if_neg hn0))

end Sys2Proof.Proofs
end


section
/-! Bundles that arrive at a meeting word: how its lanes come to wait there, and which of them a release takes (R197). -/

namespace Sys2Proof.Proofs

open Sys2Proof Sys2Proof.Machine Sys2Proof.Laws

/-! ### One block of a state that is otherwise as it was -/

/-- A state that differs from an earlier one in one block at most, besides the bundle and the stream of free values. -/
def AtBlock (s s' : State) (c : Nat) (b : Block) : Prop :=
  sameBut s s' ∧ (∀ d, d ≠ c → s'.block? d = s.block? d) ∧ s'.block? c = some b

theorem eq_of_sameBut {s s' : State} (h : sameBut s s') : s' = { s with blocks := s'.blocks, latch := s'.latch, free := s'.free } :=
  congrArg (fun x : State => { x with blocks := s'.blocks, latch := s'.latch, free := s'.free }) h

theorem atBlock_refl {s : State} {c : Nat} {b : Block} (h : s.block? c = some b) : AtBlock s s c b := ⟨rfl, fun _ _ => rfl, h⟩

theorem atBlock_mapBlock {s s' : State} {c : Nat} {b : Block} (h : AtBlock s s' c b) (f : Block → Block) :
    AtBlock s (s'.mapBlock c f) c (f b) := by
  obtain ⟨h0, h1, h2⟩ := h
  refine ⟨h0, fun d hd => ?_, ?_⟩
  · rw [block_mapBlock, if_neg hd]
    exact h1 d hd
  · rw [block_mapBlock, if_pos rfl, h2]
    rfl

/-! ### The lanes wait -/

/-- What a lane waits for from its arrival on. -/
def meetingWait (m : Meet) (w : Word) (b : Block) (t : Thread) : Wait :=
  .meet m w ((Env.mk b t).namedSet w (t.guard w.grd)) (t.guard w.grd)

/-- A block some lanes of which have arrived. -/
def meetingThread (m : Meet) (w : Word) (b : Block) (lanes : List Nat) (t : Thread) : Thread :=
  if lanes.contains t.tidx then Waiting t (meetingWait m w b t) else t

def meetingBlock (m : Meet) (w : Word) (b : Block) (lanes : List Nat) : Block := b.mapThreads (meetingThread m w b lanes)

theorem meetingThread_tidx (m : Meet) (w : Word) (b : Block) (lanes : List Nat) : KeepsIndex (meetingThread m w b lanes) := by
  intro t
  rw [meetingThread]
  split <;> rfl

theorem exitedMask_mapThreads (b : Block) (g : Nat) {f : Thread → Thread} (hf : KeepsIndex f) (hl : ∀ t, (f t).life = t.life) :
    (b.mapThreads f).exitedMask g = b.exitedMask g := by
  rw [Block.exitedMask, Block.mapThreads, List.foldl_map]
  simp only [Block.gidOf, hf _, hl]
  rfl

theorem clip_mapThreads (b : Block) (g : Nat) {f : Thread → Thread} (hf : KeepsIndex f) (hl : ∀ t, (f t).life = t.life) (x : W64) :
    (b.mapThreads f).clip g x = b.clip g x := by
  rw [Block.clip, exitedMask_mapThreads b g hf hl]
  rfl

theorem meetingThread_life (m : Meet) (w : Word) (b : Block) (lanes : List Nat) (t : Thread) :
    (meetingThread m w b lanes t).life = t.life := by
  rw [meetingThread]
  split <;> rfl

theorem clip_meetingBlock (m : Meet) (w : Word) (b : Block) (lanes : List Nat) (g : Nat) (x : W64) :
    (meetingBlock m w b lanes).clip g x = b.clip g x :=
  clip_mapThreads b g (meetingThread_tidx m w b lanes) (meetingThread_life m w b lanes) x

theorem meetingWait_meetingBlock (m m' : Meet) (w w' : Word) (b : Block) (lanes : List Nat) (t : Thread) :
    meetingWait m w (meetingBlock m' w' b lanes) t = meetingWait m w b t := by
  have (g : Bool) : (Env.mk (meetingBlock m' w' b lanes) t).namedSet w g = (Env.mk b t).namedSet w g :=
    clip_meetingBlock m' w' b lanes _ _
  rw [meetingWait, this]
  rfl

theorem clip_clip (b : Block) (g : Nat) (x : W64) : b.clip g (b.clip g x) = b.clip g x := by
  simp only [Block.clip]
  ext i
  simp only [BitVec.getElem_and]
  cases x[i] <;> cases (laneMask b.decl.width)[i] <;> cases (~~~(b.exitedMask g))[i] <;> rfl

/-- One more lane arrives. -/
theorem meetingBlock_cons {m : Meet} {w : Word} {b : Block} {lanes : List Nat} {t : Thread}
    (hn : (b.threads.map Thread.tidx).Nodup) (ht : b.thread? t.tidx = some t) :
    (meetingBlock m w b lanes).mapThread t.tidx (fun x => Waiting x (meetingWait m w b t)) = meetingBlock m w b (t.tidx :: lanes) := by
  refine congrArg (fun ts => { b with threads := ts }) ?_
  refine (List.map_map ..).trans (List.map_congr_left (fun x hx => ?_))
  show (if (meetingThread m w b lanes x).tidx = t.tidx then Waiting (meetingThread m w b lanes x) (meetingWait m w b t)
    else meetingThread m w b lanes x) = meetingThread m w b (t.tidx :: lanes) x
  rw [meetingThread_tidx, meetingThread, meetingThread, List.contains_cons]
  by_cases hxt : x.tidx = t.tidx
  · rw [eq_of_tidx hn hx (thread_mem ht).1 hxt, if_pos rfl, beq_self_eq_true, Bool.true_or, if_pos rfl]
    split <;> rfl
  · rw [if_neg hxt, beq_false_of_ne hxt, Bool.false_or]

/-- What the plan of a meeting word needs of a lane. -/
def laneArrives (s : State) (p : Plan) (b : Block) (g : Nat) (t : Thread) : Prop :=
  b.thread? t.tidx = some t ∧ b.gidOf t.tidx = g ∧ t.written = true ∧ (p.ctr = none ∨ p.ctr = some .cp ∧ t.cnt.cp < 63) ∧
    p.w.grd.pred.toNat < b.decl.preds ∧ (sectionForbids (opNum p.i) && ((s.sectionOf b.id t.tidx).map Section.live).getD false) = false ∧
    (t.guard p.w.grd = true → t.awaits p.f p.w = false ∧ t.rangesOk b.decl p.f p.w = true)

/-- A word that a lane arrives at in any case, and waits. -/
def Arrives (m : Meet) (p : Plan) (body : Bool → Env → State → LaneEnd) : Prop :=
  p.always = true ∧ p.f.sup = false ∧ (∀ e, p.skip e = false) ∧ ∀ (s : State) (e : Env), s.replays e.blk.id = false →
    body (e.th.guard p.w.grd) e s = .stay (s.hold e.blk.id e.th.tidx (meetingWait m p.w e.blk e.th))

theorem laneOut_arrives {m : Meet} {p : Plan} {body : Bool → Env → State → LaneEnd} (hp : Arrives m p body) {steps : List Nat} {s : State}
    {b : Block} {g : Nat} {t : Thread} (hb : s.block? b.id = some b) (hr : s.replays b.id = false) (h : laneArrives s p b g t) :
    laneOut p body steps b.id s t.tidx = (s.hold b.id t.tidx (meetingWait m p.w b t), none) := by
  obtain ⟨ht, -, -, hc, hpred, hsec, hg⟩ := h
  obtain ⟨halways, hsup, hskip, hbody⟩ := hp
  have room : (p.ctr.map (fun c => decide (63 ≤ t.cnt.get c))).getD false = false := by
    rcases hc with hc | ⟨hc, hlt⟩
    · rw [hc]
      rfl
    · rw [hc]
      exact decide_eq_false (Nat.not_le.mpr hlt)
  have awaits : ¬ (t.guard p.w.grd && !p.elected && t.awaits p.f p.w) = true := by
    intro h
    simp only [Bool.and_eq_true] at h
    rw [(hg h.1.1).1] at h
    exact Bool.false_ne_true h.2
  have ranges : ¬ (t.guard p.w.grd && !p.elected && !t.rangesOk b.decl p.f p.w) = true := by
    intro h
    simp only [Bool.and_eq_true] at h
    rw [(hg h.1.1).2] at h
    exact Bool.false_ne_true h.2
  rw [laneOut, hb]
  dsimp only
  rw [ht]
  dsimp only
  rw [hsup, Bool.false_and, if_neg Bool.false_ne_true, if_neg (Nat.not_le.mpr hpred), hsec, if_neg Bool.false_ne_true, halways, hskip,
    Bool.not_true, Bool.and_false, Bool.or_false, if_neg Bool.false_ne_true, room, Bool.and_false, if_neg Bool.false_ne_true,
    if_neg awaits, if_neg ranges, hbody s ⟨b, t⟩ hr]

/-- The lanes of a bundle arrive one after the other. -/
theorem runLanes_arrive {m : Meet} {p : Plan} {body : Bool → Env → State → LaneEnd} (hp : Arrives m p body) {steps : List Nat} {s : State}
    {b : Block} {g : Nat} (hn : (b.threads.map Thread.tidx).Nodup) (hr : s.replays b.id = false) (lanes : List Nat) :
    ∀ (done : List Nat) (s' : State), AtBlock s s' b.id (meetingBlock m p.w b done) → (lanes ++ done).Nodup →
      (∀ k ∈ lanes, ∃ t, t.tidx = k ∧ laneArrives s p b g t) →
      AtBlock s (runLanes p body steps b.id lanes [] s') b.id (meetingBlock m p.w b (lanes.reverse ++ done)) := by
  induction lanes with
  | nil => exact fun done s' h _ _ => h
  | cons k lanes ih =>
    intro done s' h hnd hl
    obtain ⟨t, rfl, harr⟩ := hl k List.mem_cons_self
    obtain ⟨hnot, hnd'⟩ := List.nodup_cons.mp hnd
    obtain ⟨hsame, -, hb'⟩ := id h
    have hs' := eq_of_sameBut hsame
    have absent : done.contains t.tidx = false := by
      rw [List.contains_eq_mem, decide_eq_false_iff_not]
      exact fun hm => hnot (List.mem_append_right _ hm)
    have here : (meetingBlock m p.w b done).thread? t.tidx = some t := by
      rw [meetingBlock, thread_mapThreads (meetingThread_tidx m p.w b done), harr.1, Option.map_some, meetingThread, absent]
      rfl
    have harr' : laneArrives s' p (meetingBlock m p.w b done) g t := by
      obtain ⟨-, hg, hw, hc, hpred, hsec, hguard⟩ := harr
      refine ⟨here, hg, hw, hc, hpred, ?_, hguard⟩
      rw [hs']
      exact hsec
    have out : laneOut p body steps b.id s' t.tidx = (s'.hold b.id t.tidx (meetingWait m p.w b t), none) := by
      have := laneOut_arrives hp (b := meetingBlock m p.w b done) (steps := steps) hb' (by rw [hs']; exact hr) harr'
      rw [meetingWait_meetingBlock] at this
      exact this
    have next : AtBlock s (s'.hold b.id t.tidx (meetingWait m p.w b t)) b.id (meetingBlock m p.w b (t.tidx :: done)) := by
      rw [← meetingBlock_cons hn harr.1]
      exact atBlock_mapBlock h _
    rw [runLanes, out]
    dsimp only
    have rest := ih (t.tidx :: done) _ next (List.perm_middle.nodup_iff.mpr hnd) (fun j hj => hl j (List.mem_cons_of_mem _ hj))
    rw [List.reverse_cons, List.append_assoc, List.singleton_append]
    exact rest

/-! ### Who is released -/

/-- Lanes of one group that have arrived at one word, with nothing else to release in the group. -/
structure Meets (m : Meet) (b : Block) (lanes : List Nat) (g : Nat) (pc : W32) : Prop where
  indices : (b.threads.map Thread.tidx).Nodup
  lane : ∀ t ∈ b.threads, lanes.contains t.tidx = true → b.gidOf t.tidx = g ∧ t.pc = pc ∧ t.written = true
  other : ∀ t ∈ b.threads, b.gidOf t.tidx = g → lanes.contains t.tidx = false → t.wait = none
  runs : m.cross = true ∨ b.stage = .running

/-- The lanes of a bundle. -/
def lanesOf (b : Block) (lanes : List Nat) : List Thread := b.threads.filter (fun t => lanes.contains t.tidx)

/-- What a lane brings to the release. -/
def arrivalOf (m : Meet) (w : Word) (b : Block) (t : Thread) : Arrival :=
  ⟨m, w, t.pc, Waiting t (meetingWait m w b t), (Env.mk b t).namedSet w (t.guard w.grd), t.guard w.grd⟩

/-- The lanes of some arrivals, as `closed` joins them. -/
def lanesSet (b : Block) (as : List Arrival) : W64 := as.foldl (fun m a => m ||| (1#64 <<< a.lane b)) 0

theorem closed_succ (b : Block) (g n : Nat) (as : List Arrival) :
    closed b g (n + 1) as = closed b g n (as.filter (fun a => b.clip g a.named &&& ~~~(lanesSet b as) == 0)) := rfl

/-- The lanes that it names. -/
def namedBy (w : Word) (b : Block) (g : Nat) (t : Thread) : W64 := b.clip g ((Env.mk b t).namedSet w (t.guard w.grd))

theorem filterMap_eq {α β : Type} {l : List α} {f : α → Option β} {p : α → Bool} {h : α → β}
    (hf : ∀ x ∈ l, f x = if p x then some (h x) else none) : l.filterMap f = (l.filter p).map h := by
  induction l with
  | nil => rfl
  | cons x l ih =>
    have rest := ih (fun y hy => hf y (List.mem_cons_of_mem x hy))
    have hx := hf x List.mem_cons_self
    cases hp : p x with
    | true =>
      rw [hp, if_pos rfl] at hx
      rw [List.filterMap_cons_some hx, rest, List.filter_cons_of_pos hp, List.map_cons]
    | false =>
      rw [hp, if_neg Bool.false_ne_true] at hx
      rw [List.filterMap_cons_none hx, rest, List.filter_cons_of_neg (by rw [hp]; exact Bool.false_ne_true)]

section
variable {m : Meet} {w : Word} {b : Block} {lanes : List Nat} {g : Nat} {pc : W32} (h : Meets m b lanes g pc)
include h

theorem arrivals_meeting : (meetingBlock m w b lanes).arrivals g = (lanesOf b lanes).map (arrivalOf m w b) := by
  rw [Block.arrivals, meetingBlock, Block.mapThreads, List.filterMap_map]
  refine filterMap_eq (fun t ht => ?_)
  dsimp only [Function.comp_apply]
  rw [meetingThread]
  cases hl : lanes.contains t.tidx with
  | true =>
    obtain ⟨hg, -, hw⟩ := h.lane t ht hl
    exact if_pos ⟨hg, hw, h.runs⟩
  | false =>
    rw [if_neg Bool.false_ne_true, if_neg Bool.false_ne_true]
    split
    · rename_i hwait
      refine if_neg ?_
      rintro ⟨hg, -⟩
      rw [h.other t ht hg hl] at hwait
      cases hwait
    · rfl

theorem joining_meeting (k : Nat) : (meetingBlock m w b lanes).joining g k = [] := by
  refine List.filter_eq_nil_iff.mpr (fun x hx hc => ?_)
  rw [Bool.and_eq_true, Bool.and_eq_true, beq_iff_eq] at hc
  obtain ⟨⟨hg, hj⟩, -⟩ := hc
  obtain ⟨t, ht, rfl⟩ := List.mem_map.mp hx
  obtain ⟨y, hy⟩ := (joins_iff _ k).mp hj
  rw [meetingThread] at hy hg
  cases hl : lanes.contains t.tidx with
  | true =>
    rw [hl] at hy
    cases hy
  | false =>
    rw [hl, if_neg Bool.false_ne_true] at hy hg
    rw [h.other t ht hg hl] at hy
    cases hy

theorem joinMet_meeting : (List.range 8).find? ((meetingBlock m w b lanes).joinMet g) = none := by
  refine List.find?_eq_none.mpr (fun k _ => ?_)
  rw [joinMet_iff]
  exact fun hm => hm.1 (joining_meeting h k)

theorem at_lane {x y : Thread} (hx : x ∈ lanesOf b lanes) (hy : y ∈ lanesOf b lanes) :
    (arrivalOf m w b x).at (arrivalOf m w b y) = true := by
  obtain ⟨hx, hxl⟩ := List.mem_filter.mp hx
  obtain ⟨hy, hyl⟩ := List.mem_filter.mp hy
  have pcs : (arrivalOf m w b x).pc = (arrivalOf m w b y).pc := (h.lane x hx hxl).2.1.trans (h.lane y hy hyl).2.1.symm
  rw [Arrival.at, pcs]
  simp [arrivalOf]

theorem same_word {x : Thread} (hx : x ∈ lanesOf b lanes) :
    ((lanesOf b lanes).map (arrivalOf m w b)).filter (fun y => (arrivalOf m w b x).at y) = (lanesOf b lanes).map (arrivalOf m w b) := by
  refine List.filter_eq_self.mpr (fun a ha => ?_)
  obtain ⟨y, hy, rfl⟩ := List.mem_map.mp ha
  exact at_lane h hx hy

omit h

/-- A lane stays in the set where each lane that it names belongs to it. -/
theorem stays_iff (ts : List Thread) (t : Thread) :
    ((meetingBlock m w b lanes).clip g (arrivalOf m w b t).named &&&
      ~~~(lanesSet (meetingBlock m w b lanes) (ts.map (arrivalOf m w b))) == 0) = true ↔
      ∀ n, (namedBy w b g t).getLsbD n = true → ∃ x ∈ ts, x.tidx % b.decl.width = n := by
  have set (n : Nat) (hn : n < 64) :
      (lanesSet (meetingBlock m w b lanes) (ts.map (arrivalOf m w b))).getLsbD n = true ↔ ∃ x ∈ ts, x.tidx % b.decl.width = n := by
    rw [lanesSet, List.foldl_map]
    refine (Bool.eq_iff_iff.mp (getLsbD_lanes b ts 0 n hn)).trans ?_
    simp
  rw [clip_meetingBlock, covered_iff]
  constructor
  · intro h n hn
    have lt : n < 64 := BitVec.lt_of_getLsbD hn
    exact (set n lt).mp (h n lt hn)
  · exact fun h n lt hn => (set n lt).mpr (h n hn)

theorem closed_nil (b : Block) (g n : Nat) : closed b g n [] = [] := by
  induction n with
  | zero => rfl
  | succ n ih => exact ih

include h

/-- Lanes that name only one another are released together. -/
theorem releasable_whole (hne : lanesOf b lanes ≠ [])
    (hc : ∀ t ∈ lanesOf b lanes, ∀ n, (namedBy w b g t).getLsbD n = true → ∃ x ∈ lanesOf b lanes, x.tidx % b.decl.width = n) :
    (meetingBlock m w b lanes).releasable g = some ((lanesOf b lanes).map (arrivalOf m w b)) := by
  let all := (lanesOf b lanes).map (arrivalOf m w b)
  have stays (n : Nat) : closed (meetingBlock m w b lanes) g n all = all := by
    induction n with
    | zero => rfl
    | succ n ih =>
      rw [closed_succ, List.filter_eq_self.mpr, ih]
      intro a ha
      obtain ⟨t, ht, rfl⟩ := List.mem_map.mp ha
      exact (stays_iff (lanesOf b lanes) t).mpr (hc t ht)
  rw [Block.releasable, arrivals_meeting h]
  obtain ⟨t, ts, hts⟩ := List.exists_cons_of_ne_nil hne
  have first : all = arrivalOf m w b t :: ts.map (arrivalOf m w b) := congrArg (List.map (arrivalOf m w b)) hts
  have ht : t ∈ lanesOf b lanes := hts ▸ List.mem_cons_self
  show (all.map _).find? _ = some all
  rw [show all.map (fun a => closed (meetingBlock m w b lanes) g 64 (all.filter (fun x => a.at x))) =
    all :: (ts.map (arrivalOf m w b)).map (fun a => closed (meetingBlock m w b lanes) g 64 (all.filter (fun x => a.at x))) from ?_]
  · exact List.find?_cons_of_pos (by rw [first]; rfl)
  · conv_lhs => rw [first, List.map_cons, ← first, same_word h ht]
    rw [stays]

/-- Where each of them names a lane that is missing, none is released. -/
theorem releasable_none (hc : ∀ t ∈ lanesOf b lanes, ∃ n, (namedBy w b g t).getLsbD n = true ∧
      ∀ x ∈ lanesOf b lanes, x.tidx % b.decl.width ≠ n) :
    (meetingBlock m w b lanes).releasable g = none := by
  rw [Block.releasable, arrivals_meeting h]
  refine List.find?_eq_none.mpr (fun r hr => ?_)
  obtain ⟨a, ha, rfl⟩ := List.mem_map.mp hr
  obtain ⟨t, ht, rfl⟩ := List.mem_map.mp ha
  have leave : ((lanesOf b lanes).map (arrivalOf m w b)).filter (fun a => (meetingBlock m w b lanes).clip g a.named &&&
      ~~~(lanesSet (meetingBlock m w b lanes) ((lanesOf b lanes).map (arrivalOf m w b))) == 0) = [] := by
    refine List.filter_eq_nil_iff.mpr (fun a ha => ?_)
    obtain ⟨y, hy, rfl⟩ := List.mem_map.mp ha
    rw [stays_iff]
    intro hall
    obtain ⟨n, hn, hx⟩ := hc y hy
    obtain ⟨x, hxm, hxn⟩ := hall n hn
    exact hx x hxm hxn
  rw [same_word h ht, closed_succ, leave, closed_nil]
  exact Bool.false_ne_true

end

end Sys2Proof.Proofs
end


section
/-! The cross-lane words (O37). -/

namespace Sys2Proof.Proofs

open Sys2Proof Sys2Proof.Machine Sys2Proof.Laws

/-! ### Results of lanes that wait -/

/-- A member whose thread waits, in a block whose threads may wait as well. -/
def heldMember (ts : List Thread) (v : Thread → Wait) (x : Member) : Member :=
  { x with env := ⟨{ x.env.blk with threads := ts }, Waiting x.env.th (v x.env.th)⟩ }

section
variable (ts : List Thread) (v : Thread → Wait) (w : Word) (r : List Member) (l : Member)

theorem contributors_held : contributors (r.map (heldMember ts v)) (heldMember ts v l) = (contributors r l).map (heldMember ts v) :=
  List.filter_map

theorem contributorAt_held (n : Nat) :
    contributorAt (r.map (heldMember ts v)) (heldMember ts v l) n = (contributorAt r l n).map (heldMember ts v) := by
  rw [contributorAt, contributors_held, List.find?_map]
  rfl

theorem shflRes_held : shflRes w (r.map (heldMember ts v)) (heldMember ts v l) = shflRes w r l := by
  have from' (o : Option Member) : ((o.map (heldMember ts v)).getD (heldMember ts v l)).env.word w.a w.imm =
      (o.getD l).env.word w.a w.imm := by
    cases o <;> rfl
  unfold shflRes
  dsimp only
  rw [contributorAt_held, ← Option.map_none (heldMember ts v), ← apply_ite (Option.map (heldMember ts v)), from']
  rfl

theorem xbfRes_held : xbfRes w (r.map (heldMember ts v)) (heldMember ts v l) = xbfRes w r l := by
  unfold xbfRes
  dsimp only
  rw [contributorAt_held]
  have lane : (heldMember ts v l).lane = l.lane := rfl
  rw [lane]
  cases contributorAt r l (l.lane ^^^ 2 ^ modF w 2 3) <;> rfl

theorem maskOf_held (p : Member → Bool) : maskOf (r.map (heldMember ts v)) p = maskOf r (p ∘ heldMember ts v) := List.foldl_map

theorem voteRes_held : voteRes w (r.map (heldMember ts v)) (heldMember ts v l) = voteRes w r l := by
  unfold voteRes
  dsimp only
  rw [contributors_held, maskOf_held]
  simp only [List.all_map, List.any_map]
  rfl

theorem matchRes_held : matchRes w (r.map (heldMember ts v)) (heldMember ts v l) = matchRes w r l := by
  unfold matchRes
  rw [contributors_held, maskOf_held]
  rfl

theorem electRes_held : electRes w (r.map (heldMember ts v)) (heldMember ts v l) = electRes w r l := by
  unfold electRes
  rw [List.filter_map, List.head?_map, Option.map_map]
  rfl

theorem redgRes_held : redgRes w (r.map (heldMember ts v)) (heldMember ts v l) = redgRes w r l := by
  unfold redgRes
  simp only [contributorAt_held, Option.map_map]
  rfl

theorem scangRes_held : scangRes w (r.map (heldMember ts v)) (heldMember ts v l) = scangRes w r l := by
  unfold scangRes
  dsimp only
  rw [contributors_held, List.map_map]
  rfl

theorem topkRes_held : topkRes w (r.map (heldMember ts v)) (heldMember ts v l) = topkRes w r l := by
  unfold topkRes
  dsimp only
  rw [contributors_held, List.map_map]
  rfl

/-- A result does not depend on who waits. -/
theorem crossRes_held (m : Meet) : crossRes m w (r.map (heldMember ts v)) (heldMember ts v l) = crossRes m w r l := by
  cases m with
  | shfl => exact shflRes_held ts v w r l
  | xbf => exact xbfRes_held ts v w r l
  | vote => exact voteRes_held ts v w r l
  | redg => exact redgRes_held ts v w r l
  | scang => exact scangRes_held ts v w r l
  | matchLanes => exact matchRes_held ts v w r l
  | elect => exact electRes_held ts v w r l
  | topk => exact topkRes_held ts v w r l
  | _ => rfl

end

theorem setTuple_waiting (vs : List W32) : ∀ (t : Thread) (v : Wait) (n : Nat), (Waiting t v).setTuple n vs = Waiting (t.setTuple n vs) v := by
  induction vs with
  | nil => exact fun _ _ _ => rfl
  | cons x vs ih => exact fun t v n => ih (t.setReg n x) v (n + 1)

theorem result_waiting (t : Thread) (v : Wait) (d : Opd) (trn : Bool) (vs : List W32) :
    (Waiting t v).result d trn vs = Waiting (t.result d trn vs) v := by
  have named : (Waiting t v).named d = t.named d := rfl
  rw [Thread.result, Thread.result, named]
  cases t.named d with
  | none => rfl
  | some n =>
    cases trn with
    | true => rfl
    | false => exact setTuple_waiting vs (t.shift (BitVec.ofNat 64 (wordsNat (List.take 2 vs))) false) v n

theorem setPreds_waiting (ps : List (Nat × Bool)) : ∀ (t : Thread) (v : Wait), (Waiting t v).setPreds ps = Waiting (t.setPreds ps) v := by
  induction ps with
  | nil => exact fun _ _ => rfl
  | cons p ps ih =>
    intro t v
    have first : (Waiting t v).setPred p.1 p.2 = Waiting (t.setPred p.1 p.2) v := by
      rw [Thread.setPred, Thread.setPred]
      split <;> rfl
    exact (congrArg (fun x => Thread.setPreds x ps) first).trans (ih _ v)

theorem apply_waiting (t : Thread) (v : Wait) (w : Word) (r : Res) : (Waiting t v).apply w r = Waiting (t.apply w r) v := by
  unfold Thread.apply
  cases r.regs with
  | none =>
    dsimp only
    rw [setPreds_waiting]
    rfl
  | some vs =>
    dsimp only
    rw [result_waiting, setPreds_waiting]
    rfl

/-! ### Changes of several threads of a block -/

/-- A thread after changes of some threads by index. -/
def acting (l : List (Nat × (Thread → Thread))) (t : Thread) : Thread :=
  ((l.find? (fun e => e.1 == t.tidx)).map Prod.snd).getD id t

theorem acting_tidx {l : List (Nat × (Thread → Thread))} (hk : ∀ e ∈ l, KeepsIndex e.2) : KeepsIndex (acting l) := by
  intro t
  rw [acting]
  cases h : l.find? (fun e => e.1 == t.tidx) with
  | none => rfl
  | some e => exact hk e (List.mem_of_find?_eq_some h) t

theorem acting_cons {e : Nat × (Thread → Thread)} {l : List (Nat × (Thread → Thread))} (hn : e.1 ∉ l.map Prod.fst) (hk : KeepsIndex e.2)
    (t : Thread) : acting l (if t.tidx = e.1 then e.2 t else t) = acting (e :: l) t := by
  by_cases ht : t.tidx = e.1
  · have later : l.find? (fun x => x.1 == t.tidx) = none := by
      refine List.find?_eq_none.mpr (fun x hx he => hn ?_)
      rw [← ht, ← beq_iff_eq.mp he]
      exact List.mem_map_of_mem hx
    rw [if_pos ht, acting, acting, List.find?_cons_of_pos (p := fun (x : Nat × (Thread → Thread)) => x.1 == t.tidx) (beq_iff_eq.mpr ht.symm),
      hk t, later]
    rfl
  · rw [if_neg ht, acting, acting,
      List.find?_cons_of_neg (p := fun (x : Nat × (Thread → Thread)) => x.1 == t.tidx) (fun he => ht (beq_iff_eq.mp he).symm)]

theorem actAll_spec (c : Nat) (l : List (Nat × (Thread → Thread))) (hn : (l.map Prod.fst).Nodup) (hk : ∀ e ∈ l, KeepsIndex e.2) (s : State) :
    l.foldl (fun s e => s.mapThread c e.1 e.2) s = s.mapBlock c (fun x => x.mapThreads (acting l)) := by
  induction l generalizing s with
  | nil =>
    refine (mapBlock_id s c).symm.trans (congrArg (s.mapBlock c) (funext (fun x => ?_)))
    exact (congrArg (fun ts => { x with threads := ts }) (List.map_id'' (f := acting []) (fun _ => rfl) x.threads)).symm
  | cons e l ih =>
    obtain ⟨hnot, hn⟩ := List.nodup_cons.mp hn
    refine (ih hn (fun x hx => hk x (List.mem_cons_of_mem e hx)) _).trans ?_
    refine (mapBlock_mapBlock s c _ _).trans (congrArg (s.mapBlock c) (funext (fun x => ?_)))
    unfold Block.mapThreads Block.mapThread
    dsimp only
    rw [List.map_map]
    exact congrArg (fun ts => { x with threads := ts })
      (List.map_congr_left (fun t _ => acting_cons hnot (hk e List.mem_cons_self) t))

theorem acting_map {ts : List Thread} (hn : (ts.map Thread.tidx).Nodup) (f : Thread → Thread → Thread) {t x : Thread} (ht : t ∈ ts)
    (hx : x.tidx = t.tidx) : acting (ts.map (fun t => (t.tidx, f t))) x = f t x := by
  rw [acting]
  cases h : (ts.map (fun t => (t.tidx, f t))).find? (fun e => e.1 == x.tidx) with
  | none => exact absurd (beq_iff_eq.mpr hx.symm) (List.find?_eq_none.mp h (t.tidx, f t) (List.mem_map_of_mem ht))
  | some e =>
    obtain ⟨y, hy, rfl⟩ := List.mem_map.mp (List.mem_of_find?_eq_some h)
    have hyx := beq_iff_eq.mp (List.find?_some (p := fun (e : Nat × (Thread → Thread)) => e.1 == x.tidx) h)
    rw [eq_of_tidx hn hy ht (hyx.trans hx)]
    rfl

theorem acting_absent {l : List (Nat × (Thread → Thread))} {x : Thread} (h : x.tidx ∉ l.map Prod.fst) : acting l x = x := by
  rw [acting]
  cases hf : l.find? (fun e => e.1 == x.tidx) with
  | none => rfl
  | some e =>
    refine absurd ?_ h
    rw [← beq_iff_eq.mp (List.find?_some (p := fun (e : Nat × (Thread → Thread)) => e.1 == x.tidx) hf)]
    exact List.mem_map_of_mem (List.mem_of_find?_eq_some hf)

theorem passing_eq_acting (l : List (Nat × W32 × Bool)) :
    passing l = acting (l.map (fun e => (e.1, fun t => t.passed (e.2.1 + 1) e.2.2))) := by
  funext t
  rw [passing, acting, List.find?_map]
  have : (fun e : Nat × (Thread → Thread) => e.1 == t.tidx) ∘ (fun e : Nat × W32 × Bool => (e.1, fun t : Thread => t.passed (e.2.1 + 1) e.2.2)) =
      fun e => e.1 == t.tidx := rfl
  rw [this]
  cases l.find? (fun e => e.1 == t.tidx) <;> rfl

end Sys2Proof.Proofs
end


section
/-! The cross-lane words (O37): arrival and release. -/

namespace Sys2Proof.Proofs

open Sys2Proof Sys2Proof.Machine Sys2Proof.Laws

/-! ### A bundle at a meeting word -/

theorem runWord_bundle {s : State} {u : Bundle} {b : Block} {p : Plan} {body : Bool → Env → State → LaneEnd}
    {post : Bundle → State → State → State} (hl : s.latch = some u) (hu : u.blk = b.id) (hb : s.block? b.id = some b)
    (hd : illegalDetail b p.i p.f.team = 0) :
    runWord p body post s = .next (post u s (runLanes p body b.stepping b.id u.lanes [] s)).endWord := by
  rw [runWord, hl]
  dsimp only
  rw [hu, hb]
  dsimp only
  rw [hd, if_neg (by simp)]

theorem dedup_same {l : List Nat} {f : Nat → Nat} {g : Nat} (hne : l ≠ []) (h : ∀ k ∈ l, f k = g) : (l.map f).dedup = [g] := by
  rw [List.map_congr_left h, List.map_const', List.replicate_dedup]
  simpa using hne

theorem reexamineAfter_bundle {s s' : State} {u : Bundle} {b : Block} {g : Nat} (hb : s'.block? u.blk = some b) (hne : u.lanes ≠ [])
    (hg : ∀ k ∈ u.lanes, b.gidOf k = g) : reexamineAfter u s s' = s'.reexamine 64 u.blk g := by
  rw [reexamineAfter, hb]
  dsimp only
  rw [dedup_same hne hg]
  rfl

section
variable {s : State} {i : Instr} {w : Word} {m : Meet} {b : Block} {u : Bundle} {g : Nat} (h : bundleArrives s i w b u g)
include h

theorem meets_of_bundle (hm : m.cross = true ∨ b.stage = .running) : Meets m b u.lanes g u.pc := by
  obtain ⟨-, -, -, -, -, -, hn, -, -, hl, ho⟩ := h
  refine ⟨hn, fun t ht hc => ?_, fun t ht hg hc => ho t ht hg ?_, hm⟩
  · obtain ⟨t', ht', hg, hpc, hw, -⟩ := hl t.tidx (List.contains_iff_mem.mp hc)
    obtain ⟨hmem, hi⟩ := thread_mem ht'
    rw [eq_of_tidx hn ht hmem hi.symm]
    exact ⟨hi ▸ hg, hpc, hw⟩
  · exact fun hmem => Bool.false_ne_true (hc.symm.trans (List.contains_iff_mem.mpr hmem))

/-- The lanes wait, and their group is looked at. -/
theorem bundle_arrives {p : Plan} {body : Bool → Env → State → LaneEnd} (hp : Arrives m p body) (hi : p.i = i) (hw : p.w = w)
    (hf : p.f = formIn i) (hc : p.ctr = none ∨ p.ctr = some .cp) :
    ∃ s1, AtBlock s s1 b.id (meetingBlock m w b u.lanes) ∧
      runWord p body reexamineAfter s = .next (s1.reexamine 64 b.id g).endWord := by
  obtain ⟨hlatch, hu, hb, hd, hne, hnd, hn, hr, -, hl, -⟩ := h
  have ready : ∀ k ∈ u.lanes, ∃ t, t.tidx = k ∧ laneArrives s p b g t := by
    intro k hk
    obtain ⟨t, ht, hg, -, hwr, hcp, hpred, hsec, hguard, -⟩ := hl k hk
    obtain ⟨-, rfl⟩ := thread_mem ht
    refine ⟨t, rfl, ht, hg, hwr, hc.imp_right (fun x => ⟨x, hcp⟩), hw ▸ hpred, hi ▸ hsec, ?_⟩
    rw [hw, hf]
    exact hguard
  have start : AtBlock s s b.id (meetingBlock m p.w b []) := by
    refine atBlock_refl (hb.trans (congrArg some ?_))
    exact (congrArg (fun ts => { b with threads := ts }) (List.map_id'' (f := meetingThread m p.w b []) (fun _ => rfl) b.threads)).symm
  have run := runLanes_arrive hp (steps := b.stepping) hn hr u.lanes [] s start (by rwa [List.append_nil]) ready
  have lanes : meetingBlock m p.w b (u.lanes.reverse ++ []) = meetingBlock m w b u.lanes := by
    refine congrArg (fun ts => { b with threads := ts }) (List.map_congr_left (fun t _ => ?_))
    rw [meetingThread, meetingThread, List.append_nil, List.contains_reverse, hw]
  rw [lanes] at run
  refine ⟨_, run, ?_⟩
  obtain ⟨-, -, hb1⟩ := id run
  have legal : illegalDetail b p.i p.f.team = 0 := by rw [hi, hf]; exact hd
  rw [runWord_bundle hlatch hu hb legal, reexamineAfter_bundle (b := meetingBlock m w b u.lanes) (g := g) (by rw [hu]; exact hb1) hne, hu]
  intro k hk
  obtain ⟨t, -, hg, -⟩ := hl k hk
  exact hg

end

/-! ### A release -/

theorem reexamine_free {s : State} {c : Nat} {b : Block} {g : Nat} (hb : s.block? c = some b)
    (h : ∀ x ∈ b.threads, b.gidOf x.tidx = g → x.wait = none) (n : Nat) : s.reexamine n c g = s := by
  cases n with
  | zero => rfl
  | succ n =>
    have idle : GroupJoins b g 0 := fun x hx hg => .inl (h x hx hg)
    have none' : b.joining g 0 = [] := by
      refine List.filter_eq_nil_iff.mpr (fun x hx hc => ?_)
      rw [Bool.and_eq_true, Bool.and_eq_true, beq_iff_eq] at hc
      obtain ⟨y, hy⟩ := (joins_iff x 0).mp hc.1.2
      rw [h x hx hc.1.1] at hy
      cases hy
    have unmet : ¬ b.joinMet g 0 = true := by
      rw [joinMet_iff]
      exact fun hm => hm.1 none'
    rw [State.reexamine, hb]
    dsimp only
    rw [releaseOne_joins idle (by decide), if_neg unmet]

theorem mem_lanesOf {b : Block} {lanes : List Nat} {t : Thread} : t ∈ lanesOf b lanes ↔ t ∈ b.threads ∧ lanes.contains t.tidx = true :=
  List.mem_filter

theorem lanesOf_nodup {b : Block} (hn : (b.threads.map Thread.tidx).Nodup) (lanes : List Nat) : ((lanesOf b lanes).map Thread.tidx).Nodup :=
  hn.sublist (List.filter_sublist.map _)

/-- What the lanes with a true guard receive. -/
def received (m : Meet) (w : Word) (b : Block) (g : Nat) (lanes : List Nat) (t : Thread) : Res :=
  let member (x : Thread) : Member := ⟨⟨b, x⟩, namedBy w b g x, x.guard w.grd⟩
  crossRes m w ((lanesOf b lanes).map member) (member t)

/-- How the release changes a lane of its own. -/
def crossed (m : Meet) (w : Word) (b : Block) (g : Nat) (lanes : List Nat) (t x : Thread) : Thread :=
  if t.guard w.grd then x.apply w (received m w b g lanes t) else x

theorem crossed_tidx (m : Meet) (w : Word) (b : Block) (g : Nat) (lanes : List Nat) (t : Thread) : KeepsIndex (crossed m w b g lanes t) := by
  intro x
  rw [crossed]
  split
  · exact apply_tidx x w _
  · rfl

theorem crossed_stepDue (m : Meet) (w : Word) (b : Block) (g : Nat) (lanes : List Nat) (t x : Thread) :
    (crossed m w b g lanes t x).stepDue = x.stepDue := by
  rw [crossed]
  split
  · exact apply_stepDue x w _
  · rfl

section
variable {m : Meet} {w : Word} {b : Block} {lanes : List Nat} {g : Nat} {pc : W32} (h : Meets m b lanes g pc)
include h

/-- The members of the release are those of the block before the lanes waited, but that they wait. -/
theorem members_release : ((lanesOf b lanes).map (arrivalOf m w b)).map (fun x => (⟨⟨meetingBlock m w b lanes, x.th⟩,
    (meetingBlock m w b lanes).clip ((meetingBlock m w b lanes).gidOf x.th.tidx) x.named, x.guard⟩ : Member)) =
    ((lanesOf b lanes).map (fun t => (⟨⟨b, t⟩, namedBy w b g t, t.guard w.grd⟩ : Member))).map
      (heldMember (meetingBlock m w b lanes).threads (meetingWait m w b)) := by
  rw [List.map_map, List.map_map]
  refine List.map_congr_left (fun t ht => ?_)
  obtain ⟨htb, htl⟩ := mem_lanesOf.mp ht
  have hg : (meetingBlock m w b lanes).gidOf (arrivalOf m w b t).th.tidx = g := (h.lane t htb htl).1
  dsimp only [Function.comp_apply]
  rw [hg, clip_meetingBlock]
  rfl

theorem releaseCross_spec (s : State) (a : Arrival) (ha : a.meet = m ∧ a.w = w) :
    s.releaseCross (meetingBlock m w b lanes) a ((lanesOf b lanes).map (arrivalOf m w b)) =
      s.mapBlock b.id (fun x => x.mapThreads (acting ((lanesOf b lanes).map (fun t => (t.tidx, crossed m w b g lanes t))))) := by
  obtain ⟨rfl, rfl⟩ := ha
  rw [State.releaseCross]
  rw [members_release h, List.foldl_map, List.foldl_map]
  have entries : ((lanesOf b lanes).map (fun t => (t.tidx, crossed a.meet a.w b g lanes t))).map Prod.fst =
      (lanesOf b lanes).map Thread.tidx := List.map_map ..
  rw [← actAll_spec b.id _ (by rw [entries]; exact lanesOf_nodup h.indices lanes)
    (fun e he => by
      obtain ⟨t, -, rfl⟩ := List.mem_map.mp he
      exact crossed_tidx a.meet a.w b g lanes t), List.foldl_map]
  refine congrArg (fun f => List.foldl f s (lanesOf b lanes)) (funext fun s => funext fun t => ?_)
  rw [crossRes_held]
  by_cases hg : t.guard a.w.grd = true
  · have f : crossed a.meet a.w b g lanes t = fun x => x.apply a.w (received a.meet a.w b g lanes t) :=
      funext (fun x => if_pos hg)
    rw [f]
    exact if_pos hg
  · have f : crossed a.meet a.w b g lanes t = id := funext (fun x => if_neg hg)
    rw [f, mapThread_id]
    exact if_neg hg

/-- A lane after the release, from its place before the arrival. -/
def released (m : Meet) (w : Word) (b : Block) (g : Nat) (lanes : List Nat) (t : Thread) : Thread :=
  (if t.guard w.grd then t.apply w (received m w b g lanes t) else t).passed (t.pc + 1) w.hnt.yld

/-- What the release does to the threads of the block. -/
def releasing (m : Meet) (w : Word) (b : Block) (g : Nat) (lanes : List Nat) (x : Thread) : Thread :=
  acting ((lanesOf b lanes).map (fun t => (t.tidx, fun y => y.passed (t.pc + 1) w.hnt.yld)))
    (acting ((lanesOf b lanes).map (fun t => (t.tidx, crossed m w b g lanes t))) x)

omit h in
theorem crossings_tidx (m : Meet) (w : Word) (b : Block) (g : Nat) (lanes : List Nat) :
    KeepsIndex (acting ((lanesOf b lanes).map (fun t => (t.tidx, crossed m w b g lanes t)))) :=
  acting_tidx (fun e he => by
    obtain ⟨t, -, rfl⟩ := List.mem_map.mp he
    exact crossed_tidx m w b g lanes t)

omit h in
theorem releasing_tidx (m : Meet) (w : Word) (b : Block) (g : Nat) (lanes : List Nat) : KeepsIndex (releasing m w b g lanes) := by
  intro x
  refine (acting_tidx (fun e he => ?_) _).trans (crossings_tidx m w b g lanes x)
  obtain ⟨t, -, rfl⟩ := List.mem_map.mp he
  exact passed_keeps _ _

theorem releasing_lane {t : Thread} (ht : t ∈ lanesOf b lanes) :
    releasing m w b g lanes (meetingThread m w b lanes t) = released m w b g lanes t := by
  have hn := lanesOf_nodup h.indices lanes
  have waiting : meetingThread m w b lanes t = Waiting t (meetingWait m w b t) := if_pos (mem_lanesOf.mp ht).2
  rw [waiting, releasing, acting_map hn (crossed m w b g lanes) (x := Waiting t (meetingWait m w b t)) ht rfl,
    acting_map hn (fun t y => y.passed (t.pc + 1) w.hnt.yld) (x := crossed m w b g lanes t (Waiting t (meetingWait m w b t))) ht
      (crossed_tidx m w b g lanes t _), released, crossed, apply_waiting]
  cases t.guard w.grd <;> rfl

omit h in
theorem releasing_other {x : Thread} (hx : x.tidx ∉ lanes) : releasing m w b g lanes (meetingThread m w b lanes x) = x := by
  have away {f : Thread → Thread → Thread} : x.tidx ∉ ((lanesOf b lanes).map (fun t => (t.tidx, f t))).map Prod.fst := by
    rw [List.map_map]
    intro hm
    obtain ⟨t, ht, he⟩ := List.mem_map.mp hm
    have htx : t.tidx = x.tidx := he
    exact hx (htx ▸ List.contains_iff_mem.mp (mem_lanesOf.mp ht).2)
  have stays : meetingThread m w b lanes x = x := if_neg (fun hc => hx (List.contains_iff_mem.mp hc))
  rw [stays, releasing, acting_absent away, acting_absent away]

/-- The release of a cross-lane word, in a context that does not trace it. -/
theorem release_spec {s : State} (hm : m.cross = true) (hb : s.block? b.id = some (meetingBlock m w b lanes))
    (htr : (s.ctx b.decl.ctx).traces 2 = false) (hst : b.stepping.contains g = false)
    (hd : ∀ t ∈ lanesOf b lanes, t.stepDue = false) (hne : lanesOf b lanes ≠ []) :
    let s' := s.release (meetingBlock m w b lanes) g ((lanesOf b lanes).map (arrivalOf m w b))
    s'.block? b.id = some ((meetingBlock m w b lanes).mapThreads (releasing m w b g lanes)) ∧ sameButSeen s s' ∧
      ∀ c, c ≠ b.id → s'.block? c = s.block? c := by
  obtain ⟨t0, ts, hts⟩ := List.exists_cons_of_ne_nil hne
  let b1 := meetingBlock m w b lanes
  let r := (lanesOf b lanes).map (arrivalOf m w b)
  let s1 := s.meetKnow b1 (r.map (fun x => x.th.tidx))
  let l1 := (lanesOf b lanes).map (fun t => (t.tidx, crossed m w b g lanes t))
  let l2 := (lanesOf b lanes).map (fun t => (t.tidx, t.pc, w.hnt.yld))
  let s2 := s1.mapBlock b.id (fun x => x.mapThreads (acting l1))
  have hframe : { s1 with stale := s.stale, lcache := s.lcache } = s := meetKnow_frame ..
  have hblocks : s1.blocks = s.blocks := (congrArg State.blocks hframe :)
  have hb1 (c : Nat) : s1.block? c = s.block? c := by rw [State.block?, hblocks]; rfl
  have hb2 : s2.block? b.id = some (b1.mapThreads (acting l1)) := by
    rw [block_mapBlock, if_pos rfl, hb1, hb]
    rfl
  have entries : l2.map Prod.fst = (lanesOf b lanes).map Thread.tidx := List.map_map ..
  have quiet : ∀ e ∈ l2, ∀ x, s2.thread? b.id e.1 = some x → x.stepDue = false := by
    intro e he x hx
    obtain ⟨t, ht, rfl⟩ := List.mem_map.mp he
    rw [State.thread?, hb2, Option.bind_some, thread_mapThreads (crossings_tidx m w b g lanes)] at hx
    obtain ⟨y, hy, rfl⟩ := Option.map_eq_some_iff.mp hx
    have hy : (b.mapThreads (meetingThread m w b lanes)).thread? t.tidx = some y := hy
    rw [thread_mapThreads (meetingThread_tidx m w b lanes)] at hy
    obtain ⟨z, hz, rfl⟩ := Option.map_eq_some_iff.mp hy
    obtain ⟨hzb, hzt⟩ := thread_mem hz
    rw [eq_of_tidx h.indices hzb (mem_lanesOf.mp ht).1 hzt]
    have waiting : meetingThread m w b lanes t = Waiting t (meetingWait m w b t) := if_pos (mem_lanesOf.mp ht).2
    rw [waiting, acting_map (lanesOf_nodup h.indices lanes) (crossed m w b g lanes) (x := Waiting t (meetingWait m w b t)) ht rfl, crossed_stepDue]
    exact hd t ht
  have pass : s2.passAll b1 l2 = s2.mapBlock b.id (fun x => x.mapThreads (passing l2)) := by
    refine passAll_spec (b := b1) l2 (by rw [entries]; exact lanesOf_nodup h.indices lanes) (fun e he => ?_) quiet
    obtain ⟨t, ht, rfl⟩ := List.mem_map.mp he
    exact (congrArg b.stepping.contains (h.lane t (mem_lanesOf.mp ht).1 (mem_lanesOf.mp ht).2).1).trans hst
  have head : r.head? = some (arrivalOf m w b t0) := by
    rw [show r = arrivalOf m w b t0 :: ts.map (arrivalOf m w b) from congrArg (List.map (arrivalOf m w b)) hts]
    rfl
  have run : s.release b1 g r = s2.mapBlock b.id (fun x => x.mapThreads (passing l2)) := by
    have traced : s.trace b1.id g 2 (arrivalOf m w b t0).pc (lanesMask b1 (r.map (fun x => x.th.tidx)))
        (b1.clip g (arrivalOf m w b t0).named) 0x80000000#32 0 = s := trace_off (b := b1) hb htr
    have cross : (arrivalOf m w b t0).meet.cross = true := hm
    rw [State.release, head]
    dsimp only
    have change : s1.releaseCross b1 (arrivalOf m w b t0) r = s2 := releaseCross_spec h s1 (arrivalOf m w b t0) ⟨rfl, rfl⟩
    have entries2 : r.map (fun x => (x.th.tidx, x.pc, x.w.hnt.yld)) = l2 := List.map_map ..
    rw [cross, Bool.true_or, if_pos rfl, if_pos rfl, traced, change, entries2]
    exact pass
  have both : s2.mapBlock b.id (fun x => x.mapThreads (passing l2)) =
      s1.mapBlock b.id (fun x => x.mapThreads (releasing m w b g lanes)) := by
    refine (mapBlock_mapBlock s1 b.id _ _).trans (congrArg (s1.mapBlock b.id) (funext fun x => ?_))
    refine congrArg (fun ts => { x with threads := ts }) ((List.map_map ..).trans (List.map_congr_left (fun y _ => ?_)))
    rw [passing_eq_acting, show l2.map (fun e => (e.1, fun t : Thread => t.passed (e.2.1 + 1) e.2.2)) =
      (lanesOf b lanes).map (fun t => (t.tidx, fun y => y.passed (t.pc + 1) w.hnt.yld)) from List.map_map ..]
    rfl
  intro s'
  rw [show s' = s1.mapBlock b.id (fun x => x.mapThreads (releasing m w b g lanes)) from run.trans both]
  refine ⟨?_, ?_, ?_⟩
  · rw [block_mapBlock, if_pos rfl, hb1, hb]
    rfl
  · exact sameButSeen_trans (t := s1) (by unfold sameButSeen; rw [hframe]; rfl) rfl
  · intro c hc
    rw [block_mapBlock, if_neg hc, hb1]

end

theorem crossOf_word {i : Instr} {w : Word} {m : Meet} (h : crossOf i = some (w, m)) :
    m.cross = true ∧ (formIn i).sup = false ∧ ∀ s, exec i s = meetWord m i w s := by
  unfold crossOf at h
  split at h
  case h_9 => cases h
  all_goals
    cases h
    exact ⟨rfl, rfl, fun _ => rfl⟩

/-- The lanes of a cross-lane word arrive, whatever their guards. -/
theorem arrives_cross {i : Instr} {w : Word} {m : Meet} (h : (formIn i).sup = false) :
    Arrives m { planOf i w with always := true } (fun g e s =>
      if !s.turn e.blk e.th then .stay (s.hold e.blk.id e.th.tidx (.steer none))
      else .stay (s.hold e.blk.id e.th.tidx (.meet m w (e.namedSet w g) g))) := by
  refine ⟨rfl, h, fun _ => rfl, fun s e hr => ?_⟩
  exact if_neg (by rw [turn_live hr e.th]; exact Bool.false_ne_true)

theorem sameButSeen_of_sameBut {s s' : State} (h : sameBut s s') : sameButSeen s s' := by
  rw [eq_of_sameBut h]
  rfl

/-- Settles O37: the lanes wait; where they name only one another they are released, and where each misses a lane they stay. -/
theorem crossLaneWordsRelease : Obligations.CrossLaneWordsRelease := by
  intro i w m s b u g hi h here member
  obtain ⟨hm, hsup, hex⟩ := crossOf_word hi
  obtain ⟨s1, ⟨hsame, hothers, hb1⟩, hrun⟩ := bundle_arrives h (arrives_cross hsup) rfl rfl rfl (.inl rfl)
  have meets := meets_of_bundle h (.inl hm)
  have lanes : here = lanesOf b u.lanes := rfl
  let b1 := meetingBlock m w b u.lanes
  obtain ⟨-, -, hb, -, hne, -, hn, -, htr, hl, -⟩ := id h
  have found {t : Thread} (ht : t ∈ here) : b.thread? t.tidx = some t := by
    obtain ⟨htb, hc⟩ := mem_lanesOf.mp ht
    obtain ⟨x, hx, -⟩ := hl t.tidx (List.contains_iff_mem.mp hc)
    obtain ⟨hxb, hxt⟩ := thread_mem hx
    rw [hx, eq_of_tidx hn hxb htb hxt]
  have quiet {t : Thread} (ht : t ∈ here) : unstepped b t := by
    obtain ⟨htb, hc⟩ := mem_lanesOf.mp ht
    obtain ⟨x, hx, -, -, -, -, -, -, -, hq⟩ := hl t.tidx (List.contains_iff_mem.mp hc)
    obtain ⟨hxb, hxt⟩ := thread_mem hx
    rw [← eq_of_tidx hn hxb htb hxt]
    exact hq
  have nonempty : lanesOf b u.lanes ≠ [] := by
    obtain ⟨k, hk⟩ := List.exists_mem_of_ne_nil _ hne
    obtain ⟨t, ht, -⟩ := hl k hk
    obtain ⟨htb, rfl⟩ := thread_mem ht
    exact List.ne_nil_of_mem (mem_lanesOf.mpr ⟨htb, List.contains_iff_mem.mpr hk⟩)
  refine ⟨fun hc => ?_, fun hc => ?_⟩
  · have due : s1.releaseOne b1 g = some (s1.release b1 g ((lanesOf b u.lanes).map (arrivalOf m w b))) := by
      rw [State.releaseOne, joinMet_meeting meets, releasable_whole meets nonempty hc]
      rfl
    have htr1 : (s1.ctx b.decl.ctx).traces 2 = false := by
      rw [eq_of_sameBut hsame]
      exact htr
    obtain ⟨t0, ht0⟩ := List.exists_mem_of_ne_nil _ nonempty
    have hst : b.stepping.contains g = false := by
      rw [← (meets.lane t0 (mem_lanesOf.mp ht0).1 (mem_lanesOf.mp ht0).2).1]
      exact (quiet ht0).1
    obtain ⟨hb2, hseen, hothers2⟩ := release_spec meets hm hb1 htr1 hst (fun t ht => (quiet ht).2) nonempty
    let s2 := s1.release b1 g ((lanesOf b u.lanes).map (arrivalOf m w b))
    have free : s2.reexamine 63 b.id g = s2 := by
      refine reexamine_free hb2 (fun x hx hg => ?_) 63
      obtain ⟨y, hy, rfl⟩ := List.mem_map.mp hx
      obtain ⟨t, ht, rfl⟩ := List.mem_map.mp hy
      cases hc : u.lanes.contains t.tidx with
      | true =>
        rw [releasing_lane meets (mem_lanesOf.mpr ⟨ht, hc⟩)]
        rfl
      | false =>
        have away : t.tidx ∉ u.lanes := fun hm => Bool.false_ne_true (hc.symm.trans (List.contains_iff_mem.mpr hm))
        rw [releasing_other away] at hg ⊢
        exact meets.other t ht hg hc
    have run : exec i s = .next s2.endWord := by
      rw [hex, meetWord, hrun, State.reexamine, hb1]
      dsimp only
      rw [due]
      exact congrArg (fun x => Host.Outcome.next (State.endWord x)) free
    have thread (k : Nat) : s2.thread? b.id k =
        (b.thread? k).map (fun x => releasing m w b g u.lanes (meetingThread m w b u.lanes x)) := by
      have hb2 : s2.block? b.id = some ((b.mapThreads (meetingThread m w b u.lanes)).mapThreads (releasing m w b g u.lanes)) := hb2
      rw [State.thread?, hb2, Option.bind_some, thread_mapThreads (releasing_tidx m w b g u.lanes),
        thread_mapThreads (meetingThread_tidx m w b u.lanes), Option.map_map]
      rfl
    refine ⟨_, run, ⟨?_, ?_, ?_, ?_⟩, fun t ht => ?_⟩
    · exact sameButSeen_trans (sameButSeen_of_sameBut hsame) hseen
    · exact fun c hc => (hothers2 c hc).trans (hothers c hc)
    · intro b' hb'
      rw [hb] at hb'
      cases hb'
      exact ⟨_, hb2⟩
    · intro k hk
      refine (thread k).trans ?_
      rw [State.thread?, hb, Option.bind_some]
      cases hx : b.thread? k with
      | none => rfl
      | some x =>
        obtain ⟨-, rfl⟩ := thread_mem hx
        exact congrArg some (releasing_other hk)
    · refine (thread t.tidx).trans ?_
      rw [found ht]
      exact congrArg some (releasing_lane meets ht)
  · have due : s1.releaseOne b1 g = none := by
      rw [State.releaseOne, joinMet_meeting meets, releasable_none meets hc]
      rfl
    have run : exec i s = .next s1.endWord := by
      rw [hex, meetWord, hrun, State.reexamine, hb1]
      dsimp only
      rw [due]
    have thread (k : Nat) : s1.thread? b.id k = (b.thread? k).map (meetingThread m w b u.lanes) := by
      rw [State.thread?, hb1, Option.bind_some, meetingBlock, thread_mapThreads (meetingThread_tidx m w b u.lanes)]
    refine ⟨_, run, ⟨hsame, hothers, ?_, ?_⟩, fun t ht => ?_⟩
    · intro b' hb'
      rw [hb] at hb'
      cases hb'
      exact ⟨_, hb1⟩
    · intro k hk
      refine (thread k).trans ?_
      rw [State.thread?, hb, Option.bind_some]
      cases hx : b.thread? k with
      | none => rfl
      | some x =>
        obtain ⟨-, rfl⟩ := thread_mem hx
        exact congrArg some (if_neg (fun hc => hk (List.contains_iff_mem.mp hc)))
    · refine (thread t.tidx).trans ?_
      rw [found ht, Option.map_some, meetingThread, if_pos (mem_lanesOf.mp ht).2]
      refine congrArg (fun n => some (Waiting t (.meet m w n (t.guard w.grd)))) ?_
      exact (clip_clip b (b.gidOf t.tidx) _).symm.trans
        (congrArg (fun g => b.clip g _) (meets.lane t (mem_lanesOf.mp ht).1 (mem_lanesOf.mp ht).2).1)

end Sys2Proof.Proofs
end


section
/-! The engine and drain words (O38). -/

namespace Sys2Proof.Proofs

open Sys2Proof Sys2Proof.Machine Sys2Proof.Laws

/-! ### A fault that ends its block leaves none of its threads (R334) -/

/-- No thread of a block is left. -/
def Threadless (s : State) (c : Nat) : Prop := ∀ k, s.thread? c k = none

theorem Threadless.of_blocks {s t : State} {c : Nat} (hs : Threadless s c) (h : t.blocks = s.blocks) : Threadless t c := by
  intro k
  rw [State.thread?, State.block?, h]
  exact hs k

theorem Threadless.unwaits {s t : State} {c : Nat} (hs : Threadless s c) (h : Unwaits s t) : Threadless t c := by
  intro k
  cases hy : t.thread? c k with
  | none => rfl
  | some y =>
    obtain ⟨x, hx, -⟩ := h c k y hy
    rw [hs k] at hx
    cases hx

theorem threadless_of_block {s : State} {c : Nat} (h : s.block? c = none) : Threadless s c := by
  intro k
  rw [State.thread?, h]
  rfl

theorem endSections_blocks (s : State) (b : Nat) (who : Nat → Bool) : (s.endSections b who).blocks =
    (s.abortAll ((s.sections.filter (fun x => x.blk == b && who x.tidx)).map Section.name) 8 none).blocks := by
  rw [State.endSections]

theorem removeBlock_blocks (s : State) (b : Nat) : (s.removeBlock b).blocks = NMap.remove (s.endSections b (fun _ => true)).blocks b := by
  rw [State.removeBlock]

theorem block_removeBlock (s : State) (b c : Nat) : (s.removeBlock b).block? c =
    if c = b then none else (s.endSections b (fun _ => true)).block? c := by
  rw [State.block?, removeBlock_blocks, lookup_remove]
  rfl

theorem Threadless.removeBlock {s : State} {c : Nat} (hs : Threadless s c) (b : Nat) : Threadless (s.removeBlock b) c := by
  have ended : Threadless (s.endSections b (fun _ => true)) c :=
    (hs.unwaits (unwaits_abortAll s _ 8 none)).of_blocks (endSections_blocks s b _)
  intro k
  rw [State.thread?, block_removeBlock]
  split
  · rfl
  · exact ended k

/-- A kill leaves what a removal leaves, or nothing changes. -/
theorem kill_retired {s : State} {b : Block} (h : b.stage = .retired) : s.kill b = s := if_pos h

theorem kill_blocks {s : State} {b : Block} (h : b.stage ≠ .retired) : (s.kill b).blocks = (s.removeBlock b.id).blocks := by
  unfold State.kill
  generalize s.removeBlock b.id = s1
  dsimp only
  rw [if_neg h]
  split
  · rfl
  · split <;> rfl

theorem Threadless.kill {s : State} {c : Nat} (hs : Threadless s c) (b : Block) : Threadless (s.kill b) c := by
  by_cases h : b.stage = .retired
  · rw [kill_retired h]
    exact hs
  · exact (hs.removeBlock b.id).of_blocks (kill_blocks h)

theorem Threadless.foldl {α : Type} {c : Nat} {f : State → α → State} (hf : ∀ s x, Threadless s c → Threadless (f s x) c) (l : List α)
    {s : State} (hs : Threadless s c) : Threadless (l.foldl f s) c := by
  induction l generalizing s with
  | nil => exact hs
  | cons x l ih => exact ih (hf s x hs)

theorem tell_blocks (s : State) (c type blk : Nat) : (s.tell c type blk).blocks = s.blocks := by
  unfold State.tell
  split <;> rfl

theorem report_blocks (s : State) (c : Nat) (m : CairnMsg) : (s.report c m).blocks = s.blocks := by
  unfold State.report
  split <;> rfl

theorem reportFault_blocks (s : State) (b : Block) (members : List Block) : (s.reportFault b members).blocks = s.blocks := by
  rw [State.reportFault]
  exact (foldl_blocks (fun s (x : Block) => s.tell x.cluster 2 x.id) (fun s x => tell_blocks s x.cluster 2 x.id) _ _).trans
    (report_blocks s _ _)

theorem Threadless.cancelLaunch {s : State} {c : Nat} (hs : Threadless s c) (lid : Nat) (hard fault : Bool) :
    Threadless (s.cancelLaunch lid hard fault) c := by
  unfold State.cancelLaunch
  split
  · exact hs
  · split
    · exact hs
    · refine Threadless.of_blocks ?_ rfl
      refine Threadless.foldl (fun _ x h => h.kill x) _ (Threadless.of_blocks ?_
        (foldl_blocks (fun s (x : Block) => s.tell x.cluster 2 x.id) (fun s x => tell_blocks s x.cluster 2 x.id) _ _))
      exact hs.of_blocks rfl

theorem countFault_same (s : State) (x : Block × FaultEntry) : (s.countFault x).blocks = s.blocks ∧ (s.countFault x).replaying = s.replaying := by
  unfold State.countFault
  split <;> exact ⟨rfl, rfl⟩

theorem fatal_threadless {s : State} {b : Block} {e : FaultEntry} (hb : s.block? b.id = some b) (hg : b.gang = none)
    (hr : s.replays b.id = false) (hs : b.stage ≠ .retired) : Threadless (s.fatal b e) b.id := by
  obtain ⟨hblocks, hreplaying⟩ := countFault_same s (b, e)
  let s1 := s.countFault (b, e)
  have there : (s1.block? b.id).isNone = false := by
    rw [State.block?, hblocks]
    exact Option.isNone_eq_false_iff.mpr (Option.isSome_iff_exists.mpr ⟨b, hb⟩)
  have live : s1.replays b.id = false := by
    rw [State.replays, State.replayOf, hreplaying]
    exact hr
  have alone : s1.gangOf b = [b] := by rw [State.gangOf, hg]
  show Threadless (s1.endBlock b) b.id
  rw [State.endBlock, there, live, if_neg Bool.false_ne_true, if_neg Bool.false_ne_true, alone]
  refine Threadless.cancelLaunch ?_ _ _ _
  refine (threadless_of_block (s := (s1.reportFault b [b]).removeBlock b.id) ?_).of_blocks ?_
  · rw [block_removeBlock, if_pos rfl]
  · exact kill_blocks hs

/-- A trap that nothing handles is the end of the block. -/
theorem takeTrap_fatal {s : State} {b : Block} {t : Thread} {tr : Trap} (hb : s.block? b.id = some b) (ht : b.thread? t.tidx = some t)
    (hh : handled tr.cause = false) (hr : replayable tr.cause = false) (hf : failOp tr.cause = false) :
    ∃ e, s.takeTrap b.id t.tidx tr = s.fatal b e := by
  refine ⟨s.entryFor b t.tidx tr (if t.inside then 1 else 0), ?_⟩
  have h15 : ¬ tr.cause = 0x0F := fun h => by rw [h] at hh; cases hh
  have h17 : ¬ tr.cause = 0x11 := fun h => by rw [h] at hh; cases hh
  simp [State.takeTrap, hb, ht, hh, hr, hf, h15, h17]

theorem reexamine_threadless {s : State} {c : Nat} (h : Threadless s c) (n g : Nat) : s.reexamine n c g = s := by
  cases hb : s.block? c with
  | none =>
    cases n with
    | zero => rfl
    | succ n => rw [State.reexamine, hb]
  | some b =>
    refine reexamine_free hb (fun x hx => ?_) n
    have gone := h x.tidx
    rw [State.thread?, hb, Option.bind_some] at gone
    exact absurd (beq_self_eq_true _) (List.find?_eq_none.mp gone x hx)

/-! ### One lane at a meeting word -/

theorem waiting_keeps (v : Wait) : KeepsIndex (fun x => Waiting x v) := fun _ => rfl

theorem meetingBlock_nil (m : Meet) (w : Word) (b : Block) : meetingBlock m w b [] = b :=
  congrArg (fun ts => { b with threads := ts }) (List.map_id'' (f := meetingThread m w b []) (fun _ => rfl) b.threads)

theorem lanesOf_one {b : Block} {t : Thread} (hn : (b.threads.map Thread.tidx).Nodup) (ht : b.thread? t.tidx = some t) :
    lanesOf b [t.tidx] = [t] := by
  obtain ⟨hm, -⟩ := thread_mem ht
  obtain ⟨l1, l2, hl⟩ := List.append_of_mem hm
  have away {x : Thread} (hx : x ∈ l1 ∨ x ∈ l2) : ¬ [t.tidx].contains x.tidx = true := by
    rw [hl, List.map_append, List.map_cons, List.nodup_middle, List.nodup_cons, List.mem_append] at hn
    intro hc
    have htx : x.tidx = t.tidx := by simpa using hc
    rcases hx with hx | hx
    · exact hn.1 (.inl (htx ▸ List.mem_map_of_mem hx))
    · exact hn.1 (.inr (htx ▸ List.mem_map_of_mem hx))
  rw [lanesOf, hl, List.filter_append, List.filter_cons_of_pos (by simp), List.filter_eq_nil_iff.mpr (fun x hx => away (.inl hx)),
    List.filter_eq_nil_iff.mpr (fun x hx => away (.inr hx))]
  rfl

theorem meetKnow_mapThread (s : State) (b : Block) (ts : List Nat) (c k : Nat) (f : Thread → Thread) :
    (s.mapThread c k f).meetKnow b ts = (s.meetKnow b ts).mapThread c k f := by
  unfold State.meetKnow State.renew
  dsimp only
  rw [apply_ite (fun x : State => x.mapThread c k f)]
  rfl

theorem meetKnow_block (s : State) (b : Block) (ts : List Nat) (c : Nat) : (s.meetKnow b ts).block? c = s.block? c := by
  have hblocks : (s.meetKnow b ts).blocks = s.blocks := (congrArg State.blocks (meetKnow_frame s b ts) :)
  rw [State.block?, hblocks]
  rfl

theorem engineOf_word {i : Instr} {w : Word} {m : Meet} (h : engineOf i = some (w, m)) :
    m.cross = false ∧ (formIn i).sup = false ∧ ∀ s, exec i s = engineWord m i w s := by
  unfold engineOf at h
  split at h
  case h_7 => cases h
  all_goals
    cases h
    exact ⟨rfl, rfl, fun _ => rfl⟩

/-- The lanes of an engine word arrive, whatever their guards. -/
theorem arrives_engine {i : Instr} {w : Word} {m : Meet} (h : (formIn i).sup = false) :
    Arrives m { planOf i w with ctr := some .cp, always := true, elected := true } (fun g e s =>
      if m == .adrn && !s.turn e.blk e.th then .stay (s.hold e.blk.id e.th.tidx (.steer none))
      else .stay (s.hold e.blk.id e.th.tidx (.meet m w (e.namedSet w g) g))) := by
  refine ⟨rfl, h, fun _ => rfl, fun s e hr => ?_⟩
  exact if_neg (by rw [turn_live hr e.th, Bool.not_true, Bool.and_false]; exact Bool.false_ne_true)

theorem runLanes_stay {p : Plan} {body : Bool → Env → State → LaneEnd} {steps : List Nat} {blk k : Nat} {s s' : State}
    (h : laneOut p body steps blk s k = (s', none)) : runLanes p body steps blk [k] [] s = s' := by
  rw [runLanes, h]
  rfl

section
variable {m : Meet} {w : Word} {b : Block} {t : Thread} {g : Nat} {pc : W32}

/-- A release of one lane of an engine or drain word. -/
theorem release_engine {s : State} (hm : m.cross = false) (hb : s.block? b.id = some (meetingBlock m w b [t.tidx]))
    (htr : (s.ctx b.decl.ctx).traces 2 = false) :
    s.release (meetingBlock m w b [t.tidx]) g [arrivalOf m w b t] =
      (s.meetKnow b [t.tidx]).releaseEngine (meetingBlock m w b [t.tidx]) (arrivalOf m w b t) [arrivalOf m w b t] := by
  have traced (x y : W64) : s.trace b.id g 2 (arrivalOf m w b t).pc x y 0x80000000#32 0 = s :=
    trace_off (b := meetingBlock m w b [t.tidx]) hb htr
  have cross : (arrivalOf m w b t).meet.cross = false := hm
  have head : [arrivalOf m w b t].head? = some (arrivalOf m w b t) := rfl
  rw [State.release, head]
  dsimp only
  rw [cross, Bool.false_or, if_neg Bool.false_ne_true]
  have same (c : Prop) [Decidable c] (x y : W64) : (if c then s.trace (meetingBlock m w b [t.tidx]).id g 2 (arrivalOf m w b t).pc x y
      0x80000000#32 0 else s) = s := by
    split
    · exact traced x y
    · rfl
  rw [same]
  rfl

/-- The lane goes on. -/
theorem passAll_one {s : State} (hst : b.stepping.contains (b.gidOf t.tidx) = false)
    (hq : ∀ x, s.thread? b.id t.tidx = some x → x.stepDue = false) :
    s.passAll (meetingBlock m w b [t.tidx]) [(t.tidx, t.pc, w.hnt.yld)] =
      s.mapThread b.id t.tidx (fun x => x.passed (t.pc + 1) w.hnt.yld) := by
  have step : (meetingBlock m w b [t.tidx]).stepping.contains ((meetingBlock m w b [t.tidx]).gidOf t.tidx) = false := hst
  show s.completeLane b.id t.tidx (t.pc + 1) w.hnt.yld _ = _
  rw [step]
  exact completeLane_quiet _ _ _ _ _ hq

/-- The command that an elected lane issues. -/
def cmdOf (e : Env) (k : Nat) (y : Issued) : Cmd :=
  { id := y.1.seq, ctx := e.blk.decl.ctx, blk := e.blk.id, tidx := e.th.tidx, pc := e.th.pc, sup := e.th.sup,
    cluster := e.blk.cluster, stage := .queued, start := y.2.2, lanes := [k], gone := false, read := [], job := y.2.1 }

theorem queueCmd_one (e : Env) (k : Nat) (y : Issued) : queueCmd e [k] y =
    ({ y.1 with seq := y.1.seq + 1, cmds := y.1.cmds ++ [cmdOf e k y] } : State).mapThread e.blk.id k
      (fun x => { x with cnt := x.cnt.add .cp }) := rfl

/-- A command is queued in a state that the checks of its word leave, and its lane goes on. -/
theorem queued_spec {s : State} {y : Issued} {e : Env} {c : Nat} {b1 : Block} (hs : SlotsOnly s y.1) (hb : s.block? c = some b1)
    (he : e.blk.id = c) (ht : b1.thread? t.tidx = some t) (hq : t.stepDue = false) (pc : W32) (yld : Bool) :
    let s' := (queueCmd e [t.tidx] y).mapThread c t.tidx (fun x => x.passed pc yld)
    (∃ b', s'.block? c = some b' ∧ b'.decl = b1.decl ∧
      b'.threads = (b1.mapThread t.tidx (fun x => ({ x with cnt := x.cnt.add .cp } : Thread).passed pc yld)).threads) ∧
    (∀ x, (queueCmd e [t.tidx] y).thread? c t.tidx = some x → x.stepDue = false) ∧
    s'.cmds = s.cmds ++ [cmdOf e t.tidx y] := by
  obtain ⟨hframe, hblocks⟩ := hs
  subst he
  have hcmds : y.1.cmds = s.cmds := (congrArg State.cmds hframe :)
  have same := hblocks e.blk.id
  rw [hb, Option.map_some] at same
  obtain ⟨b', hb', hpair⟩ := Option.map_eq_some_iff.mp same
  obtain ⟨hthreads, hdecl⟩ := Prod.mk.inj hpair
  have keeps : KeepsIndex (fun x : Thread => { x with cnt := x.cnt.add .cp }) := fun _ => rfl
  rw [queueCmd_one]
  refine ⟨⟨b'.mapThread t.tidx (fun x => ({ x with cnt := x.cnt.add .cp } : Thread).passed pc yld), ?_, hdecl, ?_⟩, ?_, ?_⟩
  · rw [state_mapThread_mapThread _ _ _ _ _ keeps]
    refine (block_mapBlock _ _ _ _).trans ?_
    rw [if_pos rfl]
    exact congrArg (Option.map _) hb'
  · exact congrArg (List.map _) hthreads
  · intro x hx
    rw [state_thread_mapThread _ _ _ _ _ _ keeps, if_pos ⟨rfl, rfl⟩] at hx
    obtain ⟨z, hz, rfl⟩ := Option.map_eq_some_iff.mp hx
    have hz : (y.1.block? e.blk.id).bind (fun b => b.thread? t.tidx) = some z := hz
    rw [hb', Option.bind_some, Block.thread?, hthreads] at hz
    have hz : b1.thread? t.tidx = some z := hz
    rw [ht] at hz
    cases hz
    exact hq
  · show y.1.cmds ++ _ = _
    rw [hcmds]

end

/-- Settles O38: the lane waits, is the whole release, and its command is queued, or its check traps. -/
theorem engineWordsIssue : Obligations.EngineWordsIssue := by
  intro i w m s b t hi h ht hrun guard named s1 s2 b1 e hnamed
  obtain ⟨hm, hsup, hex⟩ := engineOf_word hi
  have meets := meets_of_bundle h (m := m) (.inr hrun)
  obtain ⟨hlatch, -, hb, hd, -, -, hn, hr, htr, hl, -⟩ := id h
  obtain ⟨t', ht', -, -, hw, hcp, hpred, hsec, hguard, hstep, hdue⟩ := hl t.tidx List.mem_cons_self
  rw [ht] at ht'
  cases ht'
  let g := b.gidOf t.tidx
  let s0 := s.hold b.id t.tidx (meetingWait m w b t)
  let bm := meetingBlock m w b [t.tidx]
  have hbm : b1 = bm := by
    have := meetingBlock_cons (m := m) (w := w) (lanes := []) hn ht
    rw [meetingBlock_nil] at this
    exact this
  have hb0 : s0.block? b.id = some bm := by
    rw [← hbm]
    refine (block_mapBlock _ _ _ _).trans ?_
    rw [if_pos rfl, hb]
    rfl
  have arrive : exec i s = .next (s0.reexamine 64 b.id g).endWord := by
    have ready : laneArrives s { planOf i w with ctr := some .cp, always := true, elected := true } b g t :=
      ⟨ht, rfl, hw, .inr ⟨rfl, hcp⟩, hpred, hsec, hguard⟩
    have out := laneOut_arrives (arrives_engine (m := m) (w := w) (i := i) hsup) (steps := b.stepping) hb hr ready
    rw [hex, engineWord, runWord_bundle (p := { planOf i w with ctr := some .cp, always := true, elected := true })
      hlatch rfl hb hd, runLanes_stay out]
    exact congrArg (fun x => Host.Outcome.next (State.endWord x)) (reexamineAfter_one (s' := s0) (b := bm) hb0)
  have due : s0.releaseOne bm g = some (s1.releaseEngine bm (arrivalOf m w b t) [arrivalOf m w b t]) := by
    have lanes := lanesOf_one hn ht
    have closed : ∀ x ∈ lanesOf b [t.tidx], ∀ n, (namedBy w b g x).getLsbD n = true →
        ∃ y ∈ lanesOf b [t.tidx], y.tidx % b.decl.width = n := by
      rw [lanes]
      intro x hx n hbit
      obtain rfl := List.mem_singleton.mp hx
      have lt : n < 64 := BitVec.lt_of_getLsbD hbit
      have := (covered_iff _ _).mp (beq_iff_eq.mpr hnamed) n lt hbit
      rw [getLsbD_bit _ lt, beq_iff_eq] at this
      exact ⟨x, List.mem_cons_self, this⟩
    have whole := releasable_whole meets (w := w) (by rw [lanes]; exact List.cons_ne_nil _ _) closed
    rw [lanes] at whole
    rw [State.releaseOne, joinMet_meeting meets, show bm.releasable g = some [arrivalOf m w b t] from whole]
    exact congrArg some (release_engine hm hb0 htr)
  have looked (s3 : State) (h3 : s1.releaseEngine bm (arrivalOf m w b t) [arrivalOf m w b t] = s3)
      (hfree : s3.reexamine 63 b.id g = s3) : exec i s = .next s3.endWord := by
    rw [arrive, State.reexamine, hb0]
    dsimp only
    rw [due]
    dsimp only
    rw [h3, hfree]
  have hb1 : s1.block? b.id = some bm := (meetKnow_block s0 b [t.tidx] b.id).trans hb0
  have htm : bm.thread? t.tidx = some (Waiting t (meetingWait m w b t)) := by
    rw [← hbm]
    refine (thread_mapThread b _ _ _ (waiting_keeps (meetingWait m w b t))).trans ?_
    rw [if_pos rfl, ht]
    rfl
  have quiet1 : ∀ x, s1.thread? b.id t.tidx = some x → x.stepDue = false := by
    intro x hx
    rw [State.thread?, hb1, Option.bind_some, htm] at hx
    cases hx
    exact hdue
  have idle {f : Thread → Thread} (hf : KeepsIndex f) (hwait : ∀ x, (f x).wait = none) {x : Thread}
      (hx : x ∈ (bm.mapThread t.tidx f).threads) (hg : b.gidOf x.tidx = g) : x.wait = none := by
    rw [← hbm] at hx
    have hx : x ∈ ((b.mapThread t.tidx (fun x => Waiting x (meetingWait m w b t))).mapThread t.tidx f).threads := hx
    rw [mapThread_mapThread _ _ _ _ (waiting_keeps (meetingWait m w b t))] at hx
    rcases (mem_mapThread hn ht).mp hx with rfl | ⟨hxb, hxt⟩
    · exact hwait _
    · exact meets.other x hxb hg (by simpa using hxt)
  have pass : exec i s = .next (wentOn s2 b t w id (t.pc + 1)) ↔
      exec i s = .next (s1.mapThread b.id t.tidx (fun x => x.passed (t.pc + 1) w.hnt.yld)).endWord := by
    have merged : s1.mapThread b.id t.tidx (fun x => x.passed (t.pc + 1) w.hnt.yld) =
        s2.mapThread b.id t.tidx (fun x => x.passed (t.pc + 1) w.hnt.yld) := by
      have hs1 : s1 = s2.mapThread b.id t.tidx (fun x => Waiting x (meetingWait m w b t)) := meetKnow_mapThread ..
      rw [hs1, state_mapThread_mapThread _ _ _ _ _ (waiting_keeps (meetingWait m w b t))]
      rfl
    rw [merged]
    rfl
  have passes (hgo : s1.releaseEngine bm (arrivalOf m w b t) [arrivalOf m w b t] = s1.passAll bm [(t.tidx, t.pc, w.hnt.yld)]) :
      exec i s = .next (wentOn s2 b t w id (t.pc + 1)) := by
    refine pass.mpr (looked _ (hgo.trans (passAll_one hstep quiet1)) ?_)
    refine reexamine_free (b := bm.mapThread t.tidx (fun x => x.passed (t.pc + 1) w.hnt.yld)) ?_
      (fun x hx hg => idle (passed_keeps _ _) (fun _ => rfl) hx hg) 63
    refine (block_mapBlock _ _ _ _).trans ?_
    rw [if_pos rfl, hb1]
    rfl
  have elected (hg : guard = true) : [arrivalOf m w b t].find? (fun x => x.guard) = some (arrivalOf m w b t) :=
    List.find?_cons_of_pos hg
  refine ⟨fun hg => passes ?_, fun hg => ⟨fun hok => passes ?_, fun y hok => ?_, fun tr herr hrep hfail hhand hgang => ?_⟩⟩
  · have none' : [arrivalOf m w b t].find? (fun x => x.guard) = none :=
      List.find?_eq_none.mpr (fun x hx => by
        obtain rfl := List.mem_singleton.mp hx
        exact fun hc => Bool.false_ne_true (hg.symm.trans hc))
    rw [State.releaseEngine, none']
    rfl
  · have hok : engineIssue (arrivalOf m w b t).meet (arrivalOf m w b t).w ⟨bm, (arrivalOf m w b t).th⟩ s1 = .ok none := by
      rw [← hbm]
      exact hok
    rw [State.releaseEngine, elected hg]
    dsimp only
    rw [hok]
    rfl
  · have slots := engineIssue_slots hok
    have hok : engineIssue (arrivalOf m w b t).meet (arrivalOf m w b t).w ⟨bm, (arrivalOf m w b t).th⟩ s1 = .ok (some y) := by
      rw [← hbm]
      exact hok
    obtain ⟨⟨b', hb', hdecl, hthreads⟩, hquiet, hcmds⟩ := queued_spec (t := Waiting t (meetingWait m w b t)) (e := ⟨bm, Waiting t (meetingWait m w b t)⟩)
      slots hb1 rfl htm hdue (t.pc + 1) w.hnt.yld
    have go : s1.releaseEngine bm (arrivalOf m w b t) [arrivalOf m w b t] =
        (queueCmd ⟨bm, Waiting t (meetingWait m w b t)⟩ [t.tidx] y).mapThread b.id t.tidx (fun x => x.passed (t.pc + 1) w.hnt.yld) := by
      have lanes : ([arrivalOf m w b t].filter Arrival.guard).map (fun x => x.th.tidx) = [t.tidx] := by
        rw [List.filter_cons_of_pos (p := Arrival.guard) hg]
        rfl
      rw [State.releaseEngine, elected hg]
      dsimp only
      rw [hok]
      dsimp only
      rw [lanes]
      exact passAll_one hstep hquiet
    let went : Thread := ({ Waiting t (meetingWait m w b t) with cnt := t.cnt.add .cp } : Thread).passed (t.pc + 1) w.hnt.yld
    refine ⟨_, went, looked _ go ?_, ?_, rfl, rfl, rfl, rfl, cmdOf ⟨bm, Waiting t (meetingWait m w b t)⟩ t.tidx y, ?_, rfl, rfl, rfl, rfl, rfl, rfl, rfl, rfl⟩
    · refine reexamine_free hb' (fun x hx hg => ?_) 63
      rw [hthreads] at hx
      refine idle (f := fun x => ({ x with cnt := x.cnt.add .cp } : Thread).passed (t.pc + 1) w.hnt.yld) (fun _ => rfl) (fun _ => rfl) hx ?_
      have : b'.gidOf x.tidx = b.gidOf x.tidx := congrArg (fun d : Decl => x.tidx / d.width) hdecl
      exact this.symm.trans hg
    · have found := thread_mapThread bm t.tidx t.tidx (fun x => ({ x with cnt := x.cnt.add .cp } : Thread).passed (t.pc + 1) w.hnt.yld) (fun _ => rfl)
      rw [if_pos rfl, htm] at found
      refine Eq.trans ?_ found
      refine (congrArg (fun o => Option.bind o (fun b => b.thread? t.tidx)) hb').trans ?_
      exact congrArg (fun ts => List.find? (fun x => x.tidx == t.tidx) ts) hthreads
    · refine hcmds.trans (congrArg (· ++ _) ?_)
      exact (congrArg State.cmds (meetKnow_frame s0 b [t.tidx]) :)
  · have herr : engineIssue (arrivalOf m w b t).meet (arrivalOf m w b t).w ⟨bm, (arrivalOf m w b t).th⟩ s1 = .error tr := by
      rw [← hbm]
      exact herr
    have go : s1.releaseEngine bm (arrivalOf m w b t) [arrivalOf m w b t] = s1.takeTrap b.id t.tidx tr := by
      have only : ([(t.tidx, t.pc, w.hnt.yld)].filter (fun x : Nat × W32 × Bool => x.1 != t.tidx)) = [] :=
        List.filter_eq_nil_iff.mpr (fun x hx => by
          obtain rfl := List.mem_singleton.mp hx
          simp)
      rw [State.releaseEngine, elected hg]
      dsimp only
      rw [herr]
      dsimp only
      rw [hrep, if_neg Bool.false_ne_true]
      exact congrArg (fun l => (s1.passAll bm l).takeTrap b.id t.tidx tr) only
    refine looked _ go ?_
    obtain ⟨entry, hfatal⟩ := takeTrap_fatal (b := bm) (t := Waiting t (meetingWait m w b t)) hb1 htm hhand hrep hfail
    have hfatal : s1.takeTrap b.id t.tidx tr = s1.fatal bm entry := hfatal
    rw [hfatal]
    have live : s1.replays bm.id = false := by
      have := congrArg State.replaying (meetKnow_frame s0 b [t.tidx])
      have same : s1.replaying = s.replaying := this
      rw [State.replays, State.replayOf, same]
      exact hr
    exact reexamine_threadless (fatal_threadless (b := bm) hb1 hgang live (by rw [show bm.stage = .running from hrun]; decide)) 63 g

end Sys2Proof.Proofs
end


section
/-! The contraction words (O39). -/

namespace Sys2Proof.Proofs

open Sys2Proof Sys2Proof.Machine Sys2Proof.Laws

/-! ### A thread that no STEP follows, whatever else changes -/

/-- No STEP follows the word of a thread. -/
def QuietAt (s : State) (c k : Nat) : Prop := ∀ x, s.thread? c k = some x → x.stepDue = false

section
variable {s : State} {c k : Nat} (h : QuietAt s c k)
include h

theorem QuietAt.of_blocks {s' : State} (hs : s'.blocks = s.blocks) : QuietAt s' c k := by
  intro x hx
  rw [State.thread?, State.block?, hs] at hx
  exact h x hx

theorem QuietAt.mapBlock (d : Nat) {f : Block → Block} (hf : ∀ b, (f b).threads = b.threads) : QuietAt (s.mapBlock d f) c k := by
  intro x hx
  refine h x ?_
  rw [State.thread?, block_mapBlock] at hx
  split at hx
  · cases hb : s.block? c with
    | none =>
      rw [hb] at hx
      cases hx
    | some b =>
      rw [hb, Option.map_some, Option.bind_some, Block.thread?, hf] at hx
      rw [State.thread?, hb]
      exact hx
  · exact hx

theorem QuietAt.mapThread (d j : Nat) {f : Thread → Thread} (hf : KeepsIndex f) (hd : ∀ x, (f x).stepDue = x.stepDue) :
    QuietAt (s.mapThread d j f) c k := by
  intro x hx
  rw [state_thread_mapThread _ _ _ _ _ _ hf] at hx
  split at hx
  · obtain ⟨y, hy, rfl⟩ := Option.map_eq_some_iff.mp hx
    exact (hd y).trans (h y hy)
  · exact h x hx

theorem QuietAt.openInst (ob : Block) (i : Nat) (sl : Slot) (p : InstParams) (jm : W64) : QuietAt (s.openInst ob i sl p jm) c k :=
  (h.of_blocks (s' := { s with seq := s.seq + 1 }) rfl).mapBlock ob.id (fun _ => rfl)

theorem QuietAt.postPass {s' : State} {ob : Block} {i fmt : Nat} (hp : s.postPass ob i fmt = some s') : QuietAt s' c k := by
  refine h.of_blocks ?_
  unfold State.postPass at hp
  dsimp only at hp
  split at hp
  · cases hp
    rfl
  · split at hp
    · cases hp
    · cases hp
      rfl

theorem QuietAt.recordArrival (e : Env) (w : Word) (kind : Nat) (ob : Block) (i si : Nat) (con : Bool) :
    QuietAt (s.recordArrival e w kind ob i si true con) c k := by
  unfold State.recordArrival
  extract_lets inst s1 s2 offs bar
  have h1 : QuietAt s1 c k := h.mapBlock ob.id (fun _ => rfl)
  have h2 : QuietAt s2 c k :=
    (h1.of_blocks (s' := { s1 with seq := s1.seq + 1 }) rfl).mapThread e.blk.id e.th.tidx (fun _ => rfl) (fun _ => rfl)
  split
  · split
    · exact h2
    · split
      · exact (h2.of_blocks (s' := { s2 with seq := s2.seq + 1 }) rfl).mapThread _ _ (fun _ => rfl) (fun _ => rfl)
      · exact (h2.of_blocks (s' := { s2 with seq := s2.seq + 1 }) rfl).mapThread _ _ (fun _ => rfl) (fun _ => rfl)
  · exact h2

end

/-! ### The word -/

theorem yieldAt_unhandled {s : State} {blk k : Nat} {w : Word} {tr : Trap} (h : handled tr.cause = false) : s.yieldAt blk k w tr = s := by
  rw [State.yieldAt, h, Bool.and_false]
  rfl

/-- The traps of R262 end the block. -/
theorem ctrsFault_unhandled {e : Env} {w : Word} {tr : Trap} (h : ctrsFault e w = some tr) : handled tr.cause = false := by
  unfold ctrsFault at h
  dsimp only at h
  split at h
  · cases h
    rfl
  · split at h
    · cases h
      rfl
    · split at h
      · rename_i c d hobj
        cases h
        unfold Block.objFault at hobj
        split at hobj
        · cases hobj
          rfl
        · split at hobj
          · cases hobj
            rfl
          · cases hobj
      · split at h
        · cases h
        · cases h
          rfl

/-- A lane that its word lets pass without a look at it. -/
theorem runWord_skip {s : State} {i : Instr} {w : Word} {b : Block} {t : Thread} {p : Plan} {body : Bool → Env → State → LaneEnd}
    {post : Bundle → State → State → State} (h : issues s i w b t) (hi : p.i = i) (hw : p.w = w) (hf : p.f = formIn i)
    (hk : p.skip ⟨b, t⟩ = true) :
    runWord p body post s = .next (post ⟨b.id, [t.tidx], t.pc⟩ s
      (s.mapThread b.id t.tidx (fun x => x.passed (t.pc + 1) w.hnt.yld))).endWord := by
  have quiet := issues_quiet h (s' := s) rfl
  obtain ⟨hl, hb, hd, -, ⟨ht, hsup, hpred, hsec, -, -⟩, hst, -⟩ := h
  have legal : illegalDetail b p.i p.f.team = 0 := by rw [hi, hf]; exact hd
  have out : laneOut p body b.stepping b.id s t.tidx = (s.mapThread b.id t.tidx (fun x => x.passed (t.pc + 1) w.hnt.yld), none) := by
    have sup : ¬ (p.f.sup && !t.sup) = true := by
      rw [hf, Bool.and_eq_true]
      rintro ⟨h1, h2⟩
      rw [hsup h1] at h2
      cases h2
    have pred : ¬ b.decl.preds ≤ p.w.grd.pred.toNat := by rw [hw]; exact Nat.not_le.mpr hpred
    have sec : ¬ (sectionForbids (opNum p.i) && ((s.sectionOf b.id t.tidx).map Section.live).getD false) = true := by
      rw [hi, hsec]
      exact Bool.false_ne_true
    rw [laneOut, hb]
    dsimp only
    rw [ht]
    dsimp only
    rw [if_neg sup, if_neg pred, if_neg sec, hk, Bool.or_true, if_pos rfl, hst, Bool.false_and, passLane_quiet _ _ _ _ _ quiet, hw]
    rfl
  rw [runWord_bundle hl rfl hb legal, runLanes_stay out]

theorem ctrOf_word {i : Instr} {w : Word} {kind : Nat} (h : ctrOf i = some (w, kind)) : ∀ s, exec i s = ctrWord i w kind s := by
  unfold ctrOf at h
  split at h
  case h_4 => cases h
  all_goals
    cases h
    exact fun _ => rfl

theorem ctr_looks {w : Word} {b : Block} {t : Thread}
    (hbit : modF w 4 2 ≠ 0 ∨ (b.joinMask (b.gidOf t.tidx) (immF w 20 3)).getLsbD (t.tidx % b.decl.width) = true) :
    (modF w 4 2 == 0 && !(b.joinMask (Env.gid ⟨b, t⟩) (immF w 20 3)).getLsbD (Env.lane ⟨b, t⟩)) = false := by
  rcases hbit with hm | hm
  · rw [beq_false_of_ne hm, Bool.false_and]
  · have hm : (b.joinMask (Env.gid ⟨b, t⟩) (immF w 20 3)).getLsbD (Env.lane ⟨b, t⟩) = true := hm
    rw [hm, Bool.not_true, Bool.and_false]

section
variable {i : Instr} {w : Word} {kind : Nat} {s : State} {b : Block} {t : Thread} (hi : ctrOf i = some (w, kind)) (h : issues s i w b t)
  (htl : t.cnt.tl < 63) (hbit : modF w 4 2 ≠ 0 ∨ (b.joinMask (b.gidOf t.tidx) (immF w 20 3)).getLsbD (t.tidx % b.decl.width) = true)
include hi h htl hbit

theorem ctr_passes {s' : State} (hb : ctrLane w kind true ⟨b, t⟩ s = .done s' (t.pc + 1)) (hq : QuietAt s' b.id t.tidx) :
    exec i s = .next ((s'.mapThread b.id t.tidx (fun x => x.passed (t.pc + 1) w.hnt.yld)).settle b.id).endWord := by
  rw [ctrOf_word hi, ctrWord]
  exact runWord_pass s' (t.pc + 1) h hb hq rfl rfl rfl (ctr_looks hbit) (hasRoom_of_lt (c := .tl) rfl htl)

theorem ctr_stays {s' : State} (hb : ctrLane w kind true ⟨b, t⟩ s = .stay s') : exec i s = .next (s'.settle b.id).endWord := by
  rw [ctrOf_word hi, ctrWord]
  exact runWord_stay s' h hb rfl rfl rfl (ctr_looks hbit) (hasRoom_of_lt (c := .tl) rfl htl)

theorem ctr_traps {tr : Trap} (hb : ctrLane w kind true ⟨b, t⟩ s = .trap s tr 0) (ht : handled tr.cause = false) :
    exec i s = .next ((s.takeTrap b.id t.tidx tr).settle b.id).endWord := by
  rw [ctrOf_word hi, ctrWord]
  refine (runWord_trap s tr 0 h hb rfl rfl rfl (ctr_looks hbit) (hasRoom_of_lt (c := .tl) rfl htl)).trans ?_
  rw [yieldAt_unhandled ht]

end

theorem ctrLane_unresolved {w : Word} {kind d : Nat} {e : Env} {s : State} (hres : s.resolve e ((e.tuple w.a 1).getD 0 0) = .error d) :
    ctrLane w kind true e s = .trap s (mkTrap 9 d e.th.pc) 0 := by
  simp only [ctrLane, hres, Bool.not_true, Bool.false_and, Bool.false_eq_true, if_false, if_true]

section
variable {w : Word} {kind : Nat} {e : Env} {s : State} {ob : Block} {k : Nat} {sl : Slot}
  (hres : s.resolve e ((e.tuple w.a 1).getD 0 0) = .ok (ob, k, sl))
include hres

theorem ctrLane_unsuited (hs : suits (paramsOf w kind) sl = false) : ctrLane w kind true e s = .trap s (mkTrap 1 10 e.th.pc) 0 := by
  simp only [ctrLane, hres, hs, Bool.not_true, Bool.false_and, Bool.false_eq_true, if_false, Bool.not_false, Bool.true_or, Bool.and_self,
    if_true]

/-- The state in which the slot has an open contraction. -/
def withInst (w : Word) (kind : Nat) (e : Env) (s : State) (ob : Block) (k : Nat) (sl : Slot) : State :=
  if sl.inst.isNone then s.openInst ob k sl (paramsOf w kind) (e.blk.joinMask e.gid (immF w 20 3)) else s

/-- A lane with a true guard on a handle that resolves to a slot that its word suits. -/
theorem ctrLane_suited {x : Inst} (hs : suits (paramsOf w kind) sl = true)
    (hx : ((withInst w kind e s ob k sl).slot? ob.id k).bind Slot.inst = some x) :
    let si := sl.indexOf e.blk e.th.tidx
    let p := paramsOf w kind
    let stamp := e.slotStamp s ob.id k
    let s1 := withInst w kind e s ob k sl
    let mayArrive := x.expected.contains si && !x.arrived.contains si
    ctrLane w kind true e s =
      if mayArrive = true ∧ x.params ≠ p then .trap s (mkTrap 1 10 e.th.pc) 0
      else match (if kind = 1 then ctrsFault e w else none) with
        | some tr => .trap s tr 0
        | none =>
          if sl.inst = none ∧ s.heldAhead ob.id k stamp false = true then s.holdAt e (.closure ob.id k stamp)
          else if mayArrive = false then s1.holdAt e (.closure ob.id k stamp)
          else if p.fmt = 9 ∧ pnfOf (NMap.read 0 e.blk.fm p.low) = none then .trap s (mkTrap 0x14 0 e.th.pc) 0
          else if e.tile (immF w 23 4) = true then
            match s1.postPass ob k p.fmt with
            | none => s.holdAt e (.table ob.id k stamp)
            | some s2 => .done (s2.recordArrival e w kind ob k si true true) (e.th.pc + 1)
          else .done (s1.recordArrival e w kind ob k si true false) (e.th.pc + 1) := by
  intro si p stamp s1 mayArrive
  have blocked : (!x.expected.contains si || x.arrived.contains si) = !mayArrive := by
    show _ = !(x.expected.contains si && !x.arrived.contains si)
    cases x.expected.contains si <;> cases x.arrived.contains si <;> rfl
  have first : ctrLane w kind true e s = if decide (x.params ≠ p) && mayArrive then .trap s (mkTrap 1 10 e.th.pc) 0
      else match (if kind = 1 then ctrsFault e w else none) with
        | some tr => .trap s tr 0
        | none =>
          if sl.inst.isNone && s.heldAhead ob.id k stamp false then s.holdAt e (.closure ob.id k stamp)
          else if !mayArrive then s1.holdAt e (.closure ob.id k stamp)
          else if p.fmt == 9 && (pnfOf (NMap.read 0 e.blk.fm p.low)).isNone then .trap s (mkTrap 0x14 0 e.th.pc) 0
          else if e.tile (immF w 23 4) = true then
            match s1.postPass ob k p.fmt with
            | none => s.holdAt e (.table ob.id k stamp)
            | some s2 => .done (s2.recordArrival e w kind ob k si true true) (e.th.pc + 1)
          else .done (s1.recordArrival e w kind ob k si true false) (e.th.pc + 1) := by
    rw [withInst] at hx
    simp only [ctrLane, hres, hs, hx, Bool.not_true, Bool.false_and, Bool.false_eq_true, if_false, Option.map_some, Option.getD_some,
      Bool.true_and, Bool.false_or, beq_iff_eq]
    rw [show (!x.expected.contains (sl.indexOf e.blk e.th.tidx) || x.arrived.contains (sl.indexOf e.blk e.th.tidx)) = !mayArrive from blocked,
      Bool.not_not]
    by_cases ht : e.tile (immF w 23 4) = true
    · simp only [ht, if_true]
      rfl
    · simp only [ht, if_false, Bool.false_eq_true]
      rfl
  rw [first]
  simp only [Bool.and_eq_true, decide_eq_true_eq, Option.isNone_iff_eq_none, Bool.not_eq_true', beq_iff_eq, and_comm (a := ¬ x.params = p),
    ne_eq]

end

/-- Settles O39: the checks of the lane in their order, then its arrival. -/
theorem contractionArrivalsAreRecorded : Obligations.ContractionArrivalsAreRecorded := by
  intro i w kind s b t hi h htl e jm bit p con ends pass waits traps bad
  refine ⟨fun hm hb => ?_, fun hbit => ⟨fun d hres => ?_, fun ob k sl hres => ?_⟩⟩
  · have skip : (modF w 4 2 == 0 && !(b.joinMask (Env.gid ⟨b, t⟩) (immF w 20 3)).getLsbD (Env.lane ⟨b, t⟩)) = true := by
      rw [beq_iff_eq.mpr hm, show (b.joinMask (Env.gid ⟨b, t⟩) (immF w 20 3)).getLsbD (Env.lane ⟨b, t⟩) = false from hb]
      rfl
    show exec i s = _
    rw [ctrOf_word hi, ctrWord]
    exact runWord_skip h rfl rfl rfl skip
  · exact ctr_traps hi h htl hbit (ctrLane_unresolved hres) rfl
  · intro si s1 stamp
    refine ⟨fun hs => ctr_traps hi h htl hbit (ctrLane_unsuited hres hs) rfl, fun hs x hx => ?_⟩
    intro mayArrive
    have lane := ctrLane_suited hres hs (x := x) hx
    have quiet : QuietAt s b.id t.tidx := issues_quiet h rfl
    have quiet1 : QuietAt s1 b.id t.tidx := by
      show QuietAt (if sl.inst.isNone then _ else s) b.id t.tidx
      split
      · exact quiet.openInst ob k sl p jm
      · exact quiet
    have agree (ha : mayArrive = false ∨ x.params = p) : ¬ (mayArrive = true ∧ x.params ≠ p) := by
      rintro ⟨h1, h2⟩
      rcases ha with ha | ha
      · exact Bool.false_ne_true (ha.symm.trans h1)
      · exact h2 ha
    refine ⟨fun ha hp => ?_, fun ha tr htr => ?_, fun hbad hinst hheld ha => ?_, fun hbad hfree ha => ?_, fun hbad hfree ha =>
      ⟨fun hp hf hpnf => ?_, fun hp hf => ?_⟩⟩
    · exact ctr_traps hi h htl hbit (lane.trans (if_pos ⟨ha, hp⟩)) rfl
    · have fault : handled tr.cause = false := by
        have htr : (if kind = 1 then ctrsFault e w else none) = some tr := htr
        split at htr
        · exact ctrsFault_unhandled htr
        · cases htr
      refine ctr_traps hi h htl hbit ((lane.trans (if_neg (agree ha))).trans ?_) fault
      rw [show (if kind = 1 then ctrsFault ⟨b, t⟩ w else none) = some tr from htr]
    · refine ctr_stays hi h htl hbit ((lane.trans (if_neg (agree ha))).trans ?_)
      rw [show (if kind = 1 then ctrsFault ⟨b, t⟩ w else none) = none from hbad]
      exact if_pos ⟨hinst, hheld⟩
    all_goals
      have open' : ¬ (sl.inst = none ∧ s.heldAhead ob.id k stamp false = true) := by
        rintro ⟨h1, h2⟩
        exact Bool.false_ne_true ((hfree h1).symm.trans h2)
    · refine ctr_stays hi h htl hbit ((lane.trans (if_neg (agree (.inl ha)))).trans ?_)
      rw [show (if kind = 1 then ctrsFault ⟨b, t⟩ w else none) = none from hbad]
      exact (if_neg open').trans (if_pos ha)
    all_goals
      have arrives : ¬ mayArrive = false := by rw [ha]; exact Bool.false_ne_true.symm
      have arrived {r : LaneEnd} (hr : (if p.fmt = 9 ∧ pnfOf (NMap.read 0 b.fm p.low) = none then .trap s (mkTrap 0x14 0 t.pc) 0
          else if e.tile (immF w 23 4) = true then
            match s1.postPass ob k p.fmt with
            | none => s.holdAt e (.table ob.id k stamp)
            | some s2 => .done (s2.recordArrival e w kind ob k si true true) (t.pc + 1)
          else .done (s1.recordArrival e w kind ob k si true false) (t.pc + 1)) = r) : ctrLane w kind true e s = r := by
        refine (lane.trans (if_neg (agree (.inr hp)))).trans ?_
        rw [show (if kind = 1 then ctrsFault ⟨b, t⟩ w else none) = none from hbad]
        exact (if_neg open').trans ((if_neg arrives).trans hr)
    · exact ctr_traps hi h htl hbit (arrived (if_pos ⟨hf, hpnf⟩)) rfl
    · have format : ¬ (p.fmt = 9 ∧ pnfOf (NMap.read 0 b.fm p.low) = none) := by
        rintro ⟨h1, h2⟩
        have := hf h1
        rw [h2] at this
        cases this
      refine ⟨fun hc => ?_, fun hc hpost => ?_, fun s2 hc hpost => ?_⟩
      · have hc : ¬ e.tile (immF w 23 4) = true := by rw [show e.tile (immF w 23 4) = false from hc]; exact Bool.false_ne_true
        exact ctr_passes hi h htl hbit (arrived ((if_neg format).trans (if_neg hc))) (quiet1.recordArrival e w kind ob k si false)
      · refine ctr_stays hi h htl hbit (arrived ((if_neg format).trans ((if_pos hc).trans ?_)))
        rw [hpost]
        rfl
      · refine ctr_passes hi h htl hbit (arrived ((if_neg format).trans ((if_pos hc).trans ?_))) ((quiet1.postPass hpost).recordArrival e w kind ob k si true)
        rw [hpost]

end Sys2Proof.Proofs
end


section
/-! The accumulator words (O40). -/

namespace Sys2Proof.Proofs

open Sys2Proof Sys2Proof.Machine Sys2Proof.Laws

/-! ### Words that name a slot -/

section
variable {s : State} {i : Instr} {w : Word} {b : Block} {t : Thread} {ctr : Option Ctr} {body : Env → Block → Nat → Slot → State → LaneEnd}
  (h : issues s i w b t) (hr : HasRoom { planOf i w with ctr := ctr } t)
include h hr

theorem onSlot_unresolved {d : Nat} (hres : s.resolve ⟨b, t⟩ (Env.word ⟨b, t⟩ w.a 0) = .error d) :
    onSlot i w ctr body s = .next (trapped s b t w (mkTrap 9 d t.pc)) := by
  refine issues_traps h hr ?_
  dsimp only
  rw [hres]

variable {ob : Block} {k : Nat} {sl : Slot} (hres : s.resolve ⟨b, t⟩ (Env.word ⟨b, t⟩ w.a 0) = .ok (ob, k, sl))
include hres

theorem onSlot_finish {r : LaneEnd} (hb : body ⟨b, t⟩ ob k sl s = r) : onSlot i w ctr body s = .next (laneFinish b t w r) := by
  refine (runWord_finish h hr).trans (congrArg (fun r => Host.Outcome.next (laneFinish b t w r)) ?_)
  dsimp only
  rw [hres]
  exact hb

end

section
variable {e : Env} {ob : Block} {k : Nat} {sl : Slot} {s : State} {go : LaneEnd} {frees : Bool}

theorem gated_self (h : sl.expects (sl.indexOf e.blk e.th.tidx) = true) : gated e ob k sl s go frees = .trap s (mkTrap 0xA 0 e.th.pc) 0 :=
  if_pos h

theorem gated_locked (h : sl.expects (sl.indexOf e.blk e.th.tidx) = false) (hl : s.interlock ob.id k (e.slotStamp s ob.id k) sl = true) :
    gated e ob k sl s go frees = s.holdAt e (.acc ob.id k (e.slotStamp s ob.id k) frees) :=
  (if_neg (by rw [h]; exact Bool.false_ne_true)).trans (if_pos hl)

theorem gated_goes (h : sl.expects (sl.indexOf e.blk e.th.tidx) = false) (hl : s.interlock ob.id k (e.slotStamp s ob.id k) sl = false) :
    gated e ob k sl s go frees = go :=
  (if_neg (by rw [h]; exact Bool.false_ne_true)).trans (if_neg (by rw [hl]; exact Bool.false_ne_true))

end

theorem QuietAt.mapSlot {s : State} {c k : Nat} (h : QuietAt s c k) (d i : Nat) (f : Slot → Slot) : QuietAt (s.mapSlot d i f) c k :=
  h.mapBlock d (fun _ => rfl)

theorem finish_slot {s : State} {i : Instr} {w : Word} {b : Block} {t : Thread} (h : issues s i w b t) (c k : Nat) (f : Slot → Slot) :
    laneFinish b t w (.done (s.mapSlot c k f) (t.pc + 1)) = wentOn (s.mapSlot c k f) b t w id (t.pc + 1) :=
  pass_of_complete (QuietAt.mapSlot (issues_quiet h rfl) c k f)

theorem finish_slot_counted {s : State} {i : Instr} {w : Word} {b : Block} {t : Thread} (h : issues s i w b t) (c k : Nat) (f : Slot → Slot)
    (ctr : Ctr) (a : Act) : laneFinish b t w (.done ((s.mapSlot c k f).issueOp b.id t.tidx ctr t.pc a) (t.pc + 1)) =
      counted (s.mapSlot c k f) b t w ctr a :=
  counted_of_complete (QuietAt.mapSlot (issues_quiet h rfl) c k f)

/-! ### AALLOC -/

theorem aalloc_none {s : State} {w : Word} {b : Block} {t : Thread} (h : issues s (.aalloc w) w b t) (hf : ∀ sl ∈ b.slots, sl.state ≠ .free) :
    exec (.aalloc w) s = .next (wentOn s b t w (fun x => x.result w.d false [0xFFFFFFFF#32]) (t.pc + 1)) := by
  have none' : b.slots.findIdx? (fun sl => sl.state == .free) = none :=
    List.findIdx?_eq_none_iff.mpr (fun sl hs => beq_false_of_ne (hf sl hs))
  refine issues_does h (hasRoom_of_none rfl) (s0 := s) (f := fun x => x.result w.d false [0xFFFFFFFF#32]) ?_ rfl (fun x => result_tidx x _ _ _)
    (fun x => result_stepDue x _ _ _)
  dsimp only
  rw [none']

/-- A slot given to the lane. -/
def given (w : Word) (b : Block) (t : Thread) (y : Slot) : Slot :=
  { y with state := .idle, fmt := modF w 0 2, own := ownOf (modF w 2 2), group := b.gidOf t.tidx, cells := [], status := 0 }

theorem aalloc_some {s : State} {w : Word} {b : Block} {t : Thread} {k : Nat} {sl : Slot} (h : issues s (.aalloc w) w b t)
    (hk : b.slots[k]? = some sl) (hs : sl.state = .free) (hf : ∀ j y, j < k → b.slots[j]? = some y → y.state ≠ .free) :
    exec (.aalloc w) s = .next (wentOn (s.mapSlot b.id k (given w b t)) b t w
      (fun x => x.result w.d false [handleOf sl.gen b.brank k]) (t.pc + 1)) := by
  have first : b.slots.findIdx? (fun sl => sl.state == .free) = some k := by
    obtain ⟨lt, hget⟩ := List.getElem?_eq_some_iff.mp hk
    refine List.findIdx?_eq_some_iff_getElem.mpr ⟨lt, ?_, fun j hj => ?_⟩
    · rw [hget, hs]
      rfl
    · have ltj : j < b.slots.length := Nat.lt_trans hj lt
      rw [Bool.not_eq_true, beq_eq_false_iff_ne]
      exact hf j _ hj (List.getElem?_eq_getElem ltj)
  refine (runWord_finish h (hasRoom_of_none rfl)).trans (congrArg Host.Outcome.next ?_)
  dsimp only
  rw [first]
  dsimp only
  rw [hk]
  exact wentOn_of_complete (s0 := s.mapSlot b.id k (given w b t)) (f := fun x => x.result w.d false [handleOf sl.gen b.brank k])
    (fun x => result_tidx x _ _ _) (fun x hx => (result_stepDue x _ _ _).trans (QuietAt.mapSlot (issues_quiet h rfl) b.id k _ x hx))

/-! ### The words that take their turn on a slot -/

section
variable {s : State} {w : Word} {b : Block} {t : Thread} {ob : Block} {k : Nat} {sl : Slot}
  (hres : s.resolve ⟨b, t⟩ (Env.word ⟨b, t⟩ w.a 0) = .ok (ob, k, sl))
include hres

theorem afree_runs (hi : issues s (.afree w) w b t) : exec (.afree w) s = .next (laneFinish b t w (gated ⟨b, t⟩ ob k sl s
    (.done (s.mapSlot ob.id k (fun y => { y with state := .free, gen := y.gen + 1, withdrawn := [] })) (t.pc + 1)) true)) :=
  onSlot_finish hi (hasRoom_of_none rfl) hres rfl

variable (htl : t.cnt.tl < 63)
include htl

theorem azero_runs (hi : issues s (.azero w) w b t) : exec (.azero w) s = .next (laneFinish b t w
    (if Env.tile ⟨b, t⟩ (immF w 0 4) = true then gated ⟨b, t⟩ ob k sl s
      (.done ((s.mapSlot ob.id k (fun y => { y with cells := [], status := 0 })).issueOp b.id t.tidx .tl t.pc .done) (t.pc + 1))
    else .done (s.issueOp b.id t.tidx .tl t.pc .done) (t.pc + 1))) := by
  refine onSlot_finish hi (hasRoom_of_lt (c := .tl) rfl htl) hres ?_
  dsimp only
  cases Env.tile ⟨b, t⟩ (immF w 0 4) <;> rfl

theorem ald_runs {c0 n : Nat} (hi : issues s (.ald w) w b t) (hrow : rowCells w (Env.word ⟨b, t⟩ w.b w.imm) = (c0, n))
    (hf : formSuits (modF w 0 2) sl.fmt = true) :
    let rs := (List.range n).map (fun i => loadCell (modF w 0 2) sl.fmt (sl.cell (c0 + i)))
    exec (.ald w) s = .next (laneFinish b t w (gated ⟨b, t⟩ ob k sl s (.done (s.issueOp b.id t.tidx .tl t.pc
      (.deliver (t.dests w.d (rowRegs w)) (rs.map Prod.fst).flatten [] (rs.foldl (fun f r => f ||| r.2) 0))) (t.pc + 1)))) := by
  refine onSlot_finish hi (hasRoom_of_lt (c := .tl) rfl htl) hres ?_
  dsimp only
  rw [hrow]
  exact if_neg (by rw [hf]; exact Bool.false_ne_true)

theorem ast_runs {c0 n : Nat} (hi : issues s (.ast w) w b t) (hrow : rowCells w (Env.word ⟨b, t⟩ w.b 0) = (c0, n))
    (hf : formSuits (modF w 0 2) sl.fmt = true) :
    let per := if modF w 0 2 = 1 then 2 else 1
    let rs := (List.range n).map (fun i =>
      storeCell (modF w 0 2) sl.fmt (((Env.tuple ⟨b, t⟩ w.c (rowRegs w)).drop (per * i)).take per))
    exec (.ast w) s = .next (laneFinish b t w (gated ⟨b, t⟩ ob k sl s (.done ((s.mapSlot ob.id k (fun y => { y with
      cells := rs.zipIdx.foldl (fun m (r, i) => NMap.put 0 m (c0 + i) r.1) y.cells })).issueOp b.id t.tidx .tl t.pc
      (.deliver [] [] [] (rs.foldl (fun f r => f ||| r.2) 0))) (t.pc + 1)))) := by
  refine onSlot_finish hi (hasRoom_of_lt (c := .tl) rfl htl) hres ?_
  dsimp only
  rw [hrow]
  exact if_neg (by rw [hf]; exact Bool.false_ne_true)

end

/-- Settles O40: AALLOC, then each word on the slot that its handle names. -/
theorem accumulatorWordsComplete : Obligations.AccumulatorWordsComplete := by
  intro w s b t htl e h form moves
  have room (i : Instr) : HasRoom { planOf i w with ctr := some .tl } t := hasRoom_of_lt (c := .tl) rfl htl
  have free (i : Instr) : HasRoom { planOf i w with ctr := none } t := hasRoom_of_none rfl
  refine ⟨fun hi => ⟨aalloc_none hi, fun k sl hk hs hf => aalloc_some hi hk hs hf⟩, fun i hm hi d hres => ?_, fun ob k sl hres => ?_⟩
  · have hm : i = .cwd w ∨ i = .afree w ∨ i = .azero w ∨ i = .ald w ∨ i = .ast w ∨ i = .astat w := by simpa [moves] using hm
    rcases hm with rfl | rfl | rfl | rfl | rfl | rfl
    · exact onSlot_unresolved hi (free _) hres
    · exact onSlot_unresolved hi (free _) hres
    · exact onSlot_unresolved hi (room _) hres
    · exact onSlot_unresolved hi (room _) hres
    · exact onSlot_unresolved hi (room _) hres
    · exact onSlot_unresolved hi (room _) hres
  · intro si self stamp locked later
    rcases hrow : rowCells w (Env.word ⟨b, t⟩ w.b w.imm) with ⟨c0, n⟩
    rcases hrow0 : rowCells w (Env.word ⟨b, t⟩ w.b 0) with ⟨c1, n1⟩
    dsimp only
    refine ⟨fun hi => ?_, fun i hm hi hz hfm => ?_, fun hself hlock => ⟨fun hi => ?_, fun hi ht => ?_, fun hi hfm => ?_, fun hi hfm => ?_⟩,
      fun hi ht => ?_, fun hi hw => ?_, fun hi hw => ?_⟩
    · exact (onSlot_finish hi (free _) hres rfl).trans (congrArg Host.Outcome.next (finish_slot hi ob.id k _))
    · have stuck {frees : Bool} {go : LaneEnd} (hrun : exec i s = .next (laneFinish b t w (gated e ob k sl s go frees)))
          (hfrees : frees = decide (i = .afree w)) : (self = true → exec i s = .next (trapped s b t w (mkTrap 0xA 0 t.pc))) ∧
          (self = false → locked = true → exec i s = .next (waits (later s) b t (.acc ob.id k stamp (decide (i = .afree w))))) := by
        refine ⟨fun hs => ?_, fun hs hl => ?_⟩
        · rw [hrun, gated_self hs]
          rfl
        · rw [hrun, gated_locked hs hl, hfrees]
          rfl
      have hm : i = .afree w ∨ i = .azero w ∨ i = .ald w ∨ i = .ast w := by simpa using hm
      have other {j : Instr} (hj : j ≠ .afree w) : false = decide (j = .afree w) := (decide_eq_false hj).symm
      rcases hm with rfl | rfl | rfl | rfl
      · exact stuck (afree_runs hres hi) (decide_eq_true rfl).symm
      · refine stuck ((azero_runs hres htl hi).trans (congrArg (fun r => Host.Outcome.next (laneFinish b t w r)) (if_pos (hz rfl)))) (other ?_)
        exact fun h => by cases h
      · exact stuck (ald_runs hres htl hi hrow (hfm (.inl rfl))) (other (fun h => by cases h))
      · exact stuck (ast_runs hres htl hi hrow0 (hfm (.inr rfl))) (other (fun h => by cases h))
    · rw [afree_runs hres hi, gated_goes hself hlock]
      exact congrArg Host.Outcome.next (finish_slot hi ob.id k _)
    · rw [azero_runs hres htl hi, if_pos ht, gated_goes hself hlock]
      exact congrArg Host.Outcome.next (finish_slot_counted hi ob.id k _ _ _)
    · rw [ald_runs hres htl hi hrow hfm, gated_goes hself hlock]
      exact congrArg Host.Outcome.next (finish_counted hi rfl)
    · rw [ast_runs hres htl hi hrow0 hfm, gated_goes hself hlock]
      exact congrArg Host.Outcome.next (finish_slot_counted hi ob.id k _ _ _)
    · rw [azero_runs hres htl hi, if_neg (by rw [show Env.tile ⟨b, t⟩ (immF w 0 4) = false from ht]; exact Bool.false_ne_true)]
      exact congrArg Host.Outcome.next (finish_counted hi rfl)
    · refine (onSlot_finish hi (room _) hres (if_neg ?_)).trans (congrArg Host.Outcome.next (finish_slot_counted hi ob.id k _ _ _))
      rw [show s.statusWait ob.id k (Env.slotStamp ⟨b, t⟩ s ob.id k) sl = false from hw]
      exact Bool.false_ne_true
    · refine onSlot_finish hi (room _) hres (r := s.holdAt ⟨b, t⟩ (.drains ob.id k stamp)) ?_
      exact if_pos hw

end Sys2Proof.Proofs
end


section
/-! The words that act on launches (O41). -/

namespace Sys2Proof.Proofs

open Sys2Proof Sys2Proof.Machine Sys2Proof.Laws

/-! ### LAUNCH (R39, R40) -/

/-- What a lane finds that has no answer yet, and whose record is read: it takes its turn behind its own stores and the lanes before it. -/
def launchTurn (s : State) (e : Env) (addr : W64) (bs ps : List Byte) : LaneEnd :=
  if !e.th.written || e.laneAhead then .stay (s.hold e.blk.id e.th.tidx .written) else .stay (s.submit e addr bs ps)

/-- A record that is read, or not. -/
def launchRecord (s : State) (e : Env) (addr : W64) : Except Trap (List Byte) → LaneEnd
  | .error tr => .trap s tr Need.load.acc
  | .ok bs =>
    let r := LaunchRec.ofBytes bs
    let reason := refusal bs (if bs.length ≤ 256 then [] else dmapOf bs) (s.devq e.blk.decl.ctx).isSome s.pod.inPod
    if reason ≠ 0 then (if s.forPod r then launchTurn s e addr bs [] else .trap s (mkTrap 0x16 reason e.th.pc) 0)
    else match s.readParams e r with
      | .error tr => .trap s tr Need.load.acc
      | .ok ps => launchTurn s e addr bs ps

/-- The record of a lane whose answer is `a`, if it has one. -/
def launchEnd (w : Word) (s : State) (e : Env) : Option LaunchAns → LaneEnd
  | some a =>
    let s1 : State := { s with answers := s.answers.filter (fun x => !(x.blk == e.blk.id && x.tidx == e.th.tidx && x.pc == e.th.pc)) }
    if a.reason ≠ 0 then .trap s1 (mkTrap 0x16 a.reason e.th.pc) 0
    else .done (s1.mapThread e.blk.id e.th.tidx (fun t => t.result w.d false [BitVec.ofNat 32 a.lid])) (e.th.pc + 1)
  | none =>
    let addr := e.dword .unsigned w.a 0
    if s.submitted e then .stay (s.hold e.blk.id e.th.tidx .launch)
    else match misaligned addr 64 with
      | some d => .trap s { mkTrap 4 d.toNat e.th.pc with faddr := addr } 0
      | none => launchRecord s e addr (s.readLaunch e addr)

section
variable {s : State} {w : Word} {b : Block} {t : Thread}

theorem launch_runs (h : issues s (.launch w) w b t) : exec (.launch w) s = .next (laneFinish b t w (launchEnd w s ⟨b, t⟩
    (s.answers.find? (fun a => a.blk == b.id && a.tidx == t.tidx && a.pc == t.pc)))) := by
  refine (runWord_finish h (hasRoom_of_none rfl)).trans (congrArg (fun r => Host.Outcome.next (laneFinish b t w r)) ?_)
  dsimp only
  cases s.answers.find? (fun a => a.blk == b.id && a.tidx == t.tidx && a.pc == t.pc) with
  | some a => rfl
  | none =>
    dsimp only [launchEnd]
    cases s.submitted ⟨b, t⟩ with
    | true => rfl
    | false =>
      cases misaligned (Env.dword ⟨b, t⟩ .unsigned w.a 0) 64 with
      | some d => rfl
      | none =>
        dsimp only
        cases s.readLaunch ⟨b, t⟩ (Env.dword ⟨b, t⟩ .unsigned w.a 0) <;> rfl

theorem launch_unanswered (h : issues s (.launch w) w b t)
    (hn : s.answers.find? (fun a => a.blk == b.id && a.tidx == t.tidx && a.pc == t.pc) = none) :
    exec (.launch w) s = .next (laneFinish b t w (launchEnd w s ⟨b, t⟩ none)) := by
  rw [launch_runs h, hn]

/-- A record goes to the front end of its device, or to the Ridge. -/
theorem submit_spec (hb : s.block? b.id = some b) (ht : b.thread? t.tidx = some t) (addr : W64) (bs ps : List Byte) :
    let r := LaunchRec.ofBytes bs
    let s' := (s.submit ⟨b, t⟩ addr bs ps).endWord
    s'.thread? b.id t.tidx = some { t with wait := some .launch } ∧
    (s.forPod r = false → s'.requests = s.requests ++ [⟨s.seq, b.id, t.tidx, t.pc, b.decl.ctx, addr, r, depsOf bs⟩]) ∧
    (s.forPod r = true → s'.pod.outbox =
      s.pod.outbox ++ [⟨s.seq + 1, 0, b.decl.ctx, s.pod.index, bs, ps, some (.thread b.id t.tidx), t.pc, addr⟩]) := by
  intro r s'
  have held (s2 : State) (h2 : s2.blocks = s.blocks) :
      (s2.hold b.id t.tidx .launch).thread? b.id t.tidx = some { t with wait := some .launch } := by
    have there : s2.thread? b.id t.tidx = some t := by
      rw [State.thread?, State.block?, h2]
      exact (thread_of_block hb).trans ht
    refine (state_thread_mapThread s2 b.id t.tidx b.id t.tidx (fun x => Waiting x .launch) (waiting_keeps _)).trans ?_
    rw [if_pos ⟨rfl, rfl⟩, there]
    rfl
  cases hp : s.forPod r with
  | true =>
    have hs : s' = ((({ s with seq := s.seq + 1 } : State).tellAll (fun x => x.releasedBy b.id t.tidx s.seq) (.request b.id t.tidx) 0).forward
        b.decl.ctx (.thread b.id t.tidx) t.pc addr bs ps |>.hold b.id t.tidx .launch).endWord :=
      congrArg (fun x : State => (x.hold b.id t.tidx .launch).endWord) (if_pos hp)
    rw [hs]
    exact ⟨held _ rfl, fun h => absurd h Bool.noConfusion, fun _ => rfl⟩
  | false =>
    have hs : s' = (State.hold { ({ s with seq := s.seq + 1 } : State).tellAll (fun x => x.releasedBy b.id t.tidx s.seq)
        (.request b.id t.tidx) 0 with requests := s.requests ++ [⟨s.seq, b.id, t.tidx, t.pc, b.decl.ctx, addr, r, depsOf bs⟩] }
        b.id t.tidx .launch).endWord :=
      congrArg (fun x : State => (x.hold b.id t.tidx .launch).endWord) (if_neg (by
        rw [show s.forPod (LaunchRec.ofBytes bs) = false from hp]
        exact Bool.false_ne_true))
    rw [hs]
    exact ⟨held _ rfl, fun _ => rfl, fun h => absurd h Bool.noConfusion⟩

/-! ### LCTL (R41) -/

theorem lctl_runs {i : Instr} {op : State → Nat → Nat → Nat × State} {r : Nat × State} (h : issues s i w b t)
    (hop : op s b.decl.ctx (Env.word ⟨b, t⟩ w.a 0).toNat = r) : lctl i w op s = .next (laneFinish b t w
      (.done (r.2.mapThread b.id t.tidx (fun x => x.result w.d false [BitVec.ofNat 32 r.1])) (t.pc + 1))) := by
  subst hop
  exact runWord_finish h (hasRoom_of_none rfl)

theorem finish_result {x : Thread → Thread} (h : QuietAt s b.id t.tidx) (hx : KeepsIndex x) (hd : ∀ y, (x y).stepDue = y.stepDue) (pc : W32) :
    laneFinish b t w (.done (s.mapThread b.id t.tidx x) pc) = wentOn s b t w x pc :=
  wentOn_of_complete hx (fun y hy => (hd y).trans (h y hy))

/-- A cancel or kill that is refused changes nothing. -/
theorem cancelBy_refused {ctx lid : Nat} {hard : Bool} (h : (s.cancelBy ctx lid hard).1 ≠ 0) : (s.cancelBy ctx lid hard).2 = s := by
  unfold State.cancelBy at h ⊢
  split
  · rfl
  · next l hl =>
    rw [hl] at h
    dsimp only at h ⊢
    split
    · rfl
    · next h1 =>
      rw [if_neg h1] at h
      split
      · rfl
      · next h2 =>
        rw [if_neg h2] at h
        split
        · rfl
        · next h3 =>
          rw [if_neg h3] at h
          exact absurd rfl h

theorem cancelBy_none {ctx lid : Nat} {hard : Bool} (h : ∀ l ∈ s.launches, ¬ (l.lid = lid ∧ l.ctx = ctx)) :
    (s.cancelBy ctx lid hard).1 = 1 := by
  have none' : s.launches.find? (fun l => l.lid == lid && l.ctx == ctx) = none := by
    rw [List.find?_eq_none]
    intro l hl
    rw [Bool.and_eq_true, beq_iff_eq, beq_iff_eq]
    exact h l hl
  rw [State.cancelBy, none']

end

/-! ### LPSET (R45) -/

theorem lpset_lid (l : Launch) (op : Nat) (a v : W32) : (l.lpset op a v).lid = l.lid := by
  unfold Launch.lpset
  dsimp only
  split <;> rfl

/-- What LPSET changes: the launch, and for a parameter word the copy of the block. -/
def lpsetState (s : State) (e : Env) (op : Nat) (a v : W32) : State :=
  let s1 := s.mapLaunch e.blk.decl.lid (fun l => l.lpset op a v)
  if op = 0 then s1.mapBlock e.blk.id (fun x => { x with params := setParam x.params a.toNat v }) else s1

theorem lpsetState_launches (s : State) (e : Env) (op : Nat) (a v : W32) :
    (lpsetState s e op a v).launches = (s.mapLaunch e.blk.decl.lid (fun l => l.lpset op a v)).launches := by
  unfold lpsetState
  dsimp only
  split <;> rfl

theorem lpsetState_quiet {s : State} {c k : Nat} (h : QuietAt s c k) (e : Env) (op : Nat) (a v : W32) : QuietAt (lpsetState s e op a v) c k := by
  unfold lpsetState
  have kept : QuietAt (s.mapLaunch e.blk.decl.lid (fun l => l.lpset op a v)) c k := h.of_blocks rfl
  dsimp only
  split
  · exact kept.mapBlock _ (fun _ => rfl)
  · exact kept

/-- How a lane leaves LPSET, in the prologue of a launch. -/
def lpsetEnd (w : Word) (s : State) (e : Env) (l : Option Launch) : LaneEnd :=
  let op := modF w 0 3
  let a := e.word w.a w.imm
  let v := e.word w.b w.imm
  if !e.inArray w.a || !e.inArray w.b then .trap s (mkTrap 3 0 e.th.pc) 0
  else if !e.inPrologue w.a || !e.inPrologue w.b || !lpsetOk op a.toNat ((l.map Launch.record).getD (LaunchRec.ofBytes [])) then
    .trap s (mkTrap 1 10 e.th.pc) 0
  else .done (lpsetState s e op a v) (e.th.pc + 1)

/-- What is found by its number after a change of one that keeps the numbers. -/
theorem find_mapWhere {α : Type} (key : α → Nat) (f : α → α) (hf : ∀ x, key (f x) = key x) (l : List α) (n k : Nat) :
    (l.map (fun x => if key x = k then f x else x)).find? (fun x => key x == n) =
      (l.find? (fun x => key x == n)).map (fun x => if n = k then f x else x) := by
  induction l with
  | nil => rfl
  | cons x l ih =>
    have same : key (if key x = k then f x else x) = key x := by
      split
      · exact hf x
      · rfl
    rw [List.map_cons]
    by_cases h : key x = n
    · rw [List.find?_cons_of_pos (by rw [same, h, beq_self_eq_true]), List.find?_cons_of_pos (by rw [h, beq_self_eq_true]),
        Option.map_some, h]
    · rw [List.find?_cons_of_neg (by rw [same, beq_iff_eq]; exact h), List.find?_cons_of_neg (by rw [beq_iff_eq]; exact h)]
      exact ih

theorem launch_mapLaunch (s : State) (n lid : Nat) (f : Launch → Launch) (hf : ∀ l, (f l).lid = l.lid) :
    (s.mapLaunch lid f).launch? n = (s.launch? n).map (fun l => if n = lid then f l else l) :=
  find_mapWhere Launch.lid f hf s.launches n lid

/-! ### LEND (R46) -/

theorem abortAll_launches (s : State) (xs : List (Nat × Nat)) (cause : Nat) (other : Option Nat) :
    (s.abortAll xs cause other).launches = s.launches := (congrArg State.launches (abortAll_frame s xs cause other) :).symm

theorem endSections_launches (s : State) (b : Nat) (who : Nat → Bool) : (s.endSections b who).launches = s.launches := by
  have kept : (s.endSections b who).launches =
      (s.abortAll ((s.sections.filter (fun x => x.blk == b && who x.tidx)).map Section.name) 8 none).launches := by rw [State.endSections]
  exact kept.trans (abortAll_launches ..)

theorem removeBlock_launches (s : State) (b : Nat) : (s.removeBlock b).launches = s.launches := by
  have kept : (s.removeBlock b).launches = (s.endSections b (fun _ => true)).launches := by rw [State.removeBlock]
  exact kept.trans (endSections_launches ..)

/-- A prologue that ends with passes holds its launch. -/
theorem endPrologue_eq {s s1 : State} {blk lid passes : Nat} {l : Launch} (h1 : s.removeBlock blk = s1) (hl : s1.launch? lid = some l)
    (hp : passes ≠ 0) (hr : l.record.gridReason l.deps = 0) :
    s.endPrologue blk lid passes = s1.mapLaunch lid (fun l => { l with state := .held, passes := passes }) := by
  unfold State.endPrologue
  rw [h1]
  dsimp only
  simp only [hl, hp, hr, ne_eq, not_true_eq_false, if_false]

theorem endPrologue_held {s : State} {blk lid passes : Nat} {l : Launch} (hl : s.launch? lid = some l) (hp : passes ≠ 0)
    (hr : l.record.gridReason l.deps = 0) :
    (s.endPrologue blk lid passes).block? blk = none ∧
      (s.endPrologue blk lid passes).launch? lid = some { l with state := .held, passes := passes } := by
  have kept : (s.removeBlock blk).launch? lid = some l := by
    rw [State.launch?, removeBlock_launches]
    exact hl
  have gone : (s.removeBlock blk).block? blk = none := by rw [block_removeBlock, if_pos rfl]
  generalize h1 : s.removeBlock blk = s1 at kept gone
  rw [endPrologue_eq h1 kept hp hr]
  refine ⟨gone, ?_⟩
  rw [launch_mapLaunch s1 lid lid (fun l => { l with state := .held, passes := passes }) (fun _ => rfl), kept, Option.map_some, if_pos rfl]

/-- Settles O41: each word acts on one lane, case by case. -/
theorem launchWordsComplete : Obligations.LaunchWordsComplete := by
  intro w s b t e addr lid put mine
  have free {p : Plan} (h : p.ctr = none) : HasRoom p t := hasRoom_of_none h
  have keepsPut (v : Nat) : KeepsIndex (put v) := fun x => result_tidx x _ _ _
  have putDue (v : Nat) (x : Thread) : (put v x).stepDue = x.stepDue := result_stepDue x _ _ _
  refine ⟨fun hi => ⟨fun a ha => ?_, fun hn hsub => ?_, fun hn hsub => ⟨fun d hd => ?_, fun hd bs hbs => ?_⟩⟩, fun hi => ?_,
    ?_, fun hi l hl => ?_, ?_⟩
  · rw [launch_runs hi, show s.answers.find? (fun a => a.blk == b.id && a.tidx == t.tidx && a.pc == t.pc) = some a from ha]
    refine ⟨fun h0 => congrArg Host.Outcome.next ?_, fun h0 => congrArg Host.Outcome.next ?_⟩
    · rw [launchEnd, if_neg (fun h => h h0)]
      exact finish_result (s := { s with answers := s.answers.filter (fun x => !mine x) }) (x := put a.lid) (issues_quiet hi rfl)
        (keepsPut _) (putDue _) _
    · rw [launchEnd, if_pos h0]
      rfl
  · rw [launch_unanswered hi hn, launchEnd]
    exact congrArg (fun r => Host.Outcome.next (laneFinish b t w r)) (if_pos hsub)
  · rw [launch_unanswered hi hn, launchEnd]
    refine congrArg Host.Outcome.next ?_
    rw [show s.submitted ⟨b, t⟩ = false from hsub, if_neg Bool.false_ne_true,
      show misaligned (Env.dword ⟨b, t⟩ .unsigned w.a 0) 64 = some d from hd]
    have cast : mkTrap 4 d.toNat t.pc = { mkTrap 4 0 t.pc with detail := d } := by rw [mkTrap, BitVec.ofNat_toNat, BitVec.setWidth_eq]; rfl
    dsimp only
    rw [cast]
    rfl
  · intro r reason
    have go : exec (.launch w) s = .next (laneFinish b t w (launchRecord s e addr (.ok bs))) := by
      rw [launch_unanswered hi hn, launchEnd]
      rw [show s.submitted ⟨b, t⟩ = false from hsub, if_neg Bool.false_ne_true,
        show misaligned (Env.dword ⟨b, t⟩ .unsigned w.a 0) 64 = none from hd,
        show s.readLaunch ⟨b, t⟩ (Env.dword ⟨b, t⟩ .unsigned w.a 0) = .ok bs from hbs]
    refine ⟨fun hp hr => ?_, fun ps hps => ?_⟩
    · rw [go, launchRecord]
      refine congrArg (fun r => Host.Outcome.next (laneFinish b t w r)) ((if_pos hr).trans (if_neg ?_))
      rw [show s.forPod (LaunchRec.ofBytes bs) = false from hp]
      exact Bool.false_ne_true
    · have turn : launchRecord s e addr (.ok bs) = launchTurn s e addr bs ps := by
        rcases hps with ⟨h0, hps⟩ | ⟨h0, hp, rfl⟩
        · rw [launchRecord]
          refine (if_neg (fun h => h h0)).trans ?_
          rw [show s.readParams e (LaunchRec.ofBytes bs) = .ok ps from hps]
        · exact (if_pos h0).trans (if_pos hp)
      rw [go, turn, launchTurn]
      refine ⟨fun hw => ?_, fun hw hla => ?_⟩
      · refine congrArg (fun r => Host.Outcome.next (laneFinish b t w r)) (if_pos ?_)
        rcases hw with hw | hw
        · rw [show e.th.written = false from hw]
          rfl
        · rw [hw, Bool.or_true]
      · obtain ⟨-, hb, -, -, ⟨ht, -⟩, -⟩ := hi
        obtain ⟨hth, hreq, hout⟩ := submit_spec hb ht addr bs ps
        refine ⟨(s.submit ⟨b, t⟩ addr bs ps).endWord, ?_, hth, fun hp => ⟨_, hreq hp, rfl, rfl, rfl, rfl, rfl, rfl⟩,
          fun hp => ⟨_, hout hp, rfl, rfl, rfl, rfl, rfl, rfl⟩⟩
        refine congrArg (fun r => Host.Outcome.next (laneFinish b t w r)) (if_neg ?_)
        rw [show e.th.written = true from hw, hla]
        exact Bool.false_ne_true
  · refine (lctl_runs (op := fun s ctx lid => (s.query ctx lid, s)) hi rfl).trans (congrArg Host.Outcome.next ?_)
    exact finish_result (issues_quiet hi rfl) (keepsPut _) (putDue _) _
  · intro hard i hi r
    have run : exec i s = .next (laneFinish b t w (.done (r.2.mapThread b.id t.tidx (put r.1)) (t.pc + 1))) := by
      cases hard
      · exact lctl_runs (i := .lctlCancel w) (op := fun s ctx lid => s.cancelBy ctx lid false) hi rfl
      · exact lctl_runs (i := .lctlKill w) (op := fun s ctx lid => s.cancelBy ctx lid true) hi rfl
    refine ⟨run, fun h0 => ?_, fun hn => cancelBy_none hn⟩
    have same : r.2 = s := cancelBy_refused h0
    rw [run, same]
    exact congrArg Host.Outcome.next (finish_result (issues_quiet hi rfl) (keepsPut _) (putDue _) _)
  · intro op a v
    have run : exec (.lpset w) s = .next (laneFinish b t w (lpsetEnd w s e (some l))) := by
      refine (runWord_finish (p := { planOf (.lpset w) w with elected := true }) hi (free rfl)).trans ?_
      dsimp only
      rw [hl]
      rfl
    rw [run, lpsetEnd]
    refine ⟨fun h => ?_, fun ha hb h => ?_, fun ha hb hpa hpb hok => ?_⟩
    · refine congrArg (fun r => Host.Outcome.next (laneFinish b t w r)) (if_pos ?_)
      rcases h with h | h <;> simp [e, h]
    · refine congrArg (fun r => Host.Outcome.next (laneFinish b t w r)) ((if_neg (by simp [ha, hb])).trans (if_pos ?_))
      rcases h with h | h | h
      · simp [h]
      · simp [h]
      · simp [show lpsetOk (modF w 0 3) (Env.word ⟨b, t⟩ w.a w.imm).toNat l.record = false from h, e]
    · have found (n : Nat) : (lpsetState s e op a v).launch? n =
          (s.launch? n).map (fun l => if n = b.decl.lid then l.lpset op a v else l) := by
        refine Eq.trans ?_ (launch_mapLaunch s n b.decl.lid (fun l => l.lpset op a v) (fun l => lpset_lid l op a v))
        exact congrArg (List.find? _) (lpsetState_launches s e op a v)
      refine ⟨lpsetState s e op a v, ?_, ?_, fun n hn => ?_⟩
      · rw [if_neg (by simp [ha, hb]), if_neg (by simp [hpa, hpb, hok, a, op])]
        exact congrArg Host.Outcome.next (pass_of_complete (lpsetState_quiet (issues_quiet hi rfl) e op a v))
      · rw [found, hl, Option.map_some, if_pos rfl]
      · rw [found]
        simp only [if_neg hn, Option.map_id']
  · intro k i passes hi l hl
    have held (hp : passes ≠ 0) (hr : l.record.gridReason l.deps = 0) := endPrologue_held (blk := b.id) hl hp hr
    refine ⟨_, ?_, rfl, ?_⟩
    rotate_left
    · generalize s.endPrologue b.id b.decl.lid passes = s1 at held ⊢
      exact held
    rcases k with _ | _ | k
    · exact issues_stays (i := .lendCancel w) hi (free rfl) rfl
    · exact issues_stays (i := .lendLaunch w) hi (free rfl) rfl
    · exact issues_stays (i := .lendRepeat w) hi (free rfl) rfl

end Sys2Proof.Proofs
end


section
/-! The words of forwarding sections (O42). -/

namespace Sys2Proof.Proofs

open Sys2Proof Sys2Proof.Machine Sys2Proof.Laws

/-! ### The slots of the tracker (R316) -/

theorem vstatus_keeps (r : Option Nat) (v : W32) : KeepsIndex (fun t => t.vstatus r v) := by
  cases r <;> exact fun _ => rfl

theorem vstatus_due (r : Option Nat) (v : W32) (t : Thread) : (t.vstatus r v).stepDue = t.stepDue := by
  cases r <;> rfl

theorem section_none_of_free {s : State} {c k : Nat} (h : k ∈ s.fxFree c) : s.section? c k = none := by
  obtain ⟨-, hk⟩ := List.mem_filter.mp h
  rw [Bool.not_eq_true'] at hk
  exact List.find?_eq_none.mpr (fun x hx hc => List.any_eq_false.mp hk x hx hc)

theorem openSection_quiet {s : State} {c j : Nat} (h : QuietAt s c j) (e : Env) (w : Word) (k : Nat) : QuietAt (s.openSection e w k) c j := by
  unfold State.openSection
  exact (h.of_blocks rfl).mapThread _ _ (vstatus_keeps _ _) (vstatus_due _ _)

/-- A section as FXB opens it. -/
def openedBy (e : Env) (w : Word) (k : Nat) : Section :=
  { cluster := e.blk.cluster, slot := k, blk := e.blk.id, tidx := e.th.tidx, state := .opened,
    target := e.th.pc + w.imm, vstatus := e.th.named w.d, preds := [], consumes := [], waitsOn := [],
    reads := [], writes := [], cause := 0, other := none, ended := 0 }

theorem openSection_sections (s : State) (e : Env) (w : Word) (k : Nat) :
    (s.openSection e w k).sections = s.sections ++ [openedBy e w k] := rfl

theorem section_append {s s' : State} {x : Section} {c k : Nat} (h : s'.sections = s.sections ++ [x]) (hn : s.section? c k = none)
    (hc : x.cluster = c) (hk : x.slot = k) : s'.section? c k = some x := by
  have none' : s.sections.find? (fun x => x.cluster == c && x.slot == k) = none := hn
  rw [State.section?, h, List.find?_append, none', Option.none_or]
  exact List.find?_cons_of_pos (by rw [hc, hk, beq_self_eq_true, beq_self_eq_true]; rfl)

theorem openSection_section {s : State} {e : Env} {k : Nat} (h : k ∈ s.fxFree e.blk.cluster) (w : Word) :
    (s.openSection e w k).section? e.blk.cluster k = some (openedBy e w k) :=
  section_append (openSection_sections s e w k) (section_none_of_free h) rfl rfl

/-- What the delivery of a section's end does to its thread (R317). -/
def delivered (r : Option Nat) (v : W32) (t : Thread) : Thread := { t.vstatus r v with fxLast := v }

theorem delivered_keeps (r : Option Nat) (v : W32) : KeepsIndex (delivered r v) := by
  cases r <;> exact fun _ => rfl

theorem delivered_due (r : Option Nat) (v : W32) (t : Thread) : (delivered r v t).stepDue = t.stepDue := by
  cases r <;> rfl

theorem deliverSection_eq (s : State) (x : Section) : s.deliverSection x =
    ({ s with sections := s.sections.filter (fun y => !(y.cluster == x.cluster && y.slot == x.slot)) } : State).mapThread
      x.blk x.tidx (delivered x.vstatus (s.fxImage x)) := rfl

theorem deliverSection_quiet {s : State} {c j : Nat} (h : QuietAt s c j) (x : Section) : QuietAt (s.deliverSection x) c j := by
  rw [deliverSection_eq]
  generalize s.fxImage x = v
  refine QuietAt.mapThread ?_ x.blk x.tidx (delivered_keeps x.vstatus v) (delivered_due x.vstatus v)
  exact h.of_blocks rfl

/-! ### An abort (R326, R330) -/

/-- A section has aborted with a cause; its thread and its target are those of `x`. -/
def AbortedAs (x : Section) (cause : Nat) (y : Section) : Prop :=
  y.state = .aborted ∧ y.cause = cause ∧ y.target = x.target ∧ y.blk = x.blk ∧ y.tidx = x.tidx

/-- A change of every section that keeps its name changes what a name finds. -/
theorem section_map {s t : State} {f : Section → Section} (h : t.sections = s.sections.map f) (hf : ∀ y, (f y).cluster = y.cluster ∧
    (f y).slot = y.slot) (c k : Nat) : t.section? c k = (s.section? c k).map f := by
  have same : ((fun x : Section => x.cluster == c && x.slot == k) ∘ f) = fun x => x.cluster == c && x.slot == k := by
    funext y
    obtain ⟨hc, hk⟩ := hf y
    rw [Function.comp_apply, hc, hk]
  rw [State.section?, h, List.find?_map, same, State.section?]

/-- What a mark does to a section, by name (R326). -/
def marked (n : Nat × Nat) (cause : Nat) (other : Option Nat) (y : Section) : Section :=
  if y.cluster = n.1 ∧ y.slot = n.2 then
    { y with state := .aborted, cause := cause, other := other, preds := [], consumes := [], waitsOn := [] }
  else if y.cluster = n.1 then
    { y with preds := y.preds.filter (fun p => p != n.2), waitsOn := y.waitsOn.filter (fun p => p != n.2) }
  else y

theorem marked_name (n : Nat × Nat) (cause : Nat) (other : Option Nat) (y : Section) :
    (marked n cause other y).cluster = y.cluster ∧ (marked n cause other y).slot = y.slot := by
  unfold marked
  split
  · exact ⟨rfl, rfl⟩
  · split <;> exact ⟨rfl, rfl⟩

theorem marked_other {n : Nat × Nat} {cause : Nat} {other : Option Nat} {x y : Section} {c : Nat} (h : ¬ (y.cluster = n.1 ∧ y.slot = n.2))
    (ha : AbortedAs x c y) : AbortedAs x c (marked n cause other y) := by
  unfold marked
  rw [if_neg h]
  split <;> exact ha

theorem markAborted_sections {s : State} {n : Nat × Nat} {x : Section} (cause : Nat) (other : Option Nat)
    (h : s.section? n.1 n.2 = some x) (hl : x.live = true) : (s.markAborted n cause other).sections = s.sections.map (marked n cause other) := by
  unfold State.markAborted
  rw [h]
  dsimp only
  rw [hl]
  rfl

theorem markAborted_dead {s : State} {n : Nat × Nat} (cause : Nat) (other : Option Nat)
    (h : ((s.section? n.1 n.2).map Section.live).getD false = false) : s.markAborted n cause other = s := by
  unfold State.markAborted
  cases hx : s.section? n.1 n.2 with
  | none => rfl
  | some x =>
    rw [hx] at h
    dsimp only
    rw [show x.live = false from h]
    rfl

theorem name_of_section {s : State} {c k : Nat} {x : Section} (h : s.section? c k = some x) : x.cluster = c ∧ x.slot = k := by
  simpa using List.find?_some h

/-- A section that has aborted stays so. -/
theorem aborted_markAborted {s : State} {c k cause : Nat} {x y : Section} (h : s.section? c k = some y) (ha : AbortedAs x cause y)
    (n : Nat × Nat) (cause' : Nat) (other : Option Nat) :
    ∃ z, (s.markAborted n cause' other).section? c k = some z ∧ AbortedAs x cause z := by
  cases hz : s.section? n.1 n.2 with
  | none =>
    rw [markAborted_dead cause' other (by rw [hz]; rfl)]
    exact ⟨y, h, ha⟩
  | some z =>
    cases hl : z.live with
    | false =>
      rw [markAborted_dead cause' other (by rw [hz]; exact hl)]
      exact ⟨y, h, ha⟩
    | true =>
      refine ⟨marked n cause' other y, ?_, marked_other (fun hn => ?_) ha⟩
      · rw [section_map (markAborted_sections cause' other hz hl) (marked_name n cause' other), h]
        rfl
      · obtain ⟨hc, hk⟩ := name_of_section h
        rw [← hc, ← hk, hn.1, hn.2, hz] at h
        cases h
        rw [Section.live, ha.1] at hl
        cases hl

theorem aborted_foldl {α : Type} {c k cause : Nat} {x : Section} (f : State → α → State)
    (hf : ∀ s a y, s.section? c k = some y → AbortedAs x cause y → ∃ z, (f s a).section? c k = some z ∧ AbortedAs x cause z) (l : List α)
    {s : State} {y : Section} (h : s.section? c k = some y) (ha : AbortedAs x cause y) :
    ∃ z, (l.foldl f s).section? c k = some z ∧ AbortedAs x cause z := by
  induction l generalizing s y with
  | nil => exact ⟨y, h, ha⟩
  | cons a l ih =>
    obtain ⟨z, hz, haz⟩ := hf s a y h ha
    exact ih hz haz

theorem aborted_cascade {c k cause : Nat} {x : Section} (n : Nat) {s : State} {y : Section} (xs : List (Nat × Nat))
    (h : s.section? c k = some y) (ha : AbortedAs x cause y) : ∃ z, (s.cascade n xs).section? c k = some z ∧ AbortedAs x cause z := by
  induction n generalizing s y xs with
  | zero => exact ⟨y, h, ha⟩
  | succ n ih =>
    obtain ⟨z, hz, haz⟩ := aborted_foldl (fun s (h : (Nat × Nat) × Nat) => s.markAborted h.1 4 (some h.2))
      (fun s a y h ha => aborted_markAborted h ha a.1 4 (some a.2)) (xs.map s.eaters).flatten h ha
    exact ih _ hz haz

/-- An abort of one live section, with whatever consumed from it, leaves that section aborted. -/
theorem aborted_abortSection {s : State} {x : Section} (h : s.section? x.cluster x.slot = some x) (hl : x.live = true) (cause : Nat)
    (other : Option Nat) : ∃ y, (s.abortSection x.cluster x.slot cause other).section? x.cluster x.slot = some y ∧ AbortedAs x cause y := by
  have live : [(x.cluster, x.slot)].filter (fun n => ((s.section? n.1 n.2).map Section.live).getD false) = [(x.cluster, x.slot)] :=
    List.filter_cons_of_pos (by
      rw [h]
      exact hl)
  rw [State.abortSection, State.abortAll, live]
  refine aborted_cascade (y := marked (x.cluster, x.slot) cause other x) 65 _ ?_ ?_
  · rw [List.foldl_cons, List.foldl_nil,
      section_map (markAborted_sections (n := (x.cluster, x.slot)) cause other h hl) (marked_name (x.cluster, x.slot) cause other), h]
    rfl
  · rw [marked, if_pos ⟨rfl, rfl⟩]
    exact ⟨rfl, rfl, rfl, rfl, rfl⟩

/-! ### FXB, FXE, FXA -/

section
variable {s : State} {w : Word} {b : Block} {t : Thread}

/-- How a lane leaves FXE. -/
def fxeEnd (s : State) (e : Env) : Option Section → LaneEnd
  | none => .trap s (mkTrap 1 10 e.th.pc) 0
  | some x =>
    match x.state with
    | .committed => .done (s.deliverSection x) (e.th.pc + 1)
    | .aborted => .stay s
    | .ended => .stay (s.hold e.blk.id e.th.tidx .fxCommit)
    | .opened => .stay ((({ s with seq := s.seq + 1 } : State).mapSection x.cluster x.slot (fun y => { y with
        state := .ended, ended := s.seq, waitsOn := [] })).hold e.blk.id e.th.tidx .fxCommit)

theorem fxe_runs (h : issues s (.fxe w) w b t) :
    exec (.fxe w) s = .next (laneFinish b t w (fxeEnd s ⟨b, t⟩ (s.sectionOf b.id t.tidx))) := by
  refine (runWord_finish h (hasRoom_of_none rfl)).trans (congrArg (fun r => Host.Outcome.next (laneFinish b t w r)) ?_)
  dsimp only
  cases s.sectionOf b.id t.tidx <;> rfl

/-- How a lane leaves FXA. -/
def fxaEnd (w : Word) (s : State) (e : Env) : Option Section → LaneEnd
  | none => .done s (e.th.pc + 1)
  | some x =>
    match x.state with
    | .committed => .done s (e.th.pc + 1)
    | .aborted => .stay s
    | _ =>
      let due := ((e.blk.group? e.gid).map Group.step).getD false && !e.th.inTrap
      .stay ((s.abortSection x.cluster x.slot 1 none).mapThread e.blk.id e.th.tidx (fun t =>
        let t1 : Thread := { t with stepDue := t.stepDue || due }
        if w.hnt.yld then t1.yields else t1))

theorem fxa_runs (h : issues s (.fxa w) w b t) :
    exec (.fxa w) s = .next (laneFinish b t w (fxaEnd w s ⟨b, t⟩ (s.sectionOf b.id t.tidx))) := by
  refine (runWord_finish h (hasRoom_of_none rfl)).trans (congrArg (fun r => Host.Outcome.next (laneFinish b t w r)) ?_)
  dsimp only
  cases s.sectionOf b.id t.tidx <;> rfl

theorem fxaEnd_live {x : Section} (e : Env) (hl : x.live = true) : ∃ f, fxaEnd w s e (some x) =
    .stay ((s.abortSection x.cluster x.slot 1 none).mapThread e.blk.id e.th.tidx f) := by
  unfold fxaEnd
  dsimp only
  rcases hs : x.state with _ | _ | _ | _
  · exact ⟨_, rfl⟩
  · exact ⟨_, rfl⟩
  · rw [Section.live, hs] at hl
    cases hl
  · rw [Section.live, hs] at hl
    cases hl

/-- When an FXB came to its wait: where it stands among those that wait for a slot. -/
def fxStamp (s : State) (t : Thread) : Nat := match t.wait with
  | some (.fxSlot n) => n
  | _ => s.seq

/-- How a lane without a section leaves FXB. -/
theorem fxb_runs (h : issues s (.fxb w) w b t) (hn : s.sectionOf b.id t.tidx = none) :
    exec (.fxb w) s = .next (laneFinish b t w (if s.fxFree b.cluster = [] ∨ s.fxAhead b.cluster (fxStamp s t) ≠ 0 then
      .stay (({ s with seq := s.seq + 1 } : State).hold b.id t.tidx (.fxSlot (fxStamp s t)))
    else .done (s.openSection ⟨b, t⟩ w ((s.fxFree b.cluster).headD 0)) (t.pc + 1))) := by
  refine (runWord_finish h (hasRoom_of_none rfl)).trans (congrArg (fun r => Host.Outcome.next (laneFinish b t w r)) ?_)
  dsimp only
  rw [hn]
  dsimp only
  rw [hn, Option.isSome_none, if_neg Bool.false_ne_true]
  rfl

end

/-- Settles O42: the three words by the state of the thread's section, and the abort by the marks that it makes. -/
theorem sectionWordsComplete : Obligations.SectionWordsComplete := by
  intro w s b t e free
  refine ⟨fun hi hn => ?_, fun hi => ⟨fun hn => ?_, fun x hx => ⟨fun hs => ?_, fun hs => ?_, fun hs => ?_⟩⟩,
    fun hi => ⟨fun hn => ?_, fun x hx hs => ?_, fun x hx hl hsec => ?_⟩⟩
  · intro ahead
    rw [fxb_runs hi hn]
    refine ⟨fun k hk hahead => ⟨?_, ?_⟩, fun hfull => ⟨_, congrArg (fun r => Host.Outcome.next (laneFinish b t w r)) (if_pos hfull)⟩⟩
    · have hk : (s.fxFree b.cluster).head? = some k := hk
      have some' : s.fxFree b.cluster ≠ [] := fun h => by rw [h] at hk; cases hk
      rw [if_neg (by
        rintro (h | h)
        · exact some' h
        · exact h hahead), List.headD_eq_head?_getD, hk, Option.getD_some]
      exact congrArg Host.Outcome.next (pass_of_complete (openSection_quiet (issues_quiet hi rfl) e w k))
    · exact ⟨openedBy e w k, openSection_section (e := e) (List.mem_of_head? hk) w, rfl, rfl, rfl, rfl, rfl, rfl, rfl⟩
  · rw [fxe_runs hi, hn]
    rfl
  · rw [fxe_runs hi, hx, fxeEnd, hs]
    exact congrArg Host.Outcome.next (pass_of_complete (deliverSection_quiet (issues_quiet hi rfl) x))
  · rw [fxe_runs hi, hx, fxeEnd, hs]
    rfl
  · rw [fxe_runs hi, hx, fxeEnd, hs]
    rfl
  · rw [fxa_runs hi, hn]
    exact congrArg Host.Outcome.next (finish_passes hi rfl)
  · rw [fxa_runs hi, hx, fxaEnd, hs]
    exact congrArg Host.Outcome.next (finish_passes hi rfl)
  · obtain ⟨f, hf⟩ := fxaEnd_live (w := w) (s := s) e hl
    have same := abortAll_mem s [(x.cluster, x.slot)] 1 none
    obtain ⟨y, hy, hstate, hcause, htarget, hblk, htidx⟩ := aborted_abortSection hsec hl 1 none
    have run : exec (.fxa w) s = .next ((s.abortSection x.cluster x.slot 1 none).mapThread b.id t.tidx f).endWord := by
      rw [fxa_runs hi, hx, hf]
      rfl
    rw [State.abortSection] at hy run
    generalize s.abortAll [(x.cluster, x.slot)] 1 none = s1 at hy run same
    exact ⟨_, y, run, hy, hstate, hcause, htarget, hblk, htidx, same⟩

end Sys2Proof.Proofs
end


section
/-! Pending operations (O43). -/

namespace Sys2Proof.Proofs

open Sys2Proof Sys2Proof.Machine Sys2Proof.Laws

/-! ### A replay whose last thread has exited before its store is performed -/

/-- A store of one byte at address 0 that is not performed yet. -/
def lastStore : Pend := ⟨0, .st, 0, .store [(.phys 0, [1])], none⟩

/-- A thread that has exited while its store is outstanding (R190). -/
def exitedThread : Thread := { Thread.start 0 0 with life := .exited, cnt := ⟨0, 1, 0, 0⟩, pend := [lastStore] }

def exitedBlock : Block := { Block.lone 0 .running with threads := [exitedThread] }

/-- A machine that replays a trace without records in the block of that thread. -/
def replayedState : State := { State.reset with blocks := [(0, exitedBlock)], replaying := [⟨0, 0, [], 0⟩] }

/-- Refutes O43: where the block is a replay (R386) and all its threads have exited, the end of its last operation is the end of the
replay, which takes the block from its core. So the thread is not left, and the step is more than the operation. -/
theorem not_operationsArePerformed : ¬ Obligations.OperationsArePerformed := by
  intro h
  obtain ⟨-, h⟩ := h replayedState exitedBlock exitedThread lastStore (by decide +kernel) (by decide +kernel) (by decide +kernel)
    (by decide) (by decide +kernel) rfl rfl
  obtain ⟨-, -, h⟩ := h rfl rfl
  obtain ⟨h, -⟩ := h (by decide +kernel) (by decide +kernel)
  obtain ⟨hrun, -, x, hx, -⟩ := h 0 [1] rfl
  have hgone : threadAfter (exec (.storePerformed 0 0 0) replayedState) 0 0 = none := by decide +kernel
  have hthread : threadAfter (exec (.storePerformed 0 0 0) replayedState) 0 0 = some x := by
    refine (congrArg (fun o => threadAfter o 0 0) hrun).trans hx
  rw [hthread] at hgone
  cases hgone

end Sys2Proof.Proofs
end


section
/-! The events of the host port (O44). -/

namespace Sys2Proof.Proofs

open Sys2Proof Sys2Proof.Machine Sys2Proof.Laws

/-- A load of one register from a peer page that has not returned yet. -/
def lastLoad : Pend := ⟨0, .ld, 0, .load (.phys (2 ^ 65)) 0 4 1 false false false [some 0], none⟩

/-- A thread that has exited while its load is outstanding (R190). -/
def loadingThread : Thread := { Thread.start 0 0 with life := .exited, cnt := ⟨1, 0, 0, 0⟩, pend := [lastLoad] }

def loadingBlock : Block := { Block.lone 0 .running with threads := [loadingThread] }

/-- A machine that replays a trace without records in the block of that thread. -/
def loadingState : State := { State.reset with blocks := [(0, loadingBlock)], replaying := [⟨0, 0, [], 0⟩] }

/-- Refutes O44: where the block is a replay (R386) and all its threads have exited, a read error that ends its last load ends the replay,
and the thread is not left to receive the all ones. -/
theorem not_portEventsComplete : ¬ Obligations.PortEventsComplete := by
  rintro ⟨h, -⟩
  obtain ⟨s', x, hrun, hx, -⟩ := h loadingState loadingBlock loadingThread lastLoad false (.phys (2 ^ 65)) 0 4 1 false false false [some 0]
    (by decide +kernel) (by decide +kernel) (by decide +kernel) (by decide +kernel) rfl (by decide +kernel) (by decide +kernel)
    (by decide +kernel)
  have hgone : threadAfter (exec (.portReadError 0 0 0) loadingState) 0 0 = none := by decide +kernel
  have hthread : threadAfter (exec (.portReadError 0 0 0) loadingState) 0 0 = some x :=
    (congrArg (fun o => threadAfter o 0 0) hrun).trans hx
  rw [hthread] at hgone
  cases hgone

end Sys2Proof.Proofs
end


section
/-! Retirement (O50). -/

namespace Sys2Proof.Proofs

open Sys2Proof Sys2Proof.Machine Sys2Proof.Laws

/-! ### A RETIRE while a bit of another device waits -/

/-- A record of two blocks, without a bitmap. -/
def pairRecord : LaunchRec :=
  { LaunchRec.ofBytes [] with levels := [⟨1, 1, 1, 0, 0⟩, ⟨1, 1, 1, 0, 0⟩, ⟨2, 1, 1, 0, 0⟩], nlev := 3 }

def retiredBlock : Block := { Block.lone 0 .retired with threads := [] }

/-- A launch before its last pass, for which a bit of another device waits (R361). -/
def remoteLaunch : Launch :=
  { Launch.make 1 0 0 (.queue 0) pairRecord 0 [] [] 0 0 with state := .dealing, passes := 2, remote := [1] }

def retiringState : State := { State.reset with blocks := [(0, retiredBlock)], launches := [remoteLaunch] }

/-- The bits of other devices that wait, after a step. -/
def remoteAfter (o : Host.Outcome State Fault Refusal) (lid : Nat) : Option (List Nat) :=
  match o with
  | .next s => (s.launch? lid).map Launch.remote
  | _ => none

/-- Refutes O50: RETIRE writes the bits that wait, those of other devices among them. So the launch changes in more than its count and
the bit of the block. -/
theorem not_retirementAndCompletion : ¬ Obligations.RetirementAndCompletion := by
  rintro ⟨-, h, -⟩
  obtain ⟨s', hrun, -, hl, -⟩ := h retiringState retiredBlock remoteLaunch (by decide +kernel) rfl (by decide +kernel) (by decide +kernel)
    (by decide +kernel) (by decide +kernel) (by decide +kernel) (by decide +kernel) (by decide +kernel) (by decide +kernel)
  have hwritten : remoteAfter (exec (.retireMsg 0) retiringState) 1 = some [] := by decide +kernel
  have hleft : remoteAfter (exec (.retireMsg 0) retiringState) 1 = some [1] :=
    (congrArg (fun o => remoteAfter o 1) hrun).trans (congrArg (Option.map Launch.remote) hl)
  rw [hleft] at hwritten
  cases hwritten

end Sys2Proof.Proofs
end


section
/-! Engine commands at work (O46) and collectives (O47). -/

namespace Sys2Proof.Proofs

open Sys2Proof Sys2Proof.Machine Sys2Proof.Laws

/-! ### The list of commands -/

theorem cmd_mapCmd (s : State) (n id : Nat) (f : Cmd → Cmd) (hf : ∀ c, (f c).id = c.id) :
    (s.mapCmd id f).cmd? n = (s.cmd? n).map (fun c => if n = id then f c else c) := find_mapWhere Cmd.id f hf s.cmds n id

theorem cmd_mapCmd_same {s : State} {c : Cmd} (hc : s.cmd? c.id = some c) {f : Cmd → Cmd} (hf : ∀ c, (f c).id = c.id) :
    (s.mapCmd c.id f).cmd? c.id = some (f c) := by
  rw [cmd_mapCmd s c.id c.id f hf, hc, Option.map_some, if_pos rfl]

theorem mem_dropCmd {s : State} {c : Cmd} {id : Nat} (h : c ∈ s.cmds) (hn : c.id ≠ id) : c ∈ (s.dropCmd id).cmds :=
  List.mem_filter.mpr ⟨h, bne_iff_ne.mpr hn⟩

theorem mem_mapCmd {s : State} {c : Cmd} {id : Nat} (h : c ∈ s.cmds) (hn : c.id ≠ id) (f : Cmd → Cmd) : c ∈ (s.mapCmd id f).cmds :=
  List.mem_map.mpr ⟨c, h, if_neg hn⟩

/-! ### Acceptance and a timed start (R275) -/

/-- The lanes of a command that is accepted count it down. -/
def countDown (s : State) (c : Cmd) : State :=
  if c.gone then s else c.lanes.foldl (fun s t => s.mapThread c.blk t (fun t => { t with cnt := t.cnt.sub .cp })) s

theorem countDown_frame (s : State) (c : Cmd) : { countDown s c with blocks := s.blocks } = s := by
  unfold countDown
  split
  · rfl
  · generalize c.lanes = ks
    induction ks generalizing s with
    | nil => rfl
    | cons k ks ih => exact congrArg (fun x : State => { x with blocks := s.blocks }) (ih (s.mapThread c.blk k _))

section
variable {s : State} {c : Cmd} (hc : s.cmd? c.id = some c)
include hc

theorem accept_spec (ha : s.acceptable c = true) (ho : c.job.over = false) :
    ∃ s' d, exec (.commandAccept c.id) s = .next s' ∧ s'.cmd? c.id = some d ∧ d.job = c.job ∧ d.lanes = [] ∧
      d.stage = (if (c.start.map (fun t => decide (s.ptime.toNat < t.toNat))).getD false then .held else .running) ∧ s'.mem = s.mem ∧
      (c.gone = false → ∀ k x, s.thread? c.blk k = some x → c.lanes = [k] →
        s'.thread? c.blk k = some { x with cnt := x.cnt.sub .cp }) := by
  let f (d : Cmd) : Cmd := { d with
    stage := if (c.start.map (fun t => decide (s.ptime.toNat < t.toNat))).getD false then .held else .running, lanes := [] }
  have run : exec (.commandAccept c.id) s = .next (countDown (s.mapCmd c.id f) c).tick := by
    show execCommandAccept c.id s = _
    rw [execCommandAccept, hc]
    dsimp only
    rw [ha, ho]
    rfl
  have same := countDown_frame (s.mapCmd c.id f) c
  refine ⟨_, f c, run, ?_, rfl, rfl, rfl, ?_, fun hg k x hx hl => ?_⟩
  · have hcmds : (countDown (s.mapCmd c.id f) c).cmds = (s.mapCmd c.id f).cmds := (congrArg State.cmds same :)
    exact (congrArg (List.find? _) hcmds).trans (cmd_mapCmd_same hc (fun _ => rfl))
  · exact (congrArg State.mem same :)
  · have one : countDown (s.mapCmd c.id f) c = (s.mapCmd c.id f).mapThread c.blk k (fun t => { t with cnt := t.cnt.sub .cp }) := by
      rw [countDown, if_neg (by rw [hg]; exact Bool.false_ne_true), hl]
      rfl
    rw [one]
    refine (state_thread_mapThread (s.mapCmd c.id f) c.blk k c.blk k (fun t => { t with cnt := t.cnt.sub .cp }) (fun _ => rfl)).trans ?_
    rw [if_pos ⟨rfl, rfl⟩]
    exact congrArg (Option.map _) hx

theorem timedStart_spec {v : W64} (hs : c.stage = .held) (hv : c.start = some v) :
    ∃ s' d, exec (.timedCommandStart c.id) s = .next s' ∧ s'.cmd? c.id = some d ∧ d = { c with stage := .running } ∧
      v.toNat ≤ s'.ptime.toNat ∧ s'.mem = s.mem := by
  let f (d : Cmd) : Cmd := { d with stage := .running }
  let s0 : State := { s with ptime := if s.ptime.toNat < v.toNat then v else s.ptime }
  have run : exec (.timedCommandStart c.id) s = .next (s0.mapCmd c.id f).tick := by
    show execTimedCommandStart c.id s = _
    rw [execTimedCommandStart, hc]
    dsimp only
    rw [if_neg (fun h => h hs), hv]
    rfl
  refine ⟨_, _, run, cmd_mapCmd_same (s := s0) (f := f) hc (fun _ => rfl), rfl, ?_, rfl⟩
  show v.toNat ≤ (if s.ptime.toNat < v.toNat then v else s.ptime).toNat
  split
  · exact Nat.le_refl _
  · next h => exact Nat.le_of_not_lt h

/-! ### A landing of a copy with one target (R281, R282) -/

section
variable {dir : Nat} {r : Shape} {org : List Int} {dst : Nat} {evict fill : Bool} {t : Target} {first count : Nat}
  (hj : c.job = .copy dir r org dst evict fill [t]) (hs : c.stage = .running) (hr : holdsRun first count t.todo = true)
  (hp : s.slotPending t c.id = false)
include hj hs hr hp

theorem landing_error {e : EngErr} (he : s.movePiece c dir r org dst fill t ((List.range count).map (fun k => first + k)) = .error e) :
    exec (.copyLanding c.id 0 first count) s = .next (s.engineError c e).tick := by
  show execCopyLanding c.id 0 first count s = _
  rw [execCopyLanding, hc]
  dsimp only
  rw [hj]
  dsimp only [List.getElem?_cons_zero]
  rw [if_neg (by simp [hs, hr, hp]), he]

/-- What is left of the target after the piece. -/
def landed (t : Target) (first count : Nat) : Target := { t with todo := cutRun first count t.todo }

theorem landing_moves {s1 : State} {ds : List (List Byte)} (hd : dir = 1 → (landed t first count).todo ≠ [])
    (he : s.movePiece c dir r org dst fill t ((List.range count).map (fun k => first + k)) = .ok (s1, ds)) :
    exec (.copyLanding c.id 0 first count) s =
      let s2 := s1.mapCmd c.id (fun x => { x with job := .copy dir r org dst evict fill [landed t first count], read := [] })
      let s3 := if (landed t first count).todo = [] then s2.dropCmd c.id else s2
      .next ((s3.countLanding t.blk t.bar (fun e => decide (s.lastWrite < e.id) && e.knows (.cmd c.id))).landOn t.blk t.bar
        (count * r.elem)).tick := by
  show execCopyLanding c.id 0 first count s = _
  rw [execCopyLanding, hc]
  dsimp only
  rw [hj]
  dsimp only [List.getElem?_cons_zero]
  rw [if_neg (by simp [hs, hr, hp]), he]
  dsimp only
  rw [if_neg (by
    rintro ⟨h1, h2⟩
    exact hd h1 h2)]
  have rest : ([t] : List Target).zipIdx.map (fun x => if x.2 = 0 then landed t first count else x.1) = [landed t first count] := rfl
  have lone : (1 < [t].length) = False := eq_false (Nat.lt_irrefl 1)
  have ended : (Job.copy dir r org dst evict fill [landed t first count]).over = ((landed t first count).todo.isEmpty && true) := rfl
  unfold landed at rest ended ⊢
  rw [rest, ended, Bool.and_true]
  simp only [List.isEmpty_iff, lone, if_false]

end

/-! ### The Gleaner (R287) -/

theorem gleaner_spec {table list n k0 tlen next : Nat} {r : Shape} {b : Block} {lb : List Byte} {page : Nat} (hlt : c.id < s.seq)
    (hj : c.job = .gleaner table list n k0 tlen false r next) (hs : c.stage = .running) (hb : s.block? c.blk = some b)
    (hl : s.engineRead c (list + 4 * next) 4 4 = .ok lb) (hp : s.tableEntry c table tlen (leNat lb) = .ok page) :
    ∃ s', exec (.gleanerWalk c.id) s = .next s' ∧ s'.mem = s.mem ∧ s'.blocks = s.blocks ∧
      (c.pageCopy b s.seq (k0 + next) page r) ∈ s'.cmds := by
  let s2 : State := { s with seq := s.seq + 1, cmds := s.cmds ++ [c.pageCopy b s.seq (k0 + next) page r] }
  let s3 : State := if n ≤ next + 1 then s2.dropCmd c.id
    else s2.mapCmd c.id (fun x => { x with job := .gleaner table list n k0 tlen false r (next + 1) })
  have run : exec (.gleanerWalk c.id) s = .next s3.tick := by
    show execGleanerWalk c.id s = _
    rw [execGleanerWalk, hc]
    dsimp only
    rw [hj, hb]
    dsimp only
    rw [if_neg (fun h => h hs), hl]
    dsimp only
    rw [hp]
    rfl
  have new : c.pageCopy b s.seq (k0 + next) page r ∈ s2.cmds := List.mem_append_right _ (List.mem_singleton.mpr rfl)
  have other : (c.pageCopy b s.seq (k0 + next) page r).id ≠ c.id := (Nat.ne_of_lt hlt).symm
  refine ⟨_, run, ?_, ?_, ?_⟩
  · show s3.mem = s.mem
    unfold s3
    split <;> rfl
  · show s3.blocks = s.blocks
    unfold s3
    split <;> rfl
  · show _ ∈ s3.cmds
    unfold s3
    split
    · exact mem_dropCmd new other
    · exact mem_mapCmd new other _

/-! ### The Sheaf (R287, R288) -/

/-- The job of a replay at a later point. -/
def replayAt (r : Region) (bar : Nat) (s : State) (cmd : Nat) (next : List Nat) (locked : List Replayed) : State :=
  s.mapCmd cmd (fun x => { x with job := .sheaf r bar next locked })

/-- What a replay does next, of the step that the free value takes. -/
def sheafStep (s : State) (c : Cmd) (r : Region) (bar : Nat) (next : List Nat) (locked : List Replayed) : Option (Replayed ⊕ Nat) → State
  | none => (s.dropCmd c.id).engineArrive c bar
  | some (.inr k) =>
    match s.lockBin c r k with
    | .error e => s.engineError c e
    | .ok x => replayAt r bar s c.id next (x :: locked)
  | some (.inl x) =>
    if x.todo = [] then
      replayAt r bar (s.resetBin c x) c.id (next.map (fun n => if n = x.sub then n + 4 else n)) (locked.filter (fun y => y.sub != x.sub))
    else
      replayAt r bar (s.writeRun c x (x.nextRun (fun i => s.pick (951 + i))).1) c.id next
        ({ x with todo := (x.nextRun (fun i => s.pick (951 + i))).2 } :: locked.filter (fun y => y.sub != x.sub))

theorem sheaf_runs {r : Region} {bar : Nat} {next : List Nat} {locked : List Replayed} (hj : c.job = .sheaf r bar next locked)
    (hs : c.stage = .running) (hb : s.regionBusy c r = false) :
    exec (.sheafReplay c.id) s = .next (sheafStep s c r bar next locked
      (sheafSteps r next locked)[s.pick 950 % (sheafSteps r next locked).length]?).tick := by
  show execSheafReplay c.id s = _
  rw [execSheafReplay, hc]
  dsimp only
  rw [hj]
  dsimp only
  rw [if_neg (by simp [hs, hb])]
  rcases (sheafSteps r next locked)[s.pick 950 % (sheafSteps r next locked).length]? with _ | x | k
  · rfl
  · dsimp only [sheafStep]
    split <;> rfl
  · dsimp only [sheafStep]
    cases s.lockBin c r k <;> rfl

/-- A replay with one step that it can do does that one. -/
theorem sheaf_runs_one {r : Region} {bar : Nat} {next : List Nat} {locked : List Replayed} (hj : c.job = .sheaf r bar next locked)
    (hs : c.stage = .running) (hb : s.regionBusy c r = false) {y : Replayed ⊕ Nat} (hy : sheafSteps r next locked = [y]) :
    exec (.sheafReplay c.id) s = .next (sheafStep s c r bar next locked (some y)).tick := by
  rw [sheaf_runs hc hj hs hb, hy, List.length_singleton, Nat.mod_one]
  rfl

/-! ### Faults that an engine finds (R284) -/

theorem engineFault_ecc (hs : c.stage = .running) :
    exec (.engineFault c.id true) s = .next (s.commandFault c ⟨0, 0xC, 0, Need.load⟩).tick := by
  show execEngineFault c.id true s = _
  rw [execEngineFault, hc]
  dsimp only
  rw [if_neg (fun h => h hs), if_pos rfl]

theorem engineFault_forbidden (hs : c.stage = .running) {va : Nat} {n : Need} {e : EngErr} (hn : c.nextAccess = some (va, n))
    (he : s.engineAt c va n = .error e) (h6 : e.cause = 6) :
    exec (.engineFault c.id false) s = .next (s.commandFault c e).tick := by
  show execEngineFault c.id false s = _
  rw [execEngineFault, hc]
  dsimp only
  rw [if_neg (fun h => h hs), if_neg Bool.false_ne_true, hn]
  dsimp only
  rw [he]
  exact congrArg (fun x : State => Host.Outcome.next x.tick) (if_pos h6)

end

/-- Settles O46: each kind of command by the equation of its event. -/
theorem engineCommandsProceed : Obligations.EngineCommandsProceed := by
  intro s c hc
  refine ⟨accept_spec hc, fun v => timedStart_spec hc, ?_, ?_, ?_, fun hs => ⟨engineFault_ecc hc hs, fun va n e => engineFault_forbidden hc hs⟩⟩
  · intro dir r org dst evict fill t first count hj hs hr hp is
    refine ⟨fun e => landing_error hc hj hs hr hp, fun s1 ds he => ?_⟩
    intro t' s2 land
    refine ⟨fun (hleft : (landed t first count).todo ≠ []) => ?_, fun (hdone : (landed t first count).todo = []) hdir => ?_⟩
    · rw [landing_moves hc hj hs hr hp (fun _ => hleft) he]
      dsimp only
      rw [if_neg hleft]
      rfl
    · rw [landing_moves hc hj hs hr hp (fun h => absurd h hdir) he]
      dsimp only
      rw [if_pos hdone]
      rfl
  · intro table list n k0 tlen r next b lb page hlt hj hs hb hl hp
    exact gleaner_spec hc hlt hj hs hb hl hp
  · intro r bar next locked hj hs hb steps set
    refine ⟨fun h0 => ?_, fun k x h1 hx => ?_, fun k e h1 hx => ?_, fun x h1 => ?_⟩
    · rw [sheaf_runs hc hj hs hb, show sheafSteps r next locked = [] from h0]
      rfl
    · rw [sheaf_runs_one hc hj hs hb h1, sheafStep, hx]
      rfl
    · rw [sheaf_runs_one hc hj hs hb h1, sheafStep, hx]
    · intro rest
      refine ⟨fun ht => ?_, fun ht =>
        ⟨(x.nextRun (fun i => s.pick (951 + i))).1, (x.nextRun (fun i => s.pick (951 + i))).2, ?_⟩⟩
      · rw [sheaf_runs_one hc hj hs hb h1, sheafStep, if_pos ht]
        rfl
      · rw [sheaf_runs_one hc hj hs hb h1, sheafStep, if_neg ht]
        rfl

/-! ### Collectives (R289 to R294) -/

section
variable {s : State} {c : Cmd} {r : CollRec} {status bar st flags : Nat} {peers : List Peer}

/-- A collective at a later stage, with what it then knows of the other members. -/
def collAt (r : CollRec) (status bar : Nat) (s : State) (cmd st flags : Nat) (ps : List Peer) : State :=
  s.mapCmd cmd (fun x => { x with job := .winnow r status bar st flags ps })

theorem statusBytes_eq (r : CollRec) (flags : Nat) :
    r.statusBytes flags = leBytes 8 (1 + flags + (r.devices.length - 1) * 2 ^ 32) := rfl

theorem collDone_written {s1 : State} (h : s.writeSpan c status (r.statusBytes flags) = .ok s1) :
    s.collDone c r status bar flags = (s1.dropCmd c.id).engineArrive c bar := by
  rw [State.collDone, h]

theorem agrees_iff (p : Peer) (r : CollRec) : agrees p r = true ↔
    p.kind = r.kind ∧ p.fmt = r.fmt ∧ p.rop = r.rop ∧ p.arg = r.arg ∧ p.count = r.count ∧ p.members = r.members := by
  simp only [agrees, Bool.and_eq_true, beq_iff_eq, and_assoc]

variable (hc : s.cmd? c.id = some c) (hj : c.job = .winnow r status bar st flags peers) (hs : c.stage = .running)
include hc hj hs

theorem exchange_runs {ps : List Peer} (h0 : st = 0) (ht : s.collTurn c (r.cid % 4) = true)
    (hp : ps.map Peer.dev = r.devices.filter (fun p => p != s.pod.index)) :
    exec (.collectiveExchange c.id ps) s = .next (s.mapCmd c.id (fun x => { x with
      job := if ps.all (fun p => agrees p r) then .winnow r status bar 1 flags ps else .winnow r status bar 3 4 ps })).tick := by
  show execCollectiveExchange c.id ps s = _
  rw [execCollectiveExchange, hc]
  dsimp only
  rw [hj]
  dsimp only
  rw [if_neg (by
    rintro (h | h | h | h)
    · exact h hs
    · exact h h0
    · rw [ht] at h
      cases h
    · exact h hp)]

theorem flagFlit_runs {bad : Bool} {us : List Update} {s1 : State} (hk : r.kind = 4) (h1 : st = 1)
    (hu : s.ownChunk c r peers = .ok us) (hw : s.writeSpan c r.pnd (r.pending s.pod.index us peers) = .ok s1) :
    exec (.flagFlit c.id bad) s = .next (collAt r status bar s1 c.id 2
      (flags + 2 * (bad || us.any Update.bad || peers.any Peer.bad).toNat) peers).tick := by
  show execFlagFlit c.id bad s = _
  rw [execFlagFlit, hc]
  dsimp only
  rw [hj]
  dsimp only
  rw [if_neg (by
    rintro (h | h | h)
    · exact h hs
    · exact h hk
    · exact h h1), hu]
  dsimp only
  rw [hw]
  rfl

/-- What a collective writes as it ends, where nothing stands against it. -/
def collOut (s : State) (c : Cmd) (r : CollRec) (st flags : Nat) (peers : List Peer) : Except EngErr State :=
  if st = 3 ∨ flags ≠ 0 then .ok s
  else if r.kind = 4 then s.commitUpdate c r
  else match s.sources c r peers with
    | .error e => .error e
    | .ok srcs => s.writeSpan c r.dst (r.results s.treePick srcs (r.rankOf s.pod.index))

theorem collectiveEnd_lost (h3 : st ≠ 3) :
    exec (.collectiveEnd c.id true) s =
      .next ((collAt r status bar (s.partialWrites c r st peers) c.id 3 8 peers).collDone c r status bar 8).tick := by
  show execCollectiveEnd c.id true s = _
  rw [execCollectiveEnd, hc]
  dsimp only
  rw [hj]
  dsimp only
  rw [if_neg (fun h => h hs), if_pos (by rw [Bool.true_and, bne_iff_ne]; exact h3)]
  rfl

theorem collectiveEnd_runs {lost : Bool} {s1 : State} (hl : lost = false ∨ st = 3) (hst : st = 3 ∨ st = 2 ∨ (st = 1 ∧ r.kind ≠ 4))
    (ho : collOut s c r st flags peers = .ok s1) :
    exec (.collectiveEnd c.id lost) s = .next ((collAt r status bar s1 c.id 3 flags peers).collDone c r status bar flags).tick := by
  show execCollectiveEnd c.id lost s = _
  rw [execCollectiveEnd, hc]
  dsimp only
  rw [hj]
  dsimp only
  rw [if_neg (fun h => h hs), if_neg (by rcases hl with h | h <;> simp [h]), if_pos hst]
  show (match collOut s c r st flags peers with
    | .error e => Host.Outcome.next (s.collError c e).tick
    | .ok s1 => .next ((collAt r status bar s1 c.id 3 flags peers).collDone c r status bar flags).tick) = _
  rw [ho]

end

/-- Settles O47: each event of a collective by its equation. -/
theorem collectivesProceed : Obligations.CollectivesProceed := by
  intro s c r status bar st flags peers hc hj hs next
  refine ⟨fun ps h0 ht hp => ?_, fun bad us s1 hk h1 hu hw => ?_, fun srcs s1 hk h1 hf hsrc hw => ?_, fun s1 hk h2 hf hw => ?_,
    fun h3 lost => ?_, collectiveEnd_lost hc hj hs, fun s1 => collDone_written⟩
  · rw [exchange_runs hc hj hs h0 ht hp]
    refine ⟨fun hall => ?_, fun ⟨p, hmem, hdiff⟩ => ?_⟩
    · rw [if_pos (List.all_eq_true.mpr (fun p hp => (agrees_iff p r).mpr (hall p hp)))]
    · rw [if_neg (fun hall => by
        obtain ⟨_, _, _, _, hcount, _⟩ := (agrees_iff p r).mp (List.all_eq_true.mp hall p hmem)
        exact hdiff hcount)]
  · intro skip
    rw [flagFlit_runs hc hj hs hk h1 hu hw]
    have two : 2 * skip.toNat = if skip then 2 else 0 := by cases skip <;> rfl
    exact congrArg (fun n => Host.Outcome.next (next s1 2 (flags + n) peers).tick) two
  · have out : collOut s c r st flags peers = .ok s1 := by
      rw [collOut, if_neg (by omega), if_neg hk, hsrc]
      exact hw
    rw [collectiveEnd_runs hc hj hs (.inl rfl) (.inr (.inr ⟨h1, hk⟩)) out, hf]
    rfl
  · have out : collOut s c r st flags peers = .ok s1 := by
      rw [collOut, if_neg (by omega), if_pos hk]
      exact hw
    rw [collectiveEnd_runs hc hj hs (.inl rfl) (.inr (.inl h2)) out, hf]
    rfl
  · have out : collOut s c r st flags peers = .ok s := by
      rw [collOut, if_pos (.inl h3)]
    exact collectiveEnd_runs hc hj hs (.inr h3) (.inl h3) out

end Sys2Proof.Proofs
end


section
/-! The granary: passes, the close of a contraction, drains, and the arrival of a CTRS (O48). -/

namespace Sys2Proof.Proofs

open Sys2Proof Sys2Proof.Machine Sys2Proof.Laws

/-! ### Many writes to a table -/

section
variable {α β : Type} [DecidableEq α] (d : α) {n : Nat} (key : β → Nat) (val : β → α)

/-- A place that none of the writes names keeps its value. -/
theorem read_foldl_put_other : ∀ (es : List β) (m : NMap α), (∀ e ∈ es, key e ≠ n) →
    NMap.read d (es.foldl (fun m e => NMap.put d m (key e) (val e)) m) n = NMap.read d m n
  | [], _, _ => rfl
  | e :: es, m, h => by
    rw [List.foldl_cons, read_foldl_put_other es _ (fun x hx => h x (List.mem_cons_of_mem _ hx)),
      read_put_other d m _ (h e List.mem_cons_self).symm]

/-- A place to which all writes agree on the value holds it. -/
theorem read_foldl_put_agreed {v : α} : ∀ (es : List β) (m : NMap α), (∀ e ∈ es, key e = n → val e = v) →
    ((∃ e ∈ es, key e = n) ∨ NMap.read d m n = v) → NMap.read d (es.foldl (fun m e => NMap.put d m (key e) (val e)) m) n = v
  | [], m, _, h => h.resolve_left (fun ⟨_, hm, _⟩ => by cases hm)
  | e :: es, m, ha, h => by
    refine read_foldl_put_agreed es _ (fun x hx => ha x (List.mem_cons_of_mem _ hx)) ?_
    by_cases he : key e = n
    · refine .inr ?_
      show NMap.read d (NMap.put d m (key e) (val e)) n = v
      rw [he, read_put_same]
      exact ha e List.mem_cons_self he
    · refine h.imp (fun ⟨x, hx, hn⟩ => ?_) (fun hm => (read_put_other d m _ (Ne.symm he)).trans hm)
      rcases List.mem_cons.mp hx with rfl | hx
      · exact absurd hn he
      · exact ⟨x, hx, hn⟩

end

/-- An element of a list after a change at one place. -/
theorem getElem_mapPlace {α : Type} (xs : List α) (i j : Nat) (f : α → α) :
    (xs.zipIdx.map (fun (x, k) => if k = i then f x else x))[j]? = (xs[j]?).map (fun x => if j = i then f x else x) := by
  rw [List.getElem?_map, List.getElem?_zipIdx, Option.map_map]
  refine congrArg (fun g => (xs[j]?).map g) (funext (fun x => ?_))
  show (if 0 + j = i then f x else x) = _
  rw [Nat.zero_add]

/-! ### Passes (R255) -/

theorem Pass.before_iff (p q : Pass) : p.before q = true ↔ q.cls < p.cls ∨ (p.cls = q.cls ∧ p.age < q.age) := by
  simp [Pass.before]

/-- The entry that stands before all others is the one that is granted. -/
theorem granted_of_first {ps : List Pass} {p : Pass} (hp : p ∈ ps)
    (hb : ∀ q ∈ ps, q ≠ p → q.cls < p.cls ∨ (q.cls = p.cls ∧ p.age < q.age)) :
    ps.find? (fun p => ps.all (fun q => q == p || p.before q)) = some p := by
  have first : ps.all (fun q => q == p || p.before q) = true := List.all_eq_true.mpr (fun q hq => by
    by_cases h : q = p
    · rw [h, beq_self_eq_true, Bool.true_or]
    · rw [(Pass.before_iff p q).mpr ((hb q hq h).imp_right (fun ⟨hc, ha⟩ => ⟨hc.symm, ha⟩)), Bool.or_true])
  rcases hf : ps.find? (fun p => ps.all (fun q => q == p || p.before q)) with _ | x
  · exact absurd first (List.find?_eq_none.mp hf p hp)
  · have found : ps.all (fun q => q == x || x.before q) = true := List.find?_some (p := fun p => ps.all (fun q => q == p || p.before q)) hf
    have hx := List.all_eq_true.mp found p hp
    by_cases h : p = x
    · rw [h]
    · rw [beq_eq_false_iff_ne.mpr h, Bool.false_or, Pass.before_iff] at hx
      rcases hb x (List.mem_of_find?_eq_some hf) (Ne.symm h) with h1 | ⟨h1, h2⟩ <;> omega

/-- The entry of a table that a step has changed. -/
theorem cluster_mapped (s : State) (k : Nat) (f : Cluster → Cluster) : (s.mapCluster k f).tick.cluster k = f (s.cluster k) :=
  (cluster_mapCluster s k f k).trans (if_pos rfl)

theorem passGrant_runs {s : State} {k : Nat} {p : Pass}
    (hp : (s.cluster k).passes.find? (fun p => (s.cluster k).passes.all (fun q => q == p || p.before q)) = some p) :
    exec (.enginePassGrant k) s =
      .next (s.mapCluster k (fun c => { c with passes := c.passes.filter (fun q => q != p) })).tick := by
  show execEnginePassGrant k s = _
  rw [execEnginePassGrant, hp]

/-! ### The close of a contraction (R255, R270) -/

/-- The cells of a contraction, in the order in which they are closed. -/
def cellsOf (x : Inst) : List (Nat × Nat) :=
  ((List.range x.params.rows).map (fun i => (List.range x.params.cols).map (fun j => (i, j)))).flatten

theorem mem_cellsOf (x : Inst) (i j : Nat) : (i, j) ∈ cellsOf x ↔ i < x.params.rows ∧ j < x.params.cols := by
  simp [cellsOf]

section
variable {sl : Slot} {x : Inst} (hx : sl.inst = some x) (b : Block)

/-- What the close of a contraction writes: the place of each cell, and its new value with its flags. -/
def closeWrites (sl : Slot) (x : Inst) : List (Nat × BitVec 40 × BitVec 8) :=
  (cellsOf x).map (fun (i, j) => (32 * i + j, x.closeCell sl.fmt i j (sl.cell (32 * i + j))))

include hx

theorem closed_eq : sl.closed b = { sl with
    state := .idle, inst := none,
    cells := (closeWrites sl x).foldl (fun m e => NMap.put 0 m e.1 e.2.1) sl.cells,
    status := (closeWrites sl x).foldl (fun st e => st ||| e.2.2) (sl.status ||| x.patternStatus (sl.threads b)) } := by
  rw [Slot.closed, hx]
  rfl

theorem closed_cell {i j : Nat} (hi : i < x.params.rows) (hj : j < x.params.cols) (h32 : x.params.cols ≤ 32) :
    (sl.closed b).cell (32 * i + j) = (x.closeCell sl.fmt i j (sl.cell (32 * i + j))).1 := by
  rw [closed_eq hx, Slot.cell]
  refine read_foldl_put_agreed 0 (fun e : Nat × BitVec 40 × BitVec 8 => e.1) (fun e => e.2.1) _ _ (fun e he hn => ?_) (.inl ⟨_, List.mem_map_of_mem ((mem_cellsOf x i j).mpr ⟨hi, hj⟩), rfl⟩)
  obtain ⟨⟨i', j'⟩, hm, rfl⟩ := List.mem_map.mp he
  obtain ⟨_, hj'⟩ := (mem_cellsOf x i' j').mp hm
  have hn : 32 * i' + j' = 32 * i + j := hn
  obtain rfl : i' = i := by omega
  obtain rfl : j' = j := by omega
  rfl

theorem closed_cell_other {n : Nat} (h : ∀ i j, i < x.params.rows → j < x.params.cols → n ≠ 32 * i + j) :
    (sl.closed b).cell n = sl.cell n := by
  rw [closed_eq hx, Slot.cell]
  refine read_foldl_put_other 0 (fun e : Nat × BitVec 40 × BitVec 8 => e.1) (fun e => e.2.1) _ _ (fun e he => ?_)
  obtain ⟨⟨i, j⟩, hm, rfl⟩ := List.mem_map.mp he
  obtain ⟨hi, hj⟩ := (mem_cellsOf x i j).mp hm
  exact (h i j hi hj).symm

end

section
variable {s : State}

theorem slot_mapSlot {b : Block} (hb : s.block? b.id = some b) (k j : Nat) (f : Slot → Slot) :
    (s.mapSlot b.id k f).slot? b.id j = (s.slot? b.id j).map (fun x => if j = k then f x else x) := by
  rw [State.slot?, State.mapSlot, block_mapBlock, if_pos rfl, hb, State.slot?, hb]
  exact getElem_mapPlace b.slots k j f

theorem instanceClose_runs {b : Block} {k : Nat} {sl : Slot} {x : Inst} (hb : s.block? b.id = some b) (hk : b.slots[k]? = some sl)
    (hx : sl.inst = some x) (hc : s.closable b k sl x = true) :
    exec (.instanceClose b.id k) s = .next (s.mapSlot b.id k (fun sl => sl.closed b)).tick := by
  have slot : s.slot? b.id k = some sl := by rw [State.slot?, hb]; exact hk
  show execInstanceClose b.id k s = _
  rw [execInstanceClose, hb, slot]
  dsimp only
  rw [hx]
  dsimp only
  rw [if_pos hc]

/-! ### A drain at its turn (R266, R270) -/

theorem drain_runs {c : Cmd} {sl : Slot} {sb k addr stride : Nat} {alpha : W32} {op rows cols bar : Nat} {xs : List ((Nat × Nat) × Nat)}
    (hc : s.cmd? c.id = some c) (hj : c.job = .drain sb k addr stride alpha op rows cols bar) (hs : c.stage = .running)
    (hsl : s.slot? sb k = some sl) (ht : s.drainTurn c sb k = true)
    (hx : eachOk (s.drainAt c addr stride op) ((List.range rows).map (fun i => (List.range cols).map (fun j => (i, j)))).flatten = .ok xs) :
    let r := State.drainCells c sl op alpha xs s 0
    exec (.drainExecute c.id) s = .next (((((r.1.cleanAll (xs.map (fun x => (x.2, 4)))).mapSlot sb k (fun y => { y with
      status := y.status ||| r.2.setWidth 8, drains := y.drains - 1 })).dropCmd c.id).engineArrive c bar).tick) := by
  show execDrainExecute c.id s = _
  rw [execDrainExecute, hc]
  dsimp only
  rw [hj]
  dsimp only
  rw [hsl]
  dsimp only
  rw [if_neg (by
    rintro (h | h)
    · exact h hs
    · rw [ht] at h
      cases h), hx]

/-! ### The arrival of a CTRS (R263, R272) -/

theorem ctrsArrival_runs {b b2 b3 : Block} {t : Thread} {p : Pend} {sb sl aOff bOff bar inst : Nat} (hb : s.block? b.id = some b)
    (ht : b.thread? t.tidx = some t) (hp : t.pend.find? (fun q => q.op == p.op) = some p)
    (ha : p.act = .ctrs sb sl true aOff bOff bar inst) (hr : t.ctrsReady p = true)
    (hclean : ∀ o ∈ [aOff, bOff], s.poisoned ⟨2 + b.id, o,
      4 * vecRegs ((((s.slot? sb sl).bind Slot.inst).map (fun i => i.params.fmt)).getD 0), o⟩ = false)
    (h2 : ((s.fillContrib b t sb sl aOff bOff inst).mapThread b.id t.tidx (fun x => { x with
      pend := x.pend.filter (fun q => q.op != p.op) })).block? b.id = some b2)
    (h3 : b2.arrive (some t.tidx) bar 1 0 = some b3) :
    exec (.ctrsBarrierArrival b.id t.tidx p.op) s =
      .next (((((s.fillContrib b t sb sl aOff bOff inst).mapThread b.id t.tidx (fun x => { x with
        pend := x.pend.filter (fun q => q.op != p.op) })).mapBlock b.id (fun _ => b3)).phaseTest b.id bar).settled b.id t.tidx).tick := by
  have clean : [aOff, bOff].find? (fun o => s.poisoned ⟨2 + b.id, o,
      4 * vecRegs ((((s.slot? sb sl).bind Slot.inst).map (fun i => i.params.fmt)).getD 0), o⟩) = none :=
    List.find?_eq_none.mpr (fun o ho => by rw [hclean o ho]; exact Bool.false_ne_true)
  show execCtrsBarrierArrival b.id t.tidx p.op s = _
  rw [execCtrsBarrierArrival, hb]
  dsimp only
  rw [ht]
  dsimp only
  rw [hp]
  dsimp only
  rw [ha]
  dsimp only
  rw [hr, if_neg (by decide), if_neg (by decide), clean]
  dsimp only
  rw [if_pos rfl, h2]
  dsimp only
  rw [h3]

end

/-- Settles O48: each event of the granary by its equation, and the cells of a close by the writes that it makes. -/
theorem granaryEventsComplete : Obligations.GranaryEventsComplete := by
  refine ⟨fun s k p hp hb => ⟨_, passGrant_runs (granted_of_first hp hb), ?_, rfl, rfl⟩,
    fun s k i p hp => ⟨_, rfl, ?_, fun j hj => ?_, rfl⟩, fun s b k sl x hb hk hx hc => ?_,
    fun s c sl sb k addr stride alpha op rows cols bar hc hj hs hsl ht => ?_,
    fun s b b2 b3 t p sb sl aOff bOff bar inst hb ht hp ha hr => ?_⟩
  · rw [cluster_mapped]
  · rw [cluster_mapped]
    refine (getElem_mapPlace (s.cluster k).passes i i (fun p => { p with cls := min 3 (p.cls + 1) })).trans ?_
    rw [hp, Option.map_some, if_pos rfl]
  · rw [cluster_mapped]
    refine (getElem_mapPlace (s.cluster k).passes i j (fun p => { p with cls := min 3 (p.cls + 1) })).trans ?_
    simp only [if_neg hj, Option.map_id']
  · have slot : s.slot? b.id k = some sl := by rw [State.slot?, hb]; exact hk
    refine ⟨_, sl.closed b, instanceClose_runs hb hk hx hc, ?_, by rw [closed_eq hx], by rw [closed_eq hx],
      fun i j hi hj h32 => closed_cell hx b hi hj h32, fun n => closed_cell_other hx b, fun j hj => ?_, rfl⟩
    · refine (slot_mapSlot hb k k (fun sl => sl.closed b)).trans ?_
      rw [slot, Option.map_some, if_pos rfl]
    · refine (slot_mapSlot hb k j (fun sl => sl.closed b)).trans ?_
      simp [hj]
  · intro cells xs hx
    exact drain_runs hc hj hs hsl ht hx
  · intro n hclean s1 h2 h3
    exact ctrsArrival_runs hb ht hp ha hr hclean h2 h3

end Sys2Proof.Proofs
end


section
/-! The front end: doorbells, entries and rounds (O51). -/

namespace Sys2Proof.Proofs

open Sys2Proof Sys2Proof.Machine Sys2Proof.Laws

section
variable {s : State}

/-! ### Queues -/

theorem queue_mapQueue_same (s : State) (q : Nat) (f : Queue → Queue) : (s.mapQueue q f).queue q = f (s.queue q) := read_put_same ..

theorem devq_mapQueue (s : State) (q ctx : Nat) (f : Queue → Queue) : (s.mapQueue q f).devq ctx = s.devq ctx := rfl

/-- A descriptor that is read changes its queue only. -/
theorem readDesc_mapsQueue {q : Nat} {s1 : State} (h : s.readDesc q = some s1) : ∃ f, s1 = s.mapQueue q f := by
  rw [State.readDesc] at h
  split at h
  · cases h
  · split at h
    · cases h
    · split at h <;> exact ⟨_, (Option.some.inj h).symm⟩

theorem flushRing_nothing {q : Nat} (bad : Option Nat) (h : (s.queue q).pending = []) : s.flushRing q bad = s := by
  rw [State.flushRing, h]
  rfl

theorem markDevqs_none {ctx : Nat} (h : s.devq ctx = none) : s.markDevqs ctx = s := by
  rw [State.markDevqs, h]

/-! ### Doorbells (R30, R31) -/

section
variable {q : Nat} {v : W64} {s1 : State} (hv : s.qtbase.getLsbD 0 = true) (hq : q < 256) (hh : descHalted (s.descBytes q) = false)
  (h1 : s.readDesc q = some s1) (size : List Byte → Nat) (go : State → Nat → State)
include hv hq hh h1

theorem doorbell_read : s.doorbell q v size go =
    if v.extractLsb' 16 48 ≠ 0 ∨ size (s.descBytes q) ≤ v.toNat then s1.haltQueue q
    else ((go s1 v.toNat).markDevqs (descCtx (s.descBytes q))).flushRing q none := by
  rw [State.doorbell]
  rw [hv, if_neg (by simpa using hq), hh, Bool.and_false, if_neg Bool.false_ne_true, h1]

theorem doorbell_beyond (hn : size (s.descBytes q) ≤ v.toNat) : s.doorbell q v size go = s1.haltQueue q := by
  rw [doorbell_read hv hq hh h1, if_pos (.inr hn)]

/-- A value within the ring does what the doorbell is for, and nothing more where no record waits. -/
theorem doorbell_within {f : Queue → Queue} (hn : v.toNat < size (s.descBytes q)) (h16 : v.toNat < 65536)
    (hd : s.devq (descCtx (s.descBytes q)) = none) (hgo : go s1 v.toNat = s1.mapQueue q f) (hf : (f (s1.queue q)).pending = []) :
    s.doorbell q v size go = s1.mapQueue q f := by
  obtain ⟨g, rfl⟩ := readDesc_mapsQueue h1
  have low : ¬ (v.extractLsb' 16 48 ≠ 0 ∨ size (s.descBytes q) ≤ v.toNat) := by
    rintro (h | h)
    · refine h (BitVec.eq_of_toNat_eq ?_)
      rw [BitVec.extractLsb'_toNat, Nat.shiftRight_eq_div_pow, Nat.div_eq_of_lt h16]
      rfl
    · omega
  rw [doorbell_read hv hq hh h1, if_neg low, hgo, markDevqs_none (s := (s.mapQueue q g).mapQueue q f) hd]
  exact flushRing_nothing none ((congrArg Queue.pending (queue_mapQueue_same (s.mapQueue q g) q f)).trans hf)

end

/-! ### Entries (R31, R32) -/

theorem serveEntry_closed {q : Nat} (h : descEnable (s.descBytes q) = false ∨ s.qtbase.getLsbD 0 = false) (only bad : Option Nat) :
    s.serveEntry q only bad = s := by
  rw [State.serveEntry]
  dsimp only
  refine if_pos ?_
  rcases h with h | h <;> rw [h] <;> simp

/-- What an entry of 16 bytes asks for, once it has been read. -/
def entryAsks (s : State) (q kind : Nat) (bs : List Byte) : State :=
  let ctx := descCtx (s.queue q).desc
  let addr := fieldOf bs 0 8
  if kind = 3 then (s.descError q 1).advanceQueue q
  else if kind = 0 then
    if addr % 64 ≠ 0 then (s.refuseEntry q ctx 2).advanceQueue q else s.takeRecord q ctx addr none
  else (s.cancelBy ctx addr (kind == 2)).2.advanceQueue q

theorem serveEntry_read {q kind : Nat} {bs : List Byte} (he : descEnable (s.descBytes q) = true) (hv : s.qtbase.getLsbD 0 = true)
    (hw : s.fw.down = false) (hl : (s.queue q).live = true) (hb : (s.queue q).blocked = false) (hp : (s.queue q).podWait = false)
    (ht : (s.queue q).sqhead ≠ (s.queue q).tail)
    (hr : s.queueRead q (descCtx (s.queue q).desc) [(descSq (s.queue q).desc + 16 * (s.queue q).sqhead, 16)] none = .got bs)
    (hk : fieldOf bs 8 4 % 4 = kind)
    (hc : kind ≠ 3 → fieldOf bs 8 4 = kind ∧ fieldOf bs 12 4 = 0 ∧ (kind ≠ 0 → fieldOf bs 0 8 < 2 ^ 32)) :
    s.serveEntry q (some kind) none = entryAsks s q kind bs := by
  have same : ((some kind).map (fun k => k != kind)).getD false = false := by simp
  rw [State.serveEntry]
  dsimp only
  rw [if_neg (by simp [he, hv, hw, hl, hb, hp, ht]), hr]
  dsimp only
  rw [hk, same, if_neg Bool.false_ne_true, entryAsks]
  by_cases h3 : kind = 3
  · rw [if_pos h3, if_pos h3]
  · obtain ⟨hctrl, hzero, haddr⟩ := hc h3
    have small : kind < 4 := by omega
    rw [if_neg h3, if_neg h3, hctrl, hzero]
    have clean : (!(decide (kind < 8) && (0 : Nat) == 0)) = false := by simp; omega
    rw [clean]
    by_cases h0 : kind = 0
    · rw [if_pos h0, if_pos h0, if_neg Bool.false_ne_true, h0]
      rfl
    · rw [if_neg h0, if_neg h0, if_neg (by simpa using haddr h0)]

end

/-- Settles O51: each doorbell through the queue that it changes, and each kind of entry by what it asks for. -/
theorem frontEndServes : Obligations.FrontEndServes := by
  refine ⟨fun s v => ?_, fun s => rfl, fun s q v => ?_,
    fun s q bs => ?_⟩
  · show execQtbaseWrite v s = _
    rw [execQtbaseWrite]
    by_cases h : v.extractLsb' 1 13 = 0
    · rw [if_neg (not_not.mpr h), if_pos h]
    · rw [if_pos h, if_neg h]
  · intro d hv hq _ _ hh hd s1 h1
    refine ⟨fun hn _ => ?_, fun hn h16 hp => ?_, fun hn h16 hp => ?_⟩
    · exact congrArg (fun x : State => Host.Outcome.next x.tick) (doorbell_beyond hv hq hh h1 descSqSize _ hn)
    · intro x n hforward
      exact congrArg (fun x : State => Host.Outcome.next x.tick)
        (doorbell_within hv hq hh h1 descSqSize _ (f := fun x => { x with tail := v.toNat }) hn h16 hd (if_neg hforward) hp)
    · intro x n hforward
      exact congrArg (fun x : State => Host.Outcome.next x.tick)
        (doorbell_within hv hq hh h1 descCqSize _ (f := fun x => { x with head := v.toNat }) hn h16 hd (if_neg hforward) hp)
  · intro x ctx addr
    refine ⟨fun hclosed i hi => ?_, fun he hv hw hl hb hp ht hr => ?_⟩
    · have none (k : Nat) : Host.Outcome.next (s.serveEntry q (some k) none).tick = (.next s.tick : Host.Outcome State Fault Refusal) := by
        rw [serveEntry_closed hclosed]
      simp only [List.mem_cons, List.not_mem_nil, or_false] at hi
      rcases hi with rfl | rfl | rfl | rfl
      · exact none 0
      · exact none 1
      · exact none 2
      · exact none 3
    · have served {kind : Nat} (hk : fieldOf bs 8 4 % 4 = kind)
          (hc : kind ≠ 3 → fieldOf bs 8 4 = kind ∧ fieldOf bs 12 4 = 0 ∧ (kind ≠ 0 → fieldOf bs 0 8 < 2 ^ 32)) :=
        congrArg (fun x : State => (Host.Outcome.next x.tick : Host.Outcome State Fault Refusal))
          (serveEntry_read he hv hw hl hb hp ht hr hk hc)
      refine ⟨fun h3 => ?_, fun h1 hz ha => ?_, fun h2 hz ha => ?_, fun h0 hz => ⟨fun ha => ?_, fun ha => ?_⟩⟩
      · exact served h3 (fun h => absurd rfl h)
      · exact served (kind := 1) (by omega) (fun _ => ⟨h1, hz, fun _ => ha⟩)
      · exact served (kind := 2) (by omega) (fun _ => ⟨h2, hz, fun _ => ha⟩)
      · refine (served (kind := 0) (by omega) (fun _ => ⟨h0, hz, fun h => absurd rfl h⟩)).trans ?_
        exact congrArg (fun x : State => (Host.Outcome.next x.tick : Host.Outcome State Fault Refusal)) (if_neg (fun h => h ha))
      · refine (served (kind := 0) (by omega) (fun _ => ⟨h0, hz, fun h => absurd rfl h⟩)).trans ?_
        exact congrArg (fun x : State => (Host.Outcome.next x.tick : Host.Outcome State Fault Refusal)) (if_pos ha)

end Sys2Proof.Proofs
end


section
/-! From acceptance to dealing: the prologue, the release of a held launch, pod records and cancels (O52). -/

namespace Sys2Proof.Proofs

open Sys2Proof Sys2Proof.Machine Sys2Proof.Laws

section
variable {s : State}

/-! ### Launches -/

theorem launch_mapLaunch_same {l : Launch} (hl : s.launch? l.lid = some l) {f : Launch → Launch} (hf : ∀ l, (f l).lid = l.lid) :
    (s.mapLaunch l.lid f).launch? l.lid = some (f l) := by
  rw [launch_mapLaunch s l.lid l.lid f hf, hl, Option.map_some, if_pos rfl]

theorem launch_mapLaunch_other {n lid : Nat} (hn : n ≠ lid) {f : Launch → Launch} (hf : ∀ l, (f l).lid = l.lid) :
    (s.mapLaunch lid f).launch? n = s.launch? n := by
  rw [launch_mapLaunch s n lid f hf]
  simp only [if_neg hn, Option.map_id']

/-- A launch that is entered is found under its id. -/
theorem launch_enter (s : State) (l : Launch) : (s.enter l).launch? l.lid = some l := by
  show (s.launches.filter (fun x => x.lid != l.lid) ++ [l]).find? (fun x => x.lid == l.lid) = some l
  have gone : (s.launches.filter (fun x => x.lid != l.lid)).find? (fun x => x.lid == l.lid) = none :=
    List.find?_eq_none.mpr (fun x hx h => bne_iff_ne.mp (List.mem_filter.mp hx).2 (beq_iff_eq.mp h))
  rw [List.find?_append, gone]
  simp

/-! ### The prologue (R43) -/

theorem prologueStart_runs {l : Launch} (hl : s.launch? l.lid = some l) (hs : l.state = .prologue) (hn : s.prologueOf l.lid = none)
    (hd : s.dealsHere l = true) :
    let s1 := s.dropLines (l.prologueBlock s.seq).coreId (fun _ => true)
    exec (.prologueStart l.lid) s =
      .next ({ s1 with seq := s.seq + 1, blocks := NMap.insert s1.blocks s.seq (l.prologueBlock s.seq) } : State).tick := by
  show execPrologueStart l.lid s = _
  rw [execPrologueStart, hl]
  exact if_pos ⟨hs, hn, hd⟩

theorem budget_runs {lid : Nat} {b : Block} (hb : s.prologueOf lid = some b) :
    exec (.prologueBudgetExpired lid) s = if b.issued < prologueBudget then .next s.tick
      else .next ((s.takeTrap b.id 0 (mkTrap 1 1 (((b.thread? 0).map Thread.pc).getD 0))).decideEnd lid).tick := by
  show execPrologueBudgetExpired lid s = _
  rw [execPrologueBudgetExpired, hb]

/-! ### Leaving HELD (R42, R48) -/

theorem startTime_runs {l : Launch} (hl : s.launch? l.lid = some l) (hs : l.state = .held) (ht : l.record.timed = true)
    (hlt : s.ptime.toNat < l.record.start.toNat) : exec (.startTimeReached l.lid) s = .next { s.tick with ptime := l.record.start } := by
  show execStartTimeReached l.lid s = _
  rw [execStartTimeReached, hl]
  exact if_pos ⟨hs, ht, hlt⟩

/-- The conditions of R42: the date has come, the context is active, and no earlier launch of the context holds this one. -/
theorem releasableLaunch_iff {l : Launch} (hs : l.state = .held) : s.releasableLaunch l = true ↔
    (l.record.timed = false ∨ l.record.start.toNat ≤ s.ptime.toNat) ∧ (∃ n, s.activeIn l.ctx = some n) ∧
      ∀ a ∈ s.launches, (a.state = .held ∨ a.state = .prologue) → a.ctx = l.ctx → l.record.prio ≤ a.record.prio → a.earlier l = false := by
  have holds (a : Launch) :
      (!((a.state == .held || a.state == .prologue) && a.ctx == l.ctx && decide (l.record.prio ≤ a.record.prio) && a.earlier l)) = true ↔
      ((a.state = .held ∨ a.state = .prologue) → a.ctx = l.ctx → l.record.prio ≤ a.record.prio → a.earlier l = false) := by
    cases a.earlier l
    · simp
    · simp
      tauto
  simp only [State.releasableLaunch, hs, Bool.and_eq_true, List.all_eq_true, holds, Option.isSome_iff_exists, beq_self_eq_true, true_and,
    Bool.or_eq_true, Bool.not_eq_true', decide_eq_true_eq, and_assoc]

theorem launchRelease_runs {l : Launch} (hl : s.launch? l.lid = some l) : exec (.launchRelease l.lid) s =
    .next (if s.releasableLaunch l then s.mapLaunch l.lid (fun l => { l with state := .dealing }) else s).tick := by
  show execLaunchRelease l.lid s = _
  rw [execLaunchRelease, hl]

/-! ### Pod records at Ridge (R37, R47) -/

section
variable {dev ctx : Nat} (x : Submission) (hin : s.pod.inPod = true) (hr : s.pod.ridge = some s.pod.index)
include hin hr

theorem podSubmit_other (hd : dev ≠ s.pod.index) (hm : dev ∈ s.pod.members) (h0 : s.podReason dev ctx none x.record = 0) :
    exec (.podSubmit dev ctx x) s = .next ((({ s with pod := { s.pod with nextSeq := s.pod.nextSeq + 1 } } : State).receivePod {
      id := 0, podSeq := s.pod.nextSeq, ctx := ctx, dev := dev, record := x.record, params := x.params, src := none, pc := 0,
      addr := 0 }).tick) := by
  have ridge : (s.isRidge && s.pod.members.contains dev && s.podReason dev ctx none x.record == 0) = true := by
    simp [State.isRidge, hin, hr, hm, h0]
  show execPodSubmit dev ctx x s = _
  rw [execPodSubmit, if_neg (by simp [hin, hr])]
  dsimp only
  rw [if_neg hd, if_pos ridge]

theorem podSubmit_own {r : PodRec} {s1 : State} (hd : dev = s.pod.index)
    (ho : s.takeOutbox (fun r => r.ctx == ctx && s.podTurn r) = some (r, s1)) :
    exec (.podSubmit dev ctx x) s =
      if s.podReason dev ctx r.src r.record ≠ 0 then .next (s1.podAnswer r 0 (s.podReason dev ctx r.src r.record)).tick
      else .next ((({ s with pod := { s.pod with nextSeq := s.pod.nextSeq + 1 } } : State).receivePod
        { r with podSeq := s.pod.nextSeq, dev := dev, params := s.copyParams r }).tick) := by
  have ridge : s.isRidge = true := by simp [State.isRidge, hin, hr]
  show execPodSubmit dev ctx x s = _
  rw [execPodSubmit, if_neg (by simp [hin, hr])]
  dsimp only
  rw [if_pos hd, if_pos hd, ho]
  dsimp only
  rw [if_pos ridge]

end

/-! ### Pod records at a Spur (R43, R50) -/

/-- A numbered record that is not awaited yet is kept. -/
theorem receivePod_early {h : PodRec} (hh : ∀ x ∈ s.pod.held, x.podSeq ≠ s.pod.expect) (hn : h.podSeq ≠ s.pod.expect) :
    s.receivePod h = { s with pod := { s.pod with held := s.pod.held ++ [h] } } := by
  have none : (s.pod.held ++ [h]).find? (fun x => x.podSeq == s.pod.expect) = none := by
    refine List.find?_eq_none.mpr (fun x hx => ?_)
    rw [beq_iff_eq]
    rcases List.mem_append.mp hx with hx | hx
    · exact hh x hx
    · rw [List.mem_singleton.mp hx]
      exact hn
  unfold State.receivePod State.acceptPods
  dsimp only
  rw [List.length_append, List.length_singleton, State.acceptHeld]
  dsimp only
  rw [none]

/-- The launch of a record of another device, with that device as its source. -/
def foreignLaunch (h : PodRec) (order : Nat) : Launch :=
  Launch.make (podLid h.podSeq) h.ctx order (.device h.dev) (LaunchRec.ofBytes h.record) 0 (depsOf h.record) (paramsOfBytes h.params)
    h.podSeq h.dev

theorem acceptPod_foreign {h : PodRec} (hd : h.dev ≠ s.pod.index) : s.acceptPod h = s.enter (foreignLaunch h s.seq) := by
  have none : s.takeOutbox (fun r => s.mine? h r && s.podTurn r) = none := by
    have others : s.pod.outbox.findIdx? (fun r => s.mine? h r && s.podTurn r) = none :=
      List.findIdx?_eq_none_iff.mpr (fun r _ => by simp [State.mine?, hd])
    rw [State.takeOutbox, others]
  rw [State.acceptPod, none]
  rfl

/-- The Spur waits for the record after the one that it takes. -/
def awaitsNext (s : State) : State := { s with pod := { s.pod with expect := s.pod.expect + 1, held := [] } }

/-- The record that is awaited is accepted at once where no other is held. -/
theorem receivePod_due {h : PodRec} (hh : s.pod.held = []) (hn : h.podSeq = s.pod.expect) (hd : h.dev ≠ s.pod.index) :
    s.receivePod h = (awaitsNext s).acceptPod h := by
  have mine (r : PodRec) : (h.dev == s.pod.index && r.ctx == h.ctx && r.record == h.record) = false := by simp [hd]
  have first : [h].find? (fun x => x.podSeq == s.pod.expect) = some h := by simp [hn]
  have rest : [h].filter (fun x => x.podSeq != h.podSeq) = [] := by simp
  unfold State.receivePod State.acceptPods
  dsimp only
  rw [hh, List.nil_append, List.length_singleton, State.acceptHeld]
  dsimp only
  rw [first]
  dsimp only
  rw [if_neg (by simp [State.mine?, mine]), rest]
  rfl

/-- A numbered record, as it comes from another device. -/
def numbered (n ctx dev : Nat) (bs ps : List Byte) : PodRec :=
  { id := 0, podSeq := n, ctx := ctx, dev := dev, record := bs, params := ps, src := none, pc := 0, addr := 0 }

section
variable {n ctx dev : Nat} {bs ps : List Byte} (hin : s.pod.inPod = true) (hr : s.pod.ridge ≠ some s.pod.index)
include hin hr

theorem podRecord_runs (hn : s.pod.expect ≤ n) (hh : ∀ x ∈ s.pod.held, x.podSeq ≠ n) :
    exec (.podRecordReceive n ctx dev bs ps) s = .next (s.receivePod (numbered n ctx dev bs ps)).tick := by
  have other : s.isRidge = false := by simp [State.isRidge, hr]
  show execPodRecordReceive n ctx dev bs ps s = _
  rw [execPodRecordReceive, if_neg (by simp [hin, other]), if_neg (Nat.not_lt.mpr hn),
    if_neg (by simp only [List.any_eq_true, beq_iff_eq]; exact fun ⟨x, hx, h⟩ => hh x hx h)]
  rfl

theorem podRecord_prologue {l : Launch} (hn : n < s.pod.expect) (hl : s.launch? (podLid n) = some l) (hs : l.state = .prologue)
    (hseq : l.podSeq = n) (hlen : bs.length = 260 + 48 * l.deps.length) :
    exec (.podRecordReceive n ctx dev bs ps) s = .next (s.mapLaunch l.lid (fun l => l.afterPrologue bs ps)).tick := by
  have other : s.isRidge = false := by simp [State.isRidge, hr]
  show execPodRecordReceive n ctx dev bs ps s = _
  rw [execPodRecordReceive, if_neg (by simp [hin, other]), if_pos hn, hl]
  exact if_pos ⟨hs, hseq, hlen⟩

end

/-! ### Cancels (R53) -/

theorem cancelPod_live {l : Launch} (hl : s.launch? l.lid = some l) (hp : l.pod = true) (hd : l.state ≠ .done) (hc : l.state ≠ .cancelling)
    (hard : Bool) : s.cancelPod l.lid hard = (s.cancelLaunch l.lid hard false).flushBits l.lid none := by
  rw [State.cancelPod, hl]
  exact if_neg (by simp [hp, hd, hc])

theorem podCancel_runs {l : Launch} (hl : s.launch? l.lid = some l) (hr : s.isRidge = true) (hard : Bool) :
    exec (.podCancel l.lid hard) s = .next (s.cancelPod l.lid (hard || l.record.hardCancel)).tick := by
  show execPodCancel l.lid hard s = _
  rw [execPodCancel, hl]
  dsimp only
  rw [if_pos hr]

end

/-- Settles O52: each event by its equation, and the record that is accepted by the launch that it enters. -/
theorem launchesReachDealing : Obligations.LaunchesReachDealing := by
  refine ⟨fun s l hl hs hn hd => ⟨_, l.prologueBlock s.seq, Thread.start 0 l.record.proentry, prologueStart_runs hl hs hn hd, ?_, rfl, rfl,
      rfl, rfl, rfl, rfl, rfl, rfl, rfl, rfl⟩,
    fun s lid b hb => ⟨fun h => ?_, fun h => ?_⟩, fun s l => startTime_runs, fun s l hl hs => ?_,
    fun s dev ctx x r s1 hin hr => ?_, fun s n ctx dev bs ps hin hr => ?_, fun s l hard hl hp hd hc => ⟨fun hr => ?_, fun hin hr => ?_⟩⟩
  · exact (lookup_insert ..).trans (if_pos rfl)
  · exact (budget_runs hb).trans (if_neg (Nat.not_lt.mpr h))
  · exact (budget_runs hb).trans (if_pos h)
  · intro due
    have iff : s.releasableLaunch l = true ↔ due := releasableLaunch_iff hs
    refine ⟨fun h => ⟨_, (launchRelease_runs hl).trans (congrArg (fun x : State => Host.Outcome.next x.tick) (if_pos (iff.mpr h))),
      ?_, fun k hk => ?_, rfl, rfl⟩, fun h => ?_⟩
    · exact launch_mapLaunch_same hl (f := fun l => { l with state := .dealing }) (fun _ => rfl)
    · exact launch_mapLaunch_other hk (f := fun l => { l with state := .dealing }) (fun _ => rfl)
    · rw [launchRelease_runs hl, if_neg (mt iff.mp h)]
  · intro n s2
    refine ⟨podSubmit_other x hin hr, fun hd ho => ⟨fun h0 => ?_, fun h0 => ?_⟩⟩
    · exact (podSubmit_own x hin hr hd ho).trans (if_neg (not_not.mpr h0))
    · exact (podSubmit_own x hin hr hd ho).trans (if_pos h0)
  · intro h
    refine ⟨fun hn hh => ?_, fun hn hh hd => ?_, fun l hn hl hs hseq hlid hlen => ⟨_, l.afterPrologue bs ps,
      podRecord_prologue hin hr hn hl hs hseq hlen, ?_, rfl, rfl, rfl⟩⟩
    · rw [podRecord_runs hin hr (Nat.le_of_lt hn) (fun x hx => (hh x hx).1),
        receivePod_early (fun x hx => (hh x hx).2) (Nat.ne_of_gt hn)]
      rfl
    · have run := podRecord_runs (ctx := ctx) (dev := dev) (bs := bs) (ps := ps) hin hr (Nat.le_of_eq hn.symm)
        (fun x hx => by rw [hh] at hx; cases hx)
      rw [receivePod_due hh hn hd, acceptPod_foreign hd] at run
      refine ⟨_, foreignLaunch h s.seq, run, ?_, rfl, launch_enter (awaitsNext s) (foreignLaunch h s.seq), rfl, rfl, rfl, rfl, rfl, rfl⟩
      exact congrArg (· + 1) hn.symm
    · exact launch_mapLaunch_same (hlid ▸ hl) (f := fun l => l.afterPrologue bs ps) (fun _ => rfl)
  · rw [podCancel_runs hl hr, cancelPod_live hl hp hd hc]
  · show Host.Outcome.next (if s.pod.inPod && !s.isRidge then s.cancelPod l.lid hard else s).tick = _
    rw [hin, hr, if_pos (by decide), cancelPod_live hl hp hd hc]

end Sys2Proof.Proofs
end


section
/-! The Massif's firmware: reset, MINVER, patches, attestation, and the thermal steps (O57). -/

namespace Sys2Proof.Proofs

open Sys2Proof Sys2Proof.Machine Sys2Proof.Laws

/-! ### Reset (R392) -/

section
variable (f : Firmware)

theorem measure_extend_same (k : Nat) (d : List Byte) : (f.extend k d).measure k = Machine.extend (f.measure k) d := read_put_same ..

theorem measure_extend_other {k j : Nat} (d : List Byte) (h : j ≠ k) : (f.extend k d).measure j = f.measure j := read_put_other _ _ _ h

theorem accepts_iff (image : List Byte) : f.accepts image = true ↔
    verifies image = true ∧ f.minVer.toNat ≤ (Config.imageVersion image).toNat := by
  rw [Firmware.accepts, Bool.and_eq_true, decide_eq_true_eq]

/-- What boot ROM keeps of the firmware state: the one-time store. -/
def bootBase (f : Firmware) : Firmware := { Firmware.reset with minVer := f.minVer, reports := f.reports, booted := true }

/-- The firmware state of an image that boot ROM has measured, before the Cairn image is looked at. -/
def measured (f : Firmware) : Firmware :=
  { bootBase f with version := Config.imageVersion Config.massifImage }.extend 0 (imageDigest Config.massifImage)

theorem boot_refused (h : f.accepts Config.massifImage = false) : f.boot = { bootBase f with state := .bootRefused } := by
  rw [Firmware.boot]
  exact if_pos h

theorem boot_accepted (h : f.accepts Config.massifImage = true) :
    f.boot = ((measured f).loadCairns.extend 3 (leBytes 4 f.minVer.toNat)).extend 3 Config.fuseState := by
  rw [Firmware.boot]
  exact if_neg (by rw [h]; exact Bool.true_eq_false.mp)

/-- Loading the Cairns changes their measurement and whether they are refused, and nothing else. -/
theorem loadCairns_eq : f.loadCairns = { f with
    measures := if f.accepts Config.cairnImage then (f.extend 1 (imageDigest Config.cairnImage)).measures else f.measures,
    cairnRefused := if f.accepts Config.cairnImage then f.cairnRefused else true } := by
  rw [Firmware.loadCairns]
  by_cases h : f.accepts Config.cairnImage = true
  · rw [if_pos h, if_pos h, if_pos h]
    rfl
  · rw [if_neg h, if_neg h, if_neg h]

theorem measure_loadCairns_other {k : Nat} (h : k ≠ 1) : f.loadCairns.measure k = f.measure k := by
  rw [loadCairns_eq, Firmware.measure]
  dsimp only
  split
  · exact measure_extend_other f _ h
  · rfl

theorem measure_loadCairns (h : f.accepts Config.cairnImage = true) :
    f.loadCairns.measure 1 = Machine.extend (f.measure 1) (imageDigest Config.cairnImage) := by
  rw [loadCairns_eq, Firmware.measure]
  dsimp only
  rw [if_pos h]
  exact measure_extend_same f 1 _

/-- The firmware state after a boot that is accepted. -/
theorem boot_started (h : f.accepts Config.massifImage = true) :
    f.boot.state = .idle ∧ f.boot.minVer = f.minVer ∧ f.boot.reports = f.reports ∧ f.boot.pver = 0 ∧
    f.boot.version = Config.imageVersion Config.massifImage ∧ f.boot.cairnRefused = !f.accepts Config.cairnImage := by
  have same : (measured f).accepts Config.cairnImage = f.accepts Config.cairnImage := rfl
  rw [boot_accepted f h, loadCairns_eq, same]
  refine ⟨rfl, rfl, rfl, rfl, rfl, ?_⟩
  cases f.accepts Config.cairnImage <;> rfl

/-- The measurement registers after such a boot (R392). -/
theorem boot_measures (h : f.accepts Config.massifImage = true) :
    f.boot.measure 0 = Machine.extend 0 (imageDigest Config.massifImage) ∧
    (f.accepts Config.cairnImage = true → f.boot.measure 1 = Machine.extend 0 (imageDigest Config.cairnImage)) ∧
    ∀ k, 4 ≤ k → f.boot.measure k = 0 := by
  have blank (k : Nat) : (bootBase f).measure k = 0 := rfl
  have first (k : Nat) (hk : k ≠ 0) : (measured f).measure k = 0 := measure_extend_other _ _ hk
  have image : (measured f).measure 0 = Machine.extend 0 (imageDigest Config.massifImage) := measure_extend_same _ 0 _
  have other {k : Nat} (h3 : k ≠ 3) : f.boot.measure k = (measured f).loadCairns.measure k := by
    rw [boot_accepted f h, measure_extend_other _ _ h3, measure_extend_other _ _ h3]
  refine ⟨?_, fun hc => ?_, fun k hk => ?_⟩
  · rw [other (by decide), measure_loadCairns_other _ (by decide), image]
  · rw [other (by decide), measure_loadCairns (measured f) hc, first 1 (by decide)]
  · rw [other (by omega), measure_loadCairns_other _ (by omega), first k (by omega)]

end

section
variable {s : State}

/-- What reset leaves: memory, the one-time store, and the model's own fields. -/
def resetTo (s : State) (f : Firmware) : State := { State.reset with
  free := s.free, agenda := s.agenda, seq := s.seq, mem := s.mem, poison := s.poison, fw := f }

theorem reset_runs {f : Firmware} (hf : s.fw.boot = f) : exec .resetEvent s =
    .next (if f.state = .bootRefused then resetTo s f else ((resetTo s f).startMassif 0).startMassif 1).tick := by
  show execResetEvent s = _
  rw [execResetEvent, hf]
  rfl

/-- The two threads of the Massif stand alone after a start. -/
theorem startMassif_blocks (f : Firmware) : (((resetTo s f).startMassif 0).startMassif 1).allBlocks =
    [massifThread s.seq 0, massifThread (s.seq + 1) 1] := by
  show (NMap.insert (NMap.insert ([] : NMap Block) s.seq (massifThread s.seq 0)) (s.seq + 1) (massifThread (s.seq + 1) 1)).map Prod.snd = _
  simp [NMap.insert]

theorem mode_massifThread (id core : Nat) : (massifThread id core).mode = .firmware := rfl

/-! ### Messages on the command links -/

theorem link_mapLink (s : State) (c : Nat) (f : Link → Link) (k : Nat) :
    ((s.mapLink c f).cluster k).link = if k = c then f (s.cluster c).link else (s.cluster k).link := by
  rw [State.mapLink, cluster_mapCluster]
  split <;> rfl

/-- A message that waits to be sent goes on waiting when others join it. -/
theorem out_tell (s : State) (c ty blk k : Nat) {m : Nat × Nat} (h : m ∈ (s.cluster k).link.out) :
    m ∈ ((s.tell c ty blk).cluster k).link.out := by
  rw [State.tell]
  split
  · rw [link_mapLink]
    split
    · next hk => exact List.mem_append_left _ (hk ▸ h)
    · exact h
  · exact h

theorem out_tell_same (s : State) {c : Nat} (hc : c < Config.clusters) (ty blk : Nat) :
    (ty, blk) ∈ ((s.tell c ty blk).cluster c).link.out := by
  rw [State.tell, if_pos hc, link_mapLink, if_pos rfl]
  exact List.mem_append_right _ (List.mem_singleton.mpr rfl)

theorem out_foldl_tell (ty blk : Nat) (k : Nat) {m : Nat × Nat} : ∀ (cs : List Nat) (s : State), m ∈ (s.cluster k).link.out →
    m ∈ ((cs.foldl (fun s c => s.tell c ty blk) s).cluster k).link.out
  | [], _, h => h
  | c :: cs, s, h => out_foldl_tell ty blk k cs _ (out_tell s c ty blk k h)

/-- Every cluster that is told has the message among those to be sent. -/
theorem told_foldl_tell (ty blk : Nat) {k : Nat} (hk : k < Config.clusters) : ∀ (cs : List Nat) (s : State), k ∈ cs →
    (ty, blk) ∈ ((cs.foldl (fun s c => s.tell c ty blk) s).cluster k).link.out
  | [], _, h => by cases h
  | c :: cs, s, h => by
    rcases List.mem_cons.mp h with rfl | h
    · exact out_foldl_tell ty blk k cs _ (out_tell_same s hk ty blk)
    · exact told_foldl_tell ty blk hk cs _ h

theorem tell_fw (s : State) (c ty blk : Nat) : (s.tell c ty blk).fw = s.fw := by
  rw [State.tell]
  split <;> rfl

theorem foldl_tell_fw (ty blk : Nat) : ∀ (cs : List Nat) (s : State), (cs.foldl (fun s c => s.tell c ty blk) s).fw = s.fw
  | [], _ => rfl
  | c :: cs, s => (foldl_tell_fw ty blk cs _).trans (tell_fw s c ty blk)

/-! ### MINVER (R391) -/

theorem minver_runs (s : State) (v : W64) : exec (.minverWrite v) s = .next (s.mapFw (fun f =>
    if v.extractLsb' 32 32 = 0 ∧ f.minVer.toNat < v.toNat ∧ v.toNat ≤ f.version.toNat then
      ({ f with minVer := v.extractLsb' 0 32, minErr := false }).extend 3 (leBytes 4 v.toNat)
    else { f with minErr := true })).tick := rfl

/-! ### Patches (R393 to R395) -/

theorem bytes_take (s : State) (k : Nat) {m n : Nat} (h : m ≤ n) : (s.bytes k n).take m = s.bytes k m := by
  rw [State.bytes, ← List.map_take, List.take_range, Nat.min_eq_left h, State.bytes]

theorem patchStart_runs {v : W64} (hs : s.fw.state = .idle) (hv : v.extractLsb' 0 6 = 0) :
    ∃ n, 64 ≤ n ∧ exec (.patchStart v) s = .next (s.mapFw (fun f => { f with state := .verify, image := s.atDoor v n })).tick := by
  refine ⟨64 + 32 * min 256 (fieldOf (s.atDoor v 64) 8 2) + min (2 ^ 20) (fieldOf (s.atDoor v 64) 0x10 4) + signatureBytes, by omega, ?_⟩
  show execPatchStart v s = _
  rw [execPatchStart, if_neg (not_not.mpr hs), if_neg (not_not.mpr hv)]

theorem patchVerify_runs (hd : s.fw.down = false) (hs : s.fw.state = .verify) : exec .patchVerify s =
    .next (if s.fw.patchReason = 0 then s.mapFw (fun f => { f with state := .gating, gated := patchFuncs s.fw.image, since := s.ptime })
      else s.mapFw (fun f => f.endPatch s.fw.patchReason)).tick := by
  show execPatchVerify s = _
  rw [execPatchVerify, if_neg (by simp [hd, hs])]
  unfold State.mapFw
  rfl

/-- A call that comes to a gate changes the calls that wait there only. -/
theorem holdCall_eq (s : State) : ∃ ks, s.holdCall = s.mapFw (fun f => { f with calls := ks }) := by
  rw [State.holdCall]
  split
  · exact ⟨_, rfl⟩
  · exact ⟨s.fw.calls, rfl⟩

/-- The count of the active calls changes that count only. -/
theorem countActive_eq (s : State) : s.countActive = s.mapFw (fun f => { f with active := s.countActive.fw.active }) := rfl

/-- The state in which the counts are examined. -/
theorem counted_eq (s : State) : ∃ ks, s.countActive.holdCall = s.mapFw (fun f => { f with active := s.countActive.fw.active, calls := ks }) := by
  obtain ⟨ks, h⟩ := holdCall_eq s.countActive
  exact ⟨ks, h⟩

theorem patchSwap_runs (hd : s.fw.down = false) (hs : s.fw.state = .gating ∨ s.fw.state = .quiescing) (hl : s.patchLate = false) :
    exec .patchSwap s = .next (if s.countActive.holdCall.fw.active.isEmpty then (s.countActive.holdCall.mapFw Firmware.swap).tellPatch
      else s.countActive.holdCall.mapFw (fun f => { f with state := .quiescing })).tick := by
  have cond : ¬ (s.fw.down = true ∨ (s.fw.state ≠ .gating ∧ s.fw.state ≠ .quiescing) ∨ s.patchLate = true) := by
    rintro (h | ⟨h1, h2⟩ | h)
    · rw [hd] at h
      cases h
    · exact hs.elim h1 h2
    · rw [hl] at h
      cases h
  show execPatchSwap s = _
  rw [execPatchSwap, if_neg cond]

theorem patchTimeout_runs (hd : s.fw.down = false) (hs : s.fw.state = .gating ∨ s.fw.state = .quiescing) (hl : s.patchLate = true) :
    exec .patchTimeout s = .next (s.mapFw (fun f => f.endPatch 6)).tick :=
  congrArg (fun x : State => Host.Outcome.next x.tick) (if_pos ⟨hd, hs, hl⟩)

theorem patchComplete_runs (hd : s.fw.down = false) (hs : s.fw.state = .broadcast)
    (ha : ∀ c, c < 64 → s.usable c = true → c ∈ s.fw.acks) : exec .patchComplete s =
    .next (s.mapFw (fun f => { f.endPatch 1 with
      pver := BitVec.ofNat 32 (fieldOf f.image 4 4), applied := f.applied ++ [f.image], told := [], acks := [] })).tick := by
  have all : s.liveClusters.all (fun c => s.fw.acks.contains c) = true := List.all_eq_true.mpr (fun c hc => by
    obtain ⟨hr, hu⟩ := List.mem_filter.mp hc
    exact List.contains_iff_mem.mpr (ha c (List.mem_range.mp hr) hu))
  exact congrArg (fun x : State => Host.Outcome.next x.tick) (if_pos ⟨hd, hs, all⟩)

/-! ### Attestation (R396, R397) -/

theorem write_fw (s : State) (core : Option Nat) (k : Nat) (bs : List Byte) : (s.write core k bs).fw = s.fw :=
  (congrArg State.fw (externalWrite_frame (s.rawWrite core k bs) k bs.length)).symm

/-- A write of the firmware to memory with a change of a register of its own: what is written does not matter. -/
theorem wrote_eq (s : State) (k : Nat) (bs : List Byte) (f : Firmware → Firmware) :
    ((s.write none k bs).mapFw f).tick.fw = f s.fw ∧
    ((s.write none k bs).mapFw f).tick = { (s.write none k bs).tick with fw := ((s.write none k bs).mapFw f).tick.fw } := by
  refine ⟨congrArg f (write_fw s none k bs), ?_⟩
  generalize s.write none k bs = s1
  rfl

theorem attest_runs {v : W64} (hv : v.extractLsb' 0 6 = 0) (hr : s.fw.reports < 2 ^ 20) : exec (.attestRequest v) s =
    .next ((s.write none (physKey 0 v.toNat) (s.attestBody (s.atDoor v 32) ++
      signatureBlock s.fw.reports (s.attestBody (s.atDoor v 32)) ++ List.replicate 44 0)).mapFw (fun f =>
        { f with reports := f.reports + 1, attStat := 1 })).tick := by
  show execAttestRequest v s = _
  rw [execAttestRequest, if_neg (not_not.mpr hv), if_neg (Nat.not_le.mpr hr)]

theorem attest_exhausted {v : W64} (hv : v.extractLsb' 0 6 = 0) (hr : 2 ^ 20 ≤ s.fw.reports) :
    exec (.attestRequest v) s = .next (s.mapFw (fun f => { f with attStat := 2 })).tick := by
  show execAttestRequest v s = _
  rw [execAttestRequest, if_neg (not_not.mpr hv), if_pos hr]

theorem certificate_runs {v : W64} (hv : v.extractLsb' 0 6 = 0) : exec (.certificateRequest v) s =
    .next ((s.write none (physKey 0 v.toNat) certificate).mapFw (fun f => { f with certStat := 1 })).tick := by
  show execCertificateRequest v s = _
  rw [execCertificateRequest, if_neg (not_not.mpr hv)]

/-! ### The clock step (R404) -/

/-- The fields of THERM: the clock step below bit 8, the temperature above it, and the limit in bit 16. -/
theorem thermAfter_fields (old : W64) (t : Nat) :
    let step := (old.extractLsb' 0 3).toNat
    ((thermAfter old t).extractLsb' 0 3).toNat = (if 95 < t then min 7 (step + 1) else if t < 90 then step - 1 else step) ∧
    (thermAfter old t).getLsbD 16 = decide (95 < t) := by
  intro step
  have hstep : step < 8 := (old.extractLsb' 0 3).isLt
  have hnext : (if 95 < t then min 7 (step + 1) else if t < 90 then step - 1 else step) < 8 := by
    split
    · omega
    · split <;> omega
  have value : thermAfter old t = BitVec.ofNat 64 ((if 95 < t then min 7 (step + 1) else if t < 90 then step - 1 else step) +
      256 * min 255 t + 65536 * (decide (95 < t)).toNat) := rfl
  rw [value]
  generalize (if 95 < t then min 7 (step + 1) else if t < 90 then step - 1 else step) = next at hnext
  have hb : (decide (95 < t)).toNat ≤ 1 := Bool.toNat_le _
  refine ⟨?_, ?_⟩
  · rw [BitVec.extractLsb'_toNat, BitVec.toNat_ofNat, Nat.shiftRight_zero]
    omega
  · rw [BitVec.getLsbD_ofNat, Nat.testBit_eq_decide_div_mod_eq]
    have top : (next + 256 * min 255 t + 65536 * (decide (95 < t)).toNat) / 2 ^ 16 = (decide (95 < t)).toNat := by omega
    rw [top]
    cases decide (95 < t) <;> rfl

end

/-- What reset does, whatever boot ROM makes of the images. -/
theorem reset_spec (s : State) : ∃ s', exec .resetEvent s = .next s' ∧ s'.mem = s.mem ∧ (∀ b ∈ s'.allBlocks, b.mode = .firmware) ∧
    s'.launches = [] ∧ s'.ptime = 0 ∧ s'.partitions = [] ∧ s'.contexts = [] ∧ s'.fw = s.fw.boot ∧
    (s.fw.accepts Config.massifImage = false → s'.blocks = []) ∧
    (s.fw.accepts Config.massifImage = true → s'.allBlocks = [massifThread s.seq 0, massifThread (s.seq + 1) 1]) := by
  have run := reset_runs (s := s) rfl
  by_cases ha : s.fw.accepts Config.massifImage = true
  · obtain ⟨hstate, _⟩ := boot_started s.fw ha
    rw [if_neg (by rw [hstate]; decide)] at run
    have blocks := startMassif_blocks (s := s) s.fw.boot
    generalize s.fw.boot = f at run blocks
    refine ⟨_, run, rfl, fun b hb => ?_, rfl, rfl, rfl, rfl, rfl, fun h => absurd (h.symm.trans ha) Bool.false_ne_true, fun _ => blocks⟩
    have hb : b ∈ [massifThread s.seq 0, massifThread (s.seq + 1) 1] := blocks ▸ hb
    simp only [List.mem_cons, List.not_mem_nil, or_false] at hb
    rcases hb with rfl | rfl
    · exact mode_massifThread _ _
    · exact mode_massifThread _ _
  · have hstate : s.fw.boot.state = .bootRefused := by rw [boot_refused s.fw (Bool.eq_false_iff.mpr ha)]
    rw [if_pos hstate] at run
    generalize s.fw.boot = f at run
    exact ⟨_, run, rfl, fun b hb => (List.not_mem_nil hb).elim, rfl, rfl, rfl, rfl, rfl, fun _ => rfl, fun h => absurd h ha⟩

/-- Settles O57: each step of the firmware by its equation, the boot by what it measures, and the swap by the messages that it sends. -/
theorem firmwareProceeds : Obligations.FirmwareProceeds := by
  refine ⟨fun s => ?_, fun s v => ?_, fun s v => ?_, fun s hd => ?_, fun f => ?_, fun s v hv => ?_, fun s t => ?_, fun s => rfl⟩
  · obtain ⟨s', run, hmem, hmode, hl, ht, hp, hc, hfw, hnone, htwo⟩ := reset_spec s
    by_cases ha : s.fw.accepts Config.massifImage = true
    · obtain ⟨hstate, hmin, hrep, hpver, hver, hcairn⟩ := boot_started s.fw ha
      obtain ⟨h0, h1, h4⟩ := boot_measures s.fw ha
      obtain ⟨hv, hm⟩ := (accepts_iff s.fw _).mp ha
      rw [← hfw] at hstate hmin hrep hpver hver hcairn h0 h1 h4
      refine ⟨s', run, hmem, hmode, hl, ht, hmin, hrep, hpver, hp, hc, fun h => ?_, fun _ _ => ⟨hstate, htwo ha, hver, h0, hcairn, h1, h4⟩⟩
      rcases h with h | h
      · exact absurd (h.symm.trans hv) Bool.false_ne_true
      · exact absurd hm (Nat.not_le.mpr h)
    · have hf := hfw.trans (boot_refused s.fw (Bool.eq_false_iff.mpr ha))
      have no := mt (accepts_iff s.fw Config.massifImage).mpr ha
      exact ⟨s', run, hmem, hmode, hl, ht, (congrArg Firmware.minVer hf :), (congrArg Firmware.reports hf :),
        (congrArg Firmware.pver hf :), hp, hc,
        fun _ => ⟨(congrArg Firmware.state hf :), hnone (Bool.eq_false_iff.mpr ha)⟩, fun hv hm => absurd ⟨hv, hm⟩ no⟩
  · refine ⟨fun h1 h2 h3 => ⟨_, minver_runs s v, ?_⟩, fun h => ?_⟩
    · have good : (if v.extractLsb' 32 32 = 0 ∧ s.fw.minVer.toNat < v.toNat ∧ v.toNat ≤ s.fw.version.toNat then
          ({ s.fw with minVer := v.extractLsb' 0 32, minErr := false }).extend 3 (leBytes 4 v.toNat)
        else { s.fw with minErr := true }) = ({ s.fw with minVer := v.extractLsb' 0 32, minErr := false }).extend 3 (leBytes 4 v.toNat) :=
        if_pos ⟨h1, h2, h3⟩
      refine ⟨congrArg Firmware.minVer good, congrArg Firmware.minErr good, (congrArg (fun f => Firmware.measure f 3) good).trans ?_⟩
      exact measure_extend_same _ 3 _
    · rw [minver_runs]
      exact congrArg (fun f : Firmware => Host.Outcome.next ({ s with fw := f } : State).tick) (if_neg h)
  · refine ⟨fun h => if_pos h, fun h hv => (if_neg (not_not.mpr h)).trans (if_pos hv), fun h hv => ?_⟩
    obtain ⟨n, hn, run⟩ := patchStart_runs h hv
    exact ⟨_, run, rfl, rfl, bytes_take s _ hn⟩
  · refine ⟨fun hs h0 => ?_, fun hs h0 => ?_, fun hs hl => ?_, fun hs hl => patchTimeout_runs hd hs hl, fun f n => ⟨rfl, rfl, rfl, rfl, rfl, rfl, rfl⟩,
      fun hs ha => ⟨_, patchComplete_runs hd hs ha, rfl, rfl, rfl, rfl, rfl, rfl⟩⟩
    · rw [patchVerify_runs hd hs, if_pos h0]
    · rw [patchVerify_runs hd hs, if_neg h0]
    · obtain ⟨ks, counted⟩ := counted_eq s
      refine ⟨_, patchSwap_runs hd hs hl, fun h => ?_, fun h => ?_⟩
      · rw [if_pos (by rw [counted]; exact List.isEmpty_iff.mpr h), counted]
        refine ⟨?_, fun c hc hu => ?_, ?_, ?_, ?_⟩
        · exact congrArg Firmware.state (foldl_tell_fw 6 0 _ _)
        · exact told_foldl_tell 6 0 hc _ _ (List.mem_filter.mpr ⟨List.mem_range.mpr hc, hu⟩)
        · exact congrArg Firmware.table (foldl_tell_fw 6 0 _ _)
        · exact congrArg Firmware.oldM2 (foldl_tell_fw 6 0 _ _)
        · exact (congrArg (fun f => Firmware.measure f 2) (foldl_tell_fw 6 0 _ _)).trans (measure_extend_same _ 2 _)
      · rw [if_neg (by rw [counted]; exact mt List.isEmpty_iff.mp h), counted]
        exact ⟨rfl, rfl⟩
  · refine ⟨fun h => if_pos h, fun h h3 => ?_, fun h h3 h4 => ?_, fun h h3 h4 => ?_⟩
    · rw [Firmware.patchReason, if_neg (by rw [h]; decide), if_pos h3]
    · rw [Firmware.patchReason, if_neg (by rw [h]; decide), if_neg (not_not.mpr h3), if_pos h4]
    · rw [Firmware.patchReason, if_neg (by rw [h]; decide), if_neg (not_not.mpr h3), if_neg (Nat.not_le.mpr h4)]
      cases patchOk f.image <;> rfl
  · refine ⟨fun h => ?_, fun h => attest_exhausted hv h, ?_⟩
    · obtain ⟨hfw, hrest⟩ := wrote_eq s (physKey 0 v.toNat) (s.attestBody (s.atDoor v 32) ++
        signatureBlock s.fw.reports (s.attestBody (s.atDoor v 32)) ++ List.replicate 44 0) (fun f =>
          { f with reports := f.reports + 1, attStat := 1 })
      exact ⟨_, attest_runs hv h, (congrArg Firmware.reports hfw :), (congrArg Firmware.attStat hfw :), hrest⟩
    · obtain ⟨hfw, hrest⟩ := wrote_eq s (physKey 0 v.toNat) certificate (fun f => { f with certStat := 1 })
      exact ⟨_, certificate_runs hv, (congrArg Firmware.certStat hfw :), hrest⟩
  · obtain ⟨hfield, hbit⟩ := thermAfter_fields s.therm t
    refine ⟨{ s with therm := thermAfter s.therm t, off := s.off || decide (110 ≤ t) }.tick, ?_, rfl, ?_⟩
    · show execThermalStep t s = _
      rw [execThermalStep]
      by_cases h : 110 ≤ t
      · rw [if_pos h, decide_eq_true h, Bool.or_true]
      · rw [if_neg h, decide_eq_false h, Bool.or_false]
    · intro step
      refine ⟨fun h => ⟨hfield.trans (if_pos h), hbit.trans (decide_eq_true h)⟩,
        fun h => ⟨hfield.trans ((if_neg (by omega)).trans (if_pos h)), hbit.trans (decide_eq_false (by omega))⟩,
        fun h h' => ⟨hfield.trans ((if_neg (by omega)).trans (if_neg (by omega))), hbit.trans (decide_eq_false (by omega))⟩⟩

end Sys2Proof.Proofs
end


section
/-! The end of a forwarding section: commit, delivery of an abort, and the patience of a remote wait (O49). -/

namespace Sys2Proof.Proofs

open Sys2Proof Sys2Proof.Machine Sys2Proof.Laws

/-! ### Tables whose keys rise -/

theorem key_of_rises {α : Type} : ∀ {m : NMap α} {n : Nat}, NMap.risesFrom n m = true → ∀ e ∈ m, n ≤ e.1
  | (k, v) :: m, n, h, e, he => by
    simp only [NMap.risesFrom, Bool.and_eq_true, decide_eq_true_eq] at h
    rcases List.mem_cons.mp he with rfl | he
    · exact h.1
    · exact Nat.le_trans h.1 (Nat.le_of_succ_le (key_of_rises h.2 e he))

/-- What a table lists under a key is what it holds there. -/
theorem lookup_of_rises {α : Type} : ∀ {m : NMap α} {n : Nat}, NMap.risesFrom n m = true → ∀ e ∈ m, NMap.lookup m e.1 = some e.2
  | (k, v) :: m, n, h, e, he => by
    simp only [NMap.risesFrom, Bool.and_eq_true, decide_eq_true_eq] at h
    rcases List.mem_cons.mp he with rfl | he
    · simp [NMap.lookup]
    · have later := key_of_rises h.2 e he
      rw [NMap.lookup, if_neg (by omega)]
      exact lookup_of_rises h.2 e he

theorem mem_of_lookup {α : Type} {a : Nat} {v : α} : ∀ {m : NMap α}, NMap.lookup m a = some v → (a, v) ∈ m
  | (k, x) :: m, h => by
    rw [NMap.lookup] at h
    split at h
    · next hk =>
      cases h
      rw [hk]
      exact List.mem_cons_self
    · exact List.mem_cons_of_mem _ (mem_of_lookup h)

/-- Keys still rise after entries have been added one by one. -/
theorem rises_foldl_insert {α : Type} : ∀ (es : List (Nat × α)) (m : NMap α), NMap.risesFrom 0 m = true →
    NMap.risesFrom 0 (es.foldl (fun m e => NMap.insert m e.1 e.2) m) = true
  | [], _, h => h
  | e :: es, m, h => rises_foldl_insert es _ (risesFrom_insert e.1 e.2 m 0 (Nat.zero_le _) h)

section
variable {s : State}

/-! ### The bytes of a commit (R325) -/

theorem fxBytes_rises (s : State) (c k : Nat) : NMap.risesFrom 0 (s.fxBytes c k) = true := by
  rw [State.fxBytes]
  generalize s.versions.filter (fun v => v.cluster == c && v.slot == k) = vs
  have main (m : NMap Byte) (h : NMap.risesFrom 0 m = true) :
      NMap.risesFrom 0 (vs.foldl (fun m v => v.bytes.foldl (fun m e => NMap.insert m e.1 e.2) m) m) = true := by
    induction vs generalizing m with
    | nil => exact h
    | cons v vs ih => exact ih _ (rises_foldl_insert v.bytes m h)
  exact main [] rfl

/-- A table of bytes written one by one. -/
def putEach (mem : List Host.Cell) (m : List (Nat × Byte)) : List Host.Cell := m.foldl (fun mem e => NMap.put 0 mem e.1 e.2) mem

/-- Writing the runs of a table writes its bytes. -/
theorem putBytes_byteRuns : ∀ (m : List (Nat × Byte)) (mem : List Host.Cell),
    (byteRuns m).foldl (fun mem e => putBytes mem e.1 e.2) mem = putEach mem m
  | [], _ => rfl
  | (k, x) :: m, mem => by
    have rest := putBytes_byteRuns m (NMap.put 0 mem k x)
    rw [putEach, List.foldl_cons, ← putEach, ← rest, byteRuns]
    rcases byteRuns m with _ | ⟨⟨k', xs⟩, more⟩
    · rfl
    · dsimp only
      split
      · next h =>
        subst h
        rfl
      · rfl

/-- The writes of a commit, with what the other threads have yet to observe of them. -/
def commitRuns (s : State) (core : Option Nat) (rs : List (Nat × List Byte)) : State :=
  rs.foldl (fun s e => (s.note 0 e.1 (s.bytes e.1 e.2.length) .core).rawWrite core e.1 e.2) s

theorem commitRuns_mem (core : Option Nat) : ∀ (rs : List (Nat × List Byte)) (s : State),
    (commitRuns s core rs).mem = rs.foldl (fun mem e => putBytes mem e.1 e.2) s.mem
  | [], _ => rfl
  | e :: rs, s => commitRuns_mem core rs ((s.note 0 e.1 (s.bytes e.1 e.2.length) .core).rawWrite core e.1 e.2)

theorem commitRuns_frame (core : Option Nat) : ∀ (rs : List (Nat × List Byte)) (s : State),
    (commitRuns s core rs).blocks = s.blocks ∧ (commitRuns s core rs).sections = s.sections ∧ (commitRuns s core rs).versions = s.versions
  | [], _ => ⟨rfl, rfl, rfl⟩
  | e :: rs, s => commitRuns_frame core rs ((s.note 0 e.1 (s.bytes e.1 e.2.length) .core).rawWrite core e.1 e.2)

/-- What a commit makes of a section of any slot. -/
def afterCommit (x y : Section) : Section :=
  if y.cluster ≠ x.cluster then y
  else if y.slot = x.slot then { y with state := .committed }
  else { y with preds := y.preds.filter (fun k => k != x.slot), waitsOn := y.waitsOn.filter (fun k => k != x.slot),
                consumes := y.consumes.filter (fun k => k != x.slot) }

theorem commitSection_eq (s : State) (x : Section) :
    let core := (s.block? x.blk).map Block.coreId
    let s1 := (commitRuns s core (byteRuns (s.fxBytes x.cluster x.slot))).credit s.lastWrite core [(.thread x.blk x.tidx, s.seq)]
    s.commitSection x = { s1 with
      versions := s1.versions.filter (fun v => !(v.cluster == x.cluster && v.slot == x.slot)),
      sections := s1.sections.map (afterCommit x) } := rfl

theorem commitSection_mem (s : State) (x : Section) : (s.commitSection x).mem = putEach s.mem (s.fxBytes x.cluster x.slot) :=
  (commitRuns_mem ((s.block? x.blk).map Block.coreId) (byteRuns (s.fxBytes x.cluster x.slot)) s).trans
    (putBytes_byteRuns (s.fxBytes x.cluster x.slot) s.mem)

theorem commitSection_frame (s : State) (x : Section) : (s.commitSection x).blocks = s.blocks ∧
    (s.commitSection x).versions = s.versions.filter (fun v => !(v.cluster == x.cluster && v.slot == x.slot)) ∧
    (s.commitSection x).sections = s.sections.map (afterCommit x) := by
  obtain ⟨hb, hs, hv⟩ := commitRuns_frame ((s.block? x.blk).map Block.coreId) (byteRuns (s.fxBytes x.cluster x.slot)) s
  exact ⟨hb, congrArg (List.filter _) hv, congrArg (List.map _) hs⟩

theorem byte_of_mem {s s' : State} {m : List (Nat × Byte)} (h : s'.mem = putEach s.mem m) (hr : NMap.risesFrom 0 m = true) (a : Nat) :
    (∀ v, NMap.lookup m a = some v → s'.byte a = v) ∧ (NMap.lookup m a = none → s'.byte a = s.byte a) := by
  refine ⟨fun v hv => ?_, fun hn => ?_⟩
  · rw [State.byte, h, putEach]
    refine read_foldl_put_agreed 0 Prod.fst Prod.snd m s.mem (fun e he hk => ?_) (.inl ⟨(a, v), mem_of_lookup hv, rfl⟩)
    have listed := lookup_of_rises hr e he
    rw [hk, hv] at listed
    exact (Option.some.inj listed).symm
  · rw [State.byte, h, putEach]
    refine read_foldl_put_other 0 Prod.fst Prod.snd m s.mem (fun e he hk => ?_)
    have listed := lookup_of_rises hr e he
    rw [hk, hn] at listed
    cases listed

theorem commit_runs {x : Section} (hx : s.fxTurn x.cluster = some x) :
    exec (.sectionCommit x.cluster x.slot) s = .next (s.commitSection x).tick := by
  show execSectionCommit x.cluster x.slot s = _
  rw [execSectionCommit, hx]
  dsimp only
  rw [if_pos rfl]

/-! ### Delivery of an abort (R330) -/

/-- A thread as it leaves an aborted section. -/
def leftSection (x : Section) (t : Thread) : Thread := { t with pc := x.target, wait := none, stepDue := false }

section
variable {b : Block} {t : Thread} {x : Section} (hb : s.block? b.id = some b) (ht : b.thread? t.tidx = some t)
  (hx : s.sectionOf b.id t.tidx = some x)
include hb ht hx

theorem abortDelivery_runs (hs : x.state = .aborted) (hw : t.wait = none) (hi : s.canIssue b t = true)
    (hd : t.stepDue = false ∨ t.inTrap = true) : exec (.abortDelivery b.id t.tidx) s = .next
      ((s.deliverSection x).mapThread b.id t.tidx (leftSection x)).tick := by
  have held : s.unheld b t = true := by rw [State.unheld, hw]
  have due : s.abortDue b t = some x := by
    rw [State.abortDue, hx]
    exact if_pos ⟨hs, held, hi⟩
  have calm : (t.stepDue && !t.inTrap) = false := by
    rcases hd with h | h <;> simp [h]
  show execAbortDelivery b.id t.tidx s = _
  rw [execAbortDelivery, hb]
  dsimp only
  rw [ht]
  dsimp only
  rw [due]
  dsimp only
  rw [State.deliverAbort, calm]
  rfl

theorem thread_of_delivered : ((s.deliverSection x).mapThread b.id t.tidx (leftSection x)).thread? b.id t.tidx =
    some (leftSection x (delivered x.vstatus (s.fxImage x) t)) := by
  obtain ⟨hblk, hidx⟩ : x.blk = b.id ∧ x.tidx = t.tidx := by simpa using List.find?_some hx
  have own : s.thread? b.id t.tidx = some t := by rw [State.thread?, hb]; exact ht
  have mid : (s.deliverSection x).thread? b.id t.tidx = some (delivered x.vstatus (s.fxImage x) t) := by
    rw [deliverSection_eq, state_thread_mapThread _ _ _ _ _ _ (delivered_keeps _ _), if_pos ⟨hblk.symm, hidx.symm⟩]
    exact congrArg (Option.map _) own
  rw [state_thread_mapThread (s.deliverSection x) b.id t.tidx b.id t.tidx
    (leftSection x) (fun _ => rfl), if_pos ⟨rfl, rfl⟩, mid]
  rfl

theorem remotePatience_runs {k n : Nat} {write : Bool} (hw : t.wait = some (.fxRemote k n write)) :
    exec (.remotePatienceExpired b.id t.tidx) s = .next (s.abortSection x.cluster x.slot 6 none).tick := by
  have own : s.thread? b.id t.tidx = some t := by rw [State.thread?, hb]; exact ht
  show execRemotePatienceExpired b.id t.tidx s = _
  rw [execRemotePatienceExpired, own, hx]
  dsimp only
  rw [hw]

end

theorem reg_delivered (r : Option Nat) (v : W32) (t : Thread) :
    (∀ n, r = some n → (delivered r v t).reg n = v) ∧ ∀ n, r ≠ some n → (delivered r v t).reg n = t.reg n := by
  cases r with
  | none => exact ⟨fun n h => (nomatch h), fun n _ => rfl⟩
  | some m =>
    refine ⟨fun n h => ?_, fun n h => ?_⟩
    · exact (reg_setReg t m n v).trans (if_pos (Option.some.inj h).symm)
    · exact (reg_setReg t m n v).trans (if_neg (fun he => h (congrArg some he.symm)))

/-- What the thread of an aborted section holds once it has learned of the abort, for whatever image it is given. -/
theorem abortDelivery_spec {b : Block} {t : Thread} {x : Section} {v : W32} {s1 : State} (hv : s.fxImage x = v)
    (h1 : s1.thread? b.id t.tidx = some (leftSection x (delivered x.vstatus v t)))
    (hs : ∀ z ∈ s1.sections, ¬ (z.cluster = x.cluster ∧ z.slot = x.slot)) (hm : s1.mem = s.mem)
    (run : exec (.abortDelivery b.id t.tidx) s = .next s1.tick) :
    ∃ s' y, exec (.abortDelivery b.id t.tidx) s = .next s' ∧ s'.thread? b.id t.tidx = some y ∧ y.pc = x.target ∧
      y.fxLast = s.fxImage x ∧ (∀ r, x.vstatus = some r → y.reg r = s.fxImage x) ∧ (∀ r, x.vstatus ≠ some r → y.reg r = t.reg r) ∧
      (∀ z ∈ s'.sections, ¬ (z.cluster = x.cluster ∧ z.slot = x.slot)) ∧ s'.mem = s.mem := by
  obtain ⟨hsame, hother⟩ := reg_delivered x.vstatus v t
  rw [hv]
  exact ⟨_, _, run, h1, rfl, rfl, hsame, hother, hs, hm⟩

end

/-- Settles O49: the commit by the bytes that its runs write, and the deliveries by their equations. -/
theorem sectionEventsComplete : Obligations.SectionEventsComplete := by
  refine ⟨fun s x hx => ?_, fun s b t x hb ht hx hs hw hi hd => ?_, fun s b t x k n write hb ht hx hw => remotePatience_runs hb ht hx hw⟩
  · obtain ⟨hblocks, hversions, hsections⟩ := commitSection_frame s x
    have bytes := byte_of_mem (commitSection_mem s x) (fxBytes_rises s x.cluster x.slot)
    refine ⟨_, commit_runs hx, fun a => (bytes a).1, fun a => (bytes a).2, fun v hv => ?_, hblocks, fun y hy => ?_⟩
    · have hv : v ∈ s.versions.filter (fun v => !(v.cluster == x.cluster && v.slot == x.slot)) := hversions ▸ hv
      exact fun ⟨hc, hk⟩ => by simpa [hc, hk] using (List.mem_filter.mp hv).2
    · have hy : y ∈ s.sections.map (afterCommit x) := hsections ▸ hy
      obtain ⟨z, -, rfl⟩ := List.mem_map.mp hy
      rw [afterCommit]
      by_cases hc : z.cluster = x.cluster
      · rw [if_neg (not_not.mpr hc)]
        by_cases hk : z.slot = x.slot
        · rw [if_pos hk]
          exact ⟨fun _ => rfl, fun _ h => absurd hk h⟩
        · rw [if_neg hk]
          exact ⟨fun h => absurd h.2 hk, fun _ _ h => by simpa using (List.mem_filter.mp h).2⟩
      · rw [if_pos hc]
        exact ⟨fun h => absurd h.1 hc, fun h => absurd h hc⟩
  · have thread := thread_of_delivered hb ht hx
    have run := abortDelivery_runs hb ht hx hs hw hi hd
    refine abortDelivery_spec rfl thread (fun z hz => ?_) rfl run
    have hz : z ∈ s.sections.filter (fun y => !(y.cluster == x.cluster && y.slot == x.slot)) := hz
    exact fun ⟨hc, hk⟩ => by simpa [hc, hk] using (List.mem_filter.mp hz).2

end Sys2Proof.Proofs
end


section
/-! Ranges, splits, and the hand-out of units (O53). -/

namespace Sys2Proof.Proofs

open Sys2Proof Sys2Proof.Machine Sys2Proof.Laws

/-! ### Launches that are replaced -/

theorem find_replaced {l : Launch} {f : Launch → Launch} {n : Nat} (hf : (f l).lid = n) : ∀ {ls : List Launch},
    ls.find? (fun x => x.lid == n) = some l →
    (ls.map (fun x => if x.lid = n then f x else x)).find? (fun x => x.lid == n) = some (f l)
  | x :: ls, h => by
    rw [List.map_cons]
    by_cases hx : x.lid = n
    · rw [List.find?_cons_of_pos (by simpa using hx)] at h
      obtain rfl := Option.some.inj h
      rw [if_pos hx]
      exact List.find?_cons_of_pos (by simpa using hf)
    · rw [List.find?_cons_of_neg (by simpa using hx)] at h
      rw [if_neg hx, List.find?_cons_of_neg (by simpa using hx)]
      exact find_replaced hf h

/-- A launch that a step replaces by another of its id is found as that one. -/
theorem launch_replaced {s : State} {l : Launch} (hl : s.launch? l.lid = some l) (f : Launch → Launch) (hf : (f l).lid = l.lid) :
    (s.mapLaunch l.lid f).launch? l.lid = some (f l) := find_replaced hf hl

/-- Runs that are given to a device are its own to place where it is this one. -/
theorem give_eq (l : Launch) (me dev : Nat) (rs : List (Nat × Nat)) : l.give me dev rs = { l with
    reports := if rs.isEmpty then l.reports else NMap.remove l.reports dev,
    dealtTo := NMap.insert l.dealtTo dev ((NMap.lookup l.dealtTo dev).getD [] ++ rs),
    runs := if dev = me then l.runs ++ rs else l.runs } := by
  rw [Launch.give]
  split <;> rfl

theorem drainTest_eq (l : Launch) : l.drainTest = { l with state := if l.state = .dealing ∧ l.left = 0 then .draining else l.state } := by
  rw [Launch.drainTest]
  split <;> rfl

section
variable {s : State} {l : Launch} (hl : s.launch? l.lid = some l)
include hl

/-! ### Ranges (R51) -/

theorem rangeRequest_runs (hs : l.state = .dealing) (hd : s.dealsHere l = true) (hw : ∀ w ∈ l.wants, w.1 ≠ s.pod.index)
    (hc : s.canHold l = true) (hn : (s.unplacedUnits l).length < s.freeClusters l.ctx * l.record.upc) (want : Nat) :
    exec (.rangeRequest s.pod.index l.lid want) s = .next (s.mapLaunch l.lid (fun x => { x with
      wants := x.wants ++ [(s.pod.index, s.freeClusters l.ctx * l.record.upc)] })).tick := by
  have asks : l.wants.any (fun w => w.1 == s.pod.index) = false :=
    List.any_eq_false.mpr (fun w hm => by simpa using hw w hm)
  show execRangeRequest s.pod.index l.lid want s = _
  rw [execRangeRequest, hl]
  dsimp only
  rw [if_neg (by simp [hd, hs, asks]), if_pos rfl, if_pos hc, if_neg (Nat.not_le.mpr hn)]

omit hl in
/-- With no returned units a deal is the next undealt ones. -/
theorem deal_fresh {rest : List (Nat × Nat)} {n : Nat} (hr : l.returned = []) (hn : n ≠ 0) (hle : n ≤ l.record.units - l.nextUnit) :
    Launch.deal 1 { l with wants := rest } n = ([(l.nextUnit, n)], { l with wants := rest, nextUnit := l.nextUnit + n }) := by
  rw [Launch.deal, if_neg hn]
  dsimp only
  rw [hr]
  dsimp only
  rw [Nat.min_eq_left hle, if_neg hn]

theorem rangeDeal_runs {dev w : Nat} {rest : List (Nat × Nat)} (hs : l.state = .dealing) (hd : s.dealsHere l = true)
    (hw : l.wants = (dev, w) :: rest) (hr : l.returned = []) (hu : l.nextUnit < l.record.units) (hf : s.dealtFirst l = false)
    (first count : Nat) :
    let n := min (l.record.units - l.nextUnit) (max 1 w)
    exec (.rangeDeal l.lid first count) s = .next (s.mapLaunch l.lid (fun _ =>
      (Launch.give { l with wants := rest, nextUnit := l.nextUnit + n } s.pod.index dev [(l.nextUnit, n)]).drainTest)).tick := by
  intro n
  have left : min l.left (max 1 w) = n := by
    rw [Launch.left, hr]
    rfl
  show execRangeDeal l.lid first count s = _
  rw [execRangeDeal, hl]
  dsimp only
  rw [if_pos hd, hw]
  dsimp only
  have fuel : l.returned.length + 1 = 1 := by rw [hr]; rfl
  rw [if_neg (by simp [hs, hf]), left, fuel, deal_fresh hr (by omega) (by omega)]

theorem rangeDeal_arrives {first count : Nat} (hs : l.state = .dealing) (hd : s.dealsHere l = false)
    (hr : NMap.lookup l.reports s.pod.index = none) (hc : 0 < count) (hu : first + count ≤ l.record.units) :
    let l1 := l.give s.pod.index s.pod.index [(first, count)]
    exec (.rangeDeal l.lid first count) s = .next (s.mapLaunch l.lid (fun _ => { l1 with
      nextUnit := max l1.nextUnit (first + count),
      state := if decide (l1.record.units ≤ first + count) then .draining else l1.state })).tick := by
  have deals : l.deals = true := by simp [Launch.deals, hs]
  show execRangeDeal l.lid first count s = _
  rw [execRangeDeal, hl]
  dsimp only
  rw [if_neg (by rw [hd]; exact Bool.false_ne_true), hr, Option.isSome_none, Bool.false_and, if_neg Bool.false_ne_true,
    if_neg (by simp [deals]; omega), if_neg (by omega)]

/-! ### Splits (R52) -/

omit hl in
/-- Units that are withdrawn leave the runs of their launch, and no block of theirs stays. -/
theorem withdraw_spec (hl : s.launch? l.lid = some l) (us : List Nat) :
    (s.withdraw l us).launch? l.lid = some { l with runs := us.foldl (fun rs u => cutRun u 1 rs) l.runs } ∧
    ∀ k b, (s.withdraw l us).block? k = some b → b.decl.lid = l.lid → b.index / l.record.unitBlocks ∉ us := by
  refine ⟨launch_replaced hl (fun l => { l with runs := us.foldl (fun rs u => cutRun u 1 rs) l.runs }) rfl, fun k b hb hlid hu => ?_⟩
  have kept : (k, b) ∈ s.blocks.filter (fun e => !(e.2.decl.lid == l.lid && us.contains (e.2.index / l.record.unitBlocks))) :=
    mem_of_lookup hb
  simpa [hlid, hu] using (List.mem_filter.mp kept).2

section
variable {dev : Nat} (hp : l.pod = true) (hdev : dev ≠ s.pod.index) (hs : l.state = .dealing ∨ l.state = .draining)
include hp hdev hs

theorem splitRequest_spur (hd : s.dealsHere l = false) : exec (.splitRequest dev l.lid) s = .next ((s.donate l).2.mapLaunch l.lid
    (fun x => x.takeFrom s.pod.index (s.donate l).1)).tick := by
  have deals : l.deals = true := by rcases hs with h | h <;> simp [Launch.deals, h]
  show execSplitRequest dev l.lid s = _
  rw [execSplitRequest, hl]
  dsimp only
  rw [if_neg (by simp [hp, deals]), if_neg (by rw [hd]; exact Bool.false_ne_true), if_neg hdev]

theorem splitRequest_ridge {d : Nat} (hd : s.dealsHere l = true) (h0 : l.left = 0) (hm : dev ∈ s.pod.members)
    (hr : NMap.lookup l.reports dev = none) (hx : ∀ x ∈ l.splits, x.1 ≠ dev) (hdon : s.donor l dev = some d) :
    exec (.splitRequest dev l.lid) s = if d = s.pod.index then
        .next ((s.donate l).2.mapLaunch l.lid (fun x => (x.takeFrom d (s.donate l).1).give d dev (s.donate l).1)).tick
      else .next (s.mapLaunch l.lid (fun x => { x with splits := x.splits ++ [(dev, d)] })).tick := by
  have deals : l.deals = true := by rcases hs with h | h <;> simp [Launch.deals, h]
  have asks : l.splits.any (fun x => x.1 == dev) = false := List.any_eq_false.mpr (fun x hm => by simpa using hx x hm)
  show execSplitRequest dev l.lid s = _
  rw [execSplitRequest, hl]
  dsimp only
  rw [if_neg (by simp [hp, deals]), if_pos hd, if_neg (by simp [h0, hm, hr, asks, hdev]), hdon]

theorem splitReturn_arrives {first count : Nat} (hc : 0 < count) (hu : first + count ≤ l.record.units) (hd : s.dealsHere l = false) :
    exec (.splitReturn dev l.lid first count) s =
      .next (s.mapLaunch l.lid (fun x => x.give s.pod.index s.pod.index [(first, count)])).tick := by
  have deals : l.deals = true := by rcases hs with h | h <;> simp [Launch.deals, h]
  show execSplitReturn dev l.lid first count s = _
  rw [execSplitReturn, hl]
  dsimp only
  rw [if_neg (by simp [hp, hdev]; omega), if_neg (by rw [hd]; exact Bool.false_ne_true),
    if_neg (by rw [deals]; exact Bool.true_eq_false.mp)]

end

/-! ### Hand-out (R50, R56) -/

theorem unitHandoff_runs {n u : Nat} (hr : s.ripe l = some (n, u))
    (hf : ∀ a ∈ s.launches, a.before l = true → s.activeIn a.ctx = some n → s.ripe a = none) :
    exec (.unitHandoff l.lid) s = .next ((l.record.instances u).foldl (fun s ms => s.handInstance l n ms)
      (s.mapLaunch l.lid (fun l => l.takeUnit u))).tick := by
  have first : s.launches.any (fun a => a.before l && s.activeIn a.ctx == some n && (s.ripe a).isSome) = false := by
    refine List.any_eq_false.mpr (fun a ha h => ?_)
    simp only [Bool.and_eq_true, beq_iff_eq] at h
    obtain ⟨⟨hb, hn⟩, hs⟩ := h
    rw [hf a ha hb hn] at hs
    cases hs
  show execUnitHandoff l.lid s = _
  rw [execUnitHandoff, hl]
  dsimp only
  rw [hr]
  dsimp only
  rw [first, if_neg Bool.false_ne_true]

end

/-! ### What a hand-out leaves as it was -/

/-- Blocks have been added to a state, and nothing that stood there has changed. -/
def Grown (s s' : State) : Prop :=
  s'.launches = s.launches ∧ s'.mem = s.mem ∧ s.seq ≤ s'.seq ∧ ∀ k, k < s.seq → s'.block? k = s.block? k

theorem Grown.refl (s : State) : Grown s s := ⟨rfl, rfl, Nat.le_refl _, fun _ _ => rfl⟩

theorem Grown.trans {s t u : State} (h : Grown s t) (g : Grown t u) : Grown s u := by
  obtain ⟨hl, hm, hs, hb⟩ := h
  obtain ⟨gl, gm, gs, gb⟩ := g
  exact ⟨gl.trans hl, gm.trans hm, Nat.le_trans hs gs, fun k hk => (gb k (Nat.lt_of_lt_of_le hk hs)).trans (hb k hk)⟩

theorem Grown.foldl {α : Type} {f : State → α → State} (hf : ∀ s a, Grown s (f s a)) : ∀ (xs : List α) (s : State), Grown s (xs.foldl f s)
  | [], s => .refl s
  | a :: xs, s => (hf s a).trans (foldl hf xs (f s a))

theorem grown_insert (s : State) (b : Block) : Grown s { s with seq := s.seq + 1, blocks := NMap.insert s.blocks s.seq b } :=
  ⟨rfl, rfl, Nat.le_succ _, fun _ hk => (lookup_insert ..).trans (if_neg (Nat.ne_of_lt hk))⟩

theorem grown_tell (s : State) (c ty blk : Nat) : Grown s (s.tell c ty blk) := by
  rw [State.tell]
  split
  · exact ⟨rfl, rfl, Nat.le_refl _, fun _ _ => rfl⟩
  · exact .refl s

theorem handInstance_grown (s : State) (l : Launch) (n : Nat) (ms : List Nat) : Grown s (s.handInstance l n ms) := by
  rw [State.handInstance]
  split
  · exact .refl s
  · next c _ =>
    have placed := Grown.foldl (f := fun (s : State) m =>
      let s1 : State := { s with seq := s.seq + 1, blocks := NMap.insert s.blocks s.seq (l.block m s.seq c) }
      if l.record.dieGangs then s1 else s1.tell c 1 s.seq) (fun s m => by
        dsimp only
        split
        · exact grown_insert s _
        · exact (grown_insert s _).trans (grown_tell _ _ _ _)) ms s
    dsimp only
    split
    · exact placed.trans ⟨rfl, rfl, Nat.le_refl _, fun _ _ => rfl⟩
    · exact placed

/-- Settles O53: each event by the launch that it leaves. -/
theorem rangesAndSplitsMoveUnits : Obligations.RangesAndSplitsMoveUnits := by
  intro s l hl
  refine ⟨fun hs hd hw hc hn want => ⟨_, rangeRequest_runs hl hs hd hw hc hn want, ?_⟩, fun dev w rest first count hs hd hw hr hu hf => ?_,
    fun first count hs hd hr hc hu => ?_, fun dev hp hdev hs => ?_, fun dev first count hp hdev hc hu hs hd _ => ?_, fun n u hr hf => ?_⟩
  · exact launch_replaced hl (fun x => { x with wants := x.wants ++ [(s.pod.index, s.freeClusters l.ctx * l.record.upc)] }) rfl
  · have none : s.dealtFirst l = false := List.any_eq_false.mpr (fun a ha h => by
      simp only [Bool.and_eq_true, beq_iff_eq, Bool.not_eq_true', List.isEmpty_eq_false_iff] at h
      obtain ⟨⟨⟨hb, hsa⟩, hwa⟩, hda⟩ := h
      exact hwa (hf a ha hb hsa hda))
    intro n
    have run := rangeDeal_runs hl hs hd hw hr hu none first count
    dsimp only at run
    rw [drainTest_eq, give_eq] at run
    refine ⟨_, _, run, launch_replaced hl _ rfl, rfl, rfl, rfl, (lookup_insert ..).trans (if_pos rfl), ?_⟩
    have none' : (l.returned.map Prod.snd).sum = 0 := by rw [hr]; rfl
    show (if l.state = .dealing ∧ l.record.units - (l.nextUnit + n) + (l.returned.map Prod.snd).sum = 0 then LState.draining else l.state) = _
    by_cases h : l.nextUnit + n = l.record.units
    · rw [if_pos ⟨hs, by omega⟩, if_pos h]
    · rw [if_neg (by omega), if_neg h, hs]
  · have run := rangeDeal_arrives hl hs hd hr hc hu
    rw [give_eq] at run
    refine ⟨_, _, run, launch_replaced hl _ rfl, if_pos rfl, ?_⟩
    show (if decide (l.record.units ≤ first + count) = true then LState.draining else l.state) = _
    by_cases h : first + count = l.record.units
    · rw [if_pos (decide_eq_true (Nat.le_of_eq h.symm)), if_pos h]
    · rw [if_neg (by simp; omega), if_neg h, hs]
  · intro us gone left
    obtain ⟨hwith, hgone⟩ := withdraw_spec hl gone
    refine ⟨fun hd => ⟨_, _, splitRequest_spur hl hp hdev hs hd,
      launch_replaced (l := { l with runs := gone.foldl (fun rs u => cutRun u 1 rs) l.runs }) hwith
        (fun x => x.takeFrom s.pod.index (s.donate l).1) rfl, rfl, fun k b hb => hgone k b hb⟩, fun hd h0 hm hr hx d hdon => ?_⟩
    have run := splitRequest_ridge hl hp hdev hs hd h0 hm hr hx hdon
    by_cases hself : d = s.pod.index
    · rw [if_pos hself] at run
      refine ⟨_, _, run, launch_replaced (l := { l with runs := gone.foldl (fun rs u => cutRun u 1 rs) l.runs }) hwith
        (fun x => (x.takeFrom d (s.donate l).1).give d dev (s.donate l).1) (by rw [give_eq]; rfl), fun _ => ?_, fun h => absurd hself h⟩
      rw [give_eq]
      refine ⟨⟨if_neg (hself ▸ hdev), fun k b hb => hgone k b hb⟩, (lookup_insert ..).trans ((if_pos rfl).trans ?_)⟩
      have kept := lookup_insert l.dealtTo d dev (((s.donate l).1).foldl (fun m r => cutRun r.1 r.2 m) ((NMap.lookup l.dealtTo d).getD []))
      rw [if_neg (hself ▸ hdev)] at kept
      exact congrArg (fun x => some (Option.getD x [] ++ gone.map (fun u => (u, 1)))) kept
    · rw [if_neg hself] at run
      exact ⟨_, _, run, launch_replaced hl (fun x => { x with splits := x.splits ++ [(dev, d)] }) rfl, fun h => absurd h hself, fun _ => rfl⟩
  · have run := splitReturn_arrives hl hp hdev hs hc hu hd
    refine ⟨_, _, run, launch_replaced hl _ (by rw [give_eq]), ?_⟩
    rw [give_eq]
    exact if_pos rfl
  · obtain ⟨hlaunches, hmem, -, hblocks⟩ := Grown.foldl (f := fun s ms => s.handInstance l n ms) (fun s ms => handInstance_grown s l n ms)
      (l.record.instances u) (s.mapLaunch l.lid (fun l => l.takeUnit u))
    refine ⟨_, unitHandoff_runs hl hr hf, ?_, hblocks, hmem⟩
    exact (congrArg (List.find? _) hlaunches).trans (launch_replaced hl (fun l => l.takeUnit u) rfl)

end Sys2Proof.Proofs
end


section
/-! The command links, failed clusters, Ridge links, and the standby of the Massif (O55). -/

namespace Sys2Proof.Proofs

open Sys2Proof Sys2Proof.Machine Sys2Proof.Laws

/-! ### Messages (R67, R389) -/

section
variable {s : State} {c : Nat} {m : Msg} {what : Option CairnMsg}

/-- The state in which a message acts: the Massif's round stands at the cluster that it has heard. -/
def heard (s : State) (c : Nat) (m : Msg) : State := if m.toCairn then s else { s with served := c }

/-- The state after a message has been taken: the permit is spent, RET has come, and what waited longest has left. -/
def taken (s : State) (c : Nat) (m : Msg) (what : Option CairnMsg) : State :=
  (heard s c m).mapLink c (fun l => (l.deliver m).shift m what)

theorem heard_cases (s : State) (c : Nat) (m : Msg) : heard s c m = { s with served := if m.toCairn then s.served else c } := by
  rw [heard]
  split <;> rfl

theorem taken_blocks (s : State) (c : Nat) (m : Msg) (what : Option CairnMsg) : (taken s c m what).blocks = s.blocks := by
  rw [taken, heard_cases]
  rfl

theorem taken_fw (s : State) (c : Nat) (m : Msg) (what : Option CairnMsg) : (taken s c m what).fw = s.fw := by
  rw [taken, heard_cases]
  rfl

variable (hc : c < 64) (hl : (s.cluster c).lost = false) (hs : (s.cluster c).link.maySend m.toCairn = true)
include hc hl hs

theorem message_open : ¬ (Config.clusters ≤ c ∨ (s.cluster c).lost = true ∨ (s.cluster c).link.maySend m.toCairn = false) := by
  rintro (h | h | h)
  · exact absurd hc (Nat.not_lt.mpr h)
  · rw [hl] at h
    cases h
  · rw [hs] at h
    cases h

/-- A message whose SEQ has been seen does nothing. -/
theorem message_seen (h : (s.cluster c).link.seen m = true) (act : State → State) : message c m what act s = .next s.tick := by
  rw [message, if_neg (message_open hc hl hs), if_pos h]

/-- A message of a Cairn whose turn has not come waits. -/
theorem message_waits (h : (s.cluster c).link.seen m = false) (ht : ¬ (m.toCairn = true ∨ s.hears c what = true)) (act : State → State) :
    message c m what act s = .next s.tick := by
  rw [message, if_neg (message_open hc hl hs), if_neg (by rw [h]; exact Bool.false_ne_true)]
  obtain ⟨h1, h2⟩ := not_or.mp ht
  exact if_pos (by simp [h1, h2])

section
variable (hn : (s.cluster c).link.seen m = false) (ht : m.toCairn = true ∨ s.hears c what = true)
include hn ht

theorem message_heard (act : State → State) : message c m what act s =
    if (s.cluster c).link.badRet m then .next (((heard s c m).mapLink c (fun l => l.drop m)).linkError c).tick
    else .next (act (taken s c m what)).tick := by
  have turn : (!m.toCairn && !s.hears c what) = false := by rcases ht with h | h <;> simp [h]
  rw [message, if_neg (message_open hc hl hs), if_neg (by rw [hn]; exact Bool.false_ne_true)]
  dsimp only
  rw [turn, if_neg Bool.false_ne_true]
  rfl

theorem message_acts (hr : m.ret ≤ 16 - (s.cluster c).link.held m.toCairn) (act : State → State) :
    message c m what act s = .next (act (taken s c m what)).tick := by
  rw [message_heard hc hl hs hn ht, if_neg (by rw [Link.badRet, decide_eq_true_eq]; omega)]

theorem message_bad (hr : 16 - (s.cluster c).link.held m.toCairn < m.ret) (act : State → State) :
    message c m what act s = .next (((heard s c m).mapLink c (fun l => l.drop m)).linkError c).tick := by
  rw [message_heard hc hl hs hn ht, if_pos (by rw [Link.badRet, decide_eq_true_eq]; exact hr)]

end

omit hc hl hs in
theorem unknown_seen (h : (s.cluster c).link.seen m = true) : exec (.messageUnknown c m) s = .next s.tick := by
  show execMessageUnknown c m s = _
  rw [execMessageUnknown]
  exact if_pos (.inr (.inr (.inr h)))

theorem unknown_dropped (hn : (s.cluster c).link.seen m = false) (ht : m.toCairn = true ∨ s.hears c none = true)
    (hr : m.ret ≤ 16 - (s.cluster c).link.held m.toCairn) (hty : m.type = 0 ∨ 8 < m.type) : exec (.messageUnknown c m) s =
    .next ((((heard s c m).mapLink c (fun l => l.drop m)).mapLink c (fun l => { l with dropped := l.dropped + 1 })).tick) := by
  have turn : (!m.toCairn && !s.hears c none) = false := by rcases ht with h | h <;> simp [h]
  have ret : (s.cluster c).link.badRet m = false := decide_eq_false (Nat.not_lt.mpr hr)
  have ty : decide (1 ≤ m.type ∧ m.type ≤ 8) = false := decide_eq_false (by omega)
  have go : ¬ (Config.clusters ≤ c ∨ (s.cluster c).lost = true ∨ (s.cluster c).link.maySend m.toCairn = false ∨
      (s.cluster c).link.seen m = true) := by
    rintro (h | h | h | h)
    · exact message_open hc hl hs (.inl h)
    · exact message_open hc hl hs (.inr (.inl h))
    · exact message_open hc hl hs (.inr (.inr h))
    · rw [hn] at h
      cases h
  show execMessageUnknown c m s = _
  rw [execMessageUnknown]
  dsimp only
  rw [if_neg go, turn, if_neg Bool.false_ne_true, ret, ty, Bool.and_false, if_neg Bool.false_ne_true, if_neg Bool.false_ne_true]
  rfl

end

/-! ### What the messages do -/

section
variable {s s' : State} {c : Nat} {m : Msg}

/-- What a PLACE does where it has been taken. -/
def placeAct (s : State) (c : Nat) (m : Msg) (s' : State) : State :=
  if !((s.cluster c).link.isNext m) then s'
  else match s'.unacked c m.blk with
    | some g => if s'.partUnsent c g then s' else s'.report c (.placed m.blk)
    | none => s'

theorem placeAct_nothing (h : (s.cluster c).link.isNext m = false ∨ s'.unacked c m.blk = none) : placeAct s c m s' = s' := by
  rw [placeAct]
  rcases h with h | h
  · rw [h]
    rfl
  · rw [h]
    split <;> rfl

theorem placeAct_last {g : Gang} (hn : (s.cluster c).link.isNext m = true) (hg : s'.unacked c m.blk = some g)
    (hp : s'.partUnsent c g = false) : placeAct s c m s' = s'.report c (.placed m.blk) := by
  rw [placeAct, hn, hg]
  dsimp only
  rw [hp]
  rfl

/-- What a KILL does where it has been taken. -/
def killAct (s : State) (c : Nat) (m : Msg) (s' : State) : State :=
  if (s.cluster c).link.isNext m then s'
  else match s'.named c m with
    | none => s'
    | some b => (((s'.gangOf b).foldl State.kill s').dropGangs).decideEnd b.decl.lid

/-- What a PREEMPT does where it has been taken. -/
def preemptAct (s : State) (c : Nat) (m : Msg) (s' : State) : State :=
  match s'.named c m with
  | none => s'
  | some b => if !((s.cluster c).link.isNext m) then s'.preempt b else if b.chosen then s'.stopBlock b else s'

theorem named_of_block {b : Block} (hb : s'.block? m.blk = some b) (hc : b.cluster = c) (hl : b.decl.lid = m.lid) :
    s'.named c m = some b := by
  rw [State.named, hb]
  exact if_pos ⟨hc, hl⟩

theorem killAct_next (h : (s.cluster c).link.isNext m = true) : killAct s c m s' = s' := by
  rw [killAct, if_pos h]

theorem killAct_named {b : Block} (h : (s.cluster c).link.isNext m = false) (hb : s'.named c m = some b) :
    killAct s c m s' = (((s'.gangOf b).foldl State.kill s').dropGangs).decideEnd b.decl.lid := by
  rw [killAct, if_neg (by rw [h]; exact Bool.false_ne_true), hb]

theorem preemptAct_named {b : Block} (hb : s'.named c m = some b) : preemptAct s c m s' =
    if !((s.cluster c).link.isNext m) then s'.preempt b else if b.chosen then s'.stopBlock b else s' := by
  rw [preemptAct, hb]

/-- What a PATCH does where it has been taken. -/
def patchAct (c : Nat) (m : Msg) (s : State) : State :=
  if s.fw.state = .broadcast ∧ m.toCairn = true ∧ s.fw.told.contains c = false then
    ({ s with fw := { s.fw with told := s.fw.told ++ [c] } } : State).report c .patched
  else s

theorem patchAct_told (hs : s.fw.state = .broadcast) (hm : m.toCairn = true) (ht : c ∉ s.fw.told) :
    patchAct c m s = (s.mapFw (fun f => { f with told := f.told ++ [c] })).report c .patched := by
  rw [patchAct, if_pos ⟨hs, hm, by simpa using ht⟩]
  rfl

theorem takeAck_patched (hs : s.fw.state = .broadcast) (ht : c ∈ s.fw.told) (ha : c ∉ s.fw.acks) : s.takeAck c .patched =
    (s.mapFw (fun f => { f with acks := f.acks ++ [c] })).mapCluster c (fun x => { x with patches := x.patches ++ [s.fw.image] }) := by
  rw [State.takeAck, if_pos ⟨hs, by simpa using ht, by simpa using ha⟩]
  rfl

theorem exec_placeMsg : exec (.placeMsg c m) s = message c m none (placeAct s c m) s := rfl
theorem exec_killMsg : exec (.killMsg c m) s = message c m none (killAct s c m) s := rfl
theorem exec_preemptMsg : exec (.preemptMsg c m) s = message c m none (preemptAct s c m) s := rfl
theorem exec_patchMsg : exec (.patchMsg c m) s = message c m none (patchAct c m) s := rfl
theorem exec_permitMsg : exec (.permitMsg c m) s = message c m none id s := rfl
theorem exec_faultMsg : exec (.faultMsg c m) s = message c m (some (.fault m.blk)) id s := rfl

/-- What an ACK of a Cairn stands for: the message of that Cairn that waits longest. -/
def ackOf (s : State) (c : Nat) : CairnMsg := match (s.cluster c).link.back.head? with
  | some (_, .placed k) => .placed k
  | _ => .patched

theorem exec_ackMsg : exec (.ackMsg c m) s = message c m (some (ackOf s c)) (fun x => if m.toCairn then x else x.takeAck c (ackOf s c)) s :=
  rfl

theorem ackOf_patched {n : Nat} (h : (s.cluster c).link.back.head? = some (n, .patched)) : ackOf s c = .patched := by
  rw [ackOf, h]

/-! ### Permits that are returned (R67) -/

theorem permitTimeout_runs {toCairn : Bool} (hc : c < 64) (hm : (s.cluster c).link.maySend toCairn = true)
    (ho : (if toCairn then (s.cluster c).link.owedFrom else (s.cluster c).link.owedTo) ≠ 0)
    (hf : (if toCairn then (s.cluster c).link.out.isEmpty else s.hears c none) = true) : exec (.permitTimeout c toCairn) s =
    .next ((if toCairn then s else { s with served := c }).mapLink c (fun l => l.send toCairn)).tick := by
  show execPermitTimeout c toCairn s = _
  rw [execPermitTimeout]
  refine if_neg ?_
  rintro (h | h | h | h)
  · exact absurd hc (Nat.not_lt.mpr h)
  · exact ho h
  · rw [hm] at h
    cases h
  · rw [hf] at h
    cases h

end

/-! ### Clusters that fail (R64, R65) -/

section
variable {s : State} {c : Nat}

theorem clusterFailure_runs {r : Nat} (hr : r = 2 ∨ r = 4) : exec (.clusterFailure c r) s = .next (s.failCluster c r).tick := by
  show execClusterFailure c r s = _
  rw [execClusterFailure]
  rcases hr with rfl | rfl <;> rfl

theorem remap_spare (h : NMap.lookup s.spares (c / 16) = none) : ((s.remap c).cluster c).spare = true ∧
    ((s.remap c).cluster c).lost = (s.cluster c).lost ∧ NMap.lookup (s.remap c).spares (c / 16) = some c := by
  have here (s1 : State) (f : Cluster → Cluster) : (s1.mapCluster c f).cluster c = f (s1.cluster c) := (cluster_mapCluster ..).trans (if_pos rfl)
  rw [State.remap, h]
  dsimp only
  rw [here]
  exact ⟨rfl, rfl, (lookup_insert ..).trans (if_pos rfl)⟩

theorem remap_lost {d : Nat} (h : NMap.lookup s.spares (c / 16) = some d) : ((s.remap c).cluster c).lost = true ∧ (s.remap c).spares = s.spares := by
  have here (s1 : State) (f : Cluster → Cluster) : (s1.mapCluster c f).cluster c = f (s1.cluster c) := (cluster_mapCluster ..).trans (if_pos rfl)
  rw [State.remap, h]
  dsimp only
  rw [here]
  exact ⟨rfl, rfl⟩

theorem failCluster_live {r : Nat} (hc : c < 64) (hl : (s.cluster c).lost = false) (hs : s.fw.state ≠ .broadcast) :
    let s2 := ((itemsOf s.blocks.length (s.standingIn c)).foldl (fun s x => s.loseInstance r x) s).remap c
    s.failCluster c r = (if s2.usable c then s2.replace c else s2.faultOutgrown).settlePlaces.settleLaunches := by
  have open' : ¬ (Config.clusters ≤ c ∨ (s.cluster c).lost = true) := by
    rintro (h | h)
    · exact absurd hc (Nat.not_lt.mpr h)
    · rw [hl] at h
      cases h
  have told : (if s.fw.state = .broadcast ∧ s.fw.acks.contains c = false then s.fw.acks ++ [c] else s.fw.acks) = s.fw.acks :=
    if_neg (fun h => hs h.1)
  rw [State.failCluster, if_neg open']
  dsimp only
  rw [told]

/-! ### Ridge links (R402, R403) -/

theorem flitCrcError_first (p : Nat) : exec (.flitCrcError ⟨p, false⟩) s = .next s.tick := by
  show execFlitCrcError ⟨p, false⟩ s = _
  rw [execFlitCrcError]
  exact if_pos (.inr rfl)

theorem flitCrcError_again {p : Nat} (hp : p ∈ s.pod.links) :
    let errors := s.ptime :: s.portErrors p
    exec (.flitCrcError ⟨p, true⟩) s = .next { s.tick with pod := { s.pod with
      retries := NMap.insert s.pod.retries p errors,
      failing := if 8 ≤ errors.length ∧ p ∉ s.pod.failing then s.pod.failing ++ [p] else s.pod.failing } } := by
  intro errors
  have same : (if 8 ≤ errors.length ∧ s.pod.failing.contains p = false then s.pod.failing ++ [p] else s.pod.failing) =
      if 8 ≤ errors.length ∧ p ∉ s.pod.failing then s.pod.failing ++ [p] else s.pod.failing := by
    congr 1
    simp
  have open' : ¬ (s.pod.links.contains p = false ∨ true = false) := by simp [hp]
  show execFlitCrcError ⟨p, true⟩ s = _
  rw [execFlitCrcError]
  dsimp only
  rw [if_neg open', same]
  rfl

theorem abortCollectives_none (hc : s.cmds = []) (who : Nat → Bool) : s.abortCollectives who = s := by
  rw [State.abortCollectives, hc]
  rfl

/-- A port of a device is gone from its links. -/
def portDown (s : State) (p : Nat) : State := { s with pod := { s.pod with
  links := s.pod.links.filter (fun q => q != p), failing := s.pod.failing.filter (fun q => q != p),
  retries := NMap.remove s.pod.retries p } }

theorem linkDown_runs {p : Nat} (hp : p ∈ s.pod.failing) : exec (.linkDown p) s =
    .next (if (portDown s p).pod.links.isEmpty then (portDown s p).leavePod s.pod.index else portDown s p).tick := by
  show execLinkDown p s = _
  rw [execLinkDown, if_neg (by simpa using hp)]
  rfl

theorem linkDown_healthy {p : Nat} (hp : p ∉ s.pod.failing) : exec (.linkDown p) s = .next s.tick := by
  show execLinkDown p s = _
  rw [execLinkDown, if_pos (by simpa using hp)]

theorem leavePod_own (hc : s.cmds = []) (hin : s.pod.inPod = true) (hm : s.pod.index ∈ s.pod.members) : s.leavePod s.pod.index =
    { s with pod := { s.pod with inPod := false, index := 0, members := [0], ridge := none, held := [] } } := by
  have member : ¬ (!s.pod.inPod || !s.pod.members.contains s.pod.index) = true := by simp [hin, hm]
  rw [State.leavePod, if_neg member, if_pos rfl, abortCollectives_none hc]

theorem leavePod_outside {d : Nat} (h : s.pod.inPod = false ∨ d ∉ s.pod.members) : s.leavePod d = s := by
  rw [State.leavePod]
  refine if_pos ?_
  rcases h with h | h <;> simp [h]

theorem leavePod_other {d : Nat} (hc : s.cmds = []) (hin : s.pod.inPod = true) (hm : d ∈ s.pod.members) (hd : d ≠ s.pod.index)
    (hr : s.isRidge = false) :
    let s1 : State := { s with
      launches := s.launches.map (if s.pod.ridge = some d then Launch.loseRidge else s.loseMember), pod := { s.pod with
      members := s.pod.members.filter (fun x => x != d), ridge := if s.pod.ridge = some d then none else s.pod.ridge } }
    s.leavePod d = (s1.launches.map Launch.lid).foldl (fun s lid => (s.flushBits lid none).decidePod lid) s1 := by
  have member : ¬ (!s.pod.inPod || !s.pod.members.contains d) = true := by simp [hin, hm]
  have spur : ¬ s.isRidge = true := by rw [hr]; exact Bool.false_ne_true
  rw [State.leavePod, if_neg member, if_neg hd]
  dsimp only
  rw [abortCollectives_none hc, if_neg spur]

/-- The last port that goes down takes the device out of its pod, and nothing else. -/
theorem linkDown_spec {p : Nat} (hp : p ∈ s.pod.failing) (hc : s.cmds = []) : ∃ s', exec (.linkDown p) s = .next s' ∧
    s'.pod.links = s.pod.links.filter (fun q => q != p) ∧
    (s.pod.inPod = true → s.pod.index ∈ s.pod.members → s'.pod.inPod = !s'.pod.links.isEmpty) ∧ s'.blocks = s.blocks := by
  have run := linkDown_runs hp
  by_cases he : (portDown s p).pod.links.isEmpty = true
  · rw [if_pos he] at run
    have empty : (s.pod.links.filter (fun q => q != p)).isEmpty = true := he
    by_cases hin : s.pod.inPod = true ∧ s.pod.index ∈ s.pod.members
    · rw [show (portDown s p).leavePod s.pod.index = _ from leavePod_own (s := portDown s p) hc hin.1 hin.2] at run
      exact ⟨_, run, rfl, fun _ _ => (congrArg (! ·) empty).symm, rfl⟩
    · rw [leavePod_outside (s := portDown s p) (by
        rw [not_and_or] at hin
        exact hin.imp_left Bool.eq_false_iff.mpr)] at run
      exact ⟨_, run, rfl, fun h1 h2 => absurd ⟨h1, h2⟩ hin, rfl⟩
  · rw [if_neg he] at run
    exact ⟨_, run, rfl, fun h _ => h.trans (congrArg (! ·) (Bool.eq_false_iff.mpr he)).symm, rfl⟩

theorem ridgeActivation_runs {d : Nat} (hin : s.pod.inPod = true) (hm : d ∈ s.pod.members) : exec (.ridgeActivation d) s =
    .next { s.tick with
      launches := if d = s.pod.index then s.launches.map s.takeUpGrid else s.launches, pod := { s.pod with
      ridge := some d, nextSeq := if d = s.pod.index then max s.pod.nextSeq (s.pod.expect + s.pod.held.length)
        else s.pod.nextSeq } } := by
  show execRidgeActivation d s = _
  rw [execRidgeActivation, if_neg (by rw [hin]; exact Bool.true_eq_false.mp), if_neg (by simp [hm])]
  rfl

/-- A grid that a device leaves before its report is lost to it. -/
theorem loseFrom_spec {d : Nat} {l : Launch} (hl : s.launch? l.lid = some l) (hp : l.pod = true) (hc : l.completion = none)
    (hr : NMap.lookup l.reports d = none) : ∃ y, (s.loseFrom d l).launch? l.lid = some y ∧ y.podLost = true ∧ y.faulted = true ∧
      NMap.lookup y.dealtTo d = none := by
  rw [State.loseFrom, if_neg (by simp [hp, hc, hr])]
  exact ⟨_, launch_replaced hl _ rfl, rfl, rfl, (lookup_remove ..).trans (if_pos rfl)⟩

/-! ### The standby (R388, R389) -/

theorem zipWith_map_same {α β : Type} (f : α → β) (g : α → β → α) (hg : ∀ a, g a (f a) = a) : ∀ l : List α, List.zipWith g l (l.map f) = l
  | [] => rfl
  | a :: l => by rw [List.map_cons, List.zipWith_cons_cons, hg, zipWith_map_same f g hg l]

/-- The journal is a view of the state that the active core holds: replaying it changes nothing. -/
theorem replay_journal (s : State) : s.replay s.journal = s := by
  unfold State.replay State.journal
  dsimp only
  rw [zipWith_map_same (fun e : Nat × Context => (e.1, e.2.requests)) (fun e q => (e.1, { e.2 with requests := q.2 })) (fun _ => rfl),
    zipWith_map_same (fun e : Nat × Cluster => (e.1, (e.2.link.toSeq, e.2.link.toPermits, e.2.link.owedTo),
      (e.2.link.fromSeq, e.2.link.fromPermits, e.2.link.owedFrom))) (fun e q => (e.1, { e.2 with link := { e.2.link with
      toSeq := q.2.1.1, toPermits := q.2.1.2.1, owedTo := q.2.1.2.2,
      fromSeq := q.2.2.1, fromPermits := q.2.2.2.1, owedFrom := q.2.2.2.2 } })) (fun _ => rfl)]

/-- A take-over with no prologue under way changes the firmware state, and ends the failed core's thread. -/
theorem takeOver_calm (h : ∀ b ∈ s.allBlocks, b.mode ≠ .prologue) : s.takeOver = (s.stopMassif s.fw.activeCore).mapFw (fun f =>
    { f.dropPatch with activeCore := 1 - f.activeCore, noStandby := true, down := false }) := by
  have none : (s.stopMassif s.fw.activeCore).allBlocks.filter (fun b => b.mode == .prologue) = [] := by
    refine List.filter_eq_nil_iff.mpr (fun b hb => ?_)
    obtain ⟨e, he, rfl⟩ := List.mem_map.mp hb
    have here : e.2 ∈ s.allBlocks := List.mem_map.mpr ⟨e, (List.mem_filter.mp he).1, rfl⟩
    simpa using h e.2 here
  unfold State.takeOver
  dsimp only
  rw [replay_journal, none, List.foldl_nil]

theorem dropPatch_waiting {f : Firmware} (h : f.state = .verify ∨ f.state = .gating ∨ f.state = .quiescing) :
    f.dropPatch.state = .idle ∧ f.dropPatch.result = 7 ∧ f.dropPatch.table = f.table := by
  rw [Firmware.dropPatch, if_pos h]
  exact ⟨rfl, rfl, rfl⟩

end

/-! ### Assembly -/

section
variable {s : State} {c : Nat} {m : Msg}

theorem link_mapLink_same (s : State) (c : Nat) (f : Link → Link) : ((s.mapLink c f).cluster c).link = f (s.cluster c).link :=
  (link_mapLink s c f c).trans (if_pos rfl)

theorem link_heard (s : State) (c : Nat) (m : Msg) (k : Nat) : ((heard s c m).cluster k).link = (s.cluster k).link := by
  rw [heard_cases]
  rfl

theorem block_taken (what : Option CairnMsg) (k : Nat) : (taken s c m what).block? k = s.block? k :=
  congrArg (fun bs => NMap.lookup bs k) (taken_blocks s c m what)

/-- What a message of no known type leaves of the link. -/
theorem unknown_spec : let s' := (((heard s c m).mapLink c (fun l => l.drop m)).mapLink c (fun l => { l with dropped := l.dropped + 1 })).tick
    (s'.cluster c).link.dropped = (s.cluster c).link.dropped + 1 ∧ s'.blocks = s.blocks ∧
    (m.toCairn = true → (s'.cluster c).link.toPermits = (s.cluster c).link.toPermits - 1) ∧
    (m.toCairn = false → (s'.cluster c).link.fromPermits = (s.cluster c).link.fromPermits - 1) := by
  intro s'
  have link : (s'.cluster c).link = { (s.cluster c).link.drop m with dropped := ((s.cluster c).link.drop m).dropped + 1 } := by
    refine (link_mapLink_same ((heard s c m).mapLink c (fun l => l.drop m)) c (fun l => { l with dropped := l.dropped + 1 })).trans ?_
    rw [link_mapLink_same, link_heard]
  rw [link]
  refine ⟨?_, ?_, fun h => ?_, fun h => ?_⟩
  · dsimp only
    rw [Link.drop]
    split <;> rfl
  · show (heard s c m).blocks = s.blocks
    rw [heard_cases]
  · dsimp only
    rw [Link.drop, if_pos h]
  · dsimp only
    rw [Link.drop, if_neg (by rw [h]; exact Bool.false_ne_true)]

/-- The effects of the known messages where they are taken (R67). -/
theorem messages_spec (hc : c < 64) (hl : (s.cluster c).lost = false) (hs : (s.cluster c).link.maySend m.toCairn = true)
    (hn : (s.cluster c).link.seen m = false) (hr : m.ret ≤ 16 - (s.cluster c).link.held m.toCairn)
    (ht : m.toCairn = true ∨ s.hears c none = true) :
    exec (.permitMsg c m) s = .next (taken s c m none).tick ∧
    ((s.cluster c).link.isNext m = false ∨ (taken s c m none).unacked c m.blk = none →
      exec (.placeMsg c m) s = .next (taken s c m none).tick) ∧
    (∀ g, (s.cluster c).link.isNext m = true → (taken s c m none).unacked c m.blk = some g → (taken s c m none).partUnsent c g = false →
      exec (.placeMsg c m) s = .next ((taken s c m none).report c (.placed m.blk)).tick) ∧
    (∀ b, s.block? m.blk = some b → b.cluster = c → b.decl.lid = m.lid →
      ((s.cluster c).link.isNext m = false →
        exec (.killMsg c m) s = .next (((((taken s c m none).gangOf b).foldl State.kill (taken s c m none)).dropGangs).decideEnd
          b.decl.lid).tick ∧
        exec (.preemptMsg c m) s = .next ((taken s c m none).preempt b).tick) ∧
      ((s.cluster c).link.isNext m = true → exec (.killMsg c m) s = .next (taken s c m none).tick ∧
        (b.chosen = true → exec (.preemptMsg c m) s = .next ((taken s c m none).stopBlock b).tick) ∧
        (b.chosen = false → exec (.preemptMsg c m) s = .next (taken s c m none).tick))) ∧
    (s.fw.state = .broadcast → m.toCairn = true → c ∉ s.fw.told →
      exec (.patchMsg c m) s = .next (((taken s c m none).mapFw (fun f => { f with told := f.told ++ [c] })).report c .patched).tick) := by
  have acts (act : State → State) : message c m none act s = .next (act (taken s c m none)).tick := message_acts hc hl hs hn ht hr act
  refine ⟨acts id, fun h => ?_, fun g h hg hp => ?_, fun b hb hbc hbl => ?_, fun h1 h2 h3 => ?_⟩
  · rw [exec_placeMsg, acts, placeAct_nothing h]
  · rw [exec_placeMsg, acts, placeAct_last h hg hp]
  · have named := named_of_block (s' := taken s c m none) ((block_taken none m.blk).trans hb) hbc hbl
    refine ⟨fun h => ⟨?_, ?_⟩, fun h => ⟨?_, fun hch => ?_, fun hch => ?_⟩⟩
    · rw [exec_killMsg, acts, killAct_named h named]
    · rw [exec_preemptMsg, acts, preemptAct_named named, h]
      rfl
    · rw [exec_killMsg, acts, killAct_next h]
    · rw [exec_preemptMsg, acts, preemptAct_named named, h, hch]
      rfl
    · rw [exec_preemptMsg, acts, preemptAct_named named, h, hch]
      rfl
  · rw [exec_patchMsg, acts, patchAct_told (by rw [taken_fw]; exact h1) h2 (by rw [taken_fw]; exact h3)]

theorem ackMsg_patched (hc : c < 64) (hl : (s.cluster c).lost = false) (hs : (s.cluster c).link.maySend m.toCairn = true)
    (hn : (s.cluster c).link.seen m = false) (hr : m.ret ≤ 16 - (s.cluster c).link.held m.toCairn) {n : Nat}
    (hb : s.fw.state = .broadcast) (hm : m.toCairn = false) (ht : c ∈ s.fw.told) (ha : c ∉ s.fw.acks)
    (hw : (s.cluster c).link.back.head? = some (n, .patched)) (hh : s.hears c (some .patched) = true) :
    exec (.ackMsg c m) s = .next (((taken s c m (some .patched)).mapFw (fun f => { f with acks := f.acks ++ [c] })).mapCluster c (fun x =>
      { x with patches := x.patches ++ [s.fw.image] })).tick := by
  have fw := taken_fw s c m (some .patched)
  rw [exec_ackMsg, ackOf_patched hw, message_acts hc hl hs hn (.inr hh) hr, if_neg (by rw [hm]; exact Bool.false_ne_true),
    takeAck_patched (by rw [fw]; exact hb) (by rw [fw]; exact ht) (by rw [fw]; exact ha), fw]

end

/-- Settles O55: the messages by what they do where they are taken, and the failures by their equations. -/
theorem linksAndClustersFail : Obligations.LinksAndClustersFail := by
  refine ⟨fun s c m hc hl hs => ?_, fun s c hc hp ho hout => ?_, fun s c hc hp ho hh => ?_, fun s c r hc hl hr => ?_, fun s p hp => ?_,
    fun s d hin hm hcmds => ?_, fun s => ?_⟩
  · intro l base took turn
    refine ⟨fun h i hi => ?_, fun hn ht => ?_, fun hn hr => ⟨fun ht => ?_, fun ht => ?_, fun n hb hm ht ha hw hh => ?_⟩, fun hn hr ht => ?_⟩
    · simp only [List.mem_cons, List.not_mem_nil, or_false] at hi
      rcases hi with rfl | rfl | rfl | rfl | rfl | rfl | rfl | rfl
      · exact exec_placeMsg.trans (message_seen hc hl hs h _)
      · exact exec_killMsg.trans (message_seen hc hl hs h _)
      · exact exec_preemptMsg.trans (message_seen hc hl hs h _)
      · exact exec_permitMsg.trans (message_seen hc hl hs h _)
      · exact exec_faultMsg.trans (message_seen hc hl hs h _)
      · exact exec_patchMsg.trans (message_seen hc hl hs h _)
      · exact exec_ackMsg.trans (message_seen hc hl hs h _)
      · exact unknown_seen h
    · exact exec_permitMsg.trans (message_waits hc hl hs hn ht id)
    · exact exec_faultMsg.trans (message_acts hc hl hs hn ht hr id)
    · obtain ⟨hpermit, hplace, hlast, hblock, hpatch⟩ := messages_spec hc hl hs hn hr ht
      exact ⟨hpermit, hplace, hlast, hblock, hpatch, fun hty => ⟨_, unknown_dropped hc hl hs hn ht hr hty, unknown_spec⟩⟩
    · exact ackMsg_patched hc hl hs hn hr hb hm ht ha hw hh
    · exact exec_placeMsg.trans (message_bad hc hl hs hn ht hr _)
  · have run := permitTimeout_runs (s := s) (toCairn := true) hc (decide_eq_true hp) (Nat.ne_of_gt ho) (List.isEmpty_iff.mpr hout)
    have link := link_mapLink_same s c (fun l => l.send true)
    exact ⟨_, run, congrArg Link.owedFrom link, congrArg Link.fromPermits link, congrArg Link.toPermits link⟩
  · have run := permitTimeout_runs (s := s) (toCairn := false) hc (decide_eq_true hp) (Nat.ne_of_gt ho) hh
    have link := link_mapLink_same { s with served := c } c (fun l => l.send false)
    exact ⟨_, run, congrArg Link.owedTo link, rfl, congrArg Link.toPermits link, congrArg Link.fromPermits link⟩
  · refine ⟨clusterFailure_runs hr, rfl, fun h => ?_, fun d h => remap_lost h, fun h => failCluster_live hc hl h⟩
    obtain ⟨hspare, hlost, hlook⟩ := remap_spare h
    exact ⟨hspare, hlost.trans hl, hlook⟩
  · intro errors
    refine ⟨flitCrcError_first p, flitCrcError_again hp, linkDown_healthy, fun hf hcmds => ?_⟩
    obtain ⟨s', run, hlinks, hin, hblocks⟩ := linkDown_spec hf hcmds
    exact ⟨s', run, by rw [hlinks]; simp, fun q hq => by rw [hlinks]; simp [hq], hin, hblocks⟩
  · refine ⟨fun hd => ?_, fun hd hr => ?_, ridgeActivation_runs hin hm, fun l => loseFrom_spec⟩
    · subst hd
      exact congrArg (fun x : State => Host.Outcome.next x.tick) (leavePod_own hcmds hin hm)
    · exact congrArg (fun x : State => Host.Outcome.next x.tick) (leavePod_other hcmds hin hm hd hr)
  · intro other failed tested
    refine ⟨fun h => ?_, fun h hcalm => ?_, fun h => ?_, fun h => ?_, dropPatch_waiting⟩
    · have fails : s.coreFails = failed.mapFw (fun f => { f with down := true }) := if_pos h
      exact ⟨congrArg (fun x : State => Host.Outcome.next x.tick) fails, congrArg (fun x : State => Host.Outcome.next x.tick) fails⟩
    · have fails : s.coreFails = s.takeOver := if_neg (by rw [h]; exact Bool.false_ne_true)
      have calm := fails.trans (takeOver_calm hcalm)
      exact ⟨congrArg (fun x : State => Host.Outcome.next x.tick) calm, congrArg (fun x : State => Host.Outcome.next x.tick) calm⟩
    · exact congrArg (fun x : State => Host.Outcome.next x.tick) (if_neg (by rw [h]; exact Bool.false_ne_true))
    · exact congrArg (fun x : State => Host.Outcome.next x.tick) (if_pos h)

end Sys2Proof.Proofs
end


section
/-! The register window: partitions, contexts, page answers, counters, and the start of a replay (O56). -/

namespace Sys2Proof.Proofs

open Sys2Proof Sys2Proof.Machine Sys2Proof.Laws

/-! ### Bits of PCTL (R54) -/

theorem err_set (c : W64) : (c ||| 0x1000#64).getLsbD 12 = true := by
  rw [BitVec.getLsbD_or, show (0x1000#64).getLsbD 12 = true from rfl, Bool.or_true]

theorem err_clear (c : W64) : (c &&& ~~~0x1000#64).getLsbD 12 = false := by
  rw [BitVec.getLsbD_and, show (~~~0x1000#64).getLsbD 12 = false from rfl, Bool.and_false]

/-- The control word that a write of PCTL leaves. -/
def ctlWritten (v : W64) (halted : Bool) : W64 := (v &&& 0x7FF#64) ||| (if halted then 0x800#64 else 0)

theorem getLsbD_ctlWritten (v : W64) (halted : Bool) (i : Nat) : (ctlWritten v halted).getLsbD i =
    ((v.getLsbD i && (0x7FF#64).getLsbD i) || (halted && (0x800#64).getLsbD i)) := by
  rw [ctlWritten, BitVec.getLsbD_or, BitVec.getLsbD_and]
  cases halted <;> simp

theorem ctlWritten_fields (v : W64) (halted : Bool) : (ctlWritten v halted).extractLsb' 0 11 = v.extractLsb' 0 11 ∧
    (ctlWritten v halted).getLsbD 12 = false ∧ (ctlWritten v halted).getLsbD 11 = halted := by
  have low : ∀ i < 11, (0x7FF#64).getLsbD i = true ∧ (0x800#64).getLsbD i = false := by decide
  refine ⟨BitVec.eq_of_getLsbD_eq (fun i hi => ?_), ?_, ?_⟩
  · obtain ⟨h1, h2⟩ := low i hi
    rw [BitVec.getLsbD_extractLsb', BitVec.getLsbD_extractLsb', Nat.zero_add, getLsbD_ctlWritten, h1, h2, Bool.and_true, Bool.and_false,
      Bool.or_false]
  · rw [getLsbD_ctlWritten, show (0x7FF#64).getLsbD 12 = false from rfl, show (0x800#64).getLsbD 12 = false from rfl]
    simp
  · rw [getLsbD_ctlWritten, show (0x7FF#64).getLsbD 11 = false from rfl, show (0x800#64).getLsbD 11 = true from rfl]
    simp

/-- The fields of a control word with its contexts exchanged. -/
theorem swapCtl_fields (c : W64) : (swapCtl c).getLsbD 8 = c.getLsbD 9 ∧ (swapCtl c).getLsbD 9 = c.getLsbD 8 ∧
    (swapCtl c).getLsbD 11 = c.getLsbD 11 ∧ (swapCtl c).extractLsb' 0 4 = c.extractLsb' 4 4 ∧
    (swapCtl c).extractLsb' 4 4 = c.extractLsb' 0 4 := by
  refine ⟨by simp [swapCtl], by simp [swapCtl], by simp [swapCtl], ?_, ?_⟩
  · refine BitVec.eq_of_getLsbD_eq (fun i hi => ?_)
    interval_cases i <;> simp [swapCtl]
  · refine BitVec.eq_of_getLsbD_eq (fun i hi => ?_)
    interval_cases i <;> simp [swapCtl]

/-! ### What the settlement of places leaves as it was (R55) -/

/-- Work has gone to other places, and partitions, contexts and memory are as they were. -/
def Moved (s s' : State) : Prop := s'.partitions = s.partitions ∧ s'.mem = s.mem

theorem Moved.refl (s : State) : Moved s s := ⟨rfl, rfl⟩

theorem Moved.trans {s t u : State} (h : Moved s t) (g : Moved t u) : Moved s u := ⟨g.1.trans h.1, g.2.trans h.2⟩

theorem Moved.foldl {α : Type} {f : State → α → State} (hf : ∀ s a, Moved s (f s a)) : ∀ (xs : List α) (s : State), Moved s (xs.foldl f s)
  | [], s => .refl s
  | a :: xs, s => (hf s a).trans (foldl hf xs (f s a))

theorem Moved.partition {s s' : State} (h : Moved s s') (n : Nat) : s'.partition n = s.partition n := by
  rw [State.partition, h.1, State.partition]

theorem moved_tell (s : State) (c ty blk : Nat) : Moved s (s.tell c ty blk) := by
  rw [State.tell]
  split <;> exact ⟨rfl, rfl⟩

theorem moved_returnUnits (s : State) (l : Launch) : Moved s (s.returnUnits l) := by
  rw [State.returnUnits]
  split
  · exact .refl s
  · exact ⟨rfl, rfl⟩

theorem moved_moveItem (s : State) (item : List Block) (c : Nat) : Moved s (s.moveItem item c) := by
  have blocks := Moved.foldl (f := fun (s : State) (b : Block) =>
    let s1 := s.mapBlock b.id (fun b => { b with cluster := c })
    if s.inDieGang b then s1 else s1.tell c 1 b.id) (fun s b => by
      dsimp only
      split
      · exact ⟨rfl, rfl⟩
      · exact Moved.trans ⟨rfl, rfl⟩ (moved_tell _ _ _ _)) item s
  rw [State.moveItem]
  split
  · split
    · exact blocks.trans ⟨rfl, rfl⟩
    · exact blocks
  · exact blocks

theorem moved_rehome (s : State) (n ctx : Nat) : Moved s (s.rehome n ctx) := by
  unfold State.rehome
  dsimp only
  refine (Moved.trans (t := s.unassign (s.clustersOf n) ctx) ⟨rfl, rfl⟩ (Moved.foldl moved_returnUnits _ _)).trans
    (Moved.foldl (fun s item => ?_) _ _)
  split
  · exact .refl s
  · exact moved_moveItem s item _

theorem moved_settlePlaces (s : State) : Moved s s.settlePlaces := by
  rw [State.settlePlaces]
  refine Moved.foldl (fun s n => ?_) _ _
  split
  · exact .refl s
  · exact moved_rehome s n _

section
variable {s : State} {n : Nat}

/-! ### Partition registers (R54) -/

theorem partition_mapped (s : State) (n : Nat) (f : Partition → Partition) : (s.mapPartition n f).partition n = f (s.partition n) :=
  (partition_mapPartition s n f n).trans (if_pos rfl)

theorem partition_mapped_other {k : Nat} (hk : k ≠ n) (f : Partition → Partition) : (s.mapPartition n f).partition k = s.partition k :=
  (partition_mapPartition s n f k).trans (if_neg hk)

theorem partition_dropPart (s : State) (n : Nat) : (s.dropPart n).partition n = { s.partition n with ctl := (s.partition n).ctl ||| 0x1000#64 } :=
  partition_mapped s n _

theorem partition_dropPart_other {k : Nat} (hk : k ≠ n) : (s.dropPart n).partition k = s.partition k := partition_mapped_other hk _

/-- A write of PMASK is taken where the partition is halted, its clusters are free, and no block is left behind. -/
theorem writeMask_taken {v : W64} (hn : n < 8) (hh : (s.partition n).halted = true) (hf : v &&& s.otherMasks n = 0)
    (hb : ∀ b ∈ s.allBlocks, b.stands = true → (s.partition n).mask.getLsbD b.cluster = true → v.getLsbD b.cluster = true) :
    s.writeMask n v = (s.mapPartition n (fun p => { p with mask := v, ctl := p.ctl &&& ~~~0x1000#64 })).settlePlaces := by
  have stays : s.allBlocks.any (fun b => b.stands && (s.partition n).mask.getLsbD b.cluster && !v.getLsbD b.cluster) = false :=
    List.any_eq_false.mpr (fun b hm h => by
      simp only [Bool.and_eq_true] at h
      obtain ⟨⟨hs, hp⟩, hv⟩ := h
      rw [hb b hm hs hp] at hv
      cases hv)
  rw [State.writeMask]
  rw [stays, if_neg (Nat.not_le.mpr hn), hh, hf]
  exact if_neg (by decide)

theorem writeMask_dropped {v : W64} (hn : n < 8) (h : ¬ ((s.partition n).halted = true ∧ v &&& s.otherMasks n = 0 ∧
    ∀ b ∈ s.allBlocks, b.stands = true → (s.partition n).mask.getLsbD b.cluster = true → v.getLsbD b.cluster = true)) :
    s.writeMask n v = s.dropPart n := by
  rw [State.writeMask]
  rw [if_neg (Nat.not_le.mpr hn)]
  refine if_pos ?_
  by_contra hno
  simp only [Bool.or_eq_true, not_or, Bool.not_eq_true, Bool.not_eq_false', bne_eq_false_iff_eq, List.any_eq_false] at hno
  obtain ⟨⟨hh, hf⟩, hb⟩ := hno
  exact h ⟨hh, hf, fun b hm hs hp => by simpa [hs, hp] using hb b hm⟩

theorem writeCtl_taken {v : W64} (hn : n < 8) (hb : s.badCtl n v = false) :
    let s1 := s.mapPartition n (fun p => { p with ctl := ctlWritten v ((s.partition n).halted && v.getLsbD 10) })
    Moved (if v.getLsbD 10 && !(s.partition n).halt then s1.stopThreads n false else s1) (s.writeCtl n v) := by
  rw [State.writeCtl, if_neg (Nat.not_le.mpr hn), if_neg (by rw [hb]; exact Bool.false_ne_true)]
  exact moved_settlePlaces _

theorem writeCtl_dropped {v : W64} (hn : n < 8) (hb : s.badCtl n v = true) : s.writeCtl n v = s.dropPart n := by
  rw [State.writeCtl, if_neg (Nat.not_le.mpr hn), if_pos hb]

theorem moved_stopThreads (s : State) (n : Nat) (final : Bool) : Moved s (s.stopThreads n final) := ⟨rfl, rfl⟩

/-! ### Halting and the swap (R354, R355) -/

theorem cascade_none : ∀ (k : Nat) (s : State), s.cascade k [] = s
  | 0, _ => rfl
  | k + 1, s => cascade_none k s

theorem abortAll_none (s : State) (cause : Nat) (other : Option Nat) : s.abortAll [] cause other = s := cascade_none 65 s

theorem tellAborted_none {bs : List Nat} (h : bs = [] ∨ s.sections = []) : s.tellAborted bs = s := by
  have none : s.sections.filter (fun x => bs.contains x.blk && x.state == .aborted) = [] := by
    rcases h with h | h <;> simp [h]
  rw [State.tellAborted, none]
  rfl

/-- A halt completes where every block has stopped and no section is left to abort. -/
theorem completeHalt_calm (hh : (s.partition n).halt = true) (hd : (s.partition n).halted = false) (hl : s.latch = none)
    (hb : ∀ b ∈ s.activeBlocks n, s.stopped b = true) (hs : s.activeBlocks n = [] ∨ s.sections = []) :
    s.completeHalt n = (s.stopThreads n true).mapPartition n (fun p => { p with ctl := p.ctl ||| 0x800#64 }) := by
  have none : (s.sections.filter (fun x => ((s.activeBlocks n).map Block.id).contains x.blk && x.live)).map Section.name = [] := by
    rcases hs with h | h <;> simp [h]
  have stopped : (s.activeBlocks n).all s.stopped = true := List.all_eq_true.mpr hb
  have go : ¬ (!(s.partition n).halt || (s.partition n).halted || s.latch.isSome || !(s.activeBlocks n).all s.stopped) = true := by
    simp [hh, hd, hl, stopped]
  rw [State.completeHalt, if_neg go]
  dsimp only
  rw [none, abortAll_none, tellAborted_none (hs.imp_left (fun h => by rw [h]; rfl))]

theorem halted_set (c : W64) : (c ||| 0x800#64).getLsbD 11 = true := by
  rw [BitVec.getLsbD_or, show (0x800#64).getLsbD 11 = true from rfl, Bool.or_true]

theorem shadowSwap_runs (hn : n < 8) (hh : (s.partition n).halted = true) (hb : (s.partition n).busy = false) :
    exec (.shadowSwap n 1) s = .next (s.mapPartition n (fun p => { p with ctl := swapCtl p.ctl, busy := true })).settlePlaces.tick := by
  show execShadowSwap n 1 s = _
  rw [execShadowSwap]
  rw [if_neg (Nat.not_le.mpr hn), if_neg (by simp [hh, hb]), if_pos (by decide)]

/-- The contexts of a partition are exchanged by the swap of its control word. -/
theorem swapped_contexts (p : Partition) : let q : Partition := { p with ctl := swapCtl p.ctl, busy := true }
    q.actx = p.shctx ∧ q.shctx = p.actx ∧ q.halted = p.halted := by
  obtain ⟨h8, h9, h11, hlow, hhigh⟩ := swapCtl_fields p.ctl
  refine ⟨?_, ?_, h11⟩
  · rw [Partition.actx, Partition.shctx]
    dsimp only
    rw [h8, hlow]
  · rw [Partition.actx, Partition.shctx]
    dsimp only
    rw [h9, hhigh]

end

/-! ### Answers to page requests (R349) -/

section
variable {s : State} {ctx blk gid : Nat} {q : PageReq} {v : W64}

/-- The state of a context whose only request has been answered. -/
def answered (s : State) (ctx : Nat) : State := s.mapCtx ctx (fun c => { c with requests := [] })

theorem ctx_answered (s : State) (ctx : Nat) : (answered s ctx).ctx ctx = { s.ctx ctx with requests := [] } :=
  (ctx_mapCtx s ctx _ ctx).trans (if_pos rfl)

theorem resume_runs (hc : ctx < 16) (hv : v.extractLsb' 33 31 = 0) (hr : (s.ctx ctx).requests = [q]) (hp : q.posted = true)
    (hq : q.seq = (v.extractLsb' 0 32).toNat) (hw : q.waiters = [.group blk gid]) :
    let s2 := if v.getLsbD 32 then (answered s ctx).fatalAll ((answered s ctx).failEntries ctx q)
      else (answered s ctx).replayGroup ctx q blk gid
    s.resume ctx v = (s2.postRequests (s2.ctx ctx).requests.length ctx).settleLaunches := by
  have only : s.mapCtx ctx (fun c => { c with requests := c.requests.filter (fun x => x != q) }) = answered s ctx := by
    refine congrArg (s.setCtx ctx) ?_
    dsimp only
    rw [hr]
    simp
  have found : [q].find? (fun q => q.posted && q.seq == (v.extractLsb' 0 32).toNat) = some q := by simp [hp, hq]
  have go : ¬ (16 ≤ ctx ∨ v.extractLsb' 33 31 ≠ 0) := by
    rintro (h | h)
    · omega
    · exact h hv
  rw [State.resume, if_neg go, hr, found]
  dsimp only
  rw [only, hw]
  rfl

/-- A thread that the answered request held issues its word again, in a group that nothing else holds. -/
theorem replayGroup_spec {b : Block} {t : Thread} (hb : (answered s ctx).block? blk = some b) (ht : t ∈ b.threads)
    (hg : b.gidOf t.tidx = gid) (hq : q.holds t = true) : ∃ y, ((answered s ctx).replayGroup ctx q blk gid).block? blk = some y ∧
      { t with trap := none } ∈ y.threads ∧ ∀ g ∈ y.groups, g.gid = gid → g.desched = false := by
  let woken (t : Thread) : Thread := if b.gidOf t.tidx = gid ∧ q.holds t = true then { t with trap := none } else t
  let s1 := (answered s ctx).mapBlock blk (fun b => b.mapThreads (fun t =>
    if b.gidOf t.tidx = gid ∧ q.holds t = true then { t with trap := none } else t))
  have free : s1.stillWaits ctx blk gid = false := by
    show ((answered s ctx).ctx ctx).requests.any (fun q => q.waiters.contains (.group blk gid)) = false
    rw [ctx_answered]
    rfl
  have found : ((answered s ctx).replayGroup ctx q blk gid).block? blk =
      some ((b.mapThreads woken).mapGroup gid (fun g => { g with desched := s1.stillWaits ctx blk gid })) := by
    show (s1.mapGroup blk gid _).block? blk = _
    rw [State.mapGroup, block_mapBlock, if_pos rfl, block_mapBlock, if_pos rfl, hb]
    rfl
  refine ⟨_, found, ?_, fun g hgm hgid => ?_⟩
  · exact List.mem_map.mpr ⟨t, ht, if_pos ⟨hg, hq⟩⟩
  · obtain ⟨g0, -, rfl⟩ := List.mem_map.mp hgm
    by_cases h0 : g0.gid = gid
    · rw [if_pos h0]
      exact free
    · rw [if_neg h0] at hgid
      exact absurd hgid h0

/-- What a refused request says of the block of the group that waits for it. -/
theorem failEntries_group {b : Block} (hw : q.waiters = [.group blk gid]) (hb : (answered s ctx).block? blk = some b) :
    ∃ e, (answered s ctx).failEntries ctx q = [(b, e)] := by
  have entry : ∃ e, (answered s ctx).failEntry ctx q (.group blk gid) = some (b, e) := by
    rw [State.failEntry, hb]
    exact ⟨_, rfl⟩
  obtain ⟨e, he⟩ := entry
  refine ⟨e, ?_⟩
  rw [State.failEntries, hw, List.filterMap_cons, he]
  rfl

/-! ### Registers without a row of their own (R344, R378) -/

section
variable {n : Nat} (hn : n < 16)
include hn

theorem writeRegister_context {reg : Nat} (hreg : reg < 64) : s.writeRegister (0x30000 + 64 * n + reg) v = s.writeContext n reg v := by
  rw [State.writeRegister, if_pos ⟨by omega, by omega⟩, show (0x30000 + 64 * n + reg - 0x30000) / 64 = n by omega,
    show (0x30000 + 64 * n + reg) % 64 = reg by omega]

theorem writeRegister_obs {reg : Nat} (hreg : reg < 64) : s.writeRegister (0x40000 + 64 * n + reg) v = s.writeObs n reg v := by
  rw [State.writeRegister, if_neg (by omega), if_neg (by omega), if_pos ⟨by omega, by omega⟩,
    show (0x40000 + 64 * n + reg - 0x40000) / 64 = n by omega, show (0x40000 + 64 * n + reg) % 64 = reg by omega]

end

theorem ctx_mapped (s : State) (n : Nat) (f : Context → Context) : (s.mapCtx n f).ctx n = f (s.ctx n) :=
  (ctx_mapCtx s n f n).trans (if_pos rfl)

theorem sched_mapped (s : State) (n : Nat) (f : SchedRegs → SchedRegs) : (s.mapSched n f).sched n = f (s.sched n) := read_put_same ..

/-! ### The start of a replay (R384) -/

theorem startReplay_runs {d : List Byte} {l : Launch} {rs : List TraceRec} {c : Nat} (hc : ctx < 16) (hv : v.extractLsb' 0 6 = 0)
    (hr : ∀ r ∈ s.replaying, r.ctx ≠ ctx) (hd : s.readMany ctx v.toNat 64 = some d) (hp : s.replayPlan ctx d = some (l, rs))
    (hcl : (s.activeIn ctx).bind (fun n => (s.clustersOf n).head?) = some c) : s.startReplay ctx v = { s with
      seq := s.seq + 1, replaying := s.replaying ++ [⟨ctx, s.seq, rs, fieldOf d 0x28 8⟩],
      blocks := NMap.insert s.blocks s.seq (l.replayBlock d s.seq c) } := by
  have go : ¬ (16 ≤ ctx ∨ v.extractLsb' 0 6 ≠ 0 ∨ s.replaying.any (fun r => r.ctx == ctx) = true) := by
    rintro (h | h | h)
    · omega
    · exact h hv
    · obtain ⟨r, hm, he⟩ := List.any_eq_true.mp h
      exact hr r hm (beq_iff_eq.mp he)
  rw [State.startReplay, if_neg go, hd]
  dsimp only
  rw [hp, hcl]

end

section
variable {s : State} {n : Nat} {v : W64}

/-- A context's control block after a write of its root. -/
def rootSet (v : W64) (c : Context) : Context := if v.extractLsb' 5 3 ≠ 0 ∨ v.extractLsb' 1 2 ≠ 0 then c else { c with root := v }

theorem writeRoot_unbound (h : s.bindingOf n = none) : s.writeContext n 0 v = s.mapCtx n (rootSet v) := by
  show s.whileUnbound n (rootSet v) = _
  rw [State.whileUnbound, h]

theorem writeRoot_bound {k : Nat} (h : s.bindingOf n = some k) : s.writeContext n 0 v = s.dropPart k := by
  show s.whileUnbound n (rootSet v) = _
  rw [State.whileUnbound, h]

theorem writeObs_ctl (h1 : v.extractLsb' 7 57 = 0) (h2 : v.extractLsb' 0 2 = 0) :
    s.writeObs n 0 v = s.mapCtx n (fun c => { c with obsCtl := v }) := if_neg (by simp [h1, h2])

end

/-- Settles O56: each register by what its write leaves, and the settlement of places by what it keeps. -/
theorem registerWritesTakeEffect : Obligations.RegisterWritesTakeEffect := by
  refine ⟨fun s n v hn => ?_, fun s n v hn => ?_, fun s n hn hh hd hl hb hs => ?_, fun s n hn hh hb => ?_, fun s n hn => ?_,
    fun s ctx blk gid q v hc hv hr hp hq hw => ?_, fun s v h0 h1 h2 h3 => ?_, fun s v hv => ?_, fun s n v hn => ⟨?_, fun h1 h2 hu => ?_,
      fun k hk => ?_, fun h1 h2 => ?_, fun h => ?_⟩, fun s c k v hc hk => ⟨fun hv => ?_, ?_, ?_⟩, fun s => rfl,
    fun s ctx c v d l rs hc hv hr hd hp hcl => ?_⟩
  · intro p good
    have run : exec (.pmaskWrite n v) s = .next (s.writeMask n v).tick := rfl
    by_cases h : good
    · rw [writeMask_taken hn h.1 h.2.1 h.2.2] at run
      have kept := moved_settlePlaces (s.mapPartition n (fun p => { p with mask := v, ctl := p.ctl &&& ~~~0x1000#64 }))
      have own := (kept.partition n).trans (partition_mapped s n _)
      refine ⟨_, run, fun k hk => (kept.partition k).trans (partition_mapped_other hk _), kept.2, fun _ => ⟨(congrArg Partition.mask own :), ?_⟩,
        fun hno => absurd h hno⟩
      exact (congrArg (fun p => (Partition.ctl p).getLsbD 12) own).trans (err_clear _)
    · rw [writeMask_dropped hn h] at run
      have own := partition_dropPart s n
      refine ⟨_, run, fun k hk => partition_dropPart_other hk, rfl, fun hyes => absurd hyes h, fun _ => ⟨(congrArg Partition.mask own :), ?_, rfl⟩⟩
      exact (congrArg (fun p => (Partition.ctl p).getLsbD 12) own).trans (err_set _)
  · intro p
    refine ⟨(s.writeCtl n v).tick, rfl, rfl, rfl, ?_⟩
    cases hb : s.badCtl n v with
    | false =>
      have moved := writeCtl_taken hn hb
      have kept : Moved (s.mapPartition n (fun p => { p with ctl := ctlWritten v ((s.partition n).halted && v.getLsbD 10) })) (s.writeCtl n v) := by
        refine Moved.trans ?_ moved
        split
        · exact moved_stopThreads _ n false
        · exact .refl _
      have own := (kept.partition n).trans (partition_mapped s n _)
      obtain ⟨hlow, herr, hhalt⟩ := ctlWritten_fields v ((s.partition n).halted && v.getLsbD 10)
      refine ⟨fun k hk => (kept.partition k).trans (partition_mapped_other hk _), (congrArg Partition.mask own :), fun _ => ⟨?_, ?_, ?_⟩,
        fun h => absurd h Bool.false_ne_true⟩
      · exact (congrArg (fun p => (Partition.ctl p).extractLsb' 0 11) own).trans hlow
      · exact (congrArg (fun p => (Partition.ctl p).getLsbD 12) own).trans herr
      · exact (congrArg Partition.halted own).trans hhalt
    | true =>
      rw [writeCtl_dropped hn hb]
      have own := partition_dropPart s n
      exact ⟨fun k hk => partition_dropPart_other hk, (congrArg Partition.mask own :), fun h => absurd h.symm Bool.false_ne_true,
        fun _ => ⟨(congrArg Partition.ctl own :), rfl⟩⟩
  · have run : exec (.haltComplete n) s = .next (if 8 ≤ n then s else s.completeHalt n).tick := rfl
    rw [if_neg (Nat.not_le.mpr hn), completeHalt_calm hh hd hl hb hs] at run
    have own := partition_mapped (s.stopThreads n true) n (fun p => { p with ctl := p.ctl ||| 0x800#64 })
    exact ⟨_, run, (congrArg Partition.halted own).trans (halted_set _), rfl⟩
  · have kept := moved_settlePlaces (s.mapPartition n (fun p => { p with ctl := swapCtl p.ctl, busy := true }))
    have own := (kept.partition n).trans (partition_mapped s n _)
    obtain ⟨ha, hsh, hhalt⟩ := swapped_contexts (s.partition n)
    exact ⟨_, shadowSwap_runs hn hh hb, (congrArg Partition.actx own).trans ha, (congrArg Partition.shctx own).trans hsh,
      ((congrArg Partition.halted own).trans hhalt).trans hh, (congrArg Partition.busy own :), (congrArg Partition.mask own :), kept.2⟩
  · have run : exec (.swapDone n) s = .next (if 8 ≤ n then s else s.mapPartition n (fun p => { p with busy := false })).tick := rfl
    rw [if_neg (Nat.not_le.mpr hn)] at run
    have own := partition_mapped s n (fun p => { p with busy := false })
    exact ⟨_, run, (congrArg Partition.busy own :), (congrArg Partition.ctl own :)⟩
  · intro s1
    have resumed := resume_runs hc hv hr hp hq hw
    dsimp only at resumed
    refine ⟨fun h0 => ⟨?_, fun b t hb ht hg hh => replayGroup_spec (s := s) hb ht hg hh⟩, ?_⟩
    · rw [if_neg (by rw [h0]; exact Bool.false_ne_true)] at resumed
      have none : ((answered s ctx).replayGroup ctx q blk gid).ctx ctx = { s.ctx ctx with requests := [] } := ctx_answered s ctx
      rw [none] at resumed
      exact congrArg (fun x : State => Host.Outcome.next x.tick) resumed
    · intro s2 h1
      rw [if_pos h1] at resumed
      exact ⟨congrArg (fun x : State => Host.Outcome.next x.tick) resumed, fun b hb => failEntries_group (s := s) hw hb⟩
  · show execTranslationInvalidate v s = _
    rw [execTranslationInvalidate, if_neg (by simp [h0, h1, h2, h3])]
    rfl
  · refine ⟨{ s with xinv := none, tlb := s.tlb.filter (fun e => !xinvHits v e) }.tick, ?_, rfl, fun e => ?_⟩
    · show execXinvDone s = _
      rw [execXinvDone, hv]
    · show e ∈ s.tlb.filter (fun e => !xinvHits v e) ↔ _
      rw [List.mem_filter, Bool.not_eq_true']
  · have run : exec (.registerWrite (0x30008 + 64 * n) v) s = .next (s.writeRegister (0x30000 + 64 * n + 8) v).tick := by
      rw [show 0x30000 + 64 * n + 8 = 0x30008 + 64 * n by omega]
      rfl
    rw [writeRegister_context hn (by decide)] at run
    exact ⟨_, run, ctx_mapped s n (fun c => { c with handler := v })⟩
  · have run : exec (.registerWrite (0x30000 + 64 * n) v) s = .next (s.writeRegister (0x30000 + 64 * n + 0) v).tick := rfl
    rw [writeRegister_context hn (by decide), writeRoot_unbound hu] at run
    refine ⟨_, run, (ctx_mapped s n (rootSet v)).trans ?_⟩
    rw [rootSet, if_neg (by simp [h1, h2])]
  · have run : exec (.registerWrite (0x30000 + 64 * n) v) s = .next (s.writeRegister (0x30000 + 64 * n + 0) v).tick := rfl
    rw [writeRegister_context hn (by decide), writeRoot_bound hk] at run
    exact ⟨_, run, rfl, congrArg Partition.ctl (partition_dropPart s k)⟩
  · have run : exec (.registerWrite (0x40000 + 64 * n) v) s = .next (s.writeRegister (0x40000 + 64 * n + 0) v).tick := rfl
    rw [writeRegister_obs hn (by decide), writeObs_ctl h1 h2] at run
    exact ⟨_, run, ctx_mapped s n (fun c => { c with obsCtl := v })⟩
  · have run : exec (.traceHeadWrite n v) s = .next (if 16 ≤ n ∨ v.extractLsb' 32 32 ≠ 0 then s
        else s.mapCtx n (fun c => { c with trHead := v.toNat })).tick := rfl
    rw [if_neg (by simp [h]; omega)] at run
    exact ⟨_, run, ctx_mapped s n (fun c => { c with trHead := v.toNat })⟩
  · have write : s.writeHctl c k v = s.mapSched (8 * c + k) (fun r =>
        { r with freeze := v.getLsbD 1, counts := if v.getLsbD 0 then [] else r.counts }) :=
      if_neg (by
        rintro (h | h | h)
        · exact absurd hc (Nat.not_lt.mpr h)
        · omega
        · exact h hv)
    refine ⟨(s.writeHctl c k v).tick, rfl, rfl, ?_⟩
    rw [write]
    exact sched_mapped s (8 * c + k) (fun r => { r with freeze := v.getLsbD 1, counts := if v.getLsbD 0 then [] else r.counts })
  · have run : exec (.sampleLatch c k) s = .next (if Config.clusters ≤ c ∨ 8 ≤ k then s
        else s.mapSched (8 * c + k) (fun r => { r with smpA := r.lastA, smpB := r.lastB, smpC := r.lastC })).tick := rfl
    have here : ¬ (Config.clusters ≤ c ∨ 8 ≤ k) := not_or.mpr ⟨Nat.not_le.mpr hc, Nat.not_le.mpr hk⟩
    rw [if_neg here] at run
    exact ⟨_, run, sched_mapped s (8 * c + k) (fun r => { r with smpA := r.lastA, smpB := r.lastB, smpC := r.lastC })⟩
  · have run : exec (.healthRead c) s = .next (if Config.clusters ≤ c then s
        else s.mapCluster c (fun x => { x with parUnr := 0, eccCor := 0, parRep := 0 })).tick := rfl
    have here : ¬ Config.clusters ≤ c := Nat.not_le.mpr hc
    rw [if_neg here] at run
    exact ⟨_, run, cluster_mapped s c (fun x => { x with parUnr := 0, eccCor := 0, parRep := 0 })⟩
  · have run : exec (.replayStart ctx v) s = .next (s.startReplay ctx v).tick := rfl
    rw [startReplay_runs hc hv hr hd hp hcl] at run
    exact ⟨_, l.replayBlock d s.seq c, run, (lookup_insert ..).trans (if_pos rfl), rfl, rfl, rfl, rfl, rfl, rfl, rfl, rfl⟩

end Sys2Proof.Proofs
end


section
/-! Rounds of a Cairn, gangs that starve, and pre-emption to memory (O54). -/

namespace Sys2Proof.Proofs

open Sys2Proof Sys2Proof.Machine Sys2Proof.Laws

/-! ### A round with one waiting block (R57) -/

section
variable {s : State} {b : Block} {c n ctx k : Nat}

theorem item_alone (hb : b.gang = none) (m : Nat) : itemsOf (m + 1) [b] = [[b]] := by
  rw [itemsOf, hb]
  cases m <;> rfl

theorem ensureGang_lone (hb : b.gang = none) : s.ensureGang [b] = s := by
  simp only [State.ensureGang, List.head?_cons, hb]

theorem lookup_length_pos {α : Type} {m : NMap α} {x : α} (h : x ∈ m.map Prod.snd) : m.length ≠ 0 := by
  intro h0
  rw [List.length_eq_zero_iff.mp h0] at h
  cases h

theorem gangRecord_lone (hb : b.gang = none) : s.gangRecord b = none := by rw [State.gangRecord, hb]; rfl

theorem waitingAt_one (hw : s.allBlocks.filter (fun x => x.decl.ctx == ctx && x.waits) = [b]) (hc : b.cluster = c) (hb : b.gang = none) :
    s.waitingAt c ctx = [b] := by
  have both : s.waitingAt c ctx = (s.allBlocks.filter (fun x => x.decl.ctx == ctx && x.waits)).filter
      (fun x => x.cluster == c && !s.inDieGang x) := by
    rw [State.waitingAt, List.filter_filter]
    refine List.filter_congr (fun x _ => ?_)
    cases x.cluster == c <;> cases x.decl.ctx == ctx <;> cases x.waits <;> simp
  have die : s.inDieGang b = false := by rw [State.inDieGang, gangRecord_lone hb]; rfl
  rw [both, hw]
  simp [hc, die]

theorem roundItems_one (hw : s.allBlocks.filter (fun x => x.decl.ctx == ctx && x.waits) = [b]) (hc : b.cluster = c) (hb : b.gang = none)
    (hg : s.gangs = []) : s.roundItems c ctx = [[b]] := by
  rw [State.roundItems, hg, State.walkItems, waitingAt_one hw hc hb]
  simp only [List.length_singleton, item_alone hb]
  rfl

theorem placeAll_one {x : Bays} (h : x.core b.decl = some k) : x.placeAll [b] = some ([k], x.less k b.decl) := by
  simp only [Bays.placeAll, h, Option.map_some]

/-- A block that fits and that nothing holds back starts on the core that fits it. -/
theorem roundItem_starts (hb : b.gang = none) (hg : s.gangs = []) (hr : s.replaying = []) (hs : b.waits = true) (hu : s.unsent b = false)
    (hk : (s.bays c ctx).core b.decl = some k) : s.roundItem n c ctx [b] = s.startBlock b c k := by
  have none_ : ([b].head?.bind s.gangRecord).filter Gang.die = none := by
    rw [List.head?_cons, Option.bind_some, gangRecord_lone hb, Option.filter_none]
  have free : s.mayTry c ctx b [b] = true := by
    have held : s.heldBy c b = false := by rw [State.heldBy, hg]; rfl
    have yields : s.yieldsTo ctx b = false := by
      rw [State.yieldsTo, State.replays, State.replayOf, hr]
      rfl
    simp [State.mayTry, held, yields, State.gangOf, hb, hs, hu]
  have die : s.inDieGang b = false := by rw [State.inDieGang, gangRecord_lone hb]; rfl
  rw [State.roundItem, none_]
  simp only [State.tryItem, List.head?_cons, ensureGang_lone hb, die, free, Bool.not_true, Bool.or_self, Bool.false_eq_true, if_false,
    placeAll_one hk, State.startAll, List.zip_cons_cons, List.zip_nil_left, List.foldl_cons, List.foldl_nil, Option.bind_some, hb]

/-- The block as it starts on a core from ENTRY (R57, R112). -/
def startedOn (s : State) (b : Block) (c core : Nat) : Block :=
  { b.fresh with stage := .running, cluster := c, core := core, sched := s.chooseSched c core b.decl.ctx, placed := s.seq, ptime := s.ptime,
                 lastIssue := none }

theorem startKnowing_frame (s : State) (b : Block) : (s.startKnowing b).mem = s.mem ∧ (s.startKnowing b).launches = s.launches ∧
    (s.startKnowing b).gangs = s.gangs ∧ (s.startKnowing b).blocks = s.blocks := by
  rw [State.startKnowing]
  split <;> exact ⟨rfl, rfl, rfl, rfl⟩

theorem startBlock_fresh (hs : b.stage = .pending) : (s.startBlock b c k).block? b.id = some (startedOn s b c k) ∧
    (s.startBlock b c k).mem = s.mem ∧ (s.startBlock b c k).launches = s.launches ∧ (s.startBlock b c k).gangs = s.gangs := by
  have no : ¬ b.stage = .saved := by simp [hs]
  rw [State.startBlock]
  simp only [if_neg no]
  obtain ⟨hm, hl, hg, -⟩ := startKnowing_frame
    ((({ s with seq := s.seq + 1 } : State).dropLines (4 * c + k) (fun _ => true)).forgetScratch b.id) b
  exact ⟨(lookup_insert ..).trans (if_pos rfl), hm, hl, hg⟩

theorem placementRound_one (hn : s.partitionOf c = some n) (ha : (s.partition n).actx = some ctx) (hh : (s.partition n).halt = false)
    (hd : (s.partition n).halted = false) (hu : s.usable c = true) (hg : s.gangs = []) (hr : s.replaying = [])
    (hw : s.allBlocks.filter (fun x => x.decl.ctx == ctx && x.waits) = [b]) (hc : b.cluster = c) (hb : b.gang = none)
    (hs : b.stage = .pending) (hsent : s.unsent b = false) (hk : (s.bays c ctx).core b.decl = some k) :
    s.placementRound c = (s.startBlock b c k).countRounds c := by
  have some_ : ∃ m, s.blocks.length = m + 1 := by
    have hin : b ∈ s.allBlocks.filter (fun x => x.decl.ctx == ctx && x.waits) := by rw [hw]; exact List.mem_singleton.mpr rfl
    exact Nat.exists_eq_succ_of_ne_zero (lookup_length_pos (List.mem_filter.mp hin).1)
  obtain ⟨m, hm⟩ := some_
  have waits : b.waits = true := by rw [Block.waits, hs]; rfl
  rw [State.placementRound, hn]
  simp only [ha, hh, hd, hu, Bool.not_true, Bool.or_self, Bool.false_eq_true, if_false, hw, hm, item_alone hb, List.foldl_cons, List.foldl_nil,
    ensureGang_lone hb, roundItems_one hw hc hb hg, roundItem_starts hb hg hr waits hsent hk]

end

/-! ### Gangs (R59, R60) -/

section
variable {s : State} {g : Gang} {i : Nat}

theorem gang_mapped (hg : s.gangs[i]? = some g) (f : Gang → Gang) : (s.mapGang g.lid g.id f).gangs[i]? = some (f g) := by
  rw [State.mapGang, List.getElem?_map, hg]
  exact congrArg some (if_pos ⟨rfl, rfl⟩)

theorem dieGangAck_runs {c n k : Nat} (hg : s.gangs[i]? = some g) (hh : (s.cluster c).link.back.head? = some (n, .placed k))
    (hu : s.unacked c k = some g) (he : s.hears c (some (.placed k)) = true) : exec (.dieGangAck i c) s =
      .next ((({ s with served := c } : State).mapLink c (fun l => { l.send false with back := l.back.tail })).mapGang g.lid g.id
        (fun g => { g with acks := g.acks ++ [c] })).tick := by
  have still : (({ s with served := c } : State).mapLink c (fun l => { l.send false with back := l.back.tail })).unacked c k = some g := hu
  change execDieGangAck i c s = _
  rw [execDieGangAck, State.gangAt, hg, hh]
  simp only [if_pos (And.intro hu he), State.takeAck, still]
  rfl

theorem gangStarved_runs (hg : s.gangs[i]? = some g) (ht : s.topGang g = true) (hs : g.starved = false)
    (h : 1024 ≤ g.rounds ∨ (0 < g.rounds ∧ g.since.toNat + 25600000 ≤ s.ptime.toNat)) : exec (.gangStarved i) s =
      .next (s.mapGang g.lid g.id (fun g => { g with starved := true, starvedAt := s.ptime })).tick := by
  have due : (s.topGang g && !g.starved && decide (0 < g.rounds) &&
      (decide (1024 ≤ g.rounds) || decide (g.since.toNat + gangWait ≤ s.ptime.toNat))) = true := by
    simp only [ht, hs, Bool.not_false, Bool.and_true, Bool.true_and, Bool.and_eq_true, Bool.or_eq_true, decide_eq_true_eq]
    rcases h with h | ⟨h0, h1⟩
    · exact ⟨by omega, .inl h⟩
    · exact ⟨h0, .inr h1⟩
  change execGangStarved i s = _
  rw [execGangStarved, State.gangAt, hg]
  exact if_pos due

/-- A block with its save record (R352). -/
def recorded (a : Nat) (b : Block) : Block := { b with saveAddr := a, saveSize := b.recordSize }

theorem preemptTrigger_one {b : Block} {a : Nat} (hg : s.gangs[i]? = some g) (hs : g.starved = true)
    (ht : g.starvedAt.toNat + 25600000 ≤ s.ptime.toNat)
    (hx : ∀ x ∈ s.allBlocks, x.stage ≠ .stopping ∧ x.stage ≠ .saving ∧ x.chosen = false) (hv : s.victims g s.blocks.length [] = [b.id])
    (hf : g.size ≤ s.gangFits g [b.id]) (hb : s.block? b.id = some b) (ha : s.saveSpace b.decl.ctx b.recordSize = some a) :
    exec (.gangPreemptTrigger i) s = .next ((s.mapBlock b.id (recorded a)).tell b.cluster 3 b.id).tick := by
  have calm : (s.allBlocks.any (fun b => (b.stage == .stopping || b.stage == .saving || b.chosen) &&
      (if g.die then b.cluster / 16 == g.cluster else b.cluster == g.cluster))) = false := by
    refine List.any_eq_false.mpr (fun x hin => ?_)
    obtain ⟨h1, h2, h3⟩ := hx x hin
    rw [beq_false_of_ne h1, beq_false_of_ne h2, h3]
    exact Bool.false_ne_true
  have late : decide (s.ptime.toNat < g.starvedAt.toNat + gangWait) = false := by
    rw [decide_eq_false_iff_not, Nat.not_lt]
    exact ht
  change execGangPreemptTrigger i s = _
  rw [execGangPreemptTrigger, State.gangAt, hg]
  simp only [calm, hs, late, hv, Bool.not_true, Bool.or_self, Bool.false_eq_true, if_false, if_neg (Nat.not_lt.mpr hf)]
  simp only [List.filterMap_cons, List.filterMap_nil, hb, List.foldl_cons, List.foldl_nil, State.reserveSave, ha, Option.getD_some]
  rfl

end

/-! ### Blocks that stop and are saved (R351) -/

section
variable {s : State} {b : Block}

/-- What a thread of a stopping block does as its block is to be saved (R335, R351). -/
def toSave (t : Thread) : Thread :=
  (if ((t.trap.map (fun tr => replayable tr.cause)).getD false) then { t with trap := none } else t).takePreempt

/-- A block whose threads have all taken PREEMPT (R351, step 3). -/
def savingBlock (b : Block) : Block :=
  { b.mapThreads toSave with stage := .saving, groups := b.groups.map (fun g => { g with desched := false }) }

theorem residueWrite_stops (hb : s.block? b.id = some b) (hs : b.stage = .stopping) (hr : s.retirable b = false)
    (hc : ∀ c ∈ s.cmds, c.blk = b.id → c.gone = true) (hx : ∀ x ∈ s.sections, x.blk ≠ b.id) (hh : (s.ctx b.decl.ctx).handler ≠ 0) :
    exec (.residueWrite b.id) s = .next ((s.withdrawGroups b).mapBlock b.id savingBlock).tick := by
  have done : s.cmds.all (fun c => c.blk != b.id || c.gone) = true := List.all_eq_true.mpr (fun c hin => by
    by_cases h : c.blk = b.id
    · rw [hc c hin h, Bool.or_true]
    · rw [bne_iff_ne.mpr h, Bool.true_or])
  have none_ : s.sections.filter (fun x => x.blk == b.id && x.live) = [] := List.filter_eq_nil_iff.mpr (fun x hin => by
    rw [beq_false_of_ne (hx x hin)]
    exact Bool.false_ne_true)
  have calm : s.abortBlock b.id = s := by rw [State.abortBlock, none_]; exact abortAll_none s 9 none
  change execResidueWrite b.id s = _
  rw [execResidueWrite, hb]
  simp only [hr, Bool.false_eq_true, if_false, if_pos (And.intro hs done), State.startSaving, calm, if_neg hh]
  rfl

/-- Only threads of blocks have changed. -/
def Rethreaded (s s' : State) : Prop := ∀ k b, s.block? k = some b → ∃ ts, s'.block? k = some { b with threads := ts }

theorem Rethreaded.of_blocks {s s' : State} (h : s'.blocks = s.blocks) : Rethreaded s s' := fun k b hb =>
  ⟨b.threads, by rw [State.block?, h]; exact hb⟩

theorem Rethreaded.trans {s t u : State} (h : Rethreaded s t) (g : Rethreaded t u) : Rethreaded s u := fun k b hb => by
  obtain ⟨ts, ht⟩ := h k b hb
  obtain ⟨us, hu⟩ := g k _ ht
  exact ⟨us, hu⟩

theorem Rethreaded.foldl {α : Type} {f : State → α → State} (hf : ∀ s a, Rethreaded s (f s a)) : ∀ (xs : List α) (s : State),
    Rethreaded s (xs.foldl f s)
  | [], _ => .of_blocks rfl
  | a :: xs, s => (hf s a).trans (foldl hf xs (f s a))

theorem rethreaded_mapThread (s : State) (blk i : Nat) (f : Thread → Thread) : Rethreaded s (s.mapThread blk i f) := fun k b hb => by
  rw [State.mapThread, block_mapBlock]
  split
  · exact ⟨_, by rw [hb]; rfl⟩
  · exact ⟨b.threads, hb⟩

theorem rethreaded_markAborted (s : State) (x : Nat × Nat) (cause : Nat) (other : Option Nat) :
    Rethreaded s (s.markAborted x cause other) := by
  unfold State.markAborted
  split
  · exact .of_blocks rfl
  · split
    · exact .of_blocks rfl
    · exact (Rethreaded.of_blocks (s := s) rfl).trans (rethreaded_mapThread _ _ _ _)

theorem rethreaded_cascade : ∀ (n : Nat) (s : State) (xs : List (Nat × Nat)), Rethreaded s (s.cascade n xs)
  | 0, _, _ => .of_blocks rfl
  | n + 1, s, _ =>
    (Rethreaded.foldl (fun s (h : (Nat × Nat) × Nat) => rethreaded_markAborted s h.1 4 (some h.2)) _ s).trans (rethreaded_cascade n _ _)

theorem rethreaded_externalWrite (s : State) (k n : Nat) : Rethreaded s (s.externalWrite k n) := by
  unfold State.externalWrite
  dsimp only
  split
  · exact (Rethreaded.foldl (fun s x => rethreaded_markAborted s x 5 none) _ s).trans (rethreaded_cascade _ _ _)
  · exact .of_blocks rfl

theorem rethreaded_write (s : State) (core : Option Nat) (k : Nat) (bs : List Byte) : Rethreaded s (s.write core k bs) :=
  (Rethreaded.of_blocks (s := s) (s' := s.rawWrite core k bs) rfl).trans (rethreaded_externalWrite _ _ _)

theorem rethreaded_postWrite (s : State) (core : Option Nat) (src : Path) (k : Nat) (bs : List Byte) :
    Rethreaded s (s.postWrite core src k bs) := by
  unfold State.postWrite
  split
  · exact .of_blocks rfl
  · exact (Rethreaded.of_blocks (s := s) (s' := s.note 0 k (s.bytes k bs.length) src) rfl).trans (rethreaded_write _ _ _ _)

theorem postWrite_launches (s : State) (core : Option Nat) (src : Path) (k : Nat) (bs : List Byte) :
    (s.postWrite core src k bs).launches = s.launches := by
  unfold State.postWrite
  split
  · rfl
  · exact (congrArg State.launches (externalWrite_frame ((s.note 0 k (s.bytes k bs.length) src).rawWrite core k bs) k bs.length)).symm

/-- The opaque bytes of a residue (R351). -/
def residueBytes (s : State) (n : Nat) : List Byte := (List.range n).map (fun i => BitVec.ofNat 8 (s.pick i))

/-- The block as it waits at its Cairn once its residue stands in memory. -/
def savedBlock (seq : Nat) (b : Block) : Block :=
  { (b.mapThreads (fun t => { t.writeTokens with pend := [], cnt := Counts.zero })) with stage := .saved, order := seq }

theorem savedAway_live (h : ∀ l, s.launch? b.decl.lid = some l → l.state ≠ .cancelling) : s.savedAway b =
    ({ s with seq := s.seq + 1, free := s.free + b.residueSize } : State).mapBlock b.id (savedBlock s.seq) := by
  have live : ((s.launch? b.decl.lid).map (fun l => l.state == .cancelling)).getD false = false := by
    cases hl : s.launch? b.decl.lid with
    | none => rfl
    | some l => exact beq_false_of_ne (h l hl)
  rw [State.savedAway]
  simp only [live, Bool.false_eq_true, if_false]
  rfl

theorem residueWrite_saves {x : Xlat} (hb : s.block? b.id = some b) (hs : b.stage = .saving) (hp : b.parked = true)
    (hr : s.retirable b = false) (h1 : pageSpans b.saveAddr b.residueSize = [(b.saveAddr, b.residueSize)]) (hw : s.residueWaits b = false)
    (hx : s.xlate [] b.decl.ctx b.saveAddr Need.store true (s.pick 901) = .ok x) : exec (.residueWrite b.id) s =
      .next ((s.postWrite none .core x.key (residueBytes s b.residueSize)).savedAway b).tick := by
  have not_ : ¬ (b.stage = .stopping ∧ s.cmds.all (fun c => c.blk != b.id || c.gone) = true) := by simp [hs]
  change execResidueWrite b.id s = _
  rw [execResidueWrite, hb]
  simp only [hr, Bool.false_eq_true, if_false, if_neg not_, if_pos (And.intro hs (And.intro hp hw)), State.writeResidue, h1, List.foldl_cons,
    List.foldl_nil, hx, Nat.sub_self, Nat.zero_add]
  rfl

end

/-- Settles O54: an item that fits is placed alone in its round; a gang's record changes where the event's condition holds; and the saving
of a block rests on what a posted write leaves of blocks and memory. -/
theorem placementAndPreemption : Obligations.PlacementAndPreemption := by
  refine ⟨?_, ?_, ?_, ?_, ?_, ?_⟩
  · intro s b c n ctx k hn ha hh hd hu hg hr hw hc hb hs hsent hk
    have run := placementRound_one hn ha hh hd hu hg hr hw hc hb hs hsent hk
    obtain ⟨hy, hm, hl, -⟩ := startBlock_fresh (s := s) (c := c) (k := k) hs
    exact ⟨((s.startBlock b c k).countRounds c).tick, startedOn s b c k, congrArg (fun x => Host.Outcome.next (State.tick x)) run,
      congrArg (fun x => Host.Outcome.next (State.tick x)) run, hy, rfl, rfl, rfl, rfl, rfl, rfl, hm, hl⟩
  · intro s i c n k g hg hh hu he
    refine ⟨_, dieGangAck_runs hg hh hu he, ?_, ?_, rfl, rfl⟩
    · exact gang_mapped (s := ({ s with served := c } : State).mapLink c (fun l => { l.send false with back := l.back.tail })) hg _
    · exact congrArg Link.fromPermits (link_mapLink_same { s with served := c } c (fun l => { l.send false with back := l.back.tail }))
  · intro s i g hg ht hs h
    exact ⟨_, gangStarved_runs hg ht hs h, gang_mapped hg _, rfl⟩
  · intro s i a g b hg hs ht hx hv hf hb hc ha
    refine ⟨_, preemptTrigger_one hg hs ht hx hv hf hb ha, ?_, ?_, ?_⟩
    · rw [State.tell, if_pos (show b.cluster < Config.clusters from hc)]
      exact (block_mapBlock s b.id (recorded a) b.id).trans ((if_pos rfl).trans (congrArg (Option.map _) hb))
    · rw [State.tell, if_pos (show b.cluster < Config.clusters from hc)]
      exact congrArg Link.out (link_mapLink_same (s.mapBlock b.id (recorded a)) b.cluster
        (fun l => { l with out := l.out ++ [(3, b.id)] }))
    · rw [State.tell, if_pos (show b.cluster < Config.clusters from hc)]
      rfl
  · intro s b hb hs hr hc hx hh
    refine ⟨_, savingBlock b, residueWrite_stops hb hs hr hc hx hh, ?_, rfl, rfl, rfl⟩
    exact (block_mapBlock (s.withdrawGroups b) b.id savingBlock b.id).trans ((if_pos rfl).trans (congrArg (Option.map _) hb))
  · intro s b x hb hs hp hr h1 hw hx hl
    obtain ⟨ts, ht⟩ := rethreaded_postWrite s none .core x.key (residueBytes s b.residueSize) b.id b hb
    have launches := postWrite_launches s none .core x.key (residueBytes s b.residueSize)
    have live : ∀ l, (s.postWrite none .core x.key (residueBytes s b.residueSize)).launch? b.decl.lid = some l → l.state ≠ .cancelling := by
      rw [State.launch?, launches]
      exact hl
    have run := residueWrite_saves hb hs hp hr h1 hw hx
    rw [savedAway_live live] at run
    generalize hu : s.postWrite none .core x.key (residueBytes s b.residueSize) = u at ht launches run
    refine ⟨_, savedBlock u.seq { b with threads := ts }, run, ?_, rfl, rfl, rfl, fun a ha => ?_, launches⟩
    · exact (block_mapBlock _ b.id _ b.id).trans ((if_pos rfl).trans (congrArg (Option.map _) ht))
    · refine (congrArg (fun u => State.byte u a) hu).symm.trans (postWrite_outside s none .core x.key _ a ?_)
      rw [residueBytes, List.length_map, List.length_range]
      exact ha

end Sys2Proof.Proofs
end


section
/-! What becomes of the latched bundle as a parity error ends blocks, clusters and launches (R119). Only a block that leaves the machine
takes the bundle with it. -/

namespace Sys2Proof.Proofs

open Sys2Proof Sys2Proof.Machine Sys2Proof.Laws

/-! ### Writes to memory and to rings leave the latch -/

theorem foldl_latch {α : Type} {f : State → α → State} (hf : ∀ s a, (f s a).latch = s.latch) : ∀ (xs : List α) (s : State),
    (xs.foldl f s).latch = s.latch
  | [], _ => rfl
  | a :: xs, s => (foldl_latch hf xs (f s a)).trans (hf s a)

theorem write_latch (s : State) (core : Option Nat) (k : Nat) (bs : List Byte) : (s.write core k bs).latch = s.latch :=
  (congrArg State.latch (externalWrite_frame (s.rawWrite core k bs) k bs.length)).symm

theorem postWrite_latch (s : State) (core : Option Nat) (src : Path) (k : Nat) (bs : List Byte) :
    (s.postWrite core src k bs).latch = s.latch := by
  unfold State.postWrite
  split
  · rfl
  · exact write_latch _ _ _ _

theorem writeVirt_latch {s s' : State} {ctx va : Nat} {bs : List Byte} (h : s.writeVirt ctx va bs = .ok s') : s'.latch = s.latch := by
  simp only [State.writeVirt, Except.map] at h
  split at h <;> cases h
  exact postWrite_latch _ _ _ _ _

theorem postRequests_latch : ∀ (n : Nat) (s : State) (ctx : Nat), (s.postRequests n ctx).latch = s.latch
  | 0, _, _ => rfl
  | n + 1, s, ctx => by
    unfold State.postRequests
    dsimp only
    repeat' split
    · rfl
    · rfl
    · rfl
    · rename_i hw
      have written := writeVirt_latch hw
      exact (postRequests_latch n _ ctx).trans written

theorem pageRequest_latch {s s' : State} {ctx va cause acc lid : Nat} {ws : List Waiter}
    (h : s.pageRequest ctx va cause acc lid ws = some s') : s'.latch = s.latch := by
  unfold State.pageRequest at h
  dsimp only at h
  repeat' split at h
  all_goals cases h
  · rfl
  · exact postRequests_latch _ _ _

theorem deviceWrite_latch {s s' : State} {ctx lid va : Nat} {bs : List Byte} {w : Waiter} {bad : Option Nat}
    (h : s.deviceWrite ctx lid va bs w bad = .made s' ∨ s.deviceWrite ctx lid va bs w bad = .waits s') : s'.latch = s.latch := by
  unfold State.deviceWrite at h
  rcases h with h | h <;> repeat' split at h
  all_goals cases h
  · exact writeVirt_latch (by assumption)
  · rfl
  · exact pageRequest_latch (by assumption)

theorem haltQueue_latch (s : State) (q : Nat) : (s.haltQueue q).latch = s.latch := write_latch _ _ _ _

theorem flushQueue_latch : ∀ (n : Nat) (s : State) (q : Nat) (bad : Option Nat), (s.flushQueue n q bad).latch = s.latch
  | 0, _, _, _ => rfl
  | n + 1, s, q, bad => by
    unfold State.flushQueue
    dsimp only
    repeat' split
    · rfl
    · rfl
    · rfl
    · exact deviceWrite_latch (.inr (by assumption))
    · exact haltQueue_latch s q
    · rename_i hw
      have written := deviceWrite_latch (.inl hw)
      exact (flushQueue_latch n _ q bad).trans ((write_latch _ _ _ _).trans written)

theorem readDesc_latch {s t : State} {q : Nat} (h : s.readDesc q = some t) : t.latch = s.latch := by
  unfold State.readDesc at h
  dsimp only at h
  repeat' split at h
  all_goals cases h
  · rfl
  · rfl

theorem ringRecord_latch (s : State) (q : Option Nat) (r : List Byte) (bad : Option Nat) : (s.ringRecord q r bad).latch = s.latch := by
  unfold State.ringRecord
  split
  · rfl
  · refine (flushQueue_latch _ _ _ _).trans ?_
    dsimp only [mapQueue_latch]
    split
    · cases h : s.readDesc _ with
      | none => rfl
      | some t => exact readDesc_latch h
    · rfl

/-! ### Bits and reports leave the latch -/

theorem summarise_latch (s : State) (r : Report) (bad : Option Nat) : (s.summarise r bad).latch = s.latch := by
  unfold State.summarise
  dsimp only
  repeat' split
  · rfl
  · exact deviceWrite_latch (.inr (by assumption))
  · rfl
  · rename_i hw
    exact (deviceWrite_latch (.inl hw) :)

theorem reportRecord_latch (s : State) (r : Report) (bad : Option Nat) : (s.reportRecord r bad).latch = s.latch := by
  unfold State.reportRecord
  dsimp only
  repeat' split
  · exact ringRecord_latch _ _ _ _
  · exact deviceWrite_latch (.inr (by assumption))
  · exact ringRecord_latch _ _ _ _
  · rename_i hd _ _ hw
    exact (writeVirt_latch hw).trans (deviceWrite_latch (.inl hd))
  · rename_i hd _ _ _
    exact (deviceWrite_latch (.inl hd) :)

theorem advanceReport_latch (s : State) (id : Nat) (bad : Option Nat) : (s.advanceReport id bad).latch = s.latch := by
  have first (r : Report) : (if r.summarised then s else s.summarise r bad).latch = s.latch := by
    split
    · rfl
    · exact summarise_latch s r bad
  unfold State.advanceReport
  dsimp only
  split
  · rfl
  next r _ =>
    split
    · exact first r
    · split
      · exact (reportRecord_latch _ _ _).trans (first r)
      · exact first r

theorem finishLaunch_latch (s : State) (l : Launch) (writes : Bool) : (s.finishLaunch l writes).latch = s.latch := by
  unfold State.finishLaunch
  dsimp only
  split
  · exact advanceReport_latch _ _ _
  · rfl

theorem decideEnd_latch (s : State) (lid : Nat) : (s.decideEnd lid).latch = s.latch := by
  unfold State.decideEnd
  grind [finishLaunch_latch, mapLaunch_latch]

theorem setBit_latch (s : State) (lid : Nat) (bad : Option Nat) (i : Nat) : (s.setBit lid bad i).latch = s.latch := by
  unfold State.setBit
  dsimp only
  repeat' split
  · rfl
  · rfl
  · rename_i hw
    exact (deviceWrite_latch (.inl hw) :)
  · exact deviceWrite_latch (.inr (by assumption))
  · rfl

theorem flushBits_latch (s : State) (lid : Nat) (bad : Option Nat) : (s.flushBits lid bad).latch = s.latch := by
  unfold State.flushBits
  split
  · rfl
  · exact foldl_latch (fun s i => setBit_latch s lid bad i) _ s

theorem settleLaunches_latch (s : State) : s.settleLaunches.latch = s.latch :=
  foldl_latch (fun s lid => (decideEnd_latch _ lid).trans (flushBits_latch s lid none)) _ s

/-! ### Messages and places leave the latch -/

theorem tell_latch (s : State) (c ty blk : Nat) : (s.tell c ty blk).latch = s.latch := by
  unfold State.tell
  split <;> rfl

theorem reportFault_latch (s : State) (b : Block) (members : List Block) : (s.reportFault b members).latch = s.latch := by
  refine (foldl_latch (fun s (x : Block) => tell_latch s x.cluster 2 x.id) _ _).trans ?_
  unfold State.report
  split <;> rfl

theorem returnUnits_latch (s : State) (l : Launch) : (s.returnUnits l).latch = s.latch := by
  unfold State.returnUnits
  dsimp only
  split <;> rfl

theorem moveItem_latch (s : State) (item : List Block) (c : Nat) : (s.moveItem item c).latch = s.latch := by
  have moved := foldl_latch (f := fun (s : State) (b : Block) =>
      let s1 := s.mapBlock b.id (fun b => { b with cluster := c })
      if s.inDieGang b then s1 else s1.tell c 1 b.id) (fun s b => by
    dsimp only
    split
    · rfl
    · exact tell_latch _ _ _ _) item s
  unfold State.moveItem
  dsimp only
  repeat' split
  · exact moved
  · exact moved
  · exact moved

theorem rehome_latch (s : State) (n ctx : Nat) : (s.rehome n ctx).latch = s.latch := by
  unfold State.rehome
  dsimp only
  refine (foldl_latch (fun s item => ?_) _ _).trans (foldl_latch returnUnits_latch _ (s.unassign _ _))
  split
  · rfl
  · exact moveItem_latch _ _ _

theorem settlePlaces_latch (s : State) : s.settlePlaces.latch = s.latch := by
  refine foldl_latch (fun s n => ?_) _ s
  split
  · rfl
  · exact rehome_latch _ _ _

theorem remap_latch (s : State) (c : Nat) : (s.remap c).latch = s.latch := by
  unfold State.remap
  dsimp only
  split <;> rfl

theorem replace_latch (s : State) (c : Nat) : (s.replace c).latch = s.latch := foldl_latch (fun s (b : Block) => tell_latch s c 1 b.id) _ _

theorem countFault_latch (s : State) (x : Block × FaultEntry) : (s.countFault x).latch = s.latch := by
  unfold State.countFault
  split <;> rfl

/-! ### Blocks that leave the machine -/

/-- The latched bundle is as it was, or gone. -/
def LatchKept (s s' : State) : Prop := ∀ u, s'.latch = some u → s.latch = some u

theorem LatchKept.of_latch {s s' : State} (h : s'.latch = s.latch) : LatchKept s s' := fun _ hu => h ▸ hu

theorem LatchKept.refl (s : State) : LatchKept s s := .of_latch rfl

theorem LatchKept.trans {s t u : State} (h : LatchKept s t) (g : LatchKept t u) : LatchKept s u := fun x hx => h x (g x hx)

theorem LatchKept.foldl {α : Type} {f : State → α → State} (hf : ∀ s a, LatchKept s (f s a)) : ∀ (xs : List α) (s : State),
    LatchKept s (xs.foldl f s)
  | [], s => .refl s
  | a :: xs, s => (hf s a).trans (foldl hf xs (f s a))

theorem endSections_latch (s : State) (blk : Nat) (who : Nat → Bool) : (s.endSections blk who).latch = s.latch := by
  have kept : (s.endSections blk who).latch =
      (s.abortAll ((s.sections.filter (fun x => x.blk == blk && who x.tidx)).map Section.name) 8 none).latch := by rw [State.endSections]
  exact kept.trans (congrArg State.latch (abortAll_frame ..)).symm

theorem removeBlock_latch (s : State) (blk : Nat) : LatchKept s (s.removeBlock blk) := by
  intro u hu
  have ended := endSections_latch s blk (fun _ => true)
  simp only [State.removeBlock, ended] at hu
  cases hl : s.latch with
  | none => rw [hl] at hu; cases hu
  | some x =>
    rw [hl] at hu
    dsimp only at hu
    split at hu
    · cases hu
    · exact hu

theorem kill_latch (s : State) (b : Block) : LatchKept s (s.kill b) := by
  have removed := removeBlock_latch s b.id
  unfold State.kill
  generalize s.removeBlock b.id = r at removed ⊢
  dsimp only
  split
  · exact .refl s
  · split
    · exact removed
    · split
      · exact removed
      · exact removed

theorem cancelLaunch_latch (s : State) (lid : Nat) (hard fault : Bool) : LatchKept s (s.cancelLaunch lid hard fault) := by
  have dropped (t : State) (ms : List Block) :
      LatchKept t (ms.foldl State.kill (ms.foldl (fun s b => s.tell b.cluster 2 b.id) t)) :=
    (LatchKept.of_latch (foldl_latch (fun s (b : Block) => tell_latch s b.cluster 2 b.id) ms t)).trans (LatchKept.foldl kill_latch ms _)
  unfold State.cancelLaunch
  dsimp only
  split
  · exact .refl s
  · split
    · exact .refl s
    · intro u hu
      dsimp only at hu
      have kept := dropped _ _ u hu
      exact kept

theorem faultGrid_latch (s : State) (lid : Nat) (e : FaultEntry) : LatchKept s (s.faultGrid lid e) :=
  cancelLaunch_latch (s.mapLaunch lid (fun l => l.addFault e)) lid true true

theorem faultOutgrown_latch (s : State) : LatchKept s s.faultOutgrown := LatchKept.foldl (fun s (l : Launch) => faultGrid_latch s l.lid _) _ s

/-- The status of a replay, written where its address translates. -/
def putStatus (s : State) (ctx va : Nat) (bs : List Byte) : State := match s.writeVirt ctx va bs with
  | .ok s' => s'
  | .error _ => s

theorem putStatus_latch (s : State) (ctx va : Nat) (bs : List Byte) : (putStatus s ctx va bs).latch = s.latch := by
  unfold putStatus
  split
  · exact writeVirt_latch (by assumption)
  · rfl

theorem stopReplay_latch (s : State) (blk code index : Nat) (rrec : List Byte) : LatchKept s (s.stopReplay blk code index rrec) := by
  unfold State.stopReplay
  dsimp only
  split
  · exact .refl s
  next r _ =>
    exact (LatchKept.of_latch ((putStatus_latch _ r.ctx (r.stat + 64) _).trans (putStatus_latch s r.ctx r.stat _))).trans
      (removeBlock_latch _ blk)

/-- A block leaves and waits again at its Cairn (R63). -/
theorem again_latch (s : State) (x : Block) :
    LatchKept s { s.removeBlock x.id with blocks := NMap.insert (s.removeBlock x.id).blocks x.id x.again } := by
  have removed := removeBlock_latch s x.id
  generalize s.removeBlock x.id = r at removed ⊢
  exact removed

theorem endBlock_latch (s : State) (b : Block) : LatchKept s (s.endBlock b) := by
  unfold State.endBlock
  repeat' split
  · exact .refl s
  · exact stopReplay_latch s b.id 3 0 []
  · exact ((LatchKept.of_latch (reportFault_latch s b _)).trans (LatchKept.foldl kill_latch _ _)).trans (cancelLaunch_latch _ _ _ _)

theorem fatal_latch (s : State) (b : Block) (e : FaultEntry) : LatchKept s (s.fatal b e) :=
  (LatchKept.of_latch (foldl_latch countFault_latch [(b, e)] s)).trans (LatchKept.foldl endBlock_latch _ _)

theorem failOperational_latch (s : State) (b : Block) (e : FaultEntry) : LatchKept s (s.failOperational b e) := by
  have told (ms : List Block) : LatchKept s (s.reportFault b ms) := .of_latch (reportFault_latch s b ms)
  unfold State.failOperational
  dsimp only
  repeat' split
  · exact stopReplay_latch s b.id 3 0 []
  · exact (told _).trans (LatchKept.foldl again_latch _ _)
  · exact (told _).trans (LatchKept.foldl kill_latch _ _)
  · exact ((told _).trans (LatchKept.foldl kill_latch _ _)).trans (faultGrid_latch _ _ _)

theorem countLost_latch (s : State) (lid : Nat) (ms : List Block) (f : State → Block → Launch → Launch) :
    (ms.foldl (fun s x => s.mapLaunch lid (f s x)) s).latch = s.latch :=
  foldl_latch (f := fun (s : State) (x : Block) => s.mapLaunch lid (f s x)) (fun _ _ => rfl) ms s

theorem loseInstance_latch (s : State) (reason : Nat) (item : List Block) : LatchKept s (s.loseInstance reason item) := by
  have told (ms : List Block) : LatchKept s (ms.foldl (fun s x => s.tell x.cluster 2 x.id) s) :=
    .of_latch (foldl_latch (fun s (x : Block) => tell_latch s x.cluster 2 x.id) ms s)
  unfold State.loseInstance
  dsimp only
  repeat' split
  · exact .refl s
  · exact (told _).trans (stopReplay_latch _ _ _ _ _)
  · exact ((told _).trans (LatchKept.foldl again_latch _ _)).trans (.of_latch (countLost_latch _ _ _ _))
  · exact ((told _).trans (LatchKept.foldl kill_latch _ _)).trans (.of_latch (countLost_latch _ _ _ _))
  · exact (((told _).trans (LatchKept.foldl kill_latch _ _)).trans (.of_latch (countLost_latch _ _ _ _))).trans
      (cancelLaunch_latch _ _ _ _)

/-! ### A parity error -/

theorem failCluster_latch (s : State) (c reason : Nat) : LatchKept s (s.failCluster c reason) := by
  have lost (items : List (List Block)) (t : State) : LatchKept t ((items.foldl (fun s x => s.loseInstance reason x) t).remap c) :=
    (LatchKept.foldl (fun s x => loseInstance_latch s reason x) items t).trans (.of_latch (remap_latch _ c))
  have placed (t : State) : LatchKept t (if t.usable c then t.replace c else t.faultOutgrown).settlePlaces.settleLaunches := by
    refine LatchKept.trans ?_ (.of_latch ((settleLaunches_latch _).trans (settlePlaces_latch _)))
    split
    · exact .of_latch (replace_latch t c)
    · exact faultOutgrown_latch t
  unfold State.failCluster
  dsimp only
  split
  · exact .refl s
  · intro u hu
    have kept := ((lost _ _).trans (placed _)) u hu
    exact kept

theorem parityError_latch (s : State) (c : Nat) : LatchKept s (s.parityError c) := by
  unfold State.parityError
  dsimp only
  split
  · exact failCluster_latch _ c 3
  · exact .of_latch rfl

/-- PARITY_UNREPAIRED is fail-operational in a block and fatal in a prologue (R63, R333). -/
theorem takeParity_latch (s : State) (blk tidx : Nat) (pc : W32) : LatchKept s (s.takeTrap blk tidx (mkTrap 0xD 0 pc)) := by
  have repl : replayable (mkTrap 0xD 0 pc).cause = false := rfl
  have op : failOp (mkTrap 0xD 0 pc).cause = true := rfl
  have hand : handled (mkTrap 0xD 0 pc).cause = false := rfl
  have other : ((mkTrap 0xD 0 pc).cause = 0x0F) = False ∧ ((mkTrap 0xD 0 pc).cause = 0x11) = False :=
    ⟨eq_false (show ¬ 0xD = 0x0F by decide), eq_false (show ¬ 0xD = 0x11 by decide)⟩
  unfold State.takeTrap
  dsimp only
  simp only [repl, op, hand, other, Bool.false_eq_true, if_false, Bool.true_and, Bool.not_false, Bool.true_or, if_true]
  split
  · exact .refl s
  split
  · exact .refl s
  split
  · exact failOperational_latch s _ _
  · exact fatal_latch s _ _

theorem parityUpset_latch (s : State) (u : Bundle) (b : Block) : LatchKept s (s.parityUpset u b) := by
  have bad (tidx : Nat) : LatchKept s (if b.stage = .prologue then s.takeTrap u.blk tidx (mkTrap 0xD 0 u.pc)
      else (s.takeTrap u.blk tidx (mkTrap 0xD 0 u.pc)).parityError b.cluster) := by
    split
    · exact takeParity_latch s _ _ _
    · exact (takeParity_latch s _ _ _).trans (parityError_latch _ _)
  unfold State.parityUpset
  dsimp only
  split
  · exact .refl s
  split
  · exact .refl s
  split
  · split
    · split
      · exact .refl s
      · exact .of_latch rfl
    · exact bad _
  · split
    · exact bad _
    · exact .refl s

theorem upset_latch (s : State) (u : Bundle) (b : Block) : LatchKept s (s.upset u b) := by
  unfold State.upset
  split
  · exact parityUpset_latch s u b
  · split <;> exact .of_latch rfl
  · exact .of_latch rfl
  · exact .refl s

end Sys2Proof.Proofs
end


section
/-! The issue cycle, the ends of a thread's waits, and walks of the page tables (O45). -/

namespace Sys2Proof.Proofs

open Sys2Proof Sys2Proof.Machine Sys2Proof.Laws

/-! ### Blocks and PCs before a bundle is chosen (R113, R114) -/

/-- Every block with the numbers and PCs of its threads. -/
def blockLines (s : State) : List (Nat × List (Nat × W32)) := s.blocks.map (fun e => (e.2.id, e.2.threads.map (fun t => (t.tidx, t.pc))))

/-- A change of a thread that leaves its number and its PC. -/
def KeepsPlace (f : Thread → Thread) : Prop := ∀ t, (f t).tidx = t.tidx ∧ (f t).pc = t.pc

/-- Blocks and PCs are as they were, and the latch is. -/
def SamePlaces (s s' : State) : Prop := blockLines s' = blockLines s ∧ s'.latch = s.latch

theorem SamePlaces.refl (s : State) : SamePlaces s s := ⟨rfl, rfl⟩

theorem SamePlaces.trans {s t u : State} (h : SamePlaces s t) (g : SamePlaces t u) : SamePlaces s u := ⟨g.1.trans h.1, g.2.trans h.2⟩

theorem SamePlaces.foldl {α : Type} {f : State → α → State} (hf : ∀ s a, SamePlaces s (f s a)) : ∀ (xs : List α) (s : State),
    SamePlaces s (xs.foldl f s)
  | [], s => .refl s
  | a :: xs, s => (hf s a).trans (foldl hf xs (f s a))

theorem blockLines_adjust {f : Block → Block} (hf : ∀ b, (f b).id = b.id ∧ (f b).threads.map (fun t => (t.tidx, t.pc)) =
    b.threads.map (fun t => (t.tidx, t.pc))) (k : Nat) : ∀ m : NMap Block,
    (NMap.adjust m k f).map (fun e => (e.2.id, e.2.threads.map (fun t => (t.tidx, t.pc)))) =
      m.map (fun e => (e.2.id, e.2.threads.map (fun t => (t.tidx, t.pc))))
  | [] => rfl
  | (i, b) :: m => by
    rw [NMap.adjust]
    split
    · rw [List.map_cons, List.map_cons, (hf b).1, (hf b).2]
    · rw [List.map_cons, List.map_cons, blockLines_adjust hf k m]

theorem places_mapBlock (s : State) (k : Nat) {f : Block → Block} (hf : ∀ b, (f b).id = b.id ∧
    (f b).threads.map (fun t => (t.tidx, t.pc)) = b.threads.map (fun t => (t.tidx, t.pc))) : SamePlaces s (s.mapBlock k f) :=
  ⟨blockLines_adjust hf k s.blocks, rfl⟩

theorem places_map {f : Thread → Thread} (hf : KeepsPlace f) (ts : List Thread) :
    (ts.map f).map (fun t => (t.tidx, t.pc)) = ts.map (fun t => (t.tidx, t.pc)) := by
  rw [List.map_map]
  refine List.map_congr_left (fun t _ => ?_)
  rw [Function.comp_apply, (hf t).1, (hf t).2]

theorem places_mapThreads (s : State) (k : Nat) {f : Thread → Thread} (hf : KeepsPlace f) :
    SamePlaces s (s.mapBlock k (fun b => b.mapThreads f)) := places_mapBlock s k (fun b => ⟨rfl, places_map hf b.threads⟩)

theorem places_hold (s : State) (k i : Nat) (w : Wait) : SamePlaces s (s.hold k i w) :=
  places_mapBlock s k (fun b => ⟨rfl, places_map (f := fun t => if t.tidx = i then { t with wait := some w } else t) (fun t => by
    dsimp only
    split <;> exact ⟨rfl, rfl⟩) b.threads⟩)

theorem expire_place : KeepsPlace Thread.expire := fun t => by
  rw [Thread.expire]
  split <;> exact ⟨rfl, rfl⟩

theorem places_evictMsc (s : State) : SamePlaces s s.evictMsc := by
  unfold State.evictMsc
  split
  · refine ⟨?_, ?_⟩
    · rw [blockLines, dropMsc_blocks, blockLines]
    · exact foldl_latch (f := fun s (_ : Nat) => s.portCount 0 32) (fun _ _ => rfl) _ _
  · exact .refl s

theorem places_expireYields (s : State) (bs : List Block) : SamePlaces s (s.expireYields bs) :=
  SamePlaces.foldl (fun s (b : Block) => places_mapThreads s b.id expire_place) bs s

theorem places_peek (s : State) (bs : List Block) : SamePlaces s (s.peek bs) := by
  refine SamePlaces.foldl (fun s b => SamePlaces.foldl (fun s t => ?_) b.threads s) bs s
  split
  · exact SamePlaces.trans (t := { s with seq := s.seq + 1 }) ⟨rfl, rfl⟩ (places_hold _ _ _ _)
  · exact .refl s

theorem places_countYields (s : State) (bs : List Block) (issued : Bool) : SamePlaces s (s.countYields bs issued) :=
  SamePlaces.foldl (fun s (b : Block) => places_mapThreads s b.id (f := fun t =>
    { t with yieldCc := t.yieldCc - 1, yieldBundles := if issued then t.yieldBundles - 1 else t.yieldBundles }) (fun _ => ⟨rfl, rfl⟩)) bs s

/-! ### The choice of a bundle (R114) -/

section
variable {s : State} {core sched : Nat}

/-- The state in which a scheduler chooses its bundle. -/
def beforeIssue (s : State) (core sched : Nat) : State :=
  let s0 := s.steer.evictMsc
  let s1 : State := { s0 with ptime := s0.ptime + BitVec.ofNat 64 (s0.pick 800 % 65536) }
  ((s1.expireYields (s1.onSched core sched)).peek (s1.onSched core sched)).account core sched

/-- The bundle of a run of a block. -/
def bundleOf (s : State) (b : Block) (pc : W32) : Bundle := ⟨b.id, (s.runAt b pc).take 64, pc⟩

theorem beforeIssue_places (h : s.replaying = []) : SamePlaces s (beforeIssue s core sched) := by
  have steady : s.steer = s := by rw [State.steer, h, List.foldl_nil]
  have timed (t : State) (v : W64) : SamePlaces t { t with ptime := v } := ⟨rfl, rfl⟩
  have counted (t : State) : SamePlaces t (t.account core sched) := ⟨rfl, rfl⟩
  rw [beforeIssue, steady]
  exact (((((places_evictMsc s).trans (timed _ _)).trans (places_expireYields _ _)).trans (places_peek _ _)).trans (counted _))

/-- What may go wrong in the part as the latched bundle issues. -/
def upsetLatched (s : State) (b : Block) : State := match s.latch with
  | some u => s.upset u b
  | none => s

theorem upsetLatched_latch (s : State) (b : Block) : LatchKept s (upsetLatched s b) := by
  unfold upsetLatched
  split
  · exact upset_latch s _ b
  · exact .refl s

theorem candidates_subset (s : State) (bs : List Block) : s.candidates bs ⊆ bs := fun _ h =>
  (List.mem_filter.mp (List.mem_filter.mp (List.mem_filter.mp h).1).1).1

/-- Nothing issues, or a run of some block does. -/
theorem cycle_cases (s : State) (core sched : Nat) :
    (∃ bs, s.cycle core sched = (beforeIssue s core sched).countYields bs false) ∨
    ∃ b ∈ (beforeIssue s core sched).allBlocks, ∃ run bs,
      s.cycle core sched = upsetLatched (((beforeIssue s core sched).issueRun b core sched run).countYields bs true) b := by
  unfold State.cycle
  extract_lets s0 s1 s2 bs cs
  split
  · exact .inl ⟨bs, rfl⟩
  next b hb =>
    split
    · exact .inl ⟨bs, rfl⟩
    next run _ =>
      have mine : b ∈ bs := candidates_subset s2 bs (List.mem_of_getElem? hb)
      exact .inr ⟨b, (List.mem_filter.mp (List.mem_filter.mp mine).1).1, run, bs, rfl⟩

theorem lane_of_bundle {b : Block} {pc : W32} {k : Nat} (h : k ∈ (bundleOf s b pc).lanes) : ∃ t ∈ b.threads, t.tidx = k ∧ t.pc = pc := by
  obtain ⟨t, ht, hk⟩ := List.mem_map.mp (List.mem_of_mem_take h)
  obtain ⟨hin, he⟩ := List.mem_filter.mp ht
  exact ⟨t, hin, hk, eq_of_beq (Bool.and_eq_true_iff.mp he).2⟩

/-- A block with its threads' places stands in every state of the same places. -/
theorem SamePlaces.block {s' : State} (h : SamePlaces s s') {b : Block} (hb : b ∈ s'.allBlocks) : ∃ a ∈ s.allBlocks, a.id = b.id ∧
    ∀ t ∈ b.threads, ∃ x ∈ a.threads, x.tidx = t.tidx ∧ x.pc = t.pc := by
  obtain ⟨e, he, rfl⟩ := List.mem_map.mp hb
  have line : (e.2.id, e.2.threads.map (fun t => (t.tidx, t.pc))) ∈ blockLines s := h.1 ▸ List.mem_map.mpr ⟨e, he, rfl⟩
  obtain ⟨a, ha, heq⟩ := List.mem_map.mp line
  obtain ⟨hid, hts⟩ := Prod.mk.inj heq
  refine ⟨a.2, List.mem_map.mpr ⟨a, ha, rfl⟩, hid, fun t ht => ?_⟩
  have place : (t.tidx, t.pc) ∈ a.2.threads.map (fun t => (t.tidx, t.pc)) := hts ▸ List.mem_map.mpr ⟨t, ht, rfl⟩
  obtain ⟨x, hx, hxt⟩ := List.mem_map.mp place
  obtain ⟨h1, h2⟩ := Prod.mk.inj hxt
  exact ⟨x, hx, h1, h2⟩

theorem cycle_latch (hl : s.latch = none) (hr : s.replaying = []) {u : Bundle} (hu : (s.cycle core sched).latch = some u) :
    u.lanes.length ≤ 64 ∧ ∃ b ∈ s.allBlocks, b.id = u.blk ∧ ∀ k ∈ u.lanes, ∃ t ∈ b.threads, t.tidx = k ∧ t.pc = u.pc := by
  have before := beforeIssue_places (core := core) (sched := sched) hr
  obtain ⟨bs, hc⟩ | ⟨b, hb, run, bs, hc⟩ := cycle_cases s core sched
  · rw [hc, (places_countYields _ bs false).2, before.2, hl] at hu
    cases hu
  · rw [hc] at hu
    have issued := upsetLatched_latch _ b u hu
    rw [(places_countYields _ bs true).2] at issued
    have bundle : u = bundleOf (beforeIssue s core sched) b run.1 := (Option.some.inj issued).symm
    subst bundle
    obtain ⟨a, ha, hid, hts⟩ := before.block hb
    refine ⟨List.length_take_le _ _, a, ha, hid, fun k hk => ?_⟩
    obtain ⟨t, ht, htk, htpc⟩ := lane_of_bundle hk
    obtain ⟨x, hx, hxk, hxpc⟩ := hts t ht
    exact ⟨x, hx, hxk.trans htk, hxpc.trans htpc⟩

end

/-! ### Result registers (R112, R237) -/

/-- A thread takes the result of one applied arrival. -/
def takeToken (t : Thread) (k : Token) : Thread :=
  match k.dst with
  | some n => (t.fillSlot k.shifts ((k.val.getD 0).setWidth 64)).landReg k.op n (k.val.getD 0)
  | none => t.fillSlot k.shifts ((k.val.getD 0).setWidth 64)

theorem writeTokens_eq (t : Thread) : t.writeTokens =
    (t.tokens.filter (fun k => k.val.isSome)).foldl takeToken { t with tokens := t.tokens.filter (fun k => k.val.isNone) } := rfl

theorem fillSlot_tokens (t : Thread) (i : Nat) (v : W64) : (t.fillSlot i v).tokens = t.tokens := by
  unfold Thread.fillSlot
  (repeat' split) <;> rfl

theorem takeToken_ops (t : Thread) (k : Token) : (takeToken t k).tokens.map Token.op = t.tokens.map Token.op := by
  unfold takeToken
  split
  · rw [Thread.landReg, List.map_map, fillSlot_tokens]
    refine List.map_congr_left (fun x _ => ?_)
    rw [Function.comp_apply]
    split <;> rfl
  · rw [fillSlot_tokens]

theorem writeTokens_ops (t : Thread) : t.writeTokens.tokens.map Token.op = (t.tokens.filter (fun k => k.val.isNone)).map Token.op := by
  have ops : ∀ (ks : List Token) (t : Thread), (ks.foldl takeToken t).tokens.map Token.op = t.tokens.map Token.op := by
    intro ks
    induction ks with
    | nil => exact fun _ => rfl
    | cons k ks ih => exact fun t => (ih (takeToken t k)).trans (takeToken_ops t k)
  rw [writeTokens_eq, ops]

theorem writeTokens_one {t : Thread} {k : Token} {v : W32} {r : Nat} (hk : t.tokens = [k]) (hv : k.val = some v) (hr : k.dst = some r) :
    t.writeTokens.reg r = v := by
  have ready : t.tokens.filter (fun k => k.val.isSome) = [k] := by
    rw [hk, List.filter_cons_of_pos (by rw [hv]; rfl), List.filter_nil]
  rw [writeTokens_eq, ready, List.foldl_cons, List.foldl_nil, takeToken, hr]
  dsimp only
  rw [hv]
  exact read_put_same ..

/-! ### Events of one thread (R115, R116, R195, R335) -/

section
variable {s : State} {b : Block} {t : Thread}

theorem thread_of_block (hb : s.block? b.id = some b) (ht : b.thread? t.tidx = some t) : s.thread? b.id t.tidx = some t := by
  rw [State.thread?, hb]
  exact ht

theorem thread_mapped (hb : s.block? b.id = some b) (ht : b.thread? t.tidx = some t) {f : Thread → Thread} (hf : KeepsIndex f) :
    (s.mapThread b.id t.tidx f).thread? b.id t.tidx = some (f t) := by
  rw [state_thread_mapThread _ _ _ _ _ _ hf, if_pos ⟨rfl, rfl⟩, thread_of_block hb ht]
  rfl

theorem only_thread (s : State) (b i : Nat) {f : Thread → Thread} (hf : KeepsIndex f) : sameButThreads s (s.mapThread b i f).tick b [i] :=
  sameButThreads_mapThread hf (sameButThreads_refl s b [])

theorem timeWait_runs {v : W64} {y : Bool} (hb : s.block? b.id = some b) (ht : b.thread? t.tidx = some t) (hw : t.wait = some (.time v y))
    (hi : s.canIssue b t = true) (hu : unstepped b t) : exec (.timeWaitExpiry b.id t.tidx) s =
      .next (({ s with ptime := if s.ptime.toNat < v.toNat then v else s.ptime } : State).mapThread b.id t.tidx
        (fun x => x.passed (t.pc + 1) y)).tick := by
  have quiet : ∀ x, ({ s with ptime := if s.ptime.toNat < v.toNat then v else s.ptime } : State).thread? b.id t.tidx = some x →
      x.stepDue = false := fun x hx => by
    have same : some t = some x := (thread_of_block hb ht).symm.trans hx
    cases same
    exact hu.2
  change execTimeWaitExpiry b.id t.tidx s = _
  rw [execTimeWaitExpiry, hb]
  simp only [ht, hw, hi, if_true, hu.1]
  rw [completeLane_quiet _ _ _ _ _ quiet]

theorem trapEntry_runs {tr : Trap} (hb : s.block? b.id = some b) (ht : b.thread? t.tidx = some t) (htr : t.trap = some tr)
    (hh : handled tr.cause = true) (hc : t.cnt = Counts.zero) (hin : t.inTrap = false) (hx : s.sectionOf b.id t.tidx = none) :
    exec (.trapEntry b.id t.tidx) s = .next (s.enterHandler b t tr).tick := by
  have drained : t.cnt.none = true := by rw [hc]; rfl
  change execTrapEntry b.id t.tidx s = _
  rw [execTrapEntry, hb]
  simp only [ht, htr, hh, drained, hin, hx, Bool.not_true, Bool.or_self, Bool.false_eq_true, if_false]

end

/-! ### Walks of the page tables (R346) -/

theorem tlbAdd_self (l : List Tlb) (e : Tlb) (pick : Nat) : e ∈ tlbAdd l e pick := by
  unfold tlbAdd
  dsimp only
  split
  next h => exact List.contains_iff_mem.mp h
  split
  · exact List.mem_cons_self
  split
  · exact List.mem_cons_self
  · exact List.mem_cons_self

/-- An entry that enters one cache leaves those of other caches. -/
theorem tlbAdd_keeps {l : List Tlb} {x : Tlb} (e : Tlb) (pick : Nat) (hx : x ∈ l) (hc : x.cache ≠ e.cache) : x ∈ tlbAdd l e pick := by
  unfold tlbAdd
  dsimp only
  split
  · exact hx
  split
  · exact List.mem_cons_of_mem _ hx
  split
  next v hv =>
    have mine : v.cache = e.cache := eq_of_beq (List.mem_filter.mp (List.mem_of_getElem? hv)).2
    exact List.mem_cons_of_mem _ ((List.mem_erase_of_ne (fun h : x = v => hc (h ▸ mine))).mpr hx)
  · exact List.mem_cons_of_mem _ hx

/-- A leaf that was walked stands in both caches of a core, which hold nothing else that they did not hold. -/
theorem cacheLeaf_spec {s : State} (hx : s.xinv = none) (core ctx va key lo : Nat) (leaf : W64) :
    let s' := s.cacheLeaf (coreCaches core) ctx va ⟨key, leaf, lo⟩
    s'.mem = s.mem ∧ s'.blocks = s.blocks ∧ (∀ k ∈ coreCaches core, ⟨k, ctx, va / 2 ^ lo, leaf, lo⟩ ∈ s'.tlb) ∧
      ∀ x ∈ s'.tlb, x ∈ s.tlb ∨ ∃ k ∈ coreCaches core, x = ⟨k, ctx, va / 2 ^ lo, leaf, lo⟩ := by
  have open_ : ¬ s.xinv.isSome = true := by simp [hx]
  dsimp only
  rw [State.cacheLeaf, if_neg open_]
  refine ⟨rfl, rfl, fun k hk => ?_, fun x hin => ?_⟩
  · simp only [coreCaches, List.mem_cons, List.not_mem_nil, or_false] at hk
    rcases hk with rfl | rfl
    · refine tlbAdd_keeps _ _ (tlbAdd_self _ _ _) (fun h => ?_)
      dsimp only at h
      omega
    · exact tlbAdd_self _ _ _
  · rcases mem_tlbAdd hin with rfl | h
    · exact .inr ⟨_, List.mem_cons_of_mem _ List.mem_cons_self, rfl⟩
    · rcases mem_tlbAdd h with rfl | h
      · exact .inr ⟨_, List.mem_cons_self, rfl⟩
      · exact .inl h

/-- Settles O45: up to the choice of a bundle no block gains a thread or moves one, and what may go wrong after it can only end the bundle. -/
theorem issueAndWaitsComplete : Obligations.IssueAndWaitsComplete := by
  refine ⟨?_, ?_, ?_⟩
  · intro s core sched hl hs hc hr
    have open_ : ¬ (2 ≤ sched ∨ 258 ≤ core ∨ s.latch.isSome = true) := by
      rw [hl]
      simp only [Option.isSome_none, Bool.false_eq_true, or_false]
      omega
    exact ⟨congrArg (fun x => Host.Outcome.next (State.tick x)) (if_neg open_), fun u hu => cycle_latch hl hr hu⟩
  · intro s b t hb ht
    refine ⟨?_, ?_, ?_, ?_⟩
    · have keeps : KeepsIndex Thread.expire := fun t => (expire_place t).1
      exact ⟨_, t.expire, rfl, thread_mapped hb ht keeps, only_thread s b.id t.tidx keeps, fun h => if_pos h⟩
    · exact ⟨_, t.writeTokens, rfl, thread_mapped hb ht writeTokens_tidx, only_thread s b.id t.tidx writeTokens_tidx, writeTokens_ops t,
        fun k v r hk hv hr => writeTokens_one hk hv hr⟩
    · intro v y hw hi hu
      refine ⟨_, timeWait_runs hb ht hw hi hu, thread_mapped (s := { s with ptime := _ }) hb ht (passed_keeps (t.pc + 1) y), ?_, ?_, rfl⟩
      · change v.toNat ≤ (if s.ptime.toNat < v.toNat then v else s.ptime).toNat
        split <;> omega
      · change s.ptime.toNat ≤ (if s.ptime.toNat < v.toNat then v else s.ptime).toNat
        split <;> omega
    · exact fun tr htr hh hc hin hx => trapEntry_runs hb ht htr hh hc hin hx
  · intro s ctx page acc leaf lo hw ha hx
    obtain ⟨hm, hb, hin, hold⟩ := cacheLeaf_spec hx (s.pick 804 % 256) ctx (page * 65536) (leafKey leaf lo (page * 65536)) lo leaf
    have plain : ¬ acc / 4 % 2 = 1 := by omega
    have run : exec (.translationWalk ctx page acc) s = .next (s.cacheLeaf (coreCaches (s.pick 804 % 256)) ctx (page * 65536)
        ⟨leafKey leaf lo (page * 65536), leaf, lo⟩).tick := by
      change execTranslationWalk ctx page acc s = _
      rw [execTranslationWalk, hw]
      simp only [if_neg plain]
    exact ⟨_, run, hm, hb, _, hin, hold⟩

end Sys2Proof.Proofs
end
